-- ==== Sys2Proof/Word.lean ====
section
/-! DEFINITION. The byte, byte strings and sparse tables that every other file of the model uses. -/

namespace Sys2Proof

/-- The smallest addressable unit of every store of the device. -/
abbrev Byte := BitVec 8

/-- A byte string, lowest offset first. -/
abbrev Bytes := List Byte

/-- A sparse table: numbered records in ascending number; a number that is not listed holds the table's default. -/
abbrev Tab (α : Type) := List (Nat × α)

end Sys2Proof
end

