-- ==== Sys2Proof/Syntax.lean ====
section
/-! DEFINITION. The commands of the device: one constructor of `Instr` for each row of the operation table, with its
operands, and the types of those operands. The table gives no operands and no bits; the operands are the model's
reading of each row's rule (assumption log, entry 9). Numbers that the device holds in registers are written as `Nat`. -/

namespace Sys2Proof

/-- What a read of host memory brings back (R193): the bytes, or the error detail 0x01 UR, 0x02 CA, 0x03 poisoned, 0x04 timeout. -/
inductive ReadRes where
  | ok (data : Bytes)
  | err (detail : Nat)
  deriving DecidableEq, Repr

/-- An error that a memory reading meets and cannot recover from (R142, R146, R151), with the address concerned. -/
inductive MemFail where
  | none
  /-- Double-bit error of a scratchpad word (R142). -/
  | spDouble (addr : Nat)
  /-- Uncorrectable DRAM or link error (R146). -/
  | stackUE (addr : Nat)
  /-- A check code failed twice (R151). -/
  | codeBad (addr : Nat)
  deriving DecidableEq, Repr

/-- What the memories' hardware does while a command reads them: corrections counted, and the failure if there is one.
The environment decides it; `{}` is a reading without an error. -/
structure MemFx where
  /-- Scratchpad single-bit corrections (R142): the site whose scratchpad was read, and their number. -/
  sp : List (Nat × Nat) := []
  /-- DRAM and link corrections (R146): the site whose stack was read, and their number. -/
  dram : List (Nat × Nat) := []
  /-- Check-code verifications that passed on the second read (R151). -/
  retry : Nat := 0
  fail : MemFail := .none
  deriving DecidableEq, Repr

/-- Something that an array forms wrongly in one K-block (R74 to R76). The environment decides it; the checks of the K-block see what they see. -/
inductive BlkErr where
  /-- `add` is added to the grid's integer partial, or block value, of element (m,n); a block maximum or minimum counts in units of 2^−133. -/
  | grid (m : Nat) (n : Nat) (add : Int)
  /-- `add` is added to what the checksum column forms for row m. -/
  | column (m : Nat) (add : Int)
  /-- `add` is added to what the checksum row forms for column n. -/
  | row (n : Nat) (add : Int)
  /-- `add` is added to what the corner checker predicts. -/
  | corner (add : Int)
  /-- The decision codes of the two special-value copies of element (m,n) differ by XOR `pat`; `main`: the copy that decides is the wrong one. -/
  | special (m : Nat) (n : Nat) (pat : Nat) (main : Bool)
  deriving DecidableEq, Repr

/-- An error of an array computation, in K-block `j` of the pass. `back` names the pass: 0 the one that the command starts, and otherwise the one
that started so many passes before it and is still in flight, whose checks end now (R61, R78). -/
structure ArrErr where
  back : Nat := 0
  j : Nat
  err : BlkErr
  deriving DecidableEq, Repr

/-- A self-test result (R409). -/
structure TestRes where
  block : Nat := 0
  site : Nat := 0
  unitNo : Nat := 0
  test : Nat := 0
  result : Nat := 0
  nfail : Nat := 0
  bit : Nat := 0
  addr : Nat := 0
  deriving DecidableEq, Repr

/-- What a targeted self-test met (R371): the first failure of its LOGIC part, or a result with RESULT 0, or RESULT 4 at its budget; what the array
forms wrongly in the pack's patterns, by pattern index; and, where the PACK part reached its budget, how many patterns had run. -/
structure TestEnd where
  interrupted : Bool := false
  logic : TestRes := {}
  packErrs : List (Nat × BlkErr) := []
  packRun : Option Nat := none
  deriving DecidableEq, Repr

/-- The algorithm families an SPDM requester offers that the responder knows (R398). -/
structure Algs where
  ecdsaP384 : Bool
  sha384 : Bool
  secp384r1 : Bool
  aes256gcm : Bool
  deriving DecidableEq, Repr

/-- IDE key management messages (R398): stream 0 is the link stream, 1 to 4 the selective streams (R191). -/
inductive IdeMsg where
  | query
  | keyProg (stream : Nat) (key : Nat)
  | setGo (stream : Nat)
  | setStop (stream : Nat)
  deriving DecidableEq, Repr

/-- A temperature sensor (R359). -/
inductive Sensor where
  | computeDie (site : Nat)
  | linkDie (site : Nat)
  | hubDie
  | dramDie (site : Nat)
  | optic (port : Nat)
  deriving DecidableEq, Repr

/-- A Salruat frame as it arrives or leaves (R300, R301, R304). -/
structure Frame where
  /-- The Ethernet FCS is right. -/
  fcsOk : Bool := true
  kind : Nat := 0
  ver : Nat := 2
  enc : Bool := false
  last : Bool := false
  tc : Bool := false
  eackv : Bool := false
  dst : Nat := 0
  src : Nat := 0
  srcPol : Nat := 0
  vc : Bool := false
  dstPol : Nat := 0
  srcPort : Nat := 0
  keyslot : Nat := 0
  hseq : Nat := 0
  hack : Nat := 0
  eseq : Nat := 0
  eack : Nat := 0
  job : Nat := 0xFFFFFFFF
  tag : Nat := 0
  nseq : Nat := 0
  addr : Nat := 0
  /-- Some reserved field is nonzero. -/
  rsvd : Bool := false
  /-- LEN bytes: plaintext, or ciphertext when `enc`. -/
  payload : Bytes := []
  /-- The trailer's CODE, DIGEST and INFO (in ciphertext form when `enc`) and the GCM tag. -/
  trailer : Bytes := []
  gcmTag : Bytes := []
  deriving DecidableEq, Repr

/-- The commands, in the order of the operation table. -/
inductive Instr where
  /-- POWER_3V3_RISE (R417): The 3.3 V standby rail rises above 3.135 V, which is a cold power-on; the always-on domain leaves reset. -/
  | power3v3Rise
  /-- POWER_12V_RISE (R417): The 12 V input rises above 11.4 V and the on-package regulators start. -/
  | power12vRise
  /-- CORE_OK (R417): The regulators reach regulation and the device releases its CORE_OK output. -/
  | coreOk
  /-- REFCLK_STABLE (R342): The reference clock becomes stable; the clock generators and the hub counter start. -/
  | refclkStable
  /-- REFCLK_LOSS (R342): The reference clock is lost while 12 V is present; the hub counter stops and the link goes down. -/
  | refclkLoss
  /-- PERST_DEASSERT (R417): PERST# is deasserted; once CORE_OK holds, the boot ROM starts and the link trains. -/
  | perstDeassert
  /-- PERST_ASSERT (R418): PERST# is asserted while both rails are valid; a warm device reset is held. -/
  | perstAssert
  /-- POWER_12V_LOSS (R418): 12 V stays below 11.0 V for more than 10 µs; the regulators shut down and CORE_OK is deasserted. -/
  | power12vLoss
  /-- POWER_3V3_LOSS (R418): 3.3 V falls below 3.0 V and everything stops. -/
  | power3v3Loss
  /-- HOT_RESET (R419): A PCI Express hot reset triggers a warm device reset. -/
  | hotReset
  /-- LINK_DOWN (R419): The PCI Express link goes down, which triggers a warm device reset. -/
  | linkDown
  /-- FLR_PF (R419): A function-level reset of the PF triggers a warm device reset. -/
  | flrPf
  /-- FLR_VF (R423): A function-level reset of a VF quiesces its polder and rebuilds it with the same allotments, writing no records. -/
  | flrVf (k : Nat)
  /-- POL_RESET (R423): A write of GO to the polder reset register quiesces the polder, writes ABORTED_RESET records and rebuilds it. -/
  | polReset (fn : Nat) (p : Nat) (v : Nat)
  /-- SEC_BOOT_CMD (R391): The host writes the image length; channel 0 is disabled and verification of the pushed firmware image starts. -/
  | secBootCmd (fn : Nat) (v : Nat)
  /-- FIRMWARE_VERIFY_DONE (R392): The firmware image checks complete; either identity is derived or the store is zeroed and the ROM returns to WAIT. -/
  | firmwareVerifyDone
  /-- HUB_FIRMWARE_RUNNING (R391): Hub firmware has loaded the control-core and link-die firmware and the built-in tables, and STATE becomes RUNNING. -/
  | hubFirmwareRunning
  /-- SEC_SVN_CMD (R393): A TARGET write raises the SVN fuse count by blowing fuses in ascending order. -/
  | secSvnCmd (fn : Nat) (v : Nat)
  /-- FUSE_PROGRAM_COMPLETE (R390): A fuse program pulse and its sense check complete. -/
  | fuseProgramComplete (ok : Bool)
  /-- LC_SECURE (R394): The life-cycle command SECURE blows the SECURED fuse. -/
  | lcSecure (fn : Nat)
  /-- LC_DEBUG (R394): The life-cycle command DEBUG checks a DEBUG token and enters FIELD_DEBUG. -/
  | lcDebug (fn : Nat) (tok : ReadRes)
  /-- LC_RETURN (R394): The life-cycle command RETURN checks a RETURN token and blows the RETURNED fuse. -/
  | lcReturn (fn : Nat) (tok : ReadRes)
  /-- LC_RETIRE (R394): The life-cycle command RETIRE blows the RETIRED fuse. -/
  | lcRetire (fn : Nat)
  /-- GET_VERSION (R398): An SPDM GET_VERSION request is answered by the DOE responder. -/
  | getVersion (fn : Nat)
  /-- GET_CAPABILITIES (R398): An SPDM GET_CAPABILITIES request is answered. -/
  | getCapabilities (fn : Nat) (ver : Nat)
  /-- NEGOTIATE_ALGORITHMS (R398): An SPDM NEGOTIATE_ALGORITHMS request is answered. -/
  | negotiateAlgorithms (fn : Nat) (alg : Algs)
  /-- GET_DIGESTS (R398): An SPDM GET_DIGESTS request is answered. -/
  | getDigests (fn : Nat) (ses : Option Nat)
  /-- GET_CERTIFICATE (R398): An SPDM GET_CERTIFICATE request returns the slot 0 chain. -/
  | getCertificate (fn : Nat) (ses : Option Nat) (slot : Nat) (off : Nat) (len : Nat)
  /-- CHALLENGE (R398): An SPDM CHALLENGE request is answered. -/
  | challenge (fn : Nat) (ses : Option Nat) (slot : Nat) (nonce : Bytes)
  /-- GET_MEASUREMENTS (R398): An SPDM GET_MEASUREMENTS request returns measurement blocks, signed by the alias key. -/
  | getMeasurements (fn : Nat) (ses : Option Nat) (idx : Nat) (sign : Bool) (nonce : Bytes)
  /-- KEY_EXCHANGE (R398): An SPDM KEY_EXCHANGE request starts a session. -/
  | keyExchange (fn : Nat) (slot : Nat) (reqId : Nat) (peer : Bytes)
  /-- FINISH (R398): An SPDM FINISH request completes session establishment. -/
  | finish (fn : Nat) (ses : Nat) (verifies : Bool)
  /-- KEY_UPDATE (R398): An SPDM KEY_UPDATE request updates the session keys. -/
  | keyUpdate (fn : Nat) (ses : Nat) (op : Nat)
  /-- HEARTBEAT (R398): An SPDM HEARTBEAT request is answered. -/
  | heartbeat (fn : Nat) (ses : Nat)
  /-- END_SESSION (R398): An SPDM END_SESSION request ends a session. -/
  | endSession (fn : Nat) (ses : Nat)
  /-- IDE_KM (R398): An IDE_KM message over the PF's DOE manages IDE stream keys. -/
  | ideKm (fn : Nat) (ses : Nat) (msg : IdeMsg)
  /-- DOORBELL (R202): An 8-byte write to a ring's doorbell slot is recorded as a new index, ignored, or treated as an overrun. -/
  | doorbell (fn : Nat) (off : Nat) (size : Nat) (v : Nat)
  /-- ENTRY_FETCH (R204): The device reads a batch of up to 16 entries between its head and the recorded tail. -/
  | entryFetch (r : Nat)
  /-- HOST_READ_COMPLETION (R193): A completion arrives for a host memory read that the device issued, with data or with an error. -/
  | hostReadCompletion (tag : Nat) (res : ReadRes)
  /-- HOST_READ_TIMEOUT (R193): A device-issued host read reaches its completion timeout. -/
  | hostReadTimeout (tag : Nat)
  /-- RING_ENABLE (R200): A write of ENABLE = 1 to RING_CTRL is checked and starts the ring, or is refused with cause CONFIG. -/
  | ringEnable (fn : Nat) (r : Nat) (v : Nat)
  /-- RING_DISABLE (R200): A write of ENABLE = 0 moves the ring to DRAINING and cancels a WAIT in progress. -/
  | ringDisable (fn : Nat) (r : Nat)
  /-- RING_DRAIN_COMPLETE (R200): Once nothing of a DRAINING ring remains in progress, the ring goes to DISABLED. -/
  | ringDrainComplete (r : Nat)
  /-- RING_IF_SEL (R232): The driver selects the descriptor version; the field locks at the function's first ring enable. -/
  | ringIfSel (fn : Nat) (v : Nat)
  /-- NOP (R207): The hub takes a NOP descriptor, which has no effect but completes. -/
  | nop (r : Nat)
  /-- JOB (R185): The hub takes a JOB descriptor and starts the job sequence: slot lookup or validation, argument checks, locks and set-up. -/
  | job (r : Nat) (args : ReadRes)
  /-- IMAGE_VALIDATION_DONE (R183): Validation of an unregistered image completes; the image takes a slot or the job completes with IMAGE_BAD. -/
  | imageValidationDone (p : Nat) (fx : MemFx)
  /-- WAIT (R211): The hub takes a WAIT descriptor, which holds its ring until the sluice reaches the threshold. -/
  | sluWait (r : Nat)
  /-- SIGNAL (R212): A SIGNAL descriptor with SET = 0 adds N to a local or remote sluice. -/
  | sluSignal (r : Nat)
  /-- SET (R212): A SIGNAL descriptor with SET = 1 sets a local or remote sluice to N. -/
  | sluSet (r : Nat)
  /-- COPY (R213): A COPY descriptor starts moving data between host, channel and device memory. -/
  | copy (r : Nat)
  /-- COPY_COMPLETE (R219): A COPY has moved its data or faulted, and its record is written. -/
  | copyComplete (r : Nat) (fx : MemFx)
  /-- MSIX_UNMASK (R231): Unmasking a vector with its pending bit set sends the message. -/
  | msixUnmask (fn : Nat) (vec : Nat)
  /-- TABLE_LOAD (R123): A TABLE_LOAD descriptor is checked against the bank states and starts loading the target banks. -/
  | tableLoad (r : Nat)
  /-- TABLE_LOAD_COMPLETE (R123): A load ends and leaves its banks READY with the tag, or EMPTY on failure. -/
  | tableLoadComplete (r : Nat) (fx : MemFx)
  /-- TABLE_ACTIVATE (R124): A TABLE_ACTIVATE descriptor activates a bank by tag on every engine of the polder, between jobs. -/
  | tableActivate (r : Nat)
  /-- KEY_INSTALL (R402): A KEY_INSTALL descriptor with OP install unwraps a key blob into a key slot. -/
  | keyInstall (r : Nat) (blob : ReadRes)
  /-- KEY_ERASE (R216): A KEY_INSTALL descriptor with OP erase erases a key slot. -/
  | keyErase (r : Nat)
  /-- CHANNEL_ENABLE (R226): A write of ENABLE = 1 to PCI_CH_CTRL checks the range and makes the channel ACTIVE, or is refused. -/
  | channelEnable (fn : Nat) (c : Nat) (v : Nat)
  /-- CHANNEL_DISABLE (R228): A write of ENABLE = 0 disables the channel and cuts short a COPY on it. -/
  | channelDisable (fn : Nat) (c : Nat)
  /-- HOST_WRITE_APERTURE (R227): A host write to a channel aperture lands at PTR, or stops or is discarded. -/
  | hostWriteAperture (fn : Nat) (ap : Nat) (data : Bytes) (partBE : Bool) (fx : MemFx)
  /-- HOST_READ_APERTURE (R228): A host read from a HOST_READ aperture returns LEN bytes from PTR and advances it, or completes poisoned. -/
  | hostReadAperture (fn : Nat) (ap : Nat) (len : Nat) (fx : MemFx)
  /-- VF_ENABLE (R420): Setting VF Enable binds each VF to its polder, or is ignored before firmware is RUNNING. -/
  | vfEnable (n : Nat)
  /-- SLU_OWNER (R233): A write that changes a sluice's owner sets its value to 0 and clears SAT, unless a WAIT is held. -/
  | sluOwner (fn : Nat) (i : Nat) (v : Nat)
  /-- SLU_GRANT (R241): A write to a grant entry is accepted or ignored by the path rules and applies to later operations. -/
  | sluGrant (fn : Nat) (g : Nat) (v : Nat)
  /-- CTX_ENABLE (R244): ENABLE = 1 makes an allotted context SAVED and IDLE with no save record. -/
  | ctxEnable (fn : Nat) (n : Nat) (v : Nat)
  /-- CTX_DISABLE (R244): ENABLE = 0, when every ring of the context is DISABLED, leaves its slot without a save. -/
  | ctxDisable (fn : Nat) (n : Nat)
  /-- CONTEXT_LOAD_COMPLETE (R250): A save record read returns and is checked; the context becomes RESIDENT or FAULTED. -/
  | contextLoadComplete (n : Nat)
  /-- WARMUP_START (R188): With J1 drained and J2 next and registered, J2's warm-up table is carried out. -/
  | warmupStart (p : Nat) (args : ReadRes) (fx : MemFx)
  /-- WARMUP_COMPLETE (R188): The warm-up entries have finished reading into scratchpad, and J2 may reach its step 5. -/
  | warmupComplete (p : Nat) (fx : MemFx)
  /-- SEGMENT_BARRIER (R165): All steps of a segment have released, and all remote signals and DMA writes are acknowledged; the successor is taken. -/
  | segmentBarrier (p : Nat)
  /-- JOB_FAULT_END (R186): After a faulting step, when no step can be issued and none is in flight, the job ends with the deciding status. -/
  | jobFaultEnd (p : Nat)
  /-- WATCHDOG_EXPIRY (R254): The job watchdog limit is reached, and the polder abandons the job, scrubs and writes TIMEOUT. -/
  | watchdogExpiry (p : Nat)
  /-- STEP_RELEASE (R171): A step completes and increments its signal tokens and any remote token. -/
  | stepRelease (p : Nat) (d : Nat) (q : Nat) (n : Nat)
  /-- NOP_STEP (R173): A NOP step is issued and releases at once. -/
  | nopStep (p : Nat) (d : Nat) (q : Nat)
  /-- ACTIVATE (R173): An ACTIVATE step in a vector queue activates that engine's function-table bank by tag. -/
  | activate (p : Nat) (d : Nat) (e : Nat)
  /-- ACTIVATE_SMOOTHING (R173): An ACTIVATE step in a transform queue activates the transform unit's smoothing bank. -/
  | activateSmoothing (p : Nat) (d : Nat)
  /-- BANK_DRAIN_COMPLETE (R125): After the last step bound to a DRAINING bank releases, the bank becomes READY. -/
  | bankDrainComplete (n : Nat)
  /-- MATMUL (R43): An array pass computes the MATMUL contribution of a K range in the fixed reduction order. -/
  | matmul (p : Nat) (d : Nat) (q : Nat) (fx : MemFx) (ck : List ArrErr)
  /-- DIST_L2SQ (R66): An array pass computes squared L2 distances. -/
  | distL2sq (p : Nat) (d : Nat) (q : Nat) (fx : MemFx) (ck : List ArrErr)
  /-- DIST_L1 (R66): An array pass computes L1 distances. -/
  | distL1 (p : Nat) (d : Nat) (q : Nat) (fx : MemFx) (ck : List ArrErr)
  /-- MAXPLUS (R66): An array pass computes the max-plus product. -/
  | maxplus (p : Nat) (d : Nat) (q : Nat) (fx : MemFx) (ck : List ArrErr)
  /-- MINPLUS (R66): An array pass computes the min-plus product. -/
  | minplus (p : Nat) (d : Nat) (q : Nat) (fx : MemFx) (ck : List ArrErr)
  /-- HAMMING (R66): An array pass counts differing bits between BIT1 operands. -/
  | hamming (p : Nat) (d : Nat) (q : Nat) (fx : MemFx) (ck : List ArrErr)
  /-- CMPCOUNT (R66): An array pass counts positions where a exceeds b. -/
  | cmpcount (p : Nat) (d : Nat) (q : Nat) (fx : MemFx) (ck : List ArrErr)
  /-- REPEAT_COMPLETE (R368): The repeat of the K-block on the same array completes with its checks. -/
  | repeatComplete (site : Nat) (errs : List BlkErr)
  /-- SUBSTITUTE_READY (R369): The spare has powered up, or a borrowed array is free, to compute the block. -/
  | substituteReady (site : Nat)
  /-- SUBSTITUTE_COMPLETE (R368): The substitute's computation completes; the episode is classified and the pass finished or ended. -/
  | substituteComplete (site : Nat) (errs : List BlkErr) (rest : List ArrErr)
  /-- TARGETED_SELF_TEST_END (R371): The targeted self-test of a quarantined array ends, and the evidence record and EVIDENCE event are written. -/
  | targetedSelfTestEnd (site : Nat) (phys : Nat) (res : TestEnd)
  /-- ADD (R86): Element-wise FP32 addition. -/
  | fadd (p : Nat) (d : Nat) (e : Nat) (fx : MemFx)
  /-- SUB (R86): Element-wise FP32 subtraction. -/
  | fsub (p : Nat) (d : Nat) (e : Nat) (fx : MemFx)
  /-- MUL (R86): Element-wise FP32 multiplication. -/
  | fmul (p : Nat) (d : Nat) (e : Nat) (fx : MemFx)
  /-- FMA (R86): Element-wise fused multiply-add. -/
  | fma (p : Nat) (d : Nat) (e : Nat) (fx : MemFx)
  /-- MIN (R86): Element-wise IEEE minimum. -/
  | fmin (p : Nat) (d : Nat) (e : Nat) (fx : MemFx)
  /-- MAX (R86): Element-wise IEEE maximum. -/
  | fmax (p : Nat) (d : Nat) (e : Nat) (fx : MemFx)
  /-- CLAMP (R86): Element-wise clamp between two bounds. -/
  | clamp (p : Nat) (d : Nat) (e : Nat) (fx : MemFx)
  /-- ABS (R86): Element-wise absolute value. -/
  | fabs (p : Nat) (d : Nat) (e : Nat) (fx : MemFx)
  /-- NEG (R86): Element-wise negation. -/
  | fneg (p : Nat) (d : Nat) (e : Nat) (fx : MemFx)
  /-- CMP_EQ (R86): Element-wise equal comparison to a U8 mask. -/
  | cmpEq (p : Nat) (d : Nat) (e : Nat) (fx : MemFx)
  /-- CMP_NE (R86): Element-wise not-equal comparison. -/
  | cmpNe (p : Nat) (d : Nat) (e : Nat) (fx : MemFx)
  /-- CMP_LT (R86): Element-wise less-than comparison. -/
  | cmpLt (p : Nat) (d : Nat) (e : Nat) (fx : MemFx)
  /-- CMP_LE (R86): Element-wise less-or-equal comparison. -/
  | cmpLe (p : Nat) (d : Nat) (e : Nat) (fx : MemFx)
  /-- CMP_GT (R86): Element-wise greater-than comparison. -/
  | cmpGt (p : Nat) (d : Nat) (e : Nat) (fx : MemFx)
  /-- CMP_GE (R86): Element-wise greater-or-equal comparison. -/
  | cmpGe (p : Nat) (d : Nat) (e : Nat) (fx : MemFx)
  /-- SEL (R86): Element-wise selection by a U8 mask. -/
  | sel (p : Nat) (d : Nat) (e : Nat) (fx : MemFx)
  /-- CVT (R86): Element-wise format conversion. -/
  | cvt (p : Nat) (d : Nat) (e : Nat) (fx : MemFx)
  /-- IADD (R87): Saturating integer addition. -/
  | iadd (p : Nat) (d : Nat) (e : Nat) (fx : MemFx)
  /-- ISUB (R87): Saturating integer subtraction. -/
  | isub (p : Nat) (d : Nat) (e : Nat) (fx : MemFx)
  /-- IMIN (R87): Integer minimum. -/
  | imin (p : Nat) (d : Nat) (e : Nat) (fx : MemFx)
  /-- IMAX (R87): Integer maximum. -/
  | imax (p : Nat) (d : Nat) (e : Nat) (fx : MemFx)
  /-- AND (R87): Bitwise AND. -/
  | bitAnd (p : Nat) (d : Nat) (e : Nat) (fx : MemFx)
  /-- OR (R87): Bitwise OR. -/
  | bitOr (p : Nat) (d : Nat) (e : Nat) (fx : MemFx)
  /-- XOR (R87): Bitwise XOR. -/
  | bitXor (p : Nat) (d : Nat) (e : Nat) (fx : MemFx)
  /-- SHL (R87): Shift left by an amount mod 32. -/
  | shl (p : Nat) (d : Nat) (e : Nat) (fx : MemFx)
  /-- SHR (R87): Arithmetic shift right by an amount mod 32. -/
  | shr (p : Nat) (d : Nat) (e : Nat) (fx : MemFx)
  /-- EXP2 (R109): Special function 2^x. -/
  | exp2 (p : Nat) (d : Nat) (e : Nat) (fx : MemFx)
  /-- EXP (R109): Special function e^x. -/
  | exp (p : Nat) (d : Nat) (e : Nat) (fx : MemFx)
  /-- LOG2 (R109): Special function log2 x. -/
  | log2 (p : Nat) (d : Nat) (e : Nat) (fx : MemFx)
  /-- LN (R109): Special function ln x. -/
  | ln (p : Nat) (d : Nat) (e : Nat) (fx : MemFx)
  /-- RCP (R109): Special function 1/x. -/
  | rcp (p : Nat) (d : Nat) (e : Nat) (fx : MemFx)
  /-- RSQRT (R109): Special function 1/√x. -/
  | rsqrt (p : Nat) (d : Nat) (e : Nat) (fx : MemFx)
  /-- SQRT (R109): Special function √x. -/
  | sqrt (p : Nat) (d : Nat) (e : Nat) (fx : MemFx)
  /-- TANH (R109): Special function tanh x. -/
  | tanh (p : Nat) (d : Nat) (e : Nat) (fx : MemFx)
  /-- ERF (R109): Special function erf x. -/
  | erf (p : Nat) (d : Nat) (e : Nat) (fx : MemFx)
  /-- SIGMOID (R109): Logistic sigmoid. -/
  | sigmoid (p : Nat) (d : Nat) (e : Nat) (fx : MemFx)
  /-- SILU (R109): SiLU function. -/
  | silu (p : Nat) (d : Nat) (e : Nat) (fx : MemFx)
  /-- SOFTPLUS (R109): Softplus function. -/
  | softplus (p : Nat) (d : Nat) (e : Nat) (fx : MemFx)
  /-- GELU_ERF (R109): GELU in erf form. -/
  | geluErf (p : Nat) (d : Nat) (e : Nat) (fx : MemFx)
  /-- GELU_TANH (R109): GELU in tanh form. -/
  | geluTanh (p : Nat) (d : Nat) (e : Nat) (fx : MemFx)
  /-- SIN (R109): Special function sin x. -/
  | sin (p : Nat) (d : Nat) (e : Nat) (fx : MemFx)
  /-- COS (R109): Special function cos x. -/
  | cos (p : Nat) (d : Nat) (e : Nat) (fx : MemFx)
  /-- USERN (R116): User function n evaluates user slot 11 + n at each input. -/
  | usern (p : Nat) (d : Nat) (e : Nat) (fx : MemFx)
  /-- RMAX (R89): Row maximum reduction. -/
  | rmax (p : Nat) (d : Nat) (e : Nat) (fx : MemFx)
  /-- RMIN (R89): Row minimum reduction. -/
  | rmin (p : Nat) (d : Nat) (e : Nat) (fx : MemFx)
  /-- RSUM (R89): Row sum reduction in ascending column order. -/
  | rsum (p : Nat) (d : Nat) (e : Nat) (fx : MemFx)
  /-- RSSQ (R89): Row sum-of-squares reduction. -/
  | rssq (p : Nat) (d : Nat) (e : Nat) (fx : MemFx)
  /-- NORM_RMS (R134): Fused RMS normalisation of each row. -/
  | normRms (p : Nat) (d : Nat) (e : Nat) (fx : MemFx)
  /-- NORM_LAYER (R135): Fused layer normalisation of each row. -/
  | normLayer (p : Nat) (d : Nat) (e : Nat) (fx : MemFx)
  /-- SOFTMAX (R131): Fused soft maximum with log-sum-exp per row. -/
  | softmax (p : Nat) (d : Nat) (e : Nat) (fx : MemFx)
  /-- ROPE (R90): Rotary embedding of element pairs by integer phase. -/
  | rope (p : Nat) (d : Nat) (e : Nat) (fx : MemFx)
  /-- GATHER (R91): Bounded gather of rows or elements from a scratchpad window. -/
  | gather (p : Nat) (d : Nat) (e : Nat) (fx : MemFx)
  /-- SCATTER (R92): Bounded scatter into a window, the later write standing. -/
  | scatter (p : Nat) (d : Nat) (e : Nat) (fx : MemFx)
  /-- SCATTER_ADD (R92): Scatter that adds each value into FP32 window elements in row-major order. -/
  | scatterAdd (p : Nat) (d : Nat) (e : Nat) (fx : MemFx)
  /-- TOPK (R93): Per-row selection of the k largest or smallest elements with their indices. -/
  | topk (p : Nat) (d : Nat) (e : Nat) (fx : MemFx)
  /-- QUANT (R94): Quantise into a block or scalar format. -/
  | quant (p : Nat) (d : Nat) (e : Nat) (fx : MemFx)
  /-- DEQUANT (R94): Widen any element, block or GS format. -/
  | dequant (p : Nat) (d : Nat) (e : Nat) (fx : MemFx)
  /-- COMPRESS (R97): Pack active rows and write their count to a count slot. -/
  | compress (p : Nat) (d : Nat) (e : Nat) (fx : MemFx)
  /-- EXPAND (R98): Return packed rows to their indexed positions. -/
  | expand (p : Nat) (d : Nat) (e : Nat) (fx : MemFx)
  /-- CNT_LOAD (R99): Load a count slot from scratchpad. -/
  | cntLoad (p : Nat) (d : Nat) (e : Nat) (fx : MemFx)
  /-- CNT_STORE (R99): Store a count slot to scratchpad. -/
  | cntStore (p : Nat) (d : Nat) (e : Nat) (fx : MemFx)
  /-- SMAX (R101): Summary word: maximum over the region. -/
  | smax (p : Nat) (d : Nat) (e : Nat) (fx : MemFx)
  /-- SMIN (R101): Summary word: minimum over the region. -/
  | smin (p : Nat) (d : Nat) (e : Nat) (fx : MemFx)
  /-- SSUM (R101): Summary word: row-major sum over the region. -/
  | ssum (p : Nat) (d : Nat) (e : Nat) (fx : MemFx)
  /-- SNZ (R101): Summary word: number of nonzero elements. -/
  | snz (p : Nat) (d : Nat) (e : Nat) (fx : MemFx)
  /-- SFIRST (R101): Summary word: index of the first nonzero element. -/
  | sfirst (p : Nat) (d : Nat) (e : Nat) (fx : MemFx)
  /-- SCNT (R101): Summary word: the value of a count slot. -/
  | scnt (p : Nat) (d : Nat) (e : Nat) (fx : MemFx)
  /-- SAMPLE (R282): Token sampling per batch row with penalty, top-k, top-p and the counter-based generator. -/
  | sample (p : Nat) (d : Nat) (e : Nat) (fx : MemFx)
  /-- TRANSFORM (R103): Smooth, rotate and quantise a region for the arrays. -/
  | transform (p : Nat) (d : Nat) (fx : MemFx)
  /-- MOVE (R178): DMA copy between scratchpad, stacks and remote memory, with an optional remote token. -/
  | move (p : Nat) (d : Nat) (q : Nat) (fx : MemFx)
  /-- DMA_SIGNAL (R178): DMA step that adds to a local or remote sluice after its ordered writes. -/
  | dmaSignal (p : Nat) (d : Nat) (q : Nat)
  /-- COLL (R330): DMA step that hands a segment to a collective and receives the result. -/
  | coll (p : Nat) (d : Nat) (q : Nat) (fx : MemFx)
  /-- SEGMENT_REDUCE (R331): When all contributions of a segment have landed and passed their digests, the owner's engine sums them in rank order and sends the result. -/
  | segmentReduce (p : Nat) (c : Nat) (seg : Nat)
  /-- PATROL_READ (R147): The stack patrol reads and checks a tensor block on its fixed schedule. -/
  | patrolRead (site : Nat) (block : Nat) (fx : MemFx)
  /-- STACK_SCRUB_COMPLETE (R156): A stack scrub has zeroed data and codes, and the stack becomes CLEAN. -/
  | stackScrubComplete (site : Nat)
  /-- POL_ENABLE (R263): ENABLE = 1 on an EMPTY polder checks the formation and starts the rebuild. -/
  | polEnable (fn : Nat) (p : Nat) (v : Nat)
  /-- POL_DISABLE (R264): ENABLE = 0 on a READY polder with all contexts disabled starts its dissolution. -/
  | polDisable (fn : Nat) (p : Nat)
  /-- POLDER_READY (R263): After all stacks are CLEAN and attestation is refreshed, the polder becomes READY. -/
  | polderReady (p : Nat)
  /-- DISSOLVE_COMPLETE (R264): Dissolution releases the allotments and the polder becomes EMPTY. -/
  | dissolveComplete (p : Nat)
  /-- PORT_ENABLE (R295): ENABLE = 1 in LNK_PORT_CTRL starts training the port, or is refused and sets CFG_ERR. -/
  | portEnable (fn : Nat) (n : Nat) (v : Nat)
  /-- PORT_DISABLE (R295): ENABLE = 0 disables a fabric port. -/
  | portDisable (fn : Nat) (n : Nat)
  /-- PCS_LOCK (R297): The PCS locks on all eight lanes and the port goes UP. -/
  | pcsLock (n : Nat)
  /-- PCS_LOSS (R297): PCS alignment is lost and the port goes DOWN, and it retrains. -/
  | pcsLoss (n : Nat)
  /-- SILENCE_TIMEOUT (R297): No frame has been received for 20 µs, and the port goes DOWN. -/
  | silenceTimeout (n : Nat)
  /-- REPLAY_LIMIT (R297): A frame has been replayed 16 times without acknowledgement, and the port goes DOWN. -/
  | replayLimit (n : Nat)
  /-- LL_ACK_TIMER (R297): An UP port sends a link-level acknowledgement at least every 1 µs. -/
  | llAckTimer (n : Nat)
  /-- HELLO_TIMER (R314): A DIRECT port sends a HELLO every 100 µs. -/
  | helloTimer (n : Nat)
  /-- WRITE (R318): A WRITE frame is admitted, verified and stored, then acknowledged, or it is NAKed or forwarded. -/
  | write (n : Nat) (f : Frame) (fx : MemFx)
  /-- READ_REQ (R318): A READ_REQ frame is admitted, and the responder returns the whole block. -/
  | readReq (n : Nat) (f : Frame) (fx : MemFx)
  /-- READ_RESP (R318): A READ_RESP frame delivers a block, and the requester keeps the bytes it named. -/
  | readResp (n : Nat) (f : Frame) (fx : MemFx)
  /-- FRAME_SIGNAL (R320): A SIGNAL frame adds to a sluice at most once per TAG and is acknowledged. -/
  | frameSignal (n : Nat) (f : Frame)
  /-- FRAME_SET (R320): A SET frame sets a sluice at most once per TAG and is acknowledged. -/
  | frameSet (n : Nat) (f : Frame)
  /-- ACK (R319): An ACK frame acknowledges operations by tag. -/
  | ack (n : Nat) (f : Frame)
  /-- NAK (R324): A NAK frame refuses an operation, which fails at its issuer or is resent. -/
  | nak (n : Nat) (f : Frame)
  /-- COLL_DATA (R334): A collective data frame is checked against the local entry and lands in landing SRAM, with the digest checked on the last frame. -/
  | collData (n : Nat) (f : Frame) (fx : MemFx)
  /-- COLL_CREDIT (R332): A credit frees a landing slot for the sender's next segment. -/
  | collCredit (n : Nat) (f : Frame)
  /-- COLL_ABORT (R333): An abort makes the collective's unreleased COLL steps faulting. -/
  | collAbort (n : Nat) (f : Frame)
  /-- HELLO (R314): A HELLO frame records the neighbour, or opens a switched connection. -/
  | hello (n : Nat) (f : Frame)
  /-- LL_ACK (R305): A link-level acknowledgement frees replay buffer entries or, with NAK set, triggers replay. -/
  | llAck (n : Nat) (f : Frame)
  /-- GOODBYE (R297): A GOODBYE frame takes the port DOWN and marks the peer as a lost member. -/
  | goodbye (n : Nat) (f : Frame)
  /-- PFC_FRAME (R306): A priority flow control frame pauses or resumes a priority. -/
  | pfcFrame (n : Nat) (prio : Nat) (pause : Bool)
  /-- RETRANSMISSION_TIMEOUT (R307): EACK has not advanced for RTO, so the sender retransmits the unacknowledged frames. -/
  | retransmissionTimeout (lp : Nat) (chip : Nat) (tc : Nat)
  /-- CONNECTION_FAILED (R307): After LIMIT retransmissions without progress the connection fails. -/
  | connectionFailed (lp : Nat) (chip : Nat) (tc : Nat)
  /-- OPERATION_TIMEOUT (R325): An operation is not answered within OPTMO and fails with TIMEOUT. -/
  | operationTimeout (op : Nat)
  /-- NAK_WAIT_RESEND (R324): A frame refused with NAK WAIT is resent every 10 µs. -/
  | nakWaitResend (op : Nat)
  /-- FIBRE_LATCH_RELEASE (R465): A fibre block is released, and the lasers of its three ports turn off. -/
  | fibreLatchRelease (site : Nat)
  /-- FIBRE_LATCH_ENGAGE (R465): A fibre block is latched, and its ports may turn their lasers on and retrain. -/
  | fibreLatchEngage (site : Nat)
  /-- POL_COLL (R326): A write of VALID = 1 validates the collective table and seals it, or sets ERR. -/
  | polColl (fn : Nat) (p : Nat) (v : Nat)
  /-- ARBITER_PERIOD (R351): At each 25 µs boundary the arbiter collects demands and computes shares, loans, grants and targets. -/
  | arbiterPeriod (draws : List (Nat×Nat))
  /-- RAIL_VOLTAGE_REACHED (R343): A die rail reaches the voltage needed, and the raised targets are applied. -/
  | railVoltageReached (site : Nat)
  /-- DROOP_CLOCKING (R344): A supply droop makes the island's generator stretch the next cycle. -/
  | droopClocking (site : Nat) (isl : Nat)
  /-- CLK_POL_LIM (R354): A write of frequency limits applies a lowered ceiling within 2 µs and a floor from the next boundary. -/
  | clkPolLim (fn : Nat) (i : Nat) (v : Nat)
  /-- PWR_MODE (R350): A write selects diked or open mode from the next boundary, or is ignored if ports are shared. -/
  | pwrMode (fn : Nat) (v : Nat)
  /-- INPUT_LIMITER (R358): Measured 12 V power exceeds MAX_CAP, and all variable targets are lowered. -/
  | inputLimiter (us : Nat)
  /-- THERMAL_THRESHOLD (R359): A sensor crosses a throttle, limit or recovery threshold, and the response is applied. -/
  | thermalThreshold (k : Sensor) (temp : Int)
  /-- THERMAL_TRIP (R360): A sensor reaches its trip temperature; power is removed and a warm reset held. -/
  | thermalTrip (k : Sensor)
  /-- PWR_TRIP (R458): Clearing VALID in PWR_TRIP releases the THERMTRIP# output. -/
  | pwrTrip (fn : Nat) (v : Nat)
  /-- RUN_START (R269): RUN = 1 while STOPPED reads and checks the service block and starts the service loop. -/
  | runStart (fn : Nat) (p : Nat)
  /-- SERVICE_LOOP_RUNNING (R269): Image validation and range checks complete, frames are donated, and STATE becomes RUNNING. -/
  | serviceLoopRunning (p : Nat)
  /-- RUN_STOP (R270): RUN = 0 while RUNNING moves the loop to STOPPING. -/
  | runStop (fn : Nat) (p : Nat)
  /-- SERVICE_LOOP_STOPPED (R270): After the running job ends, sequences are cancelled, resources released and STATE returns to STOPPED. -/
  | serviceLoopStopped (p : Nat)
  /-- SERVICE_LOOP_PASS (R275): Firmware runs one pass: take entries, process handoffs, end cancellations and launch at most one job. -/
  | serviceLoopPass (p : Nat) (prompt : ReadRes)
  /-- START (R272): A START request entry is checked and admitted into a sequence slot, or refused. -/
  | start (r : Nat)
  /-- CANCEL (R272): A CANCEL request ends the matching sequence at the next step boundary. -/
  | cancel (r : Nat)
  /-- SESSION_DROP (R272): A SESSION_DROP request releases a retained session. -/
  | sessionDrop (r : Nat)
  /-- REQUEST_NOP (R271): A request entry with OP NOP is taken without effect. -/
  | requestNop (r : Nat)
  /-- SERVICE_JOB_COMPLETE (R280): A service job completes; tokens are appended, the stop rules applied, responses written and pages freed. -/
  | serviceJobComplete (p : Nat)
  /-- HANDOFF_SEND (R291): The sender writes pages into donated frames, then signals, posts the record and signals again. -/
  | handoffSend (p : Nat) (sq : Nat)
  /-- SEQ_PAGES (R292): A SEQ_PAGES handoff record is checked and its pages join the START's slot. -/
  | seqPages (p : Nat) (pair : Nat)
  /-- SESSION_PAGES (R292): A SESSION_PAGES record stores a session at a cache part or completes a FETCH. -/
  | sessionPages (p : Nat) (pair : Nat)
  /-- FETCH (R292): A FETCH record at a cache part sends the session's pages or a MISS. -/
  | fetch (p : Nat) (pair : Nat)
  /-- MISS (R292): A MISS record refuses the waiting START with SESSION_GONE. -/
  | miss (p : Nat) (pair : Nat)
  /-- DONATION_RETRY (R289): An undelivered frame donation is retried every 1 ms. -/
  | donationRetry (p : Nat) (pair : Nat)
  /-- REMOTE_RETRY (R291): An undeliverable handoff operation is retried every 1 ms. -/
  | remoteRetry (p : Nat) (pair : Nat)
  /-- BIST_SLICE_CMD (R405): A slice command is checked and the slot goes to WAITING or RUNNING, or DONE with REFUSE. -/
  | bistSliceCmd (fn : Nat) (n : Nat) (v : Nat)
  /-- SLICE_CANCEL (R405): BLOCK 0 written to a WAITING slot cancels the slice with RESULT INTERRUPTED. -/
  | sliceCancel (fn : Nat) (n : Nat)
  /-- SLICE_START (R406): A waiting slice's condition is met; the block is isolated and set to its test point. -/
  | sliceStart (n : Nat)
  /-- SLICE_COMPLETE (R405): A test completes; the block is re-initialised and the log and event are written. -/
  | sliceComplete (n : Nat) (results : List TestRes) (errs : List (Nat × BlkErr)) (moved : Bool)
  /-- SLICE_BUDGET (R405): A slice reaches its budget, is stopped and ends with RESULT BUDGET. -/
  | sliceBudget (n : Nat) (results : List TestRes) (errs : List (Nat × BlkErr)) (run : Nat)
  /-- BIST_PACK_CMD (R382): A write of LEN starts loading and verifying a pattern pack. -/
  | bistPackCmd (fn : Nat) (v : Nat)
  /-- PACK_LOAD_COMPLETE (R382): A pack load ends; the pack is installed or the result records the failing check. -/
  | packLoadComplete
  /-- BIST_REPAIR_CMD (R415): A write of LEN starts loading the repair list. -/
  | bistRepairCmd (fn : Nat) (v : Nat)
  /-- REPAIR_LIST_LOAD_COMPLETE (R415): A repair-list load checks every entry and applies the list, or changes nothing. -/
  | repairListLoadComplete
  /-- BIST_FUSE_CMD (R416): A write of an entry blows the next unused REPAIR fuse entry. -/
  | bistFuseCmd (fn : Nat) (v : Nat)
  /-- REGISTER_WRITE (R437): A write to a register without a row of its own is applied, ignored or discarded under the path and access rules. -/
  | registerWrite (fn : Nat) (off : Nat) (size : Nat) (v : Nat)
  /-- FRAME_DISCARD (R322): An arriving frame with a bad FCS, a bad VER, a nonzero reserved field or a reserved KIND is discarded and counted, and on a DIRECT port an LL_ACK with NAK = 1 is sent. -/
  | frameDiscard (n : Nat) (f : Frame)
  /-- UNSUPPORTED_READ (R10): A BAR0 read of a size other than 4 or 8 bytes, or a misaligned one, returns all ones and sets UNSUP and HUB_ERR_ADDR. -/
  | unsupportedRead (fn : Nat) (off : Nat) (size : Nat)
  deriving DecidableEq, Repr

end Sys2Proof
end

