-- ==== Sys2Proof/Decode.lean ====
section
/-! DEFINITION. The commands that words spell. The operation table gives no row any bits, so no word spells a command. -/

namespace Sys2Proof

/-- The command that a word of the operation table spells: none, because the table gives its rows no bits. -/
def decodeTableWord (_nbits _w : Nat) : Option Instr := none

end Sys2Proof
end

