-- ==== Sys2Proof/Config.lean ====
section
/-! DEFINITION. What one device's manufacture fixes, and the values that the spec leaves open: constants without a body, so that
nothing in Lean can see a value of them (assumption log, entries 4 and 5). -/

namespace Sys2Proof.Config

/-- UDS fuses as manufactured (R390). -/
opaque uds : Nat
/-- TS fuses as manufactured (R390). -/
opaque ts : Nat
/-- SIGNER_DIG[k] as manufactured (R390). -/
opaque signerDig : Nat → Nat
/-- SERVICE_DIG as manufactured (R390). -/
opaque serviceDig : Nat
/-- The CERT store as written in FACTORY (R390): intermediate and DeviceID certificates. -/
opaque cert : Bytes
/-- Digest of the Dexkauno root certificate, 48 bytes (R398). -/
opaque rootDigest : Bytes
/-- The boot ROM's digest of itself, 48 bytes (R397). -/
opaque romDigest : Bytes
/-- Fresh random 128-bit value number `k`: `SEC_NONCE` (R395), SPDM nonces (R398). -/
opaque random : Nat → Nat
/-- ResponderVerifyData of a KEY_EXCHANGE at free value `k` (R398). -/
opaque verifyData : Nat → Bytes
/-- The ECDSA P-384 signature, 96 bytes, that the key `d` gives for a digest at free value `k` (R398, R399): its nonce is the device's own. -/
opaque ecdsaSign : Nat → Nat → Bytes → Bytes
/-- The X.509 certificate that a DeviceID or alias key receives for a public key and its inputs (R397): its encoding is not stated. -/
opaque certOf : Nat → Bytes → Bytes → Bytes
/-- The responder's ephemeral secp384r1 public key of a KEY_EXCHANGE at free value `k`, 96 bytes (R398). -/
opaque dhePublic : Nat → Bytes
/-- The export master secret, 48 bytes, of a session from its free value and the peer's exchange data (R398, R402). -/
opaque exportSecret : Nat → Bytes → Bytes
/-- BODY and TAG, 240 bytes, of a save record: sealed under an epoch's key for a context, a GEN, a budget and a tenant tag; the layout of
the slot state is the device's own (R247). -/
opaque sealRecord : Nat → Nat → Nat → Int → Nat → Bytes
/-- The 96-bit code of an exact block maximum or minimum in a checker's bit pattern (R75, R78), from its value in units of 2^−133. -/
opaque blockCode : Int → Nat
/-- The token that SAMPLE draws where R282 states none, from the job's mode, FTZ and the batch row's parameters, and the row's logits: for one image, one
request and one history it is one value (R3, R283). -/
opaque sampleToken : List Nat → List Nat → Nat
/-- A value that the spec does not state, at free value `k`. -/
opaque freeNat : Nat → Nat
/-- The voltage, in mV, that a die's rail needs for its frequency targets (R343): monotone tables of the device's own. -/
opaque railMv : Nat → Nat → Nat
/-- DRAM die and row of a stack that hold a device-local address (R414): the spec gives the channel alone. -/
opaque dramRow : Nat → Nat × Nat

/-- Bytes of a receive buffer class of a fabric port, less one (R306). -/
opaque rxClass : Nat

end Sys2Proof.Config
end

