-- ==== Sys2Proof/Machine/Bits.lean ====
section
/-! DEFINITION. Bit fields, little-endian numbers (R5), two's complement, CRC-32C (R148), CRC-64 (R333) and sparse tables. -/

namespace Sys2Proof.Machine

/-- Bits [hi:lo] of `v`. -/
def bits (v hi lo : Nat) : Nat := (v >>> lo) % 2 ^ (hi + 1 - lo)

/-- `v` with bits [hi:lo] replaced by the low bits of `x`. -/
def setBits (v hi lo x : Nat) : Nat :=
  (v >>> (hi + 1)) <<< (hi + 1) + (x % 2 ^ (hi + 1 - lo)) <<< lo + v % 2 ^ lo

/-- 1 for true. -/
def b2n (b : Bool) : Nat := if b then 1 else 0

/-- The number that bytes hold, the lowest offset lowest (R5). -/
def le : Bytes → Nat
  | [] => 0
  | b :: bs => b.toNat + 256 * le bs

/-- `n` bytes of `v`, little-endian. -/
def toLe : Nat → Nat → Bytes
  | 0, _ => []
  | n + 1, v => BitVec.ofNat 8 v :: toLe n (v / 256)

/-- The number that bytes hold, the lowest offset highest. -/
def be (bs : Bytes) : Nat := le bs.reverse

/-- `n` bytes of `v`, big-endian. -/
def toBe (n v : Nat) : Bytes := (toLe n v).reverse

/-- `n` bytes of `bs` from offset `off`. -/
def slice (bs : Bytes) (off n : Nat) : Bytes := (bs.drop off).take n

/-- The little-endian field of `n` bytes at offset `off`. -/
def fld (bs : Bytes) (off n : Nat) : Nat := le (slice bs off n)

/-- `n` zero bytes. -/
def zeros (n : Nat) : Bytes := List.replicate n 0

/-- Every byte of the `n` bytes from `off` is zero. -/
def isZero (bs : Bytes) (off n : Nat) : Bool := (slice bs off n).all (· == 0)

/-- The two's complement value of the low `w` bits of `v`. -/
def sext (w v : Nat) : Int :=
  let u := v % 2 ^ w
  if u < 2 ^ (w - 1) then (u : Int) else (u : Int) - 2 ^ w

/-- The low `w` bits of an integer. -/
def wrap (w : Nat) (x : Int) : Nat := (x % (2 ^ w : Int)).toNat

/-- Smallest multiple of `k` that is at least `n`, divided by `k`. -/
def ceilDiv (n k : Nat) : Nat := (n + k - 1) / k

/-- 64-bit saturation (R385, R451). -/
def sat64 (n : Nat) : Nat := min n 0xFFFFFFFFFFFFFFFF

/-- One bit of the reflected CRC-32C with polynomial 0x82F6_3B78. -/
def crcBit (c : Nat) : Nat := if c % 2 = 1 then (c / 2) ^^^ 0x82F63B78 else c / 2

/-- One byte of the CRC-32C. -/
def crcByte (c : Nat) (b : Byte) : Nat :=
  let x := c ^^^ b.toNat
  crcBit (crcBit (crcBit (crcBit (crcBit (crcBit (crcBit (crcBit x)))))))

/-- The bytes of a CRC, from the first on; taking the value apart at every byte evaluates it there. -/
def crcFold (f : Nat → Byte → Nat) : Bytes → Nat → Nat
  | [], c => c
  | b :: bs, 0 => crcFold f bs (f 0 b)
  | b :: bs, c + 1 => crcFold f bs (f (c + 1) b)

/-- CRC-32C of R148: initial value and final XOR 0xFFFF_FFFF. -/
def crc32c (bs : Bytes) : Nat := crcFold crcByte bs 0xFFFFFFFF ^^^ 0xFFFFFFFF

/-- One bit of the Ethernet CRC-32, reflected; one byte; and the frame check sequence (R300). -/
def crc32Bit (c : Nat) : Nat := if c % 2 = 1 then (c / 2) ^^^ 0xEDB88320 else c / 2
def crc32Byte (c : Nat) (b : Byte) : Nat :=
  crc32Bit (crc32Bit (crc32Bit (crc32Bit (crc32Bit (crc32Bit (crc32Bit (crc32Bit (c ^^^ b.toNat))))))))
def crc32 (bs : Bytes) : Nat := crcFold crc32Byte bs 0xFFFFFFFF ^^^ 0xFFFFFFFF

/-- One bit of the CRC-64 of R333, not reflected. -/
def crc64Bit (c : Nat) : Nat :=
  if c ≥ 2 ^ 63 then ((2 * c) % 2 ^ 64) ^^^ 0x42F0E1EBA9EA3693 else 2 * c

/-- One byte of the CRC-64. -/
def crc64Byte (c : Nat) (b : Byte) : Nat :=
  let x := c ^^^ (b.toNat * 2 ^ 56)
  crc64Bit (crc64Bit (crc64Bit (crc64Bit (crc64Bit (crc64Bit (crc64Bit (crc64Bit x)))))))

/-- The segment digest of R333: ECMA-182, initial value 0, no final XOR. -/
def crc64 (bs : Bytes) : Nat := crcFold crc64Byte bs 0

/-- Record `i` of a sparse table with default `d`. -/
def tget {α : Type} (d : α) : Tab α → Nat → α
  | [], _ => d
  | (k, a) :: t, i => if k = i then a else if i < k then d else tget d t i

/-- Record `i` of a sparse table, where it is listed. -/
def tfind {α : Type} (t : Tab α) (i : Nat) : Option α := (t.find? fun x => x.1 == i).map Prod.snd

/-- A sparse table with record `i` replaced, keys ascending. -/
def tset {α : Type} : Tab α → Nat → α → Tab α
  | [], i, a => [(i, a)]
  | (k, b) :: t, i, a =>
    if k = i then (i, a) :: t else if i < k then (i, a) :: (k, b) :: t else (k, b) :: tset t i a

/-- Record `i` changed by `f`. -/
def tmod {α : Type} (d : α) (t : Tab α) (i : Nat) (f : α → α) : Tab α := tset t i (f (tget d t i))

/-- Every listed record changed by `f`, which is given the record's number. -/
def tmapi {α : Type} (f : Nat → α → α) (t : Tab α) : Tab α := t.map fun (i, a) => (i, f i a)

/-- Element `i` of a list, or a default. -/
def lget {α : Type} (d : α) : List α → Nat → α
  | [], _ => d
  | a :: _, 0 => a
  | _ :: l, i + 1 => lget d l i

/-- A list with element `i` replaced; a list too short is not changed. -/
def lset {α : Type} : List α → Nat → α → List α
  | [], _, _ => []
  | _ :: l, 0, a => a :: l
  | b :: l, i + 1, a => b :: lset l i a

/-- The numbers from `lo` up to but not including `hi`. -/
def rangeFrom (lo hi : Nat) : List Nat := (List.range (hi - lo)).map (lo + ·)

/-- The numbers of the bits that are set among the low `n` bits of `v`, ascending. -/
def bitsSet (v n : Nat) : List Nat := (List.range n).filter fun i => v.testBit i

/-- `f` applied `n` times. -/
def iter {α : Type} : Nat → (α → α) → α → α
  | 0, _, a => a
  | n + 1, f, a => iter n f (f a)

/-- Some `m` with `2 ^ m` the largest power of two not above `n`; 0 for 0. -/
def log2n (n : Nat) : Nat := n.log2

end Sys2Proof.Machine
end

