-- ==== Sys2Proof/Machine/HostTypes.lean ====
section
/-! DEFINITION. The state types of the hub and the always-on domain: fuses, security processor, rings, channels, sluices, contexts,
messages sent. Every structure's defaults are its reset values. -/

namespace Sys2Proof.Machine

/-- The fuses (R390). -/
structure Fuses where
  uds : Nat := 0
  ts : Nat := 0
  signerDig : List Nat := []
  signerRev : Nat := 0
  serviceDig : Nat := 0
  /-- Thermometer, 128 fuses (R393). -/
  svn : Nat := 0
  secured : Bool := false
  returned : Bool := false
  retired : Bool := false
  /-- 32 entries of 64 bits (R416). -/
  repair : Nat := 0
  certWritten : Bool := false
  cert : Bytes := []
  deriving DecidableEq, Repr

/-- The always-on domain: pins, rails, fuse shadow and what survives a warm reset with it (R342, R417, R418, R458, R360). -/
structure Aon where
  rail33 : Bool := false
  rail12 : Bool := false
  coreOk : Bool := false
  refclk : Bool := false
  /-- PERST# is asserted. -/
  perst : Bool := true
  linkUp : Bool := false
  /-- THERMTRIP# is driven low. -/
  thermtrip : Bool := false
  /-- A trip holds the warm reset before the boot ROM (R360). -/
  tripHold : Bool := false
  /-- A hub trip has removed power from everything else: 12 V must be removed and reapplied (R360). -/
  hubTrip : Bool := false
  sensed : Bool := false
  shadow : Fuses := {}
  /-- Hub counter, nanoseconds, 64 bits. -/
  hub : Nat := 0
  tripValid : Bool := false
  tripCause : Nat := 0
  tripSite : Nat := 0
  deriving DecidableEq, Repr

/-- A fuse pulse in progress (R390). -/
inductive FusePulse where
  | svn (bit : Nat)
  | secured
  | returned
  | retired
  /-- REPAIR entry `k` with its 64-bit value. -/
  | repair (k : Nat) (v : Nat)
  deriving DecidableEq, Repr

/-- An SPDM session (R398, R402). -/
structure Session where
  fn : Nat
  id : Nat
  /-- FINISH has been accepted. -/
  opened : Bool := false
  /-- Key epoch, raised by KEY_UPDATE. -/
  epoch : Nat := 0
  secret : Bytes := []
  /-- Last wrap counter accepted. -/
  counter : Nat := 0
  deriving DecidableEq, Repr

/-- What a function's SPDM responder remembers of the negotiation. -/
structure Spdm where
  /-- 0 nothing, 1 version, 2 capabilities, 3 algorithms. -/
  phase : Nat := 0
  ver : Nat := 0
  deriving DecidableEq, Repr

/-- The security processor (R391 to R402). -/
structure Sec where
  /-- SEC_BOOT_STATUS STATE: 0 ROM_INIT, 1 WAIT, 2 VERIFY, 3 RUNNING, 4 HALTED. -/
  boot : Nat := 0
  attempts : Nat := 0
  result : Nat := 0
  /-- LEN of the accepted SEC_BOOT_CMD. -/
  cmdLen : Nat := 0
  /-- Channel 0 had stopped when it came. -/
  pushBad : Bool := false
  /-- Verification has passed and identity is derived; hub firmware is starting (R391 step 8). -/
  verified : Bool := false
  /-- Life-cycle state the device runs in (R394): 0 FACTORY … 4 RETIRED. -/
  lc : Nat := 0
  svnImage : Nat := 0
  keyIdx : Nat := 0
  packFloor : Nat := 0
  imageLen : Nat := 0
  imageDigest : Bytes := []
  stageDigs : List Bytes := []
  /-- The built-in table sets (R112, R391 step 8): slot k of the native set under k, of the compatibility set under 16 + k, in the format of R114 and
  R115. -/
  tables : Tab Bytes := []
  /-- DeviceID public key; its private key is erased (R397). -/
  devidPub : Bytes := []
  /-- The alias private key, the only key hub firmware holds. -/
  aliasKey : Nat := 0
  chain : Bytes := []
  /-- Read path of UDS and TS locked (R397). -/
  locked : Bool := false
  tokenAddr : Nat := 0
  nonce : Nat := 0
  busy : Bool := false
  cmdResult : Nat := 0
  /-- Pulses still to be made, the first in progress. -/
  pulses : List FusePulse := []
  layoutGen : Nat := 0
  rebuildInt : Bool := false
  /-- The sites whose stacks a reset during a rebuild left DIRTY and that are not scrubbed since (R401, R427). -/
  rebuildSites : List Nat := []
  spdm : Tab Spdm := []
  sessions : List Session := []
  sesCtr : Nat := 0
  /-- IDE streams with a key set: (stream, key, running) (R191, R398). -/
  ide : List (Nat × Nat × Bool) := []
  deriving DecidableEq, Repr

/-- What a host read was issued for (R193). -/
inductive ReadFor where
  /-- `cnt` entries of ring `r` from ring index `first`. -/
  | entries (r first cnt : Nat)
  /-- The source data of the descriptor in progress on ring `r`. -/
  | descData (r : Nat)
  /-- Save record of context `n`. -/
  | saveRec (n : Nat)
  | pack
  | repairList
  deriving DecidableEq, Repr

/-- A read of host memory that has been issued and not consumed. -/
structure HRead where
  tag : Nat
  addr : Nat
  len : Nat
  purpose : ReadFor
  /-- What came back, once it has. -/
  res : Option ReadRes := none
  deriving DecidableEq, Repr

/-- A message that leaves the device. -/
inductive Out where
  /-- A posted write to host memory. -/
  | hostWrite (addr : Nat) (data : Bytes)
  /-- A read request to host memory. -/
  | hostRead (tag addr len : Nat)
  /-- The message of vector `vec` of function `fn`: a write of `data` at `addr`, as its table entry has them (R231). -/
  | msix (fn vec addr data : Nat)
  /-- Completion of a host read: nothing for a poisoned completion. -/
  | completion (data : Option Bytes)
  /-- A DOE response of function `fn`. -/
  | doe (fn : Nat) (msg : Bytes)
  /-- A frame sent by a port: what stands before its Salruat header (R300), and the frame. -/
  | frame (port : Nat) (head : Bytes) (f : Frame)
  /-- A priority flow control frame sent by a port. -/
  | pfc (port prio : Nat) (pause : Bool)
  deriving DecidableEq, Repr

/-- A descriptor in progress. -/
structure Desc where
  bytes : Bytes
  seq : Nat
  /-- A WAIT held on its sluice. -/
  waiting : Bool := false
  /-- A table descriptor that waits for the running job's end (R124, R256). -/
  held : Bool := false
  /-- A COPY behind another one on its channel (R228). -/
  queued : Bool := false
  /-- Tag of the read of its data, where one is issued; of a COPY, its place in the order of taking. -/
  tag : Option Nat := none
  /-- Number of the remote operation, where one is issued (R212). -/
  op : Option Nat := none
  deriving DecidableEq, Repr

/-- A ring (R196 to R206, R444, R445). -/
structure Ring where
  base : Nat := 0
  shadow : Nat := 0
  owner : Nat := 0
  cq : Nat := 0
  log2 : Nat := 0
  kind : Nat := 0
  vector : Nat := 0
  irqEn : Bool := false
  coal : Nat := 0
  /-- 0 DISABLED, 1 ACTIVE, 2 DRAINING, 3 STOPPED. -/
  st : Nat := 0
  /-- 0 none, 1 CONFIG, 2 OVERRUN, 3 HOST_FAULT. -/
  cause : Nat := 0
  head : Nat := 0
  tail : Nat := 0
  seq : Nat := 0
  dbDrop : Nat := 0
  /-- Entries read and not taken, the first at `head`. -/
  batch : List Bytes := []
  desc : Option Desc := none
  /-- COMPLETE ring: entries reserved for descriptors in progress (R209). -/
  reserved : Nat := 0
  /-- Records written since the vector was last raised (R230). -/
  since : Nat := 0
  deriving DecidableEq, Repr

/-- A bulk channel (R226, R446). -/
structure Chan where
  ptr : Nat := 0
  limit : Nat := 0
  mode : Nat := 0
  /-- 0 DISABLED, 1 ACTIVE, 2 STOPPED. -/
  st : Nat := 0
  status : Nat := 0
  detail : Nat := 0
  drop : Nat := 0
  deriving DecidableEq, Repr

/-- A sluice (R233). -/
structure Sluice where
  value : Nat := 0
  valid : Bool := false
  sat : Bool := false
  ctx : Nat := 0
  deriving DecidableEq, Repr

/-- A context (R243 to R250, R258). -/
structure Ctx where
  enable : Bool := false
  tenant : Nat := 0
  slice : Nat := 0x2710
  /-- 0 DISABLED, 1 SAVED, 2 LOADING, 3 RESIDENT, 4 SAVING, 5 FAULTED. -/
  res : Nat := 0
  slot : Nat := 0
  ok : Nat := 0
  err : Nat := 0
  gen : Nat := 0
  /-- The save record held in host memory, as the device wrote it (R247). -/
  record : Option Bytes := none
  /-- Remaining budget, nanoseconds (R251). -/
  budget : Int := 0
  /-- Activity when last settled, and the hub counter instant it was entered (R245, R248). -/
  act : Nat := 0
  since : Nat := 0
  /-- Place in the order in which contexts became pending; 0 when not pending. -/
  pend : Nat := 0
  /-- The ring of its last job (R251). -/
  lastRing : Option Nat := none
  deriving DecidableEq, Repr

/-- A table, smoothing or page-table bank (R122, R129, R450). Page-table entries live in the home stack. -/
structure Bank where
  /-- 0 no such bank, 1 EMPTY, 2 LOADING, 3 READY, 4 ACTIVE, 5 DRAINING. -/
  st : Nat := 0
  tag : Nat := 0
  flavour : Nat := 0
  locked : Bool := false
  /-- Function tables: user slots 11 to 15, 3,104 bytes each. -/
  user : Tab Bytes := []
  /-- Smoothing entries that differ from `dflt`. -/
  vals : Tab Nat := []
  dflt : Nat := 0
  deriving DecidableEq, Repr

/-- An MSI-X vector (R231). -/
structure Vec where
  masked : Bool := true
  pend : Bool := false
  addr : Nat := 0
  data : Nat := 0
  deriving DecidableEq, Repr

/-- What a function's configuration space holds that acts here, at PCI Express's own reset values (R191; PRESUMED, entry 60). -/
structure PciFn where
  /-- The Function Mask of MSI-X: every vector of the function is as if masked. -/
  fnMask : Bool := false
  /-- D3hot, not D0. -/
  d3hot : Bool := false
  /-- Bytes. -/
  maxPayload : Nat := 128
  maxRead : Nat := 512
  deriving DecidableEq, Repr

/-- Class code of every function: processing accelerator (R191). -/
def classCode : Nat := 0x120000

/-- The hub's registers and tables. -/
structure Hub where
  chip : Nat := 0
  eventRing : Nat := 0
  unsup : Bool := false
  ignored : Bool := false
  errFn : Nat := 0
  errWrite : Bool := false
  errOff : Nat := 0
  evidBase : Nat := 0
  evidEnable : Bool := false
  evidLog2 : Nat := 0
  evidHead : Nat := 0
  evidSeq : Nat := 0
  errCnt : List Nat := [0, 0, 0, 0, 0, 0, 0, 0]
  numVfs : Nat := 0
  /-- MSI-X vectors by function × 2,048 + vector. -/
  vecs : Tab Vec := []
  /-- Configuration space, by function. -/
  pci : Tab PciFn := []
  /-- RING_IF_SEL and its lock, per function. -/
  ifSel : Tab (Nat × Bool) := []
  dbDropFn : Tab Nat := []
  /-- Events lost since the last record, by polder, 16 for the PF (R222, R223). -/
  lost : Tab Nat := []
  reads : List HRead := []
  /-- Reads of host memory issued so far. -/
  readTag : Nat := 0
  pendCtr : Nat := 0
  deriving DecidableEq, Repr

end Sys2Proof.Machine
end

