-- ==== Sys2Proof/Machine/Num.lean ====
section
/-! DEFINITION. The number formats and the arithmetic contract (R30 to R54): format codes, element encodings, exact values, the one
rounding of the device, output conversion with its flags, quantisation, and FP32 arithmetic. -/

namespace Sys2Proof.Machine

/-- Flag invalid (R51, bit 0). -/
def fInvalid : Nat := 1
/-- Flag overflow (R51, bit 1). -/
def fOverflow : Nat := 2
/-- Flag underflow (R51, bit 2). -/
def fUnderflow : Nat := 4
/-- Flag inexact (R51, bit 3). -/
def fInexact : Nat := 8
/-- Flag flush (R51, bit 4). -/
def fFlush : Nat := 16

/-- Flags when a condition holds. -/
def flagIf (b : Bool) (f : Nat) : Nat := if b then f else 0

/-- How a float format encodes infinities and NaNs (R31). -/
inductive FSpec where
  | ieee
  | e4m3
  | plain
  deriving DecidableEq, Repr

/-- A float element encoding (R31): exponent bits, fraction bits, bias. -/
structure FFmt where
  eb : Nat
  fb : Nat
  bias : Nat
  spec : FSpec
  deriving DecidableEq, Repr

def fmtFP32 : FFmt := ⟨8, 23, 127, .ieee⟩
def fmtBF16 : FFmt := ⟨8, 7, 127, .ieee⟩
def fmtFP16 : FFmt := ⟨5, 10, 15, .ieee⟩
def fmtE4M3 : FFmt := ⟨4, 3, 7, .e4m3⟩
def fmtE5M2 : FFmt := ⟨5, 2, 15, .ieee⟩
def fmtE3M2 : FFmt := ⟨3, 2, 3, .plain⟩
def fmtE2M3 : FFmt := ⟨2, 3, 1, .plain⟩
def fmtE2M1 : FFmt := ⟨2, 1, 1, .plain⟩

/-- The exponent of the smallest nonzero magnitude (R31). -/
def FFmt.lsb (f : FFmt) : Int := 1 - (f.bias : Int) - f.fb

/-- The largest finite code, sign clear (R31). -/
def FFmt.maxCode (f : FFmt) : Nat :=
  match f.spec with
  | .ieee => (2 ^ f.eb - 1) * 2 ^ f.fb - 1
  | .e4m3 => 2 ^ (f.eb + f.fb) - 2
  | .plain => 2 ^ (f.eb + f.fb) - 1

/-- The canonical NaN of a format, sign 0 (R31, R32). -/
def FFmt.nan (f : FFmt) : Nat :=
  match f.spec with
  | .ieee => (2 ^ f.eb - 1) * 2 ^ f.fb + 2 ^ (f.fb - 1)
  | .e4m3 => 2 ^ (f.eb + f.fb) - 1
  | .plain => 0

/-- Infinity of a format with infinities. -/
def FFmt.inf (f : FFmt) : Nat := (2 ^ f.eb - 1) * 2 ^ f.fb

/-- The sign bit's weight. -/
def FFmt.signW (f : FFmt) : Nat := 2 ^ (f.eb + f.fb)

/-- A value as an operand holds it: a NaN, an infinity, or (−1)^s × m × 2^e exactly (m = 0 is a signed zero). -/
inductive FV where
  | nan
  | inf (s : Bool)
  | num (s : Bool) (m : Nat) (e : Int)
  deriving DecidableEq, Repr

/-- The value of a float code (R31, R32). -/
def decodeF (f : FFmt) (code : Nat) : FV :=
  let fr := code % 2 ^ f.fb
  let ex := (code / 2 ^ f.fb) % 2 ^ f.eb
  let s := code.testBit (f.eb + f.fb)
  let fin := if ex = 0 then FV.num s fr f.lsb else FV.num s (2 ^ f.fb + fr) ((ex : Int) - 1 + f.lsb)
  match f.spec with
  | .ieee => if ex = 2 ^ f.eb - 1 then (if fr = 0 then .inf s else .nan) else fin
  | .e4m3 => if ex = 2 ^ f.eb - 1 ∧ fr = 2 ^ f.fb - 1 then .nan else fin
  | .plain => fin

/-- A code is subnormal: exponent field 0 and a nonzero fraction. -/
def isSubnormal (f : FFmt) (code : Nat) : Bool :=
  (code / 2 ^ f.fb) % 2 ^ f.eb == 0 && code % 2 ^ f.fb != 0

/-- Reading a float operand, with the FTZ rule of R49: a subnormal reads as zero of its sign and sets flush; the flush changes a value, so it sets
inexact as well (R51). -/
def readF (f : FFmt) (ftz : Bool) (code : Nat) : FV × Nat :=
  if ftz && isSubnormal f code then (.num (code.testBit (f.eb + f.fb)) 0 0, fFlush ||| fInexact)
  else (decodeF f code, 0)

/-- n / d rounded to nearest, ties to even (R50). -/
def rneQ (n d : Nat) : Nat :=
  let q := n / d
  let r := n % d
  if 2 * r > d ∨ (2 * r = d ∧ q % 2 = 1) then q + 1 else q

/-- 2^k for k ≥ 0, else 1. -/
def pow2 (k : Int) : Nat := 2 ^ k.toNat

/-- n / d × 2^e in units of 2^q, rounded to nearest even, and whether that was exact. -/
def roundUnits (n d : Nat) (e q : Int) : Nat × Bool :=
  let a := n * pow2 (e - q)
  let b := d * pow2 (q - e)
  (rneQ a b, a % b == 0)

/-- floor(log2 (n / d)) for n, d nonzero. -/
def floorLog2Q (n d : Nat) : Int :=
  let l : Int := (n.log2 : Int) - (d.log2 : Int)
  if n * pow2 (-l) ≥ d * pow2 l then l else l - 1

/-- The rounding of R48 to a float format of the exact value (−1)^s × n/d × 2^e: code and flags. Tininess is judged before rounding
(R51); `nanOv` is the NaN-on-overflow mode of E4M3. -/
def roundFloat (f : FFmt) (ftz nanOv : Bool) (s : Bool) (n d : Nat) (e : Int) : Nat × Nat :=
  let sg := if s then f.signW else 0
  if n = 0 then (sg, 0)
  else
    let l := floorLog2Q n d + e
    let emin : Int := 1 - (f.bias : Int)
    let tiny := decide (l < emin)
    if ftz && tiny then (sg, fFlush ||| fInexact)
    else
      let q := max (l - f.fb) f.lsb
      let (k, exact) := roundUnits n d e q
      let code := (q - f.lsb).toNat * 2 ^ f.fb + k
      if code > f.maxCode then
        match f.spec with
        | .ieee => (sg + f.inf, fOverflow ||| fInexact)
        | _ => (if nanOv then f.nan else sg + f.maxCode, fOverflow ||| fInexact)
      else (sg + code, if exact then 0 else fInexact ||| flagIf tiny fUnderflow)

/-- An exact result waiting for its one rounding. -/
inductive XR where
  | nan
  | inf (s : Bool)
  | num (s : Bool) (n d : Nat) (e : Int)
  deriving DecidableEq, Repr

/-- An operand's value as an exact result. -/
def FV.toXR : FV → XR
  | .nan => .nan
  | .inf s => .inf s
  | .num s m e => .num s m 1 e

/-- Conversion to a float format by R48. -/
def toFloat (f : FFmt) (ftz nanOv : Bool) : XR → Nat × Nat
  | .nan => (f.nan, 0)
  | .inf s =>
    let sg := if s then f.signW else 0
    match f.spec with
    | .ieee => (sg + f.inf, 0)
    | _ => (if nanOv then f.nan else sg + f.maxCode, fInexact)
  | .num s n d e => roundFloat f ftz nanOv s n d e

/-- Conversion to a two's complement integer of `w` bits by R48 (INT32) and R88 (INT8). -/
def toInt (w : Nat) : XR → Nat × Nat
  | .nan => (2 ^ (w - 1), fInvalid)
  | .inf s => (if s then 2 ^ (w - 1) else 2 ^ (w - 1) - 1, fInvalid)
  | .num s n d e =>
    let (k, exact) := roundUnits n d e 0
    if s then
      if k > 2 ^ (w - 1) then (2 ^ (w - 1), fOverflow ||| fInexact)
      else (wrap w (-(k : Int)), flagIf (!exact) fInexact)
    else
      if k > 2 ^ (w - 1) - 1 then (2 ^ (w - 1) - 1, fOverflow ||| fInexact)
      else (k, flagIf (!exact) fInexact)

/-- How the elements of a format are encoded (R31, R33). -/
inductive Elem where
  | float (f : FFmt)
  /-- Two's complement of `w` bits, times 2^lsb. -/
  | sint (w : Nat) (lsb : Int)
  /-- Unsigned of `w` bits. -/
  | uint (w : Nat)
  | tern
  deriving DecidableEq, Repr

/-- A format of R30. -/
structure Fmt where
  code : Nat
  /-- Element width in bits. -/
  w : Nat
  elem : Elem
  /-- Block size with an E8M0 scale; 0 for none. -/
  blk : Nat
  /-- A GS format, whose group size the step gives (R39). -/
  gs : Bool
  deriving DecidableEq, Repr

/-- The format codes of R30; nothing for a reserved code. -/
def fmtOf (c : Nat) : Option Fmt :=
  match c with
  | 0x00 => some ⟨c, 32, .float fmtFP32, 0, false⟩
  | 0x01 => some ⟨c, 16, .float fmtBF16, 0, false⟩
  | 0x02 => some ⟨c, 16, .float fmtFP16, 0, false⟩
  | 0x03 => some ⟨c, 8, .float fmtE4M3, 0, false⟩
  | 0x04 => some ⟨c, 8, .float fmtE5M2, 0, false⟩
  | 0x08 => some ⟨c, 8, .float fmtE4M3, 32, false⟩
  | 0x09 => some ⟨c, 8, .float fmtE5M2, 32, false⟩
  | 0x0A => some ⟨c, 6, .float fmtE3M2, 32, false⟩
  | 0x0B => some ⟨c, 6, .float fmtE2M3, 32, false⟩
  | 0x0C => some ⟨c, 4, .float fmtE2M1, 32, false⟩
  | 0x0D => some ⟨c, 8, .sint 8 (-6), 32, false⟩
  | 0x10 => some ⟨c, 8, .float fmtE4M3, 16, false⟩
  | 0x11 => some ⟨c, 4, .float fmtE2M1, 16, false⟩
  | 0x12 => some ⟨c, 4, .sint 4 (-2), 16, false⟩
  | 0x18 => some ⟨c, 4, .sint 4 0, 0, true⟩
  | 0x1A => some ⟨c, 2, .sint 2 0, 0, true⟩
  | 0x1B => some ⟨c, 2, .tern, 0, true⟩
  | 0x20 => some ⟨c, 8, .sint 8 0, 0, false⟩
  | 0x21 => some ⟨c, 32, .sint 32 0, 0, false⟩
  | 0x22 => some ⟨c, 8, .uint 8, 0, false⟩
  | 0x23 => some ⟨c, 1, .uint 1, 0, false⟩
  | _ => none

/-- The format of a code, FP32 standing in for a reserved code that validation has already refused. -/
def fmtD (c : Nat) : Fmt := (fmtOf c).getD ⟨0, 32, .float fmtFP32, 0, false⟩

/-- A format with a scale array. -/
def Fmt.scaled (f : Fmt) : Bool := f.blk != 0 || f.gs

/-- A scalar format: neither block nor GS. -/
def Fmt.scalar (f : Fmt) : Bool := !f.scaled

/-- The size of a block, or the given group size for a GS format, or 0. -/
def Fmt.group (f : Fmt) (gsize : Nat) : Nat := if f.gs then gsize else f.blk

/-- The LSB exponent of an element (R31, R33). -/
def Elem.lsb : Elem → Int
  | .float f => f.lsb
  | .sint _ l => l
  | .uint _ => 0
  | .tern => 0

/-- The value of an element code, with the flags of reading it: FTZ for scalar floats (R49), and the reserved GS-TERN code (R34). -/
def readElem (el : Elem) (scalar ftz : Bool) (code : Nat) : FV × Nat :=
  match el with
  | .float f => readF f (ftz && scalar) code
  | .sint w l =>
    let v := sext w code
    (.num (decide (v < 0)) v.natAbs l, 0)
  | .uint w => (.num false (code % 2 ^ w) 0, 0)
  | .tern =>
    match code % 4 with
    | 1 => (.num false 1 0, 0)
    | 3 => (.num true 1 0, 0)
    | 2 => (.num false 0 0, fInvalid)
    | _ => (.num false 0 0, 0)

/-- The E8M0 exponent of a scale byte; nothing for NaN (R36). -/
def e8m0 (c : Nat) : Option Int := if c = 255 then none else some ((c : Int) - 127)

/-- Exact product of two operands' values: NaN for infinity times zero. -/
def FV.mul : FV → FV → XR
  | .nan, _ => .nan
  | _, .nan => .nan
  | .inf s, .inf t => .inf (s != t)
  | .inf s, .num t m _ => if m = 0 then .nan else .inf (s != t)
  | .num t m _, .inf s => if m = 0 then .nan else .inf (s != t)
  | .num s m e, .num t k f => .num (s != t) (m * k) 1 (e + f)

/-- The value of an element under its scale byte (R36, R39): `scaleOf` says what the byte means for the format. -/
def applyScale (f : Fmt) (x : FV) (scale : Nat) : FV :=
  if f.blk ≠ 0 then
    match e8m0 scale with
    | none => .nan
    | some k => match x with
      | .num s m e => .num s m (e + k)
      | y => y
  else if f.gs then
    match decodeF fmtE4M3 scale, x with
    | .nan, _ => .nan
    | .num t k g, .num s m e => .num (s != t) (m * k) (e + g)
    | _, y => y
  else x

/-- Exact comparison of two values that are not NaN; zeros are equal. -/
def FV.cmp (a b : FV) : Ordering :=
  let rank : FV → Int × Int × Int := fun
    | .nan => (0, 0, 0)
    | .inf s => (if s then -1 else 1, 0, 0)
    | .num s m e => (0, if s then -(m : Int) else m, e)
  let (ca, ma, ea) := rank a
  let (cb, mb, eb) := rank b
  if ca < cb then .lt else if cb < ca then .gt
  else
    let e := min ea eb
    let x := ma * (pow2 (ea - e) : Int)
    let y := mb * (pow2 (eb - e) : Int)
    if x < y then .lt else if y < x then .gt else .eq

def FV.isNan : FV → Bool
  | .nan => true
  | _ => false

def FV.isInf : FV → Bool
  | .inf _ => true
  | _ => false

def FV.sign : FV → Bool
  | .nan => false
  | .inf s => s
  | .num s _ _ => s

def FV.isZero : FV → Bool
  | .num _ m _ => m == 0
  | _ => false

def FV.neg : FV → FV
  | .nan => .nan
  | .inf s => .inf (!s)
  | .num s m e => .num (!s) m e

def FV.abs : FV → FV
  | .nan => .nan
  | .inf _ => .inf false
  | .num _ m e => .num false m e

/-- IEEE 754-2019 minimum of two values: NaN wins, −0 orders below +0 (R53). -/
def FV.min (a b : FV) : FV :=
  if a.isNan || b.isNan then .nan
  else match FV.cmp a b with
    | .lt => a
    | .gt => b
    | .eq => if a.sign then a else b

/-- IEEE 754-2019 maximum of two values (R53). -/
def FV.max (a b : FV) : FV :=
  if a.isNan || b.isNan then .nan
  else match FV.cmp a b with
    | .lt => b
    | .gt => a
    | .eq => if a.sign then b else a

/-- An integer times 2^e as an exact result; zero is +0 unless `negZero`. -/
def intXR (v : Int) (e : Int) (negZero : Bool := false) : XR :=
  .num (if v = 0 then negZero else decide (v < 0)) v.natAbs 1 e

/-- Exact sum of two exact results (denominators 1), with the sign of an exact zero as RNE gives it; `.nan` also for opposite infinities. -/
def XR.add : XR → XR → XR
  | .nan, _ => .nan
  | _, .nan => .nan
  | .inf s, .inf t => if s = t then .inf s else .nan
  | .inf s, .num .. => .inf s
  | .num .., .inf s => .inf s
  | .num s n d e, .num t m c f =>
    let g := Min.min e f
    let a : Int := (n * c * pow2 (e - g) : Nat)
    let b : Int := (m * d * pow2 (f - g) : Nat)
    let v := (if s then -a else a) + (if t then -b else b)
    .num (if v = 0 then (s && t) else decide (v < 0)) v.natAbs (d * c) g

/-- Whether an exact result is a NaN. -/
def XR.isNan : XR → Bool
  | .nan => true
  | _ => false

/-- Rounding an exact result to FP32 (R53), with invalid set when the result is a NaN that no operand held. -/
def fin32 (ftz : Bool) (anyNan : Bool) (x : XR) : Nat × Nat :=
  let (c, fl) := toFloat fmtFP32 ftz false x
  (c, fl ||| flagIf (x.isNan && !anyNan) fInvalid)

/-- An FP32 operand. -/
def rd32 (ftz : Bool) (c : Nat) : FV × Nat := readF fmtFP32 ftz c

/-- FP32 addition (R53). -/
def fAdd (ftz : Bool) (a b : Nat) : Nat × Nat :=
  let (x, f1) := rd32 ftz a
  let (y, f2) := rd32 ftz b
  let (c, f3) := fin32 ftz (x.isNan || y.isNan) (x.toXR.add y.toXR)
  (c, f1 ||| f2 ||| f3)

/-- FP32 subtraction (R53). -/
def fSub (ftz : Bool) (a b : Nat) : Nat × Nat :=
  let (x, f1) := rd32 ftz a
  let (y, f2) := rd32 ftz b
  let (c, f3) := fin32 ftz (x.isNan || y.isNan) (x.toXR.add y.neg.toXR)
  (c, f1 ||| f2 ||| f3)

/-- FP32 multiplication (R53). -/
def fMul (ftz : Bool) (a b : Nat) : Nat × Nat :=
  let (x, f1) := rd32 ftz a
  let (y, f2) := rd32 ftz b
  let (c, f3) := fin32 ftz (x.isNan || y.isNan) (x.mul y)
  (c, f1 ||| f2 ||| f3)

/-- FP32 fused multiply-add: formed exactly, one rounding (R53). -/
def fFma (ftz : Bool) (a b c : Nat) : Nat × Nat :=
  let (x, f1) := rd32 ftz a
  let (y, f2) := rd32 ftz b
  let (z, f3) := rd32 ftz c
  let (r, f4) := fin32 ftz (x.isNan || y.isNan || z.isNan) ((x.mul y).add z.toXR)
  (r, f1 ||| f2 ||| f3 ||| f4)

/-- Exact quotient of two values: NaN for 0/0 and ∞/∞; x/0 is ∞ (no divide-by-zero flag exists, R51). -/
def FV.div : FV → FV → XR
  | .nan, _ => .nan
  | _, .nan => .nan
  | .inf _, .inf _ => .nan
  | .inf s, .num t _ _ => .inf (s != t)
  | .num s _ _, .inf t => .num (s != t) 0 1 0
  | .num s m e, .num t k f =>
    if k = 0 then (if m = 0 then .nan else .inf (s != t)) else .num (s != t) m k (e - f)

/-- FP32 division (IEEE 754-2019 binary32, RNE). -/
def fDiv (ftz : Bool) (a b : Nat) : Nat × Nat :=
  let (x, f1) := rd32 ftz a
  let (y, f2) := rd32 ftz b
  let (c, f3) := fin32 ftz (x.isNan || y.isNan) (x.div y)
  (c, f1 ||| f2 ||| f3)

/-- A value re-encoded in FP32 without rounding (a minimum, maximum or sign change of FP32 operands). -/
def enc32 (x : FV) : Nat := (toFloat fmtFP32 false false x.toXR).1

/-- FP32 minimum (R53). -/
def fMin (ftz : Bool) (a b : Nat) : Nat × Nat :=
  let (x, f1) := rd32 ftz a
  let (y, f2) := rd32 ftz b
  (enc32 (FV.min x y), f1 ||| f2)

/-- FP32 maximum (R53). -/
def fMax (ftz : Bool) (a b : Nat) : Nat × Nat :=
  let (x, f1) := rd32 ftz a
  let (y, f2) := rd32 ftz b
  (enc32 (FV.max x y), f1 ||| f2)

/-- Conversion of an exact result to an output format code: R48 for floats and INT32, R88 for INT8; `nanOv` for E4M3. -/
def convertOut (fmt : Nat) (ftz nanOv : Bool) (x : XR) : Nat × Nat :=
  match fmt with
  | 0x00 => toFloat fmtFP32 ftz nanOv x
  | 0x01 => toFloat fmtBF16 ftz nanOv x
  | 0x02 => toFloat fmtFP16 ftz nanOv x
  | 0x03 => toFloat fmtE4M3 ftz nanOv x
  | 0x04 => toFloat fmtE5M2 ftz nanOv x
  | 0x20 => toInt 8 x
  | 0x21 => toInt 32 x
  | _ => (0, 0)

/-- A WAF value rounded from an exact one: 32-bit significand, RNE, the sign of a zero lost (R42, R43). -/
def rneWaf (s : Bool) (n d : Nat) (e : Int) : FV × Bool :=
  if n = 0 then (.num false 0 0, true)
  else
    let q := floorLog2Q n d + e - 31
    let (k, exact) := roundUnits n d e q
    (.num s k q, exact)

/-- acc + v in WAF: formed exactly, one rounding; the flag of an inexact rounding. -/
def wafAdd (acc : FV) (v : Int) (e : Int) : FV × Nat :=
  match acc.toXR.add (intXR v e) with
  | .num s n d q =>
    let (r, exact) := rneWaf s n d q
    (r, flagIf (!exact) fInexact)
  | .inf s => (.inf s, 0)
  | .nan => (.nan, 0)

/-- Largest code the quantiser writes for an element (R38): the clamp is to this magnitude. -/
def Elem.maxq : Elem → Nat
  | .float f => f.maxCode
  | .sint w _ => 2 ^ (w - 1) - 1
  | _ => 0

/-- The element format's largest exponent (R38). -/
def Elem.emax : Elem → Int
  | .float f => if f.spec = .e4m3 then 8 else if f.spec = .ieee then (f.bias : Int) else (2 ^ f.eb - 1 : Int) - f.bias
  | _ => 0

/-- One element of R38: t rounded on the element grid and clamped, with inexact when a value changes. -/
def quantElem (el : Elem) (s : Bool) (m : Nat) (e : Int) : Nat × Nat :=
  match el with
  | .float f =>
    let sg := if s then f.signW else 0
    if m = 0 then (sg, 0)
    else
      let q := Max.max (floorLog2Q m 1 + e - f.fb) f.lsb
      let (k, exact) := roundUnits m 1 e q
      let code := (q - f.lsb).toNat * 2 ^ f.fb + k
      if code > f.maxCode then (sg + f.maxCode, fInexact) else (sg + code, flagIf (!exact) fInexact)
  | .sint w l =>
    let (k, exact) := roundUnits m 1 e l
    let mx := 2 ^ (w - 1) - 1
    let k' := Nat.min k mx
    (wrap w (if s then -(k' : Int) else k'), flagIf (!exact || k > mx) fInexact)
  | _ => (0, 0)

/-- Exact comparison of magnitudes. -/
def magLt (m : Nat) (e : Int) (k : Nat) (f : Int) : Bool :=
  let g := Min.min e f
  decide (m * pow2 (e - g) < k * pow2 (f - g))

/-- The largest magnitude of a list of finite values. -/
def amaxOf (vs : List FV) : Nat × Int :=
  vs.foldl (fun (a : Nat × Int) v => match v with
    | .num _ m e => if magLt a.1 a.2 m e then (m, e) else a
    | _ => a) (0, 0)

/-- Quantisation of one block by R38: scale byte, element codes, flags. -/
def quantBlock (el : Elem) (vs : List FV) : Nat × List Nat × Nat :=
  if vs.any fun v => v.isNan || v.isInf then
    (255, vs.map fun _ => 0, flagIf (vs.any FV.isInf) fInvalid)
  else
    let (m, e) := amaxOf vs
    let x0 : Int := if m = 0 then 0 else floorLog2Q m 1 + e - el.emax
    let x : Int := Max.max (-127) (Min.min 127 x0)
    let qs := vs.map fun v => match v with
      | .num s k f => quantElem el s k (f - x)
      | _ => (0, 0)
    ((x + 127).toNat, qs.map Prod.fst, qs.foldl (fun a q => a ||| q.2) 0)

/-- Widening a value to FP32 (R53): exact, but for a block value beyond the FP32 range, which R48 handles. -/
def widen (ftz : Bool) (x : FV) : Nat × Nat := toFloat fmtFP32 ftz false x.toXR

end Sys2Proof.Machine
end

