-- ==== Sys2Proof/Machine/JobTypes.lean ====
section
/-! DEFINITION. The state types of jobs, compute dies, check episodes and evidence. Every structure's defaults are its reset values. -/

namespace Sys2Proof.Machine

/-- A registered image (R159): its device-local address and length; the range is sealed while it is listed. -/
structure Img where
  addr : Nat
  len : Nat
  deriving DecidableEq, Repr

/-- A faulting step (R186). -/
structure StepFault where
  die : Nat
  queue : Nat
  pos : Nat
  status : Nat
  detail : Nat
  info : Nat := 0
  deriving DecidableEq, Repr

/-- One accumulator entry (R42, R46, R69): the WAF value; the special values met so far (bit 0 a NaN, 1 an invalid combination, 2 +∞, 3 −∞);
and the flags of its arithmetic, which a deciding special rule drops. -/
structure AccEl where
  v : FV := .num false 0 0
  sp : Nat := 0
  fl : Nat := 0
  deriving DecidableEq, Repr

/-- An accumulator bank (R60): two halves, which half holds the latest values, and the tile's rows and columns after any count (R71). -/
structure AccBank where
  open_ : Bool := false
  mt : Nat := 0
  nt : Nat := 0
  cur : Bool := false
  h0 : List AccEl := []
  h1 : List AccEl := []
  deriving DecidableEq, Repr

/-- An operand's rows as an array takes them: the element codes of one row or column, and the scale byte over each 16 of them (R39). -/
structure OpRow where
  codes : List Nat
  scales : List Nat
  deriving DecidableEq, Repr

/-- A physical array (R55 to R65): its banks and its two stationary sets, `set` naming the one used last. -/
structure ArrayS where
  banks : Tab AccBank := []
  set : Bool := false
  s0 : List OpRow := []
  s1 : List OpRow := []
  deriving DecidableEq, Repr

/-- A check record of R78: the checker (0 column, 1 row, 2 corner, 3 special value), the row or column index, and the bit pattern. -/
structure CheckRec where
  checker : Nat
  idx : Nat
  pat : Nat
  deriving DecidableEq, Repr

/-- A pass in flight on an array (R61): it has read its operands and written its results, and its tokens are not released. -/
structure Flight where
  pos : Nat
  bank : Nat
  mt : Nat
  nt : Nat
  /-- A check episode holds it (R78). -/
  held : Bool := false
  /-- What its computation formed wrongly, by K-block: for a held pass, what the accepted computations did, and no check saw (R78). -/
  errs : List (Nat × BlkErr) := []
  /-- The array as the pass found it: its kept bank half, and its stationary sets (R60, R65). -/
  before : ArrayS := {}
  /-- The flags of its queue as the pass found them (R79). -/
  flags : Nat := 0
  deriving DecidableEq, Repr

/-- An issue queue of a logical die (R170 to R172). A vector, transform or DMA queue stands at the position of the step in progress while it is busy.
An array queue (0 to 7) stands at the position of the next pass, and its passes in flight are listed from the oldest on. -/
structure Queue where
  pos : Nat := 0
  /-- The step at `pos` has been issued and has not released. -/
  busy : Bool := false
  /-- The passes in flight. -/
  flights : List Flight := []
  /-- Positions below this one have taken their wait tokens: an abandoned pass restarts without taking them again (R78). -/
  taken : Nat := 0
  /-- Remote operations of the step that are not acknowledged (R165, R171). -/
  ops : List Nat := []
  /-- A COLL step has handed over its contribution and waits for the result (R330). -/
  coll : Bool := false
  deriving DecidableEq, Repr

/-- What a JOB is doing (R185): validating its image (step 2′), waiting for a LOADING bank (step 4), for its warm-up (step 5), or running. -/
inductive JobStage where
  | validating
  | bankWait
  | warmWait
  | running
  deriving DecidableEq, Repr

/-- The job of a polder (R185 to R187). -/
structure Job where
  /-- The SUBMIT ring of its descriptor; none for a job of service firmware. -/
  ring : Option Nat
  ctx : Nat := 0
  img : Nat := 0
  len : Nat := 0
  release : Bool := false
  args : List Nat := []
  stage : JobStage := .running
  compat : Bool := false
  summary : Bool := false
  /-- FTZ bits: arrays, vector engines, transform units, collective slices (R161). -/
  ftz : Nat := 0
  /-- Sites of the logical dies, and the number of logical stacks (R160). -/
  dies : List Nat := []
  nstk : Nat := 0
  seg : Nat := 0
  entered : Nat := 0
  /-- Queues by 16 × logical die + queue. -/
  qs : Tab Queue := []
  faults : List StepFault := []
  flags : Nat := 0
  codeRetry : Nat := 0
  checker : Nat := 0
  spCorr : Nat := 0
  dramCorr : Nat := 0
  /-- Hub counter at R185 step 1. -/
  t0 : Nat := 0
  /-- Hub counter at R185 step 6, and the watchdog limit that applies (R253, R448). -/
  t6 : Nat := 0
  limit : Nat := 10000
  /-- Number of the job since the polder's formation (R339). -/
  number : Nat := 0
  /-- Ranges of its RO argument slots, sealed until it ends (R163). -/
  ro : List (Nat × Nat) := []
  /-- Its image contains an activation event: READY banks are locked for it (R126). -/
  locks : Bool := false
  /-- Collectives that its COLL steps name (R335). -/
  colls : List Nat := []
  /-- POL_FAB_KEY as it stood when the job started (R337). -/
  key : Option Nat := none
  deriving DecidableEq, Repr

/-- The warm-up of the next job (R188 to R190). -/
structure Warm where
  ring : Nat
  img : Nat
  args : List Nat
  /-- Ranges of J2's RO slots, sealed from the warm-up on (R163). -/
  ro : List (Nat × Nat) := []
  /-- Device-local ranges written. -/
  written : List (Nat × Nat) := []
  /-- Status and detail held over for J2; 0 for none. -/
  status : Nat := 0
  detail : Nat := 0
  done : Bool := false
  /-- Corrections that its readings met, for J2's check summary. -/
  fx : MemFx := {}
  deriving DecidableEq, Repr

/-- A summary word (R102). -/
structure Summary where
  seq : Nat := 0
  valid : Bool := false
  value : Nat := 0
  fmt : Nat := 0
  deriving DecidableEq, Repr

/-- Where a check episode stands (R368, R372). -/
inductive EpStage where
  | repeatP
  | waitSub
  | compS
  | compS2
  deriving DecidableEq, Repr

/-- A check episode (R367). -/
structure Episode where
  polder : Nat
  ldie : Nat
  logical : Nat
  phys : Nat
  pos : Nat
  /-- The K-block within the pass. -/
  j : Nat
  /-- The check records of O, the original computation, and what it formed wrongly. -/
  recs : List CheckRec
  errs : List BlkErr := []
  /-- POL_EVID_POLICY CAPTURE when the episode opened (R380). -/
  capture : Bool
  stage : EpStage := .repeatP
  patP : Nat := 0
  sub : Nat := 0xF
  diffS : Nat := 0
  deriving DecidableEq, Repr

/-- An evidence record waiting for its targeted self-tests (R371, R378): its 256 bytes with TEST, TEST_FAIL, SUB_TEST and SUB_FAIL zero, and the
operand area if it is captured. -/
structure Evid where
  site : Nat
  phys : Nat
  sub : Nat
  seq : Nat
  head : Bytes
  area : Bytes
  test : Nat := 0
  fail : Bytes := []
  subTest : Nat := 0
  subFail : Bytes := []
  /-- The tests of the failing array, and of the substitute of an UNRESOLVED episode, that are still to end. -/
  waitPhys : Bool := true
  waitSub : Bool := false
  deriving DecidableEq, Repr

/-- A compute die (R16, R142 to R156, R170, R374). -/
structure Die where
  lmap : Nat := 0x76543210
  withdrawn : Bool := false
  /-- Cause of a withdrawal that waits for the job's end (R16, R370); 0 for none. -/
  withdraw : Nat := 0
  quar : Nat := 0
  chkq : Nat := 0
  test : Nat := 0
  /-- MEM_STACK_STATE STATE: 0 no stack, 1 DIRTY, 2 SCRUBBING, 3 CLEAN. -/
  stack : Nat := 0
  spEcc : Nat := 0
  stackEcc : Nat := 0
  arrays : Tab ArrayS := []
  tokens : Tab Nat := []
  counts : Tab Nat := []
  sums : Tab Summary := []
  /-- Engine flags by queue (R52). -/
  flags : Tab Nat := []
  spareOn : Bool := false
  episodes : List Episode := []
  deriving DecidableEq, Repr

end Sys2Proof.Machine
end

