-- ==== Sys2Proof/Machine/ArrayMath.lean ====
section
/-! DEFINITION. The arithmetic of the matrix arrays: K-blocks, BX16, the terms of every operation, special values, and the output (R40 to R49,
R66 to R70). -/

namespace Sys2Proof.Machine

/-- The array operations (R58), numbered as OP numbers them (R174). -/
inductive ArrOp where
  | matmul
  | distL2sq
  | distL1
  | maxplus
  | minplus
  | hamming
  | cmpcount
  deriving DecidableEq, Repr

/-- OP of a step (R174). -/
def ArrOp.code : ArrOp → Nat
  | .matmul => 1
  | .distL2sq => 2
  | .distL1 => 3
  | .maxplus => 4
  | .minplus => 5
  | .hamming => 6
  | .cmpcount => 7

/-- A 16-bit float element. -/
def Fmt.half (f : Fmt) : Bool := f.code == 1 || f.code == 2
/-- K-block size of an operand pair (R40, R67). -/
def kBlock (op : ArrOp) (fa fb : Fmt) : Nat :=
  if op = .hamming then 512 else if fa.half || fb.half || fa.blk = 16 || fb.blk = 16 then 16 else 32

/-- Elements that a cell takes each cycle (R57, R68). -/
def pkOf (op : ArrOp) (fa fb : Fmt) : Nat :=
  if op = .hamming then 32
  else
    let w := max fa.w fb.w
    if w = 16 then 1 else if w = 8 then 2
    else if w = 4 ∧ ((fa.blk ≠ 0 ∧ fb.gs ∧ fb.w = 2) ∨ (fb.blk ≠ 0 ∧ fa.gs ∧ fa.w = 2)) then 8 else 4

/-- A K-block of one operand row as the cells take it: its values; integer significands on the grid 2^lsb, zero for infinities and NaN (R76); the
group scale; whether an infinity or a NaN is there; flags of the conversion, and flags of reading. -/
structure Blk where
  vals : List FV
  sigs : List Int
  lsb : Int
  g : FV
  special : Bool
  fl : Nat
  keep : Nat
  deriving DecidableEq, Repr

/-- A signed significand on the grid 2^lsb, exact when lsb is not above the value's own grid. -/
def sigOn (lsb : Int) : FV → Int
  | .num s m e => let k : Int := (m * pow2 (e - lsb) : Nat); if s then -k else k
  | _ => 0

/-- E of R41: the largest unbiased exponent among the nonzero finite elements. -/
def bxExp (f : FFmt) (vs : List FV) : Int :=
  vs.foldl (fun E v => match v with
    | .num _ m e => if m = 0 then E else max E ((m.log2 : Int) + e)
    | _ => E) (1 - (f.bias : Int))

/-- BX16 (R41): E − 22, the significands, and inexact. -/
def bx16 (f : FFmt) (vs : List FV) : Int × List Int × Nat :=
  let lsb := bxExp f vs - 22
  let rs := vs.map fun v => match v with
    | .num s m e => let (k, ex) := roundUnits m 1 e lsb; ((if s then -(k : Int) else (k : Int)), ex)
    | _ => (0, true)
  (lsb, rs.map Prod.fst, flagIf (rs.any fun r => !r.2) fInexact)

/-- A K-block prepared from its codes and the scale byte that covers it (R36, R39, R41, R43, R49, R76). -/
def prepBlk (op : ArrOp) (f : Fmt) (ftz : Bool) (scale : Nat) (codes : List Nat) : Blk :=
  let rd := codes.map (readElem f.elem f.scalar ftz)
  let g : FV := if f.gs then decodeF fmtE4M3 scale else .num false 1 0
  let dead := (f.blk ≠ 0 && scale == 255) || g.isNan
  let vals := if dead then codes.map fun _ => FV.nan else rd.map Prod.fst
  let keep := rd.foldl (fun a x => a ||| x.2) 0
  let special := vals.any fun v => v.isNan || v.isInf
  match f.elem, f.half && (op == .matmul || op == .distL2sq || op == .distL1) with
  | .float ff, true =>
    let (lsb, sigs, fl) := bx16 ff vals
    { vals := vals, sigs := sigs, lsb := lsb, g := g, special := special, fl := fl, keep := keep }
  | _, _ =>
    { vals := vals, sigs := vals.map (sigOn f.elem.lsb), lsb := f.elem.lsb + (if f.blk ≠ 0 then (scale : Int) - 127 else 0), g := g,
      special := special, fl := 0, keep := keep }

/-- A list cut into pieces of `k`. -/
def chunksOf {α : Type} (k : Nat) : Nat → List α → List (List α)
  | 0, _ => []
  | n + 1, l => if l.isEmpty then [] else l.take k :: chunksOf k n (l.drop k)

/-- The K-blocks of an operand row: a K-block of 32 takes the scale of its first 16 elements, which no scale boundary cuts (R39, R40). -/
def prepRow (op : ArrOp) (f : Fmt) (ftz : Bool) (kb : Nat) (r : OpRow) : List Blk :=
  (chunksOf kb (ceilDiv r.codes.length kb) r.codes).zipIdx.map fun (c, i) => prepBlk op f ftz (lget 0 r.scales (i * kb / 16)) c

/-! ## Special values (R46, R69) -/


/-- The special rules that one pair of elements meets: bit 0 a NaN, 1 an invalid combination, 2 +∞, 3 −∞. `z` says that a group scale is zero
and `gs` that it is negative. -/
def specPair (op : ArrOp) (z gs : Bool) (x y : FV) : Nat :=
  match op with
  | .hamming => 0
  | .cmpcount => 0
  | .matmul =>
    if x.isNan || y.isNan then 1
    else if !x.isInf && !y.isInf then 0
    else if z || FV.isZero x || FV.isZero y then 2
    else if (x.sign != y.sign) != gs then 8 else 4
  | .distL2sq => if x.isNan || y.isNan then 1 else if x.isInf && y.isInf && x.sign == y.sign then 6 else if x.isInf || y.isInf then 4 else 0
  | .distL1 => if x.isNan || y.isNan then 1 else if x.isInf && y.isInf && x.sign == y.sign then 6 else if x.isInf || y.isInf then 4 else 0
  | .maxplus => if x.isNan || y.isNan then 1 else if x.isInf && y.isInf && x.sign != y.sign then 2 else 0
  | .minplus => if x.isNan || y.isNan then 1 else if x.isInf && y.isInf && x.sign != y.sign then 2 else 0

/-- The special rules that a K-block meets. -/
def specBlk (op : ArrOp) (a b : Blk) : Nat :=
  if !a.special && !b.special then 0
  else
    let z := FV.isZero a.g || FV.isZero b.g
    let gs := a.g.sign != b.g.sign
    (List.zipWith (specPair op z gs) a.vals b.vals).foldl (· ||| ·) 0

/-! ## Terms (R43, R66, R68) -/

/-- The sum of the products of two rows of integers. -/
def dotInt (a b : List Int) : Int := (List.zipWith (· * ·) a b).sum

/-- Integer partial of a `MATMUL` K-block (R43). -/
def dotSigs (a b : Blk) : Int := dotInt a.sigs b.sigs

/-- A significand shifted right by `sh` with RNE (R68), and whether it was exact. -/
def shiftRne (s : Int) (sh : Nat) : Int × Bool :=
  let m := s.natAbs
  let k := rneQ m (2 ^ sh)
  ((if s < 0 then -(k : Int) else (k : Int)), m % 2 ^ sh == 0)

/-- Differences of a `DIST` K-block on their common grid: 25-bit after alignment for 16-bit operands, exact for 8-bit ones (R68). -/
def distDiffs (bx : Bool) (a b : Blk) : List Int × Int × Nat :=
  if bx then
    let E := max a.lsb b.lsb
    let xs := a.sigs.map fun s => shiftRne s (E - a.lsb).toNat
    let ys := b.sigs.map fun s => shiftRne s (E - b.lsb).toNat
    (List.zipWith (fun x y => x.1 - y.1) xs ys, E, flagIf ((xs.any fun x => !x.2) || ys.any fun y => !y.2) fInexact)
  else
    let E := min a.lsb b.lsb
    (List.zipWith (fun x y => sigOn E x - sigOn E y) a.vals b.vals, E, 0)

/-- The exact extreme of a_k + b_k over a K-block; invalid combinations and NaN take no part (R69 settles them). -/
def extreme (mx : Bool) (a b : Blk) : Option FV :=
  (List.zipWith (fun x y => (x.toXR.add y.toXR)) a.vals b.vals).foldl (fun best t =>
    let v : Option FV := match t with
      | .nan => none
      | .inf s => some (.inf s)
      | .num s n _ e => some (.num s n e)
    match best, v with
    | none, v => v
    | b, none => b
    | some b, some v => some (if mx then FV.max b v else FV.min b v)) none

/-- A value rounded to WAF. -/
def waf (v : FV) : FV × Nat :=
  match v with
  | .num s m e => let (r, ex) := rneWaf s m 1 e; (r, flagIf (!ex) fInexact)
  | v => (v, 0)

/-- A block maximum or minimum whose grid value is wrong by `k` units of 2^−133. -/
def FV.off (v : FV) (k : Int) : FV :=
  if k = 0 then v
  else match v.toXR.add (intXR k (-133)) with
    | .num s n _ e => .num s n e
    | _ => v

/-- How many places of two bit strings differ; the shorter one goes on with zeros. -/
def bitDiffs : List Int → List Int → Int
  | [], l => (l.map fun x => if x = 0 then (0 : Int) else 1).sum
  | l, [] => (l.map fun x => if x = 0 then (0 : Int) else 1).sum
  | x :: a, y :: b => (if (x = 0) = (y = 0) then 0 else 1) + bitDiffs a b

/-- The accumulator takes one K-block (R43, R66). `dl` is what the grid's integer partial, or block value, is wrong by. -/
def accBlk (op : ArrOp) (bx : Bool) (acc : AccEl) (ab : Blk × Blk) (dl : Int := 0) : AccEl :=
  let (a, b) := ab
  let sp := acc.sp ||| specBlk op a b
  let conv := acc.fl ||| a.fl ||| b.fl
  let add (v e : Int) (fl : Nat) : AccEl :=
    let (r, f) := wafAdd acc.v v e
    { v := r, sp := sp, fl := conv ||| fl ||| f }
  match op with
  | .matmul =>
    match a.g, b.g with
    | .num s m e, .num t k f =>
      let p := (dotSigs a b + dl) * ((m * k : Nat) : Int)
      add (if s != t then -p else p) (a.lsb + b.lsb + e + f) 0
    | _, _ => { acc with sp := sp, fl := conv }
  | .distL2sq =>
    let (ds, E, fl) := distDiffs bx a b
    add ((ds.map fun x => x * x).sum + dl) (2 * E) fl
  | .distL1 =>
    let (ds, E, fl) := distDiffs bx a b
    add ((ds.map fun x => (x.natAbs : Int)).sum + dl) E fl
  | .maxplus =>
    match extreme true a b with
    | none => { acc with sp := sp }
    | some v => let (r, f) := waf (v.off dl); { v := FV.max acc.v r, sp := sp, fl := conv ||| f }
  | .minplus =>
    match extreme false a b with
    | none => { acc with sp := sp }
    | some v => let (r, f) := waf (v.off dl); { v := FV.min acc.v r, sp := sp, fl := conv ||| f }
  | .hamming => add (bitDiffs a.sigs b.sigs + dl) 0 0
  | .cmpcount =>
    add ((List.zipWith (fun x y => if !x.isNan && !y.isNan && FV.cmp x y == .gt then (1 : Int) else 0) a.vals b.vals).sum + dl) 0 0

/-- What a first pass starts each accumulator at (R60). -/
def accInit (op : ArrOp) : AccEl :=
  match op with
  | .maxplus => { v := .inf true }
  | .minplus => { v := .inf false }
  | _ => {}

/-- The contribution of one pass to one output element: its row's and its column's K-blocks, in ascending order; `dl` is what the grid's value of
each of them is wrong by. -/
def accPass (op : ArrOp) (bx : Bool) (acc : AccEl) (a b : List Blk) (dl : Nat → Int := fun _ => 0) : AccEl :=
  (a.zip b).zipIdx.foldl (fun acc x => accBlk op bx acc x.1 (dl x.2)) acc

/-! ## Output (R46 to R48, R69) -/

/-- The per-tensor scale (R47). -/
def scaleWaf (v s : FV) : FV × Nat :=
  match v.mul s with
  | .nan => (.nan, flagIf (!v.isNan && !s.isNan) fInvalid)
  | .inf t => (.inf t, 0)
  | .num t n d e => let (r, ex) := rneWaf t n d e; (r, flagIf (!ex) fInexact)

/-- The value that the special rules or the arithmetic give, with its flags. -/
def AccEl.decide (op : ArrOp) (a : AccEl) : FV × Nat :=
  if a.sp.testBit 0 then (.nan, 0)
  else if a.sp.testBit 1 || (op == .matmul && a.sp.testBit 2 && a.sp.testBit 3) then (.nan, fInvalid)
  else if a.sp.testBit 2 then (.inf false, 0)
  else if a.sp.testBit 3 then (.inf true, 0)
  else (a.v, a.fl)

/-- The code and flags of an output element in format `fmt`. -/
def finishEl (op : ArrOp) (fmt : Nat) (ftz nanOv : Bool) (scale : Option Nat) (a : AccEl) : Nat × Nat :=
  let (v, f1) := a.decide op
  let (v, f2) := match scale with
    | none => (v, 0)
    | some c => let (s, fs) := readF fmtFP32 ftz c; let (r, f) := scaleWaf v s; (r, fs ||| f)
  let (c, f3) := convertOut fmt ftz nanOv v.toXR
  (c, f1 ||| f2 ||| f3)

/-! ## The checks of a K-block (R74 to R78) -/

/-- What the grid's value of element (m,n) is wrong by. -/
def gridOff (errs : List BlkErr) (m n : Nat) : Int :=
  (errs.map fun e => match e with
    | .grid m' n' k => if m' = m ∧ n' = n then k else 0
    | _ => 0).sum
/-- What the checksum column's value of row `m` is wrong by. -/
def colOff (errs : List BlkErr) (m : Nat) : Int :=
  (errs.map fun e => match e with
    | .column m' k => if m' = m then k else 0
    | _ => 0).sum
/-- What the checksum row's value of column `n` is wrong by. -/
def rowOff (errs : List BlkErr) (n : Nat) : Int :=
  (errs.map fun e => match e with
    | .row n' k => if n' = n then k else 0
    | _ => 0).sum
/-- What the corner checker's prediction is wrong by. -/
def cornerOff (errs : List BlkErr) : Int :=
  (errs.map fun e => match e with
    | .corner k => k
    | _ => 0).sum
/-- XOR of the decision codes of the two special-value copies of element (m,n); with `main`, of the deciding copy and the right decision. -/
def specOff (errs : List BlkErr) (main : Bool) (m n : Nat) : Nat :=
  (errs.map fun e => match e with
    | .special m' n' pat w => if m' = m ∧ n' = n ∧ (w || !main) then pat % 2 ^ 96 else 0
    | _ => 0).foldl (· ^^^ ·) 0

/-- The greatest of a list of integers, 0 for none; the least, with `mx` false. -/
def extInt (mx : Bool) : List Int → Int
  | [] => 0
  | x :: l => l.foldl (fun b y => if mx then Max.max b y else Min.min b y) x

/-- The value of a K-block that grid and checkers form for an element (R74, R75): the exact integer partial of R43 or R66, the count, or the exact
maximum or minimum in units of 2^−133; infinities and NaN enter as zero (R76). -/
def blockVal (op : ArrOp) (bx : Bool) (a b : Blk) : Int :=
  match op with
  | .matmul => dotSigs a b
  | .distL2sq => ((distDiffs bx a b).1.map fun x => x * x).sum
  | .distL1 => ((distDiffs bx a b).1.map fun x => (x.natAbs : Int)).sum
  | .maxplus => extInt true (List.zipWith (fun x y => sigOn (-133) x + sigOn (-133) y) a.vals b.vals)
  | .minplus => extInt false (List.zipWith (fun x y => sigOn (-133) x + sigOn (-133) y) a.vals b.vals)
  | .hamming => bitDiffs a.sigs b.sigs
  | .cmpcount => (List.zipWith (fun x y => if !x.isNan && !y.isNan && FV.cmp x y == .gt then (1 : Int) else 0) a.vals b.vals).sum

/-- Two rows of integers added place by place; the longer one keeps its rest. -/
def addRows : List Int → List Int → List Int
  | [], l => l
  | l, [] => l
  | x :: a, y :: b => (x + y) :: addRows a b

/-- The sums over rows, place by place: cb_k over the columns of B, ra_k over the rows of A (R74). -/
def checkSums (l : List (List Int)) : List Int := l.foldr addRows []

/-- The bits of a row. -/
def bitRow (l : List Int) : List Int := l.map fun x => if x = 0 then (0 : Int) else 1

/-- What a checker predicts for HAMMING from one row of bits and the sums of the `n` others (R74): Σ_k (a_k = 1 ? n − c_k : c_k). -/
def hamSum (n : Int) : List Int → List Int → Int
  | [], c => c.sum
  | a, [] => (a.map fun x => if x = 0 then (0 : Int) else n).sum
  | x :: a, c :: l => (if x = 0 then c else n - c) + hamSum n a l

def Blk.none : Blk := { vals := [], sigs := [], lsb := 0, g := .num false 1 0, special := false, fl := 0, keep := 0 }

/-- What the checksum column forms for each row of the tile, and the checksum row for each of its columns (R74, R75). `jj` is the K-block's number in
the reduction. -/
def predictions (op : ArrOp) (bx : Bool) (A B : List Blk) (jj : Nat) : List Int × List Int :=
  match op with
  | .matmul => (A.map fun a => dotInt a.sigs (checkSums (B.map (·.sigs))), B.map fun b => dotInt (checkSums (A.map (·.sigs))) b.sigs)
  | .hamming => (A.map fun a => hamSum B.length a.sigs (checkSums (B.map fun b => bitRow b.sigs)),
      B.map fun b => hamSum A.length b.sigs (checkSums (A.map fun a => bitRow a.sigs)))
  | _ => (A.map fun a => blockVal op bx a (lget Blk.none B (jj % B.length)), B.map fun b => blockVal op bx (lget Blk.none A (jj % A.length)) b)

/-- What the grid shows the checksum column for row `a`, number `m`, and the checksum row for column `b`, number `n`: sums over the row or the column,
or the one element that is computed again (R74, R75). -/
def gridRow (op : ArrOp) (bx : Bool) (B : List Blk) (jj : Nat) (errs : List BlkErr) (a : Blk) (m : Nat) : Int :=
  match op with
  | .matmul => (B.zipIdx.map fun (b, n) => blockVal op bx a b + gridOff errs m n).sum
  | .hamming => (B.zipIdx.map fun (b, n) => blockVal op bx a b + gridOff errs m n).sum
  | _ => blockVal op bx a (lget Blk.none B (jj % B.length)) + gridOff errs m (jj % B.length)
def gridCol (op : ArrOp) (bx : Bool) (A : List Blk) (jj : Nat) (errs : List BlkErr) (b : Blk) (n : Nat) : Int :=
  match op with
  | .matmul => (A.zipIdx.map fun (a, m) => blockVal op bx a b + gridOff errs m n).sum
  | .hamming => (A.zipIdx.map fun (a, m) => blockVal op bx a b + gridOff errs m n).sum
  | _ => blockVal op bx (lget Blk.none A (jj % A.length)) b + gridOff errs (jj % A.length) n
/-- The sum of all grid partials. -/
def gridTotal (op : ArrOp) (bx : Bool) (A B : List Blk) (jj : Nat) (errs : List BlkErr) : Int :=
  (A.zipIdx.map fun (a, m) => gridRow op bx B jj errs a m).sum

/-- A 96-bit register of a checker (R77): two's complement; the code of a block maximum or minimum is not stated. -/
def reg96 (op : ArrOp) (x : Int) : Nat :=
  match op with
  | .maxplus => Config.blockCode x % 2 ^ 96
  | .minplus => Config.blockCode x % 2 ^ 96
  | _ => wrap 96 x

/-- The check records of a K-block (R74 to R78), in the order column, row, corner, special value, the lowest index first. The corner's three
comparisons give one record, with the pattern of the first that fails. -/
def blockRecords (op : ArrOp) (bx : Bool) (A B : List Blk) (jj : Nat) (errs : List BlkErr) : List CheckRec :=
  let (cs, rs) := predictions op bx A B jj
  let cs := cs.zipIdx.map fun (x, m) => x + colOff errs m
  let rs := rs.zipIdx.map fun (x, n) => x + rowOff errs n
  let rec_ (k i : Nat) (pred seen : Int) : List CheckRec :=
    if pred = seen then [] else [{ checker := k, idx := i, pat := reg96 op pred ^^^ reg96 op seen }]
  let col := (A.zipIdx.zip cs).flatMap fun ((a, m), x) => rec_ 0 m x (gridRow op bx B jj errs a m)
  let row := (B.zipIdx.zip rs).flatMap fun ((b, n), x) => rec_ 1 n x (gridCol op bx A jj errs b n)
  let corner := if op = .matmul then
      let x := dotInt (checkSums (A.map (·.sigs))) (checkSums (B.map (·.sigs))) + cornerOff errs
      ([gridTotal op bx A B jj errs, cs.sum, rs.sum].flatMap fun seen => rec_ 2 0 x seen).take 1
    else []
  let spec := if errs.isEmpty then [] else A.zipIdx.flatMap fun (_, m) => B.zipIdx.flatMap fun (_, n) =>
    let k := specOff errs false m n
    if k = 0 then [] else [({ checker := 3, idx := m, pat := k } : CheckRec)]
  col ++ row ++ corner ++ spec

/-- The K-blocks of a pass whose checks fail, each with its records. -/
def passRecords (op : ArrOp) (bx : Bool) (xa xb : List (List Blk)) (j0 : Nat) (errs : Nat → List BlkErr) : List (Nat × List CheckRec) :=
  (List.range ((xa.map List.length).foldl Max.max 0)).flatMap fun j =>
    let rs := blockRecords op bx (xa.filterMap (·[j]?)) (xb.filterMap (·[j]?)) (j0 + j) (errs j)
    if rs.isEmpty then [] else [(j, rs)]

/-- The grid of a K-block and the decisions of its special-value copies, as two computations are compared by (R368). -/
def gridOf (op : ArrOp) (bx : Bool) (A B : List Blk) (errs : List BlkErr) : List (Int × Nat) :=
  A.zipIdx.flatMap fun (a, m) => B.zipIdx.map fun (b, n) => (blockVal op bx a b + gridOff errs m n, specOff errs true m n)

/-- The grid's sum for a checker and an index (R378 DIFF_S); for the special-value copies, their decisions. -/
def gridSum (op : ArrOp) (bx : Bool) (A B : List Blk) (jj : Nat) (errs : List BlkErr) (k : CheckRec) : Nat :=
  match k.checker with
  | 0 => reg96 op (gridRow op bx B jj errs (lget Blk.none A k.idx) k.idx)
  | 1 => reg96 op (gridCol op bx A jj errs (lget Blk.none B k.idx) k.idx)
  | 2 => reg96 op (gridTotal op bx A B jj errs)
  | _ => ((List.range B.length).map fun n => specOff errs true k.idx n).foldl (· ^^^ ·) 0

end Sys2Proof.Machine
end

