-- ==== Sys2Proof/Machine/Crypto.lean ====
section
/-! DEFINITION. The cryptographic functions that the manual names by their standards: SHA-384 (FIPS 180-4), HMAC and HKDF-Expand
over it, ECDSA verification over P-384, and AES-256-GCM. Written from those standards (PRESUMED, assumption log entry 10). -/

namespace Sys2Proof.Machine

/-- Addition mod 2^64. -/
def add64 (a b : Nat) : Nat := (a + b) % 2 ^ 64

/-- Rotation right of a 64-bit word. -/
def rotr64 (x n : Nat) : Nat := (x >>> n) ||| ((x <<< (64 - n)) % 2 ^ 64)

/-- Round constants 0 to 15 of SHA-384. -/
def shaK0 : List Nat := [0x428A2F98D728AE22, 0x7137449123EF65CD, 0xB5C0FBCFEC4D3B2F, 0xE9B5DBA58189DBBC,
  0x3956C25BF348B538, 0x59F111F1B605D019, 0x923F82A4AF194F9B, 0xAB1C5ED5DA6D8118,
  0xD807AA98A3030242, 0x12835B0145706FBE, 0x243185BE4EE4B28C, 0x550C7DC3D5FFB4E2,
  0x72BE5D74F27B896F, 0x80DEB1FE3B1696B1, 0x9BDC06A725C71235, 0xC19BF174CF692694]

/-- Round constants 16 to 31 of SHA-384. -/
def shaK1 : List Nat := [0xE49B69C19EF14AD2, 0xEFBE4786384F25E3, 0x0FC19DC68B8CD5B5, 0x240CA1CC77AC9C65,
  0x2DE92C6F592B0275, 0x4A7484AA6EA6E483, 0x5CB0A9DCBD41FBD4, 0x76F988DA831153B5,
  0x983E5152EE66DFAB, 0xA831C66D2DB43210, 0xB00327C898FB213F, 0xBF597FC7BEEF0EE4,
  0xC6E00BF33DA88FC2, 0xD5A79147930AA725, 0x06CA6351E003826F, 0x142929670A0E6E70]

/-- Round constants 32 to 47 of SHA-384. -/
def shaK2 : List Nat := [0x27B70A8546D22FFC, 0x2E1B21385C26C926, 0x4D2C6DFC5AC42AED, 0x53380D139D95B3DF,
  0x650A73548BAF63DE, 0x766A0ABB3C77B2A8, 0x81C2C92E47EDAEE6, 0x92722C851482353B,
  0xA2BFE8A14CF10364, 0xA81A664BBC423001, 0xC24B8B70D0F89791, 0xC76C51A30654BE30,
  0xD192E819D6EF5218, 0xD69906245565A910, 0xF40E35855771202A, 0x106AA07032BBD1B8]

/-- Round constants 48 to 63 of SHA-384. -/
def shaK3 : List Nat := [0x19A4C116B8D2D0C8, 0x1E376C085141AB53, 0x2748774CDF8EEB99, 0x34B0BCB5E19B48A8,
  0x391C0CB3C5C95A63, 0x4ED8AA4AE3418ACB, 0x5B9CCA4F7763E373, 0x682E6FF3D6B2B8A3,
  0x748F82EE5DEFB2FC, 0x78A5636F43172F60, 0x84C87814A1F0AB72, 0x8CC702081A6439EC,
  0x90BEFFFA23631E28, 0xA4506CEBDE82BDE9, 0xBEF9A3F7B2C67915, 0xC67178F2E372532B]

/-- Round constants 64 to 79 of SHA-384. -/
def shaK4 : List Nat := [0xCA273ECEEA26619C, 0xD186B8C721C0C207, 0xEADA7DD6CDE0EB1E, 0xF57D4F7FEE6ED178,
  0x06F067AA72176FBA, 0x0A637DC5A2C898A6, 0x113F9804BEF90DAE, 0x1B710B35131C471B,
  0x28DB77F523047D84, 0x32CAAB7B40C72493, 0x3C9EBE0A15C9BEBC, 0x431D67C49C100D4C,
  0x4CC5D4BECB3E42B6, 0x597F299CFC657E2A, 0x5FCB6FAB3AD6FAEC, 0x6C44198C4A475817]

/-- All 80 round constants. -/
def shaK : List Nat := shaK0 ++ shaK1 ++ shaK2 ++ shaK3 ++ shaK4

/-- The initial hash value of SHA-384. -/
def shaInit : List Nat := [0xCBBB9D5DC1059ED8, 0x629A292A367CD507, 0x9159015A3070DD17, 0x152FECD8F70E5939,
  0x67332667FFC00B31, 0x8EB44A8768581511, 0xDB0C2E0D64F98FA7, 0x47B5481DBEFA4FA4]

/-- Message schedule: `w` holds the last 16 words, oldest first; each step yields the oldest and appends a new one. -/
def shaSched : Nat → List Nat → List Nat
  | 0, _ => []
  | n + 1, w =>
    let w0 := lget 0 w 0
    let w1 := lget 0 w 1
    let w9 := lget 0 w 9
    let w14 := lget 0 w 14
    let s0 := rotr64 w1 1 ^^^ rotr64 w1 8 ^^^ (w1 >>> 7)
    let s1 := rotr64 w14 19 ^^^ rotr64 w14 61 ^^^ (w14 >>> 6)
    w0 :: shaSched n (w.drop 1 ++ [(w0 + s0 + w9 + s1) % 2 ^ 64])

/-- The eight working words of a compression. -/
structure ShaSt where
  a : Nat
  b : Nat
  c : Nat
  d : Nat
  e : Nat
  f : Nat
  g : Nat
  h : Nat

/-- One round with schedule word `w` and constant `k`. -/
def shaRound (s : ShaSt) (wk : Nat × Nat) : ShaSt :=
  let s1 := rotr64 s.e 14 ^^^ rotr64 s.e 18 ^^^ rotr64 s.e 41
  let ch := (s.e &&& s.f) ^^^ ((s.e ^^^ (2 ^ 64 - 1)) &&& s.g)
  let t1 := (s.h + s1 + ch + wk.2 + wk.1) % 2 ^ 64
  let s0 := rotr64 s.a 28 ^^^ rotr64 s.a 34 ^^^ rotr64 s.a 39
  let maj := (s.a &&& s.b) ^^^ (s.a &&& s.c) ^^^ (s.b &&& s.c)
  let t2 := (s0 + maj) % 2 ^ 64
  { a := add64 t1 t2, b := s.a, c := s.b, d := s.c, e := add64 s.d t1, f := s.e, g := s.f, h := s.g }

/-- The 64-bit big-endian words of a byte string. -/
def words64 : Nat → Bytes → List Nat
  | 0, _ => []
  | n + 1, bs => be (bs.take 8) :: words64 n (bs.drop 8)

/-- One 128-byte block compressed into the hash value. -/
def shaBlock (hv : List Nat) (blk : Bytes) : List Nat :=
  let w := shaSched 80 (words64 16 blk)
  let i : ShaSt := { a := lget 0 hv 0, b := lget 0 hv 1, c := lget 0 hv 2, d := lget 0 hv 3,
                     e := lget 0 hv 4, f := lget 0 hv 5, g := lget 0 hv 6, h := lget 0 hv 7 }
  let r := (w.zip shaK).foldl shaRound i
  [add64 i.a r.a, add64 i.b r.b, add64 i.c r.c, add64 i.d r.d,
   add64 i.e r.e, add64 i.f r.f, add64 i.g r.g, add64 i.h r.h]

/-- Blocks of 128 bytes, `n` of them. -/
def shaBlocks : Nat → List Nat → Bytes → List Nat
  | 0, hv, _ => hv
  | n + 1, hv, bs => shaBlocks n (shaBlock hv (bs.take 128)) (bs.drop 128)

/-- The padded message of FIPS 180-4. -/
def shaPad (bs : Bytes) : Bytes :=
  let z := (128 - (bs.length + 17) % 128) % 128
  bs ++ [0x80] ++ zeros z ++ toBe 16 (8 * bs.length)

/-- SHA-384 of a byte string: 48 bytes. -/
def sha384 (bs : Bytes) : Bytes :=
  let p := shaPad bs
  (((shaBlocks (p.length / 128) shaInit p).take 6).flatMap (toBe 8))

/-- HMAC with SHA-384 (block of 128 bytes). -/
def hmacSha384 (key msg : Bytes) : Bytes :=
  let k0 := if key.length > 128 then sha384 key else key
  let k := k0 ++ zeros (128 - k0.length)
  sha384 (k.map (· ^^^ 0x5C) ++ sha384 (k.map (· ^^^ 0x36) ++ msg))

/-- HKDF-Expand with SHA-384: `t` is the previous block and `i` its number. -/
def hkdfBlocks (prk info : Bytes) : Nat → Nat → Bytes → Bytes
  | 0, _, _ => []
  | n + 1, i, t =>
    let b := hmacSha384 prk (t ++ info ++ [BitVec.ofNat 8 i])
    b ++ hkdfBlocks prk info n (i + 1) b

/-- HKDF-Expand with SHA-384 to `len` bytes. -/
def hkdfExpand (prk info : Bytes) (len : Nat) : Bytes :=
  (hkdfBlocks prk info (ceilDiv len 48) 1 []).take len

/-- The field prime of P-384. -/
def p384P : Nat := 2 ^ 384 - 2 ^ 128 - 2 ^ 96 + 2 ^ 32 - 1

/-- The order of the P-384 group. -/
def p384N : Nat := 0xFFFFFFFFFFFFFFFFFFFFFFFFFFFFFFFFFFFFFFFFFFFFFFFFC7634D81F4372DDF581A0DB248B0A77AECEC196ACCC52973

/-- The coefficient b of P-384 (the coefficient a is −3). -/
def p384B : Nat := 0xB3312FA7E23EE7E4988E056BE3F82D19181D9C6EFE8141120314088F5013875AC656398D8A2ED19D2A85C8EDD3EC2AEF

/-- The base point of P-384. -/
def p384G : Nat × Nat :=
  (0xAA87CA22BE8B05378EB1C71EF320AD746E1D3B628BA79B9859F741E082542A385502F25DBF55296C3A545E3872760AB7,
   0x3617DE4A96262C6F5D9E98BF9292DC29F8F41DBD289A147CE9DA3113B5F0B8C00A60B1CE1D7E819D7A431D7C90EA0E5F)

/-- `b ^ e mod m` by the low `n` hexadecimal digits of `e`, from the highest. -/
def powMod (b e m : Nat) : Nat → Nat → Nat
  | 0, acc => acc
  | n + 1, acc => powMod b e m n (acc ^ 16 * b ^ (e / 16 ^ n % 16) % m)

/-- The inverse mod a prime. -/
def invMod (a m : Nat) : Nat := powMod (a % m) (m - 2) m 96 1

/-- A point of the curve; `none` is the point at infinity. -/
abbrev EcPoint := Option (Nat × Nat)

/-- Subtraction mod the field prime. -/
def subP (a b : Nat) : Nat := (a + p384P - b % p384P) % p384P

/-- Point addition. -/
def ecAdd : EcPoint → EcPoint → EcPoint
  | none, q => q
  | p, none => p
  | some (x1, y1), some (x2, y2) =>
    if x1 = x2 then
      if (y1 + y2) % p384P = 0 then none
      else
        let l := (subP (3 * x1 * x1) 3) * invMod (2 * y1) p384P % p384P
        let x3 := subP (subP (l * l) x1) x2
        some (x3, subP (l * subP x1 x3) y1)
    else
      let l := (subP y2 y1) * invMod (subP x2 x1) p384P % p384P
      let x3 := subP (subP (l * l) x1) x2
      some (x3, subP (l * subP x1 x3) y1)

/-- Scalar multiple by the low `n` bits of `k`, from the highest. -/
def ecMul (k : Nat) (p : EcPoint) : Nat → EcPoint → EcPoint
  | 0, acc => acc
  | n + 1, acc =>
    let d := ecAdd acc acc
    ecMul k p n (if k.testBit n then ecAdd d p else d)

/-- Whether a pair is a point of the curve. -/
def ecOnCurve (x y : Nat) : Bool :=
  x < p384P && y < p384P && (y * y % p384P == (subP (x * x * x) (3 * x) + p384B) % p384P)

/-- The public key, X then Y, of a private key. -/
def p384Pub (d : Nat) : Bytes :=
  match ecMul d (some p384G) 384 none with
  | none => zeros 96
  | some (x, y) => toBe 48 x ++ toBe 48 y

/-- ECDSA P-384 verification: key X then Y, signature r then s, over the SHA-384 digest of `msg`. -/
def ecdsaVerify (key sig msg : Bytes) : Bool :=
  let qx := be (slice key 0 48)
  let qy := be (slice key 48 48)
  let r := be (slice sig 0 48)
  let s := be (slice sig 48 48)
  let z := be (sha384 msg)
  if r = 0 ∨ s = 0 ∨ r ≥ p384N ∨ s ≥ p384N ∨ !(ecOnCurve qx qy) then false
  else
    let w := invMod s p384N
    match ecAdd (ecMul (z * w % p384N) (some p384G) 384 none)
                (ecMul (r * w % p384N) (some (qx, qy)) 384 none) with
    | none => false
    | some (x, _) => x % p384N == r

/-- The AES S-box, entry i in bits [8i+7:8i], in parts of 32 bytes, the highest part first. -/
def aesSboxParts : List Nat := [
  0x16BB54B00F2D99416842E6BF0D89A18CDF2855CEE9871E9B948ED9691198F8E1,
  0x9E1DC186B95735610EF6034866B53E708A8BBD4B1F74DDE8C6B4A61C2E2578BA,
  0x08AE7A65EAF4566CA94ED58D6D37C8E779E4959162ACD3C25C2406490A3A32E0,
  0xDB0B5EDE14B8EE4688902A22DC4F816073195D643D7EA7C41744975FEC130CCD,
  0xD2F3FF1021DAB6BCF5389D928F40A351A89F3C507F02F94585334D43FBAAEFD0,
  0xCF584C4A39BECB6A5BB1FC20ED00D153842FE329B3D63B52A05A6E1B1A2C8309,
  0x75B227EBE28012079A059618C323C7041531D871F1E5A534CCF73F362693FDB7,
  0xC072A49CAFA2D4ADF04759FA7DC982CA76ABD7FE2B670130C56F6BF27B777C63]

/-- The AES S-box as one number. -/
def aesSboxAll : Nat := aesSboxParts.foldl (fun a p => a * 2 ^ 256 + p) 0

/-- The AES S-box. -/
def aesSbox (b : Byte) : Byte := BitVec.ofNat 8 (aesSboxAll >>> (8 * b.toNat))

/-- Doubling in the AES field. -/
def aesDbl (b : Byte) : Byte := if b.toNat ≥ 128 then (b <<< 1) ^^^ 0x1B else b <<< 1

/-- Bytewise XOR. -/
def xorBytes (a b : Bytes) : Bytes := List.zipWith (· ^^^ ·) a b

/-- Key expansion of AES-256: `w` holds the words so far, newest first. -/
def aesExpand : Nat → Nat → Byte → List Bytes → List Bytes
  | 0, _, _, w => w
  | n + 1, i, rc, w =>
    let prev := lget [] w 0
    let old := lget [] w 7
    let t := if i % 8 = 0 then
        match prev.map aesSbox with
        | a :: r => xorBytes (r ++ [a]) [rc, 0, 0, 0]
        | [] => []
      else if i % 8 = 4 then prev.map aesSbox else prev
    aesExpand n (i + 1) (if i % 8 = 0 then aesDbl rc else rc) (xorBytes old t :: w)

/-- The 15 round keys of a 32-byte key. -/
def aesKeys (key : Bytes) : List Bytes :=
  let w0 := (List.range 8).map fun i => slice key (4 * i) 4
  let w := (aesExpand 52 8 1 w0.reverse).reverse
  (List.range 15).map fun r => ((List.range 4).map fun c => lget [] w (4 * r + c)).flatten

/-- ShiftRows on a column-major block. -/
def aesShift (b : Bytes) : Bytes :=
  (List.range 16).map fun i => lget 0 b ((i + 4 * (i % 4)) % 16)

/-- MixColumns of one column. -/
def aesMixCol (c : Bytes) : Bytes :=
  let a := lget 0 c 0
  let b := lget 0 c 1
  let d := lget 0 c 2
  let e := lget 0 c 3
  [aesDbl a ^^^ (aesDbl b ^^^ b) ^^^ d ^^^ e, a ^^^ aesDbl b ^^^ (aesDbl d ^^^ d) ^^^ e,
   a ^^^ b ^^^ aesDbl d ^^^ (aesDbl e ^^^ e), (aesDbl a ^^^ a) ^^^ b ^^^ d ^^^ aesDbl e]

/-- MixColumns. -/
def aesMix (b : Bytes) : Bytes := (List.range 4).flatMap fun c => aesMixCol (slice b (4 * c) 4)

/-- The AES-256 block function. -/
def aesBlock (keys : List Bytes) (b : Bytes) : Bytes :=
  let s0 := xorBytes b (lget [] keys 0)
  let s := (rangeFrom 1 14).foldl
    (fun s r => xorBytes (aesMix (aesShift (s.map aesSbox))) (lget [] keys r)) s0
  xorBytes (aesShift (s.map aesSbox)) (lget [] keys 14)

/-- Multiplication in the GCM field: `z` accumulates, `v` shifts, over the low `n` bits of `x` from the highest. -/
def gcmMul (x : Nat) : Nat → Nat → Nat → Nat
  | 0, z, _ => z
  | n + 1, z, v =>
    let z' := if x.testBit n then z ^^^ v else z
    let v' := if v % 2 = 1 then (v / 2) ^^^ (0xE1 * 2 ^ 120) else v / 2
    gcmMul x n z' v'

/-- GHASH over `n` blocks. -/
def ghash (h : Nat) : Nat → Bytes → Nat → Nat
  | 0, _, y => y
  | n + 1, bs, y => ghash h n (bs.drop 16) (gcmMul (y ^^^ be (bs.take 16)) 128 0 h)

/-- A byte string padded with zeros to whole 16-byte blocks. -/
def pad16 (bs : Bytes) : Bytes := bs ++ zeros ((16 - bs.length % 16) % 16)

/-- Counter mode from counter value `c`, `n` blocks. -/
def gcmCtr (keys : List Bytes) (nonce : Bytes) : Nat → Nat → Bytes → Bytes
  | 0, _, _ => []
  | n + 1, c, bs =>
    xorBytes (bs.take 16) (aesBlock keys (nonce ++ toBe 4 c)) ++ gcmCtr keys nonce n (c + 1) (bs.drop 16)

/-- The GCM tag of a ciphertext. -/
def gcmTag (key nonce aad ct : Bytes) : Bytes :=
  let keys := aesKeys key
  let h := be (aesBlock keys (zeros 16))
  let inp := pad16 aad ++ pad16 ct ++ toBe 8 (8 * aad.length) ++ toBe 8 (8 * ct.length)
  xorBytes (toBe 16 (ghash h (inp.length / 16) inp 0)) (aesBlock keys (nonce ++ toBe 4 1))

/-- AES-256-GCM encryption: ciphertext and tag. -/
def gcmSeal (key nonce aad pt : Bytes) : Bytes × Bytes :=
  let ct := gcmCtr (aesKeys key) nonce (ceilDiv pt.length 16) 2 pt
  (ct, gcmTag key nonce aad ct)

/-- AES-256-GCM decryption: the plaintext, or nothing when the tag fails. -/
def gcmOpen (key nonce aad ct tag : Bytes) : Option Bytes :=
  if gcmTag key nonce aad ct = tag then some (gcmCtr (aesKeys key) nonce (ceilDiv ct.length 16) 2 ct) else none

end Sys2Proof.Machine
end

