-- ==== Sys2Proof/Machine/FabricTypes.lean ====
section
/-! DEFINITION. The state types of the fabric: ports, connections, remote operations, keys, collectives (R293 to R341). Every
structure's defaults are its reset values. -/

namespace Sys2Proof.Machine

/-- A frame that a port holds back, and the port by which it came in transit. -/
structure HeldFrame where
  inp : Option Nat := none
  f : Frame
  deriving DecidableEq, Repr

/-- A fabric port (R295 to R297, R305, R306, R314, R359, R465). -/
structure Port where
  enable : Bool := false
  phy : Bool := false
  /-- 0 DIRECT, 1 SWITCHED. -/
  mode : Nat := 0
  lport : Nat := 0
  transit : Nat := 1
  /-- 0 DISABLED, 1 TRAINING, 2 UP, 3 DOWN, 4 EXCLUDED. -/
  st : Nat := 0
  cfgErr : Bool := false
  cause : Nat := 0
  hvalid : Bool := false
  peerPort : Nat := 0
  peerChip : Nat := 0
  /-- Hub counter at the last HELLO. -/
  helloAt : Nat := 0
  /-- LNK_PEER. -/
  expValid : Bool := false
  expPort : Nat := 0
  expChip : Nat := 0
  /-- The optical engine's case has reached 80 °C and has not fallen below 75 °C since; its fibre block is latched. -/
  hot : Bool := false
  latched : Bool := true
  /-- Next HSEQ to send and next HSEQ expected. -/
  txSeq : Nat := 0
  rxSeq : Nat := 0
  /-- Replay buffer, oldest first. -/
  replay : List Frame := []
  /-- Replays of its first frame without acknowledgement. -/
  replays : Nat := 0
  /-- Frames held while the buffer is full or their priority is paused, the oldest first. -/
  held : List HeldFrame := []
  /-- Priorities that the peer has paused, and those that this port has paused at the peer. -/
  paused : Nat := 0
  pausing : Nat := 0
  deriving DecidableEq, Repr

/-- A switched connection, by (logical port, chip, TC) (R307, R316). -/
structure Conn where
  /-- 0 closed, 1 HELLO sent, 2 open. -/
  st : Nat := 0
  /-- Next ESEQ to send; the oldest unacknowledged frames, unchanged. -/
  tx : Nat := 0
  unacked : List Frame := []
  /-- Frames waiting for the opening or the window. -/
  waiting : List Frame := []
  retx : Nat := 0
  /-- Next ESEQ expected, once the peer has opened its direction. -/
  rxOpen : Bool := false
  rx : Nat := 0
  deriving DecidableEq, Repr

/-- Who issued a remote operation (R317, R321). -/
inductive Issuer where
  | dma (polder ldie q : Nat)
  | ring (polder r : Nat)
  | service (polder : Nat)
  /-- The collective engine's frames for a COLL step (R331). -/
  | coll (polder c seg : Nat)
  deriving DecidableEq, Repr

/-- What a remote operation does (R302). -/
inductive OpKind where
  | write
  /-- The requester keeps `len` bytes from `off` of the block, at the pieces of device-local memory listed. -/
  | read (pieces : List (Nat × Nat × Nat))
  | add
  | set
  /-- A COLL_DATA frame of (collective, segment, phase, frame number). -/
  | coll (c seg phase num : Nat)
  /-- COLL_CREDIT (9) or COLL_ABORT (0x0A), which no frame acknowledges. -/
  | ctl (kind : Nat)
  deriving DecidableEq, Repr

/-- A remote operation that is not acknowledged: one frame (R318 to R325). -/
structure ROp where
  id : Nat
  issuer : Issuer
  kind : OpKind
  chip : Nat
  addr : Nat
  payload : Bytes := []
  /-- Key slot under which it travels, if keyed (R337). -/
  key : Option Nat := none
  job : Nat := 0xFFFFFFFF
  tag : Nat := 0
  sent : Bool := false
  sentAt : Nat := 0
  /-- It has been resent after NAK CHECK_RETRY or DIGEST. -/
  retried : Bool := false
  /-- It waits for the 10 µs resend after NAK WAIT (R324). -/
  waitNak : Bool := false
  /-- LAST flag and trailer of a COLL_DATA frame. -/
  last : Bool := false
  trailer : Bytes := []
  dstPol : Nat := 0
  /-- Device-local pieces (address, length) that the payload was read from; none where it came from no memory (R318, R333). -/
  src : List (Nat × Nat) := []
  deriving DecidableEq, Repr

/-- A key slot's key (R216, R339): NSEQ by sending port. -/
structure Key where
  valid : Bool := false
  key : Nat := 0
  nseq : Tab Nat := []
  deriving DecidableEq, Repr

/-- A change of a key slot that waits for the jobs that started before it (R216). -/
structure KeyChange where
  slot : Nat
  key : Option Nat
  polder : Nat
  /-- The ring whose descriptor asks for it. -/
  ring : Nat
  deriving DecidableEq, Repr

/-- Replay window of a triple of key slot, source chip and source port, on a link die (R340). -/
structure Window where
  die : Nat
  slot : Nat
  chip : Nat
  port : Nat
  high : Nat
  /-- Bit i: NSEQ high − i has been accepted. -/
  seen : Nat
  deriving DecidableEq, Repr

/-- The LAST frame of a segment as it came: its number, the segment's length, its digest, its flag summary, and its tag. -/
structure LandLast where
  num : Nat
  bytes : Nat
  digest : Nat
  flags : Nat
  tag : Nat
  deriving DecidableEq, Repr

/-- A segment landing in a member's landing area (R332, R333). -/
structure Landing where
  c : Nat
  seg : Nat
  /-- 0 what a member contributes, 1 a result (entry 19). -/
  phase : Nat
  rank : Nat
  /-- Frame numbers that have landed. -/
  got : List Nat := []
  /-- The LAST frame, once it has come. -/
  last : Option LandLast := none
  ok : Bool := false
  /-- Its digest has failed once. -/
  retried : Bool := false
  deriving DecidableEq, Repr

/-- A segment transfer that a member wants to send: it waits for its credit (R332). -/
structure CollSend where
  c : Nat
  seg : Nat
  phase : Nat
  rank : Nat
  bytes : Bytes
  /-- Where a contribution was read from (R333); a result stands in the engine. -/
  src : Option Nat := none
  /-- Flag summary that INFO carries. -/
  info : Nat
  started : Bool := false
  retried : Bool := false
  deriving DecidableEq, Repr

/-- A COLL step that is not released (R330). -/
structure CollStep where
  c : Nat
  seg : Nat
  ldie : Nat
  q : Nat
  pos : Nat
  /-- Address of DST, once the result has not been moved there. -/
  dst : Nat
  waiting : Bool
  deriving DecidableEq, Repr

/-- The collective state of a polder (R326, R332, R335). -/
structure PolColl where
  valid : Bool := false
  err : Nat := 0
  count : Nat := 0
  base : Nat := 0
  /-- Sealed ranges: the table and its member lists. -/
  ranges : List (Nat × Nat) := []
  lostValid : Bool := false
  lostChip : Nat := 0
  landings : List Landing := []
  sends : List CollSend := []
  steps : List CollStep := []
  /-- Credits received: (collective, area, rank of the receiver, segment that left the slot). -/
  credits : List (Nat × Nat × Nat × Nat) := []
  /-- COLL steps issued in this job, in order: (collective, segment). -/
  begun : List (Nat × Nat) := []
  /-- Collectives that have failed in this job: (collective, status, detail, chip). -/
  failed : List (Nat × Nat × Nat × Nat) := []
  deriving DecidableEq, Repr

/-- The fabric (R293 to R341). -/
structure Fabric where
  ports : Tab Port := []
  topo : Nat := 0
  torusPorts : Nat := 0
  optmo : Nat := 1000
  vid : Nat := 0
  pcpCtrl : Nat := 4
  pcpBulk : Nat := 3
  limit : Nat := 8
  rto : Nat := 4
  /-- LNK_ROUTE words by index. -/
  route : Tab Nat := []
  winLo : Tab Nat := []
  winHi : Tab Nat := []
  /-- LNK_CNT by 8n + k. -/
  cnt : Tab Nat := []
  /-- Connections by (logical port × 8,192 + chip) × 2 + TC. -/
  conns : Tab Conn := []
  ops : List ROp := []
  /-- COLL_CREDIT and COLL_ABORT frames sent by jobs that still run (R324). -/
  ctls : List ROp := []
  opCtr : Nat := 0
  /-- Operation sequence numbers by polder × 8,192 + chip (R320). -/
  opSeq : Tab Nat := []
  /-- Last TAG applied and its instant, by chip × 32 + polder (R320). -/
  lastTag : Tab (Nat × Nat) := []
  keys : Tab Key := []
  keyWait : List KeyChange := []
  /-- Frames answered with NAK CHECK_RETRY: (source chip, tag) (R318). -/
  checkRetry : List (Nat × Nat) := []
  /-- READ_RESPs sent: (requester chip, tag, address, polder, key slot + 1 or 0) (R318). -/
  served : List (Nat × Nat × Nat × Nat × Nat) := []
  windows : List Window := []
  deriving DecidableEq, Repr

end Sys2Proof.Machine
end

