-- ==== Sys2Proof/Machine/PowerTypes.lean ====
section
/-! DEFINITION. The state types of power, clocks and thermal control (R342 to R363) and of self-test (R403 to R416). Every structure's
defaults are its reset values. -/

namespace Sys2Proof.Machine

/-- A clock island by 16 × site + island index (R342, R351, R362). -/
structure Isl where
  /-- The grant that R352 gave, and what level 1 of R356 leaves of it. -/
  base : Nat := 0
  grant : Nat := 0
  /-- Target in force, MHz. -/
  target : Nat := 0
  /-- A raised target that waits for the rail (R343). -/
  raise : Option Nat := none
  demand : Nat := 0
  deriving DecidableEq, Repr

/-- What the thermal protection has done to a die (R359): the hottest sensors in 0.125 °C, the throttle factor in sixteenths, and the
limit actions in force. -/
structure Therm where
  logic : Int := 0
  dram : Int := 0
  factor : Nat := 16
  logicLimit : Bool := false
  /-- 0 none, 1 throttle, 2 limit, for a DRAM die of the site's stack. -/
  dramLevel : Nat := 0
  /-- 0 none, 1 throttle, 2 limit, for a link die or the hub. -/
  level : Nat := 0
  deriving DecidableEq, Repr

/-- The power arbiter and the protections. -/
structure Power where
  cap : Nat := 10400
  /-- PWR_MODE OPEN as written, and the mode in force since the last boundary (R350). -/
  openReg : Bool := false
  openMode : Bool := false
  /-- PWR_SHARE WEIGHT by polder, 16 where not listed. -/
  weight : Tab Nat := []
  /-- CLK_POL_LIM by 4p + k as 2^16 × CEIL + FLOOR; the floors in force since the last boundary (R354). -/
  lim : Tab Nat := []
  floors : Tab Nat := []
  isl : Tab Isl := []
  /-- PWR_GRANT by polder: share, granted in total, avail. -/
  pgrant : Tab (Nat × Nat × Nat) := []
  therm : Tab Therm := []
  optTemp : Tab Int := []
  thermStatus : Nat := 0
  devCnt : List Nat := [0, 0, 0, 0]
  polCnt : Tab Nat := []
  /-- The limiter acted in the running period. -/
  limited : Bool := false
  /-- Polders that had a floor unmet in the running period, as a bitmap. -/
  unmet : Nat := 0
  /-- FLOOR_UNMET: periods since the last event (1,000 when none is recent), bitmap and number of periods (R355). -/
  floorAge : Nat := 1000
  floorMap : Nat := 0
  floorNum : Nat := 0
  /-- Polders whose first-use grants hold, with the boundaries still to pass (R357). -/
  firstUse : Tab Nat := []
  /-- Context and image of each polder's last job (R357), once one has started. -/
  lastJob : Tab (Nat × Nat) := []
  deriving DecidableEq, Repr

/-- A self-test slice slot (R404, R405). -/
structure Slot where
  /-- 0 IDLE, 1 WAITING, 2 RUNNING, 3 DONE. -/
  st : Nat := 0
  cmd : Nat := 0
  log : Nat := 0
  refuse : Nat := 0
  result : Nat := 0
  nlog : Nat := 0
  /-- First result, 16 bytes as a number. -/
  res : Nat := 0
  /-- Log address and margin frequency as they stood when the slice was accepted (R436). -/
  logAt : Nat := 0
  freq : Nat := 0
  /-- Place in the order in which slices were accepted (R412). -/
  ord : Nat := 0
  deriving DecidableEq, Repr

/-- A repair in force or in the list: KIND, SITE, ADDR (R415). -/
structure Repair where
  kind : Nat
  site : Nat
  addr : Nat
  deriving DecidableEq, Repr

/-- Self-test set-up: margin, pack, repair list, soft repairs, fuse status (R382, R413 to R416). -/
structure Bist where
  slots : Tab Slot := []
  marginF : Nat := 1500
  /-- VOFF, 16 bits two's complement. -/
  marginV : Nat := 0
  packAddr : Nat := 0
  packSt : Nat := 0
  packResult : Nat := 0
  packVer : Nat := 0
  /-- LEN and read tag of the load in progress. -/
  packLen : Nat := 0
  packTag : Nat := 0
  pack : Bytes := []
  repAddr : Nat := 0
  repSt : Nat := 0
  repResult : Nat := 0
  repCount : Nat := 0
  repLen : Nat := 0
  repTag : Nat := 0
  repPrev : Nat := 0
  soft : List Repair := []
  fuseBusy : Bool := false
  fuseResult : Nat := 0
  deriving DecidableEq, Repr

end Sys2Proof.Machine
end

