-- ==== Sys2Proof/Machine/ServiceTypes.lean ====
section
/-! DEFINITION. The state types of service mode (R266 to R292) and of a polder (R260 to R264, R447, R448). Every structure's defaults
are its reset values. -/

namespace Sys2Proof.Machine

/-- Where a sequence stands (R272, R275, R276, R286, R290). -/
inductive SeqPhase where
  /-- Prompt tokens are outstanding. -/
  | prompt
  /-- Its prompt is complete. -/
  | ready
  /-- Waiting for SEQ_PAGES from its pair (REMOTE_KV). -/
  | remoteKv
  /-- Waiting for a FETCH to be answered. -/
  | fetching
  /-- A PROMPT part's sequence waiting to be handed off, or handed off and not acknowledged. -/
  | handoff
  /-- It has ended, and its FINAL response waits for a free entry (R287). -/
  | ended
  deriving DecidableEq, Repr

/-- A sequence in flight (R271, R275 to R287). -/
structure Sq where
  slot : Nat
  /-- The 128-byte START entry. -/
  entry : Bytes
  ring : Nat
  admission : Nat
  phase : SeqPhase := .prompt
  /-- Prompt tokens already given to prefill jobs, and tokens whose KV is held. -/
  promptDone : Nat := 0
  pos : Nat := 0
  ngen : Nat := 0
  token : Nat := 0
  /-- Generated tokens, the most recent first, at most 48. -/
  hist : List Nat := []
  /-- Unreported tokens in order: ID and text bytes written. -/
  toks : List (Nat × Nat) := []
  /-- POS of the first unreported token. -/
  repPos : Nat := 0
  steps : Nat := 0
  textUsed : Nat := 0
  textFull : Bool := false
  /-- Its KV frames in page order. -/
  frames : List Nat := []
  /-- How many of them its page-table window shows, and how many more are reserved for it (R279, R287). -/
  mapped : Nat := 0
  reserved : Nat := 0
  cancel : Bool := false
  /-- STOP, status and detail of its FINAL response, once it has ended. -/
  stop : Nat := 0
  status : Nat := 0
  detail : Nat := 0
  deriving DecidableEq, Repr

/-- A retained session, or a session stored at a CACHE part (R286, R292). -/
structure Sess where
  id : Nat
  slot : Nat
  tokens : Nat
  frames : List Nat
  /-- How many of its frames the page-table window shows. -/
  mapped : Nat := 0
  order : Nat
  deriving DecidableEq, Repr

/-- A handoff record received and held until its START arrives (R292). -/
structure HeldRec where
  pair : Nat
  key : Nat
  ended : Bool
  stop : Nat
  ntok : Nat
  token : Nat
  frames : List Nat
  deriving DecidableEq, Repr

/-- A handoff that waits to be sent, or whose remote operations are not all acknowledged (R291). -/
structure Send where
  pair : Nat
  kind : Nat
  key : Nat
  session : Nat
  /-- Admission number of a PROMPT part's sequence. -/
  seq : Option Nat := none
  frames : List Nat := []
  /-- The local pages are freed at the end. -/
  free : Bool := false
  ntok : Nat := 0
  token : Nat := 0
  ended : Bool := false
  stop : Nat := 0
  /-- Pages sent so far, those of the record in progress among them, and the entries that name them at the peer. -/
  done : Nat := 0
  ents : List Nat := []
  /-- The pages of the record in progress are on their way: its record comes next. -/
  pagesOut : Bool := false
  /-- Operations not acknowledged. -/
  ops : List Nat := []
  lastPosted : Bool := false
  deriving DecidableEq, Repr

/-- A pair (R288 to R290): the entry's bytes and what firmware counts. -/
structure Pair where
  entry : Bytes := []
  /-- Records posted by this side, and taken by it. -/
  posted : Nat := 0
  taken : Nat := 0
  /-- Frames donated to the peer and not consumed, in order; how many have been donated so far. -/
  donated : List Nat := []
  donatedN : Nat := 0
  /-- Entries of FR_FIFO that this side has used. -/
  fifo : Nat := 0
  /-- Pages sent so far: the PG_THRESH of the next record. -/
  pages : Nat := 0
  /-- KEY of a run of records with MORE set, one of which was refused: the rest of it joins nothing. -/
  badKey : Option Nat := none
  /-- Partial frames of a KEY whose records have MORE set. -/
  partKey : Option Nat := none
  partFrames : List Nat := []
  /-- Donation operations not acknowledged. -/
  ops : List Nat := []
  deriving DecidableEq, Repr

/-- The service job in progress: the sequences of its rows, by admission number, and how it ended, once it has. -/
structure SvcJob where
  prefill : Bool
  rows : List Nat
  /-- Prefill: chunk length, and whether the chunk completes the prompt. -/
  chunk : Nat := 0
  complete : Bool := false
  status : Option Nat := none
  detail : Nat := 0
  deriving DecidableEq, Repr

/-- Service mode of a polder (R266). -/
structure Svc where
  base : Nat := 0
  /-- 0 STOPPED, 1 STARTING, 2 RUNNING, 3 STOPPING. -/
  st : Nat := 0
  cause : Nat := 0
  flags : Nat := 0
  /-- The 512 bytes of the service block, from its start on. -/
  block : Bytes := []
  /-- Ranges sealed while the loop is not STOPPED (R267). -/
  ranges : List (Nat × Nat) := []
  pairs : List Pair := []
  seqs : List Sq := []
  sessions : List Sess := []
  sessCtr : Nat := 0
  heldRecs : List HeldRec := []
  sends : List Send := []
  free : List Nat := []
  admission : Nat := 0
  /-- Keys of refused SEQ_PAGES records whose START has not come, with their pair. -/
  refused : List (Nat × Nat) := []
  /-- The last sequence of the previous decode job. -/
  lastAdm : Option Nat := none
  /-- The pass of R275: the REQUEST ring served last, how many entries this pass took from it, the rings this pass has done with, and the pair whose
  record this pass took last. -/
  passRing : Option Nat := none
  passCount : Nat := 0
  passDone : List Nat := []
  passPair : Option Nat := none
  lastPrefill : Bool := false
  job : Option SvcJob := none
  fetchKey : Nat := 0
  /-- FETCHes waiting: key, and admission number of the sequence. -/
  fetches : List (Nat × Nat) := []
  /-- Entry changes to be applied to the page-table bank that was ACTIVE (R279). -/
  ptDelta : List (Nat × Nat) := []
  /-- Entries to be zeroed at the next activation. -/
  ptZero : List Nat := []
  deriving DecidableEq, Repr

/-- In flight, its FINAL response not decided. -/
def Sq.live (q : Sq) : Bool := q.phase != .ended
def Svc.live (S : Svc) : List Sq := S.seqs.filter Sq.live

/-- A polder (R260 to R264, R447, R448). -/
structure Pol where
  enable : Bool := false
  service : Bool := false
  /-- 0 EMPTY, 1 FORMING, 2 READY, 3 DISSOLVING. -/
  st : Nat := 0
  cause : Nat := 0
  home : Nat := 0
  dies : Nat := 0
  ports : Nat := 0
  chBase : Nat := 0
  chCount : Nat := 0
  ctxBase : Nat := 0
  ctxCount : Nat := 0
  keyBase : Nat := 0
  keyCount : Nat := 0
  /-- Ring groups and sluice groups, 128 bits each. -/
  ringGrp : Nat := 0
  sluGrp : Nat := 0
  slots : Nat := 0
  ptEntries : Nat := 0
  landOff : Nat := 0
  landSize : Nat := 0
  eventRing : Nat := 0
  wdog : Nat := 10000
  fabKeyed : Bool := false
  fabSlot : Nat := 0
  capture : Bool := false
  imgFaultValid : Bool := false
  imgFault : Nat := 0
  jobFaultValid : Bool := false
  /-- POL_JOB_FAULT [47:0]. -/
  jobFault : Nat := 0
  errCnt : List Nat := [0, 0, 0, 0, 0, 0, 0, 0]
  saveBase : Nat := 0
  evictBlocked : Nat := 0
  starved : Nat := 0
  /-- A RESIDENCY_STARVED episode is open (R249). -/
  starving : Bool := false
  sluDeny : Nat := 0
  /-- The rebuild in progress was started by a polder reset or a VF reset (R422, R427). -/
  resetting : Bool := false
  imgs : List Img := []
  /-- Tenant tag of the record of R255; none matches every tag. -/
  tenant : Option Nat := none
  /-- The contexts whose table descriptors hold back other tenants' jobs (R256). -/
  tblCtx : List Nat := []
  /-- Ring and RO ranges of each job that is still to start and whose warm-up was cancelled (R163, R190). -/
  waitRo : List (Nat × List (Nat × Nat)) := []
  /-- The resident slots that the polder owns (R246). -/
  slotIds : List Nat := []
  formGen : Nat := 0
  jobs : Nat := 0
  job : Option Job := none
  warm : Option Warm := none
  /-- Context and ring of the last job (R251). -/
  curCtx : Option Nat := none
  curRing : Option Nat := none
  coll : PolColl := {}
  svc : Svc := {}
  deriving DecidableEq, Repr

end Sys2Proof.Machine
end

