-- ==== Sys2Proof/Machine/State.lean ====
section
/-! DEFINITION. The whole state of the device: the commands waiting, the fuses, the memories and everything else; the two ways a
command could stop; the state before power is applied. -/

namespace Sys2Proof.Machine

/-- A memory: (address, byte) pairs, addresses strictly rising, no zero byte listed; an unlisted address reads as zero (R142, R156).
Device-local addresses stand below 2^48; the firmware store and the landing SRAM, which R137 keeps out of the map, above. -/
abbrev Mem := List Host.Cell

/-- Everything of the device but the waiting commands, the fuses and the memories. -/
structure Dev where
  /-- 0 WZ25P, 1 WZ25G, 2 WZ25C (R440). -/
  variant : Nat := 1
  aon : Aon := {}
  sec : Sec := {}
  hub : Hub := {}
  rings : Tab Ring := []
  chans : Tab Chan := []
  sluices : Tab Sluice := []
  /-- SLU_GRANT words. -/
  grants : Tab Nat := []
  ctxs : Tab Ctx := []
  pols : Tab Pol := []
  dies : Tab Die := []
  /-- Banks by the index of R450. -/
  banks : Tab Bank := []
  evids : List Evid := []
  fabric : Fabric := {}
  power : Power := {}
  bist : Bist := {}
  /-- Epoch of the sealing key (R247). -/
  sealEpoch : Nat := 0
  /-- Free values drawn so far (the model's own field). -/
  freeCtr : Nat := 0
  /-- Messages sent, newest first (the model's own field). -/
  out : List Out := []
  deriving DecidableEq, Repr

/-- The state of the device. -/
structure State where
  /-- The commands that wait, first in first out (the model's own field). -/
  pending : List Instr := []
  fuses : Fuses := {}
  mem : Mem := []
  dev : Dev := {}
  deriving DecidableEq, Repr

/-- A command never stops the device with a fault: the device's own faults are statuses, events and resets, which are effects on State.
No command raises this; it is here because the host's interface asks for a type, and raising it would be safe. -/
inductive Fault where
  | none
  deriving DecidableEq, Repr

/-- Why a command has no meaning. -/
inductive Refusal where
  /-- Raised by the dispatch of a command whose meaning is not written; safe. -/
  | notModelled (mnemonic : String)
  deriving DecidableEq, Repr

/-- The fuses as manufactured, in FACTORY (R390, R394): no SVN, life-cycle or repair fuse blown. DESIGN CHOICE (entry 4). -/
def factoryFuses : Fuses :=
  { uds := Config.uds, ts := Config.ts, signerDig := (List.range 4).map Config.signerDig,
    serviceDig := Config.serviceDig, certWritten := true, cert := Config.cert }

/-- The device before the first application of 3.3 V: every register at its reset value, no rail valid, PERST# asserted, the variant
WZ25G (assumption log, entries 1 to 4). -/
def State.reset : State := { fuses := factoryFuses }

end Sys2Proof.Machine
end

