-- ==== Sys2Proof/Machine/Mem.lean ====
section
/-! DEFINITION. The memories: one list in canonical form, its reads and writes, and where each store of the device stands in it. -/

namespace Sys2Proof.Machine

/-- Canonical form from address `lo` up: addresses strictly rising, no zero byte. -/
def Mem.wfFrom : Nat → Mem → Bool
  | _, [] => true
  | lo, (k, b) :: t => decide (lo ≤ k) && b != 0 && Mem.wfFrom (k + 1) t

/-- Canonical form. -/
def Mem.wf (m : Mem) : Bool := Mem.wfFrom 0 m

/-- One byte; an unlisted address reads as zero. -/
def Mem.byte (m : Mem) (a : Nat) : Byte := tget 0 m a

/-- Bytes from `a` on of a list whose first entry is not below `a`. -/
def Mem.readFrom : Mem → Nat → Nat → Bytes
  | _, _, 0 => []
  | [], a, n + 1 => 0 :: Mem.readFrom [] (a + 1) n
  | (k, b) :: t, a, n + 1 =>
    if k = a then b :: Mem.readFrom t (a + 1) n else 0 :: Mem.readFrom ((k, b) :: t) (a + 1) n

/-- `n` bytes from address `a`. -/
def Mem.read (m : Mem) (a n : Nat) : Bytes :=
  Mem.readFrom (m.filter fun c => decide (a ≤ c.1)) a n

/-- The cells of the nonzero bytes of `bs`, placed from `a` on. -/
def cells : Nat → Bytes → Mem
  | _, [] => []
  | a, b :: bs => if b = 0 then cells (a + 1) bs else (a, b) :: cells (a + 1) bs

/-- What a command does to the memories. -/
inductive MemOp where
  | write (addr : Nat) (data : Bytes)
  /-- `n` zero bytes. -/
  | zero (addr n : Nat)
  /-- The `n` bytes from `src`, at `dst`. -/
  | copy (dst src n : Nat)
  deriving DecidableEq, Repr

/-- `m` with the bytes from `a` to `a + n` replaced by `cs`. -/
def Mem.splice (m : Mem) (a n : Nat) (cs : Mem) : Mem :=
  (m.filter fun c => decide (c.1 < a)) ++ cs ++ (m.filter fun c => decide (a + n ≤ c.1))

def Mem.apply (m : Mem) : MemOp → Mem
  | .write a bs => m.splice a bs.length (cells a bs)
  | .zero a n => m.splice a n []
  | .copy d s n => m.splice d n ((m.filter fun c => decide (s ≤ c.1 ∧ c.1 < s + n)).map fun c => (d + (c.1 - s), c.2))

def Mem.applyAll (m : Mem) (ops : List MemOp) : Mem := ops.foldl Mem.apply m

/-- Scratchpad of site `s` (R14, R137). -/
def spBase (s : Nat) : Nat := 0x200000000000 + s * 0x8000000
/-- 64 MiB. -/
def spSize : Nat := 0x4000000
/-- Window of stack `s` (R14, R137). -/
def stackBase (s : Nat) : Nat := s * 0x2000000000
/-- 96 GiB. -/
def stackSize : Nat := 0x1800000000
/-- Offset of the system area (R144). -/
def sysOff : Nat := 0x17FC000000
/-- The firmware store (R391), outside the device-local map. -/
def storeBase : Nat := 0x1000000000000
/-- 64 MiB. -/
def storeSize : Nat := 0x4000000
/-- Landing SRAM of link die ordinal `i`, outside the device-local map: 32 MiB. -/
def landBase (i : Nat) : Nat := 0x2000000000000 + i * 0x2000000
/-- Page-table bank `b` of the polder whose home stack is at `home` (R144): in the first 32 MiB of the system area. -/
def ptBase (home b : Nat) : Nat := stackBase home + sysOff + b * 0x1000000

end Sys2Proof.Machine
end

