-- ==== Sys2Proof/Machine/Ops.lean ====
section
/-! DEFINITION. What every command is made of: the working state, the parts of the device by number, ownership, events, completion
records and interrupts. -/

namespace Sys2Proof.Machine

/-- The state a command works on: the memories as they stood, what the command has done to them, and the device. -/
structure W where
  base : Mem
  ops : List MemOp := []
  d : Dev

def State.w (s : State) : W := { base := s.mem, d := s.dev }

/-- The state after a command's work: the fuses and the waiting commands are not touched. -/
def State.commit (s : State) (w : W) : State := { s with mem := s.mem.applyAll w.ops, dev := w.d }

/-- A command whose whole effect is `f`. -/
def State.run (s : State) (f : W → W) : Host.Outcome State Fault Refusal := .next (s.commit (f s.w))

def W.cur (w : W) : Mem := w.base.applyAll w.ops
def W.read (w : W) (a n : Nat) : Bytes := w.cur.read a n
def W.write (w : W) (a : Nat) (bs : Bytes) : W := { w with ops := w.ops ++ [.write a bs] }
def W.zero (w : W) (a n : Nat) : W := { w with ops := w.ops ++ [.zero a n] }
def W.copyMem (w : W) (dst src n : Nat) : W := { w with ops := w.ops ++ [.copy dst src n] }
def W.dev (w : W) (f : Dev → Dev) : W := { w with d := f w.d }
/-- `f` when `c` holds; nothing otherwise. -/
def W.when (w : W) (c : Bool) (f : W → W) : W := if c then f w else w
/-- `f` on every element, in order. -/
def W.each {α : Type} (w : W) (l : List α) (f : W → α → W) : W := l.foldl f w
def W.emit (w : W) (o : Out) : W := { w with d := { w.d with out := o :: w.d.out } }
/-- A fresh number for a free value. -/
def W.fresh (w : W) : Nat × W := (w.d.freeCtr, { w with d := { w.d with freeCtr := w.d.freeCtr + 1 } })

/-! ## The parts of the device -/

def Dev.ring (d : Dev) (r : Nat) : Ring := tget {} d.rings r
def Dev.chan (d : Dev) (c : Nat) : Chan := tget {} d.chans c
def Dev.sluice (d : Dev) (i : Nat) : Sluice := tget {} d.sluices i
def Dev.ctx (d : Dev) (n : Nat) : Ctx := tget {} d.ctxs n
def Dev.pol (d : Dev) (p : Nat) : Pol := tget {} d.pols p
def Dev.grant (d : Dev) (g : Nat) : Nat := tget 0 d.grants g
def W.modRing (w : W) (r : Nat) (f : Ring → Ring) : W := { w with d := { w.d with rings := tmod {} w.d.rings r f } }
def W.modChan (w : W) (c : Nat) (f : Chan → Chan) : W := { w with d := { w.d with chans := tmod {} w.d.chans c f } }
def W.modSluice (w : W) (i : Nat) (f : Sluice → Sluice) : W := { w with d := { w.d with sluices := tmod {} w.d.sluices i f } }
def W.modCtx (w : W) (n : Nat) (f : Ctx → Ctx) : W := { w with d := { w.d with ctxs := tmod {} w.d.ctxs n f } }
def W.modPol (w : W) (p : Nat) (f : Pol → Pol) : W := { w with d := { w.d with pols := tmod {} w.d.pols p f } }
def W.modHub (w : W) (f : Hub → Hub) : W := { w with d := { w.d with hub := f w.d.hub } }
def W.modSec (w : W) (f : Sec → Sec) : W := { w with d := { w.d with sec := f w.d.sec } }
def W.modAon (w : W) (f : Aon → Aon) : W := { w with d := { w.d with aon := f w.d.aon } }
def W.modPower (w : W) (f : Power → Power) : W := { w with d := { w.d with power := f w.d.power } }
def W.modBist (w : W) (f : Bist → Bist) : W := { w with d := { w.d with bist := f w.d.bist } }
def W.modFabric (w : W) (f : Fabric → Fabric) : W := { w with d := { w.d with fabric := f w.d.fabric } }
def W.modJob (w : W) (p : Nat) (f : Job → Job) : W := w.modPol p fun P => { P with job := P.job.map f }

/-- `HUB_SITES` FILL (R454). -/
def fillOf (v : Nat) : Nat :=
  match v with
  | 0 => 0x1556A78B6A757
  | 1 => 0x3FEAAB8BAABAB
  | _ => 0x3FEEAF8BEAFAB
/-- What stands at a site (R440): 0 hub, 1 compute die without a stack, 2 with a stack, 3 link die; 4 beyond the grid. -/
def Dev.siteKind (d : Dev) (s : Nat) : Nat := if s < 25 then bits (fillOf d.variant) (2 * s + 1) (2 * s) else 4
def Dev.isCompute (d : Dev) (s : Nat) : Bool := d.siteKind s == 1 || d.siteKind s == 2
def Dev.isStacked (d : Dev) (s : Nat) : Bool := d.siteKind s == 2
def Dev.isLink (d : Dev) (s : Nat) : Bool := d.siteKind s == 3
def Dev.computeSites (d : Dev) : List Nat := (List.range 25).filter d.isCompute
def Dev.stackSites (d : Dev) : List Nat := (List.range 25).filter d.isStacked
/-- Link-die sites by ordinal (R293). -/
def Dev.linkSites (d : Dev) : List Nat := (List.range 25).filter d.isLink
def Dev.numPorts (d : Dev) : Nat := 3 * d.linkSites.length

/-- The state of site `s`; an unlisted stacked site holds a DIRTY stack (R449). -/
def Dev.die (d : Dev) (s : Nat) : Die := tget { stack := if d.isStacked s then 1 else 0 } d.dies s
def W.modDie (w : W) (s : Nat) (f : Die → Die) : W := { w with d := { w.d with dies := tset w.d.dies s (f (w.d.die s)) } }

/-- Logical array that a physical array serves at site `s`. -/
def Dev.logicalOf (d : Dev) (s phys : Nat) : Option Nat :=
  (List.range 8).find? fun n => bits (d.die s).lmap (4 * n + 3) (4 * n) == phys

/-- The reset state of bank `n` (R129, R450). -/
def Dev.bankReset (d : Dev) (n : Nat) : Bank :=
  if n < 100 then
    (if d.isCompute (n / 4) then { st := if n % 2 = 0 then 4 else 1 } else {})
  else if n < 150 then
    (if d.isCompute ((n - 100) / 2) then
      (if n % 2 = 0 then { st := 4, dflt := 0x3F800000 } else { st := 1 }) else {})
  else {}
def Dev.bank (d : Dev) (n : Nat) : Bank := tget (d.bankReset n) d.banks n
def W.modBank (w : W) (n : Nat) (f : Bank → Bank) : W := { w with d := { w.d with banks := tset w.d.banks n (f (w.d.bank n)) } }
/-- Function-table bank `b` of vector engine `e` at site `s`. -/
def fnBank (s e b : Nat) : Nat := 4 * s + 2 * e + b
/-- Smoothing bank `b` at site `s`. -/
def smBank (s b : Nat) : Nat := 100 + 2 * s + b
/-- Page-table bank `b` of polder `p`. -/
def ptBank (p b : Nat) : Nat := 150 + 2 * p + b

/-! ## Ownership (R194, R195, R233, R243, R260) -/

def Pol.hasSite (P : Pol) (s : Nat) : Bool := P.dies.testBit s
def Pol.hasPort (P : Pol) (n : Nat) : Bool := P.ports.testBit n
def Pol.hasRing (P : Pol) (r : Nat) : Bool := P.ringGrp.testBit (r / 64)
def Pol.hasSluice (P : Pol) (i : Nat) : Bool := P.sluGrp.testBit (i / 64)
def Pol.hasCtx (P : Pol) (n : Nat) : Bool := decide (P.ctxBase ≤ n ∧ n < P.ctxBase + P.ctxCount)
def Pol.hasChan (P : Pol) (c : Nat) : Bool := decide (P.chBase ≤ c ∧ c < P.chBase + P.chCount ∧ c ≠ 0)
def Pol.hasKey (P : Pol) (k : Nat) : Bool := decide (P.keyBase ≤ k ∧ k < P.keyBase + P.keyCount)

/-- The polder that is not EMPTY and satisfies `f`. -/
def Dev.polWhere (d : Dev) (f : Pol → Bool) : Option Nat :=
  (List.range 16).find? fun p => (d.pol p).st != 0 && f (d.pol p)
def Dev.ringPol (d : Dev) (r : Nat) : Option Nat := d.polWhere (·.hasRing r)
def Dev.sluPol (d : Dev) (i : Nat) : Option Nat := d.polWhere (·.hasSluice i)
def Dev.ctxPol (d : Dev) (n : Nat) : Option Nat := d.polWhere (·.hasCtx n)
def Dev.chanPol (d : Dev) (c : Nat) : Option Nat := d.polWhere (·.hasChan c)
def Dev.keyPol (d : Dev) (k : Nat) : Option Nat := d.polWhere (·.hasKey k)
def Dev.sitePol (d : Dev) (s : Nat) : Option Nat := d.polWhere (·.hasSite s)

/-- The function that drives polder `p` (R194): VF p + 1 while it is enabled, otherwise the PF. -/
def Dev.driver (d : Dev) (p : Nat) : Nat := if p + 1 ≤ d.hub.numVfs then p + 1 else 0
/-- Function `fn` is the PF or an enabled VF. -/
def Dev.fnOk (d : Dev) (fn : Nat) : Bool := decide (fn ≤ d.hub.numVfs)
/-- The polder of an enabled VF. -/
def vfPol (fn : Nat) : Nat := fn - 1
/-- Function `fn` reaches an instance that `p?` owns, on the path "PF, D". -/
def Dev.reachesPfD (_d : Dev) (fn : Nat) (p? : Option Nat) : Bool := fn == 0 || p? == some (vfPol fn)
/-- The function that owns a ring: its polder's driver, or the PF for an unallotted group (R430). -/
def Dev.ringFn (d : Dev) (r : Nat) : Nat := match d.ringPol r with
  | some p => d.driver p
  | none => 0

/-- Compute sites of polder `p`, ascending. -/
def Dev.polSites (d : Dev) (p : Nat) : List Nat := d.computeSites.filter (d.pol p).hasSite
/-- Stacked sites of polder `p`, ascending. -/
def Dev.polStacks (d : Dev) (p : Nat) : List Nat := d.stackSites.filter (d.pol p).hasSite
/-- The polder's compute dies that are not withdrawn from it (R16). -/
def Dev.jobSites (d : Dev) (p : Nat) : List Nat := (d.polSites p).filter fun s => !(d.die s).withdrawn
/-- The lowest-numbered stacked site (R144, R261). -/
def Dev.homeOf (d : Dev) (p : Nat) : Nat := (d.polStacks p).headD 0
def Dev.allClean (d : Dev) (p : Nat) : Bool := (d.polStacks p).all fun s => (d.die s).stack == 3
/-- Polder `p` may act: READY with every stack CLEAN (R155). -/
def Dev.polReady (d : Dev) (p : Nat) : Bool := (d.pol p).st == 2 && d.allClean p
/-- Firmware is RUNNING (R420). -/
def Dev.running (d : Dev) : Bool := d.sec.boot == 3

/-! ## Register errors (R437, R443) -/

/-- An access was ignored: IGNORED and `HUB_ERR_ADDR`. -/
def W.ignored (w : W) (fn off : Nat) : W :=
  w.modHub fun h => { h with ignored := true, errFn := fn, errWrite := true, errOff := off }
/-- An access was not supported: UNSUP and `HUB_ERR_ADDR` (R10). -/
def W.unsup (w : W) (fn off : Nat) (wr : Bool) : W :=
  w.modHub fun h => { h with unsup := true, errFn := fn, errWrite := wr, errOff := off }

/-! ## Interrupts (R230, R231) -/

def vecKey (fn vec : Nat) : Nat := fn * 2048 + vec
/-- Vectors that a function has. -/
def vecCount (fn : Nat) : Nat := if fn = 0 then 2048 else 256
/-- The entry of a vector in its function's MSI-X table. -/
def Dev.vec (d : Dev) (fn vec : Nat) : Vec := tget {} d.hub.vecs (vecKey fn vec)
def W.modVec (w : W) (fn vec : Nat) (f : Vec → Vec) : W := w.modHub fun h => { h with vecs := tmod {} h.vecs (vecKey fn vec) f }
/-- The function's Function Mask (R231: as PCI Express specifies). -/
def Dev.fnMasked (d : Dev) (fn : Nat) : Bool := (tget {} d.hub.pci fn).fnMask
/-- The message of a vector: the write its table entry names. -/
def Dev.msixMsg (d : Dev) (fn vec : Nat) : Out := .msix fn vec (d.vec fn vec).addr (d.vec fn vec).data
/-- Raising a vector: its message, or its pending bit while it or its function is masked. -/
def W.raise (w : W) (fn vec : Nat) : W :=
  if (w.d.vec fn vec).masked || w.d.fnMasked fn then w.modVec fn vec fun v => { v with pend := true }
  else w.emit (w.d.msixMsg fn vec)
/-- The vector of device-filled ring `r`, if EN is set. -/
def W.raiseRing (w : W) (r : Nat) : W :=
  let R := w.d.ring r
  if R.irqEn then (w.raise (w.d.ringFn r) R.vector).modRing r fun R => { R with since := 0 } else w

/-! ## Rings -/

def u32 (n : Nat) : Nat := n % 2 ^ 32
def sub32 (a b : Nat) : Nat := (a + 2 ^ 32 - b % 2 ^ 32) % 2 ^ 32
def Ring.size (R : Ring) : Nat := 2 ^ R.log2
/-- The host fills SUBMIT and REQUEST rings (R196). -/
def Ring.hostFills (R : Ring) : Bool := R.kind == 0 || R.kind == 2
/-- Bytes of an entry (R196). -/
def entrySize (kind : Nat) : Nat :=
  match kind with
  | 0 => 64
  | 1 => 32
  | 2 => 128
  | 3 => 64
  | _ => 32
/-- Entries of a device-filled ring that are neither written nor reserved. -/
def Ring.room (R : Ring) : Nat := R.size - sub32 R.tail R.head - R.reserved
/-- PHASE of the entry at index `i`: 1 on the first pass (R217). -/
def Ring.phase (R : Ring) (i : Nat) : Nat := 1 - (i / R.size) % 2
/-- Host address of entry `i`. -/
def Ring.entryAddr (R : Ring) (i : Nat) : Nat := R.base + (i % R.size) * entrySize R.kind

/-- A ring leaves ACTIVE: the entries read and not taken are dropped (R204). -/
def W.leaveActive (w : W) (r st cause : Nat) : W := w.modRing r fun R => { R with st := st, cause := cause, batch := [] }

/-! ## Events (R222, R223) -/

/-- The EVENT ring of a polder, or of the PF for 16, while it is configured (R442). -/
def Dev.eventRing (d : Dev) (t : Nat) : Option Nat :=
  let reg := if t = 16 then d.hub.eventRing else (d.pol t).eventRing
  let r := bits reg 12 0
  let owned := if t = 16 then (d.ringPol r).isNone else d.ringPol r == some t
  if reg.testBit 31 && owned && (d.ring r).st == 1 && (d.ring r).kind == 4 then some r else none

/-- An event for polder `t`, or for the PF with `t` = 16. -/
def W.event (w : W) (t status detail srcKind srcId info : Nat) : W :=
  let lose := w.modHub fun h => { h with lost := tmod 0 h.lost t (· + 1) }
  match w.d.eventRing t with
  | none => lose
  | some r =>
    let R := w.d.ring r
    if R.room = 0 then lose
    else
      let rec_ := toLe 8 R.seq ++ toLe 2 status ++ toLe 1 detail ++ toLe 1 srcKind ++ toLe 4 srcId ++ toLe 8 info ++
        toLe 2 0 ++ toLe 1 (min 255 (tget 0 w.d.hub.lost t)) ++ toLe 1 (R.phase R.tail) ++ toLe 4 0
      let w := w.emit (.hostWrite (R.entryAddr R.tail) rec_)
      let w := w.modRing r fun R => { R with tail := u32 (R.tail + 1), seq := R.seq + 1 }
      (w.modHub fun h => { h with lost := tset h.lost t 0 }).raiseRing r

/-- An event for the polder that owns ring `r`, or for the PF. -/
def W.ringEvent (w : W) (r status detail info : Nat) : W :=
  w.event ((w.d.ringPol r).getD 16) status detail 2 r info

/-! ## Status codes (R224) -/

def stOK : Nat := 0x0000
def stCANCELLED : Nat := 0x0001
def stRESERVED_NONZERO : Nat := 0x0010
def stVERSION_BAD : Nat := 0x0011
def stIMAGE_BAD : Nat := 0x0020
def stIMAGE_SLOTS_FULL : Nat := 0x0021
def stARG_BAD : Nat := 0x0022
def stTIMEOUT : Nat := 0x0023
def stABORTED_RESET : Nat := 0x0024
def stCOUNT_RANGE : Nat := 0x0025
def stINDEX_RANGE : Nat := 0x0026
def stSUMMARY_UNSET : Nat := 0x0027
def stADDRESS_FAULT : Nat := 0x0030
def stPAGE_FAULT : Nat := 0x0031
def stCHECK_MISMATCH : Nat := 0x0032
def stECC : Nat := 0x0033
def stTABLE_BAD : Nat := 0x0040
def stTABLE_BANK_BUSY : Nat := 0x0041
def stTABLE_BANK_ACTIVE : Nat := 0x0042
def stTABLE_TAG_MISMATCH : Nat := 0x0043
def stTABLE_MODE : Nat := 0x0044
def stTABLE_SLOT_EMPTY : Nat := 0x0045
def stGRANT_DENIED : Nat := 0x0050
def stCONTRIBUTION_BAD : Nat := 0x0060
def stMEMBER_LOST : Nat := 0x0061
def stREMOTE_UNREACHABLE : Nat := 0x0062
def stKEY_SLOT_DENIED : Nat := 0x0070
def stKEY_BAD : Nat := 0x0071
def stHOST_READ_FAULT : Nat := 0x0080
def stCHANNEL_STATE : Nat := 0x0081
def stCHANNEL_LIMIT : Nat := 0x0082
def stINTERRUPTED : Nat := 0x0090
def stSELFTEST_FAIL : Nat := 0x0091
def stREQUEST_BAD : Nat := 0x00A0
def stPAGES_EXHAUSTED : Nat := 0x00A1
def stRESIDENCY_STARVED : Nat := 0x00C0
def stFLOOR_UNMET : Nat := 0x00C1
def stDOORBELL_OVERRUN : Nat := 0x00C2
def stRING_FAULT : Nat := 0x00C3
def stEVIDENCE : Nat := 0x00C4
def stARRAY_QUARANTINED : Nat := 0x00C5
def stDIE_WITHDRAWN : Nat := 0x00C6

/-! ## Completion records (R217 to R221) -/

/-- What a completion record says beside its identity. -/
structure Compl where
  status : Nat := 0
  detail : Nat := 0
  flags : Nat := 0
  check : Nat := 0
  info : Nat := 0

/-- TYPE of a descriptor (R207). -/
def dType (b : Bytes) : Nat := fld b 0 1
def dVer (b : Bytes) : Nat := fld b 1 1
/-- IRQ and QUIET of a descriptor, the latter under its own version (R207, R232). -/
def dIrq (b : Bytes) : Bool := (fld b 2 2).testBit 0
def dQuiet (b : Bytes) : Bool := dVer b == 0x21 && (fld b 2 2).testBit 1

/-- The 32 bytes of a completion record (R217). -/
def recordBytes (r : Nat) (size : Nat) (D : Desc) (phase : Nat) (c : Compl) : Bytes :=
  toLe 8 D.seq ++ toLe 2 r ++ toLe 2 (D.seq % size) ++ toLe 2 c.status ++ toLe 1 c.flags ++ toLe 1 c.detail ++
    toLe 4 c.check ++ toLe 4 c.info ++ toLe 2 0 ++ toLe 1 (dType D.bytes) ++ toLe 1 phase ++ toLe 4 0

/-- The descriptor in progress on ring `r` completes: its record, or none under QUIET (R220), the vector, and the ring is free for its next
descriptor. -/
def W.complete (w : W) (r : Nat) (c : Compl) : W :=
  let R := w.d.ring r
  match R.desc with
  | none => w
  | some D =>
    let q := R.cq
    let Q := w.d.ring q
    let w := (w.modRing r fun R => { R with desc := none }).modRing q fun Q => { Q with reserved := Q.reserved - 1 }
    if dQuiet D.bytes && c.status == stOK then w
    else
      let w := w.emit (.hostWrite (Q.entryAddr Q.tail) (recordBytes r R.size D (Q.phase Q.tail) c))
      let w := w.modRing q fun Q => { Q with tail := u32 (Q.tail + 1), since := Q.since + 1 }
      if dIrq D.bytes || Q.since + 1 ≥ Q.coal + 1 then w.raiseRing q else w

/-- A record with a status and a detail alone. -/
def W.completeSt (w : W) (r status : Nat) (detail : Nat := 0) : W := w.complete r { status := status, detail := detail }

/-- The shadow write of R205. -/
def W.shadow (w : W) (r : Nat) : W :=
  let R := w.d.ring r
  w.emit (.hostWrite R.shadow (toLe 4 R.head ++ toLe 4 0))

/-- The tag of host read number `t` on the link: 14 bits (R191). -/
def linkTag (t : Nat) : Nat := t % 2 ^ 14
/-- A host read is issued for `why`; its number is returned. -/
def W.hostRead (w : W) (addr len : Nat) (why : ReadFor) : Nat × W :=
  let t := w.d.hub.readTag
  let w := w.modHub fun h =>
    { h with readTag := t + 1, reads := h.reads ++ [{ tag := t, addr := addr, len := len, purpose := why }] }
  (t, w.emit (.hostRead (linkTag t) addr len))
/-- A host read whose answer the command itself carries is issued. -/
def W.askHost (w : W) (addr len : Nat) : W :=
  (w.modHub fun h => { h with readTag := h.readTag + 1 }).emit (.hostRead (linkTag w.d.hub.readTag) addr len)
/-- The read with tag `t`. -/
def Dev.hread (d : Dev) (t : Nat) : Option HRead := d.hub.reads.find? (·.tag == t)
def W.dropRead (w : W) (t : Nat) : W := w.modHub fun h => { h with reads := h.reads.filter (·.tag != t) }
def W.dropReads (w : W) (f : ReadFor → Bool) : W := w.modHub fun h => { h with reads := h.reads.filter fun x => !f x.purpose }

/-- LAYOUT_GEN counts changes of polder or stack state (R399). -/
def W.layout (w : W) : W := w.modSec fun s => { s with layoutGen := u32 (s.layoutGen + 1) }
/-- A stack changes state (R155). -/
def W.setStack (w : W) (s st : Nat) : W := (w.modDie s fun D => { D with stack := st }).layout
/-- A polder changes state (R262). -/
def W.setPolSt (w : W) (p st : Nat) : W := (w.modPol p fun P => { P with st := st }).layout

/-- Counters of R385. -/
def W.polErr (w : W) (p k n : Nat) : W := w.modPol p fun P => { P with errCnt := lset P.errCnt k (sat64 (lget 0 P.errCnt k + n)) }
def W.hubErr (w : W) (k n : Nat) : W := w.modHub fun h => { h with errCnt := lset h.errCnt k (sat64 (lget 0 h.errCnt k + n)) }

end Sys2Proof.Machine
end

