-- ==== Sys2Proof/Machine/Operands.lean ====
section
/-! DEFINITION. How an operand in memory is reached: the device-local map, who may reach what, sealed ranges, check codes, and the
single-block merge that a write makes (R137 to R151, R157, R159). -/

namespace Sys2Proof.Machine

/-- Detail codes of R157. -/
def dUNPOPULATED : Nat := 1
def dNOT_OWNER : Nat := 2
def dWINDOW_RO : Nat := 3
def dRESERVED_BITS : Nat := 4
def dPT_INDEX : Nat := 5
def dPT_INVALID : Nat := 6
def dPT_READONLY : Nat := 7
def dSP_DOUBLE : Nat := 8
def dSTACK_UE : Nat := 9
def dCODE_MISMATCH : Nat := 10
def dPATROL : Nat := 11

/-- Who asks for memory (R143). -/
inductive Req where
  | dma
  /-- A COPY descriptor or a bulk channel. -/
  | copy
  | remote
  /-- Hub firmware of a service polder, which alone reaches system areas (R144). -/
  | firmware
  deriving DecidableEq, Repr

/-- The window of R137 in which an address lies, with the offset. -/
inductive Region where
  | stack (s off : Nat)
  | sp (s off : Nat)
  | pt (p b off : Nat)
  | slu (i off : Nat)
  | code (s off : Nat)
  | none
  deriving DecidableEq, Repr

/-- R137. -/
def region (a : Nat) : Region :=
  if a < 0x32000000000 then .stack (a / 0x2000000000) (a % 0x2000000000)
  else if 0x200000000000 ≤ a ∧ a < 0x200000000000 + 25 * 0x8000000 then
    .sp ((a - 0x200000000000) / 0x8000000) (a % 0x8000000)
  else if 0x210000000000 ≤ a ∧ a < 0x210000000000 + 16 * 0x2000000 then
    .pt ((a - 0x210000000000) / 0x2000000) ((a / 0x1000000) % 2) (a % 0x1000000)
  else if 0x220000000000 ≤ a ∧ a < 0x220000000000 + 8192 * 64 then .slu ((a - 0x220000000000) / 64) (a % 64)
  else if 0x230000000000 ≤ a ∧ a < 0x230000000000 + 25 * 0x8000000 then
    .code ((a - 0x230000000000) / 0x8000000) (a % 0x8000000)
  else .none

/-- Ranges of polder `P` that refuse every write: registered images, RO slots of its job, its warm-up and the jobs still to start whose warm-up was
cancelled, the collective table, the service block and its tables (R159, R163, R190, R267, R326). -/
def Pol.sealedRanges (P : Pol) : List (Nat × Nat) :=
  P.imgs.map (fun i => (i.addr, i.len)) ++
    (match P.job with
      | some j => j.ro
      | none => []) ++
    (match P.warm with
      | some x => x.ro
      | none => []) ++
    P.waitRo.flatMap Prod.snd ++
    (if P.coll.valid then P.coll.ranges else []) ++ (if P.svc.st ≠ 0 then P.svc.ranges else [])

/-- How far from `a` a write runs free of the ranges: the start of the next one, or `a` itself inside one. -/
def sealLimit (l : List (Nat × Nat)) (a lim : Nat) : Nat :=
  l.foldl (fun lim (b, n) => if b ≤ a ∧ a < b + n then a else if a < b ∧ b < lim then b else lim) lim

/-- Size of a page-table bank's window; two full banks of a polder follow one another without a hole (R137). -/
def ptWindow : Nat := 0x1000000

/-- What access by `req` of polder `p` at `a` finds: the first address beyond `a` that is no longer allowed, or the detail of the refusal
(R138, R139, R143 to R145, R159). -/
def Dev.access (d : Dev) (req : Req) (p a : Nat) (wr : Bool) : Except Nat Nat :=
  let sealed (lim : Nat) : Except Nat Nat :=
    if wr then
      let l := sealLimit (d.pol p).sealedRanges a lim
      if l = a then .error dWINDOW_RO else .ok l
    else .ok lim
  match region a with
  | .none => .error dUNPOPULATED
  | .stack s off =>
    if !d.isStacked s || off ≥ stackSize then .error dUNPOPULATED
    else if d.sitePol s ≠ some p || (d.die s).stack ≠ 3 then .error dNOT_OWNER
    else if off ≥ sysOff && req ≠ .firmware then .error dWINDOW_RO
    else sealed (stackBase s + (if req = .firmware then stackSize else sysOff))
  | .sp s off =>
    if !d.isCompute s || off ≥ spSize then .error dUNPOPULATED
    else if d.sitePol s ≠ some p then .error dNOT_OWNER
    else sealed (spBase s + spSize)
  | .pt q b off =>
    let n := (d.pol q).ptEntries * 8
    if (d.pol q).st = 0 || off ≥ n then .error dUNPOPULATED
    else if wr then .error dWINDOW_RO
    else if req = .remote || q ≠ p || (d.die (d.pol q).home).stack ≠ 3 then .error dNOT_OWNER
    else .ok (a - off + (if b = 0 ∧ n = ptWindow then 2 * ptWindow else n))
  | .slu _ off => if off < 8 then .error dWINDOW_RO else .error dUNPOPULATED
  | .code s off =>
    if !d.isStacked s || off ≥ stackSize / 1024 then .error dUNPOPULATED
    else if wr then .error dWINDOW_RO
    else if req = .remote || d.sitePol s ≠ some p || (d.die s).stack ≠ 3 then .error dNOT_OWNER
    else .ok (a - off + stackSize / 1024)

/-- How many of `n` bytes from `a` the access reaches, and the detail of the refusal that stops it. -/
def Dev.reach (d : Dev) (req : Req) (p a n : Nat) (wr : Bool) : Nat × Option Nat :=
  if n = 0 then (0, none)
  else match d.access req p a wr with
    | .error e => (0, some e)
    | .ok lim =>
      if a + n ≤ lim then (n, none)
      else match d.access req p lim wr with
        | .error e => (lim - a, some e)
        | .ok _ => (lim - a, some dUNPOPULATED)

/-- The whole range is reached. -/
def Dev.reachAll (d : Dev) (req : Req) (p a n : Nat) (wr : Bool) : Option Nat := (d.reach req p a n wr).2

/-- The check code of the tensor block at window offset `o` of stack `s`: it always matches the block's contents (R148, R149). -/
def W.code (w : W) (s o : Nat) : Nat := crc32c (w.read (stackBase s + o / 4096 * 4096) 4096)

/-- Bytes as the map shows them: memory, a page-table bank through its window, or check codes. -/
def W.readDev (w : W) (a n : Nat) : Bytes :=
  match region a with
  | .pt p b off => w.read (ptBase (w.d.pol p).home b + off) n
  | .code s off =>
    let first := off / 4
    let count := ceilDiv (off + n) 4 - first
    slice ((List.range count).flatMap fun i => toLe 4 (w.code s ((first + i) * 4096))) (off % 4) n
  | _ => w.read a n

/-- Site of the memory at an address, for counters. -/
def siteOf (a : Nat) : Nat :=
  match region a with
  | .stack s _ => s
  | .sp s _ => s
  | _ => 12

/-- Corrections of scratchpads and of stacks, over all sites. -/
def MemFx.spN (fx : MemFx) : Nat := (fx.sp.map Prod.snd).sum
def MemFx.dramN (fx : MemFx) : Nat := (fx.dram.map Prod.snd).sum

/-- The registers of the sites whose memories were read (R142, R146). -/
def W.countSites (w : W) (fx : MemFx) : W :=
  let w := w.each fx.sp fun w (s, n) => if s < 25 then w.modDie s fun D => { D with spEcc := sat64 (D.spEcc + n) } else w
  w.each fx.dram fun w (s, n) => if s < 25 then w.modDie s fun D => { D with stackEcc := sat64 (D.stackEcc + n) } else w

/-- Corrections that a reading for polder `p` met (R142, R146, R151): counters of the sites and of the polder. -/
def W.countFx (w : W) (p : Nat) (fx : MemFx) : W :=
  (((w.countSites fx).polErr p 1 fx.retry).polErr p 2 (MemFx.spN fx)).polErr p 3 (MemFx.dramN fx)

/-- Status and detail of a failure that a reading meets (R142, R146, R151). -/
def MemFail.code : MemFail → Option (Nat × Nat)
  | .none => none
  | .spDouble _ => some (stECC, dSP_DOUBLE)
  | .stackUE _ => some (stECC, dSTACK_UE)
  | .codeBad _ => some (stCHECK_MISMATCH, dCODE_MISMATCH)

/-- The address at which a reading fails. -/
def MemFail.addr : MemFail → Nat
  | .none => 0
  | .spDouble a => a
  | .stackUE a => a
  | .codeBad a => a

/-- Check summary of R221 from its four counts. -/
def checkSummary (retry checker sp dram : Nat) : Nat :=
  min 255 retry + 0x100 * min 255 checker + 0x10000 * min 255 sp + 0x1000000 * min 255 dram

def fxSummary (fx : MemFx) : Nat := checkSummary fx.retry 0 (MemFx.spN fx) (MemFx.dramN fx)

/-- Corrections of two readings together. -/
def MemFx.plus (a b : MemFx) : MemFx := { sp := a.sp ++ b.sp, dram := a.dram ++ b.dram, retry := a.retry + b.retry }

/-- The address that the report of a failure names: the 64-bit word, or the 4 KiB block (R142, R146, R151, R157). -/
def MemFail.place : MemFail → Nat
  | .none => 0
  | .spDouble a => a / 8 * 8
  | .stackUE a => a / 4096 * 4096
  | .codeBad a => a / 4096 * 4096

/-- The report of a failed reading to the polder that owns the memory, with the site and the word or block (R142, R146, R151, R157); polder `p` read
it. Its form, an event laid out as the patrol's, is the model's (DESIGN CHOICE, entry 48). -/
def W.memReport (w : W) (p : Nat) (fail : MemFail) : W :=
  match MemFail.code fail with
  | none => w
  | some (st, det) => w.event ((w.d.sitePol (siteOf (MemFail.addr fail))).getD p) st det 5 (siteOf (MemFail.addr fail)) (MemFail.place fail)

end Sys2Proof.Machine
end

