-- ==== Sys2Proof/Machine/Banks.lean ====
section
/-! DEFINITION. The double-bank rule of function tables, smoothing vectors and page tables (R122 to R129), and the scrubs (R401). -/

namespace Sys2Proof.Machine

/-- Bank numbers that a TARGET's bank `b` names in polder `p`: every engine's, every transform unit's, or the polder's (R123, R104, R153). -/
def Dev.targetBanks (d : Dev) (p target b : Nat) : List Nat :=
  match target with
  | 0 => (d.polSites p).flatMap fun s => [fnBank s 0 b, fnBank s 1 b]
  | 1 => (d.polSites p).map fun s => smBank s b
  | _ => [ptBank p b]

/-- Banks go to their reset state (R128, R129). -/
def W.resetBanks (w : W) (p : Nat) : W :=
  w.each ((w.d.polSites p).flatMap fun s => [fnBank s 0 0, fnBank s 0 1, fnBank s 1 0, fnBank s 1 1, smBank s 0, smBank s 1])
    fun w n => w.modBank n fun _ => w.d.bankReset n

/-- Page-table banks at formation and at a polder reset: bank 0 ACTIVE with tag 0, bank 1 EMPTY, all entries zero (R450). -/
def W.resetPt (w : W) (p : Nat) : W :=
  let h := w.d.homeOf p
  (((w.modBank (ptBank p 0) fun _ => { st := 4 }).modBank (ptBank p 1) fun _ => { st := 1 }).zero (ptBase h 0) 0x1000000).zero (ptBase h 1)
    0x1000000

/-- A refused load of a bank (R122, R126), by its state. -/
def Bank.loadRefused (B : Bank) : Option Nat :=
  if B.st = 2 ∨ B.st = 5 then some stTABLE_BANK_BUSY
  else if B.st = 4 then some stTABLE_BANK_ACTIVE
  else if B.st = 3 ∧ B.locked then some stTABLE_BANK_BUSY
  else none

/-- The activation of R124 on the double bank at numbers `n` and `n + 1`: the banks to be exchanged, nothing, or the refusal. -/
inductive Act where
  | already
  /-- The READY bank and the ACTIVE one. -/
  | exchange (ready active : Nat)
  | refused (status : Nat)
  deriving DecidableEq, Repr

def Dev.activation (d : Dev) (n tag : Nat) : Act :=
  let active := if (d.bank n).st = 4 then n else n + 1
  let other := if (d.bank n).st = 4 then n + 1 else n
  let A := d.bank active
  let B := d.bank other
  if A.st = 4 ∧ A.tag = tag then .already
  else if B.st = 3 ∧ B.tag = tag then .exchange other active
  else if B.st = 2 ∨ B.st = 5 then .refused stTABLE_BANK_BUSY
  else .refused stTABLE_TAG_MISMATCH

/-- The exchange of roles: READY becomes ACTIVE, ACTIVE becomes DRAINING. -/
def W.exchange (w : W) (ready active : Nat) : W :=
  (w.modBank ready fun B => { B with st := 4, locked := false }).modBank active fun B => { B with st := 5 }

/-- A site's on-die state is cleared (R401): scratchpad, arrays, count slots, summary words, tokens, engine flags. -/
def W.scrubDie (w : W) (s : Nat) : W :=
  (w.modDie s fun D => { D with arrays := [], tokens := [], counts := [], sums := [], flags := [] }).zero (spBase s) spSize

/-- Clears polder `p`'s landing range on every link die (R327, R401). -/
def W.scrubLanding (w : W) (p : Nat) : W :=
  w.each (List.range w.d.linkSites.length) fun w i =>
    w.zero (landBase i + (w.d.pol p).landOff * 0x10000) ((w.d.pol p).landSize * 0x10000)

/-- A TABLE_LOAD in progress whose banks are reset ends with ABORTED_RESET (R128). -/
def Dev.tableLoads (d : Dev) (p : Nat) : List Nat :=
  (d.rings.filter fun (r, R) => d.ringPol r == some p && (match R.desc with
    | some D => dType D.bytes == 5 && fld D.bytes 8 1 % 16 < 2 && !D.held
    | none => false)).map Prod.fst

/-- The tenant-switch scrub of polder `p` (R401, R128, R129). -/
def W.tenantScrub (w : W) (p : Nat) : W :=
  let w := w.each (w.d.tableLoads p) fun w r =>
    (w.dropReads fun f => f == .descData r).completeSt r stABORTED_RESET
  let w := w.each (w.d.polSites p) fun w s => w.scrubDie s
  (w.resetBanks p).scrubLanding p

end Sys2Proof.Machine
end

