-- ==== Sys2Proof/Machine/Sched.lean ====
section
/-! DEFINITION. The context scheduler (R243 to R251) and the taking of descriptors (R204 to R209). -/

namespace Sys2Proof.Machine

/-- Rings of context `n` of polder `p`. -/
def Dev.ctxRings (d : Dev) (p n : Nat) : List Nat :=
  (d.rings.filter fun (r, R) => (d.pol p).hasRing r && R.owner == n).map Prod.fst

/-- The ring holds a WAIT in progress. -/
def Ring.waits (R : Ring) : Bool := match R.desc with
  | some D => D.waiting
  | none => false
/-- A descriptor is in progress, other than a WAIT. -/
def Ring.runs (R : Ring) : Bool := match R.desc with
  | some D => !D.waiting
  | none => false
/-- There are entries between head and recorded tail that no WAIT holds back (R245). -/
def Ring.hasWork (R : Ring) : Bool := R.hostFills && R.st == 1 && R.head != R.tail && !R.waits

/-- ACT of an enabled context (R245): 0 IDLE, 1 READY, 2 RUNNING, 3 BLOCKED. -/
def Dev.activity (d : Dev) (p n : Nat) : Nat :=
  let rs := (d.ctxRings p n).map d.ring
  if rs.any Ring.runs then 2 else if rs.any Ring.hasWork then 1 else if rs.any Ring.waits then 3 else 0

/-- Enabled contexts of polder `p`. -/
def Dev.polCtxs (d : Dev) (p : Nat) : List Nat :=
  (d.ctxs.filter fun (n, C) => (d.pol p).hasCtx n && C.enable).map Prod.fst

/-- Activities, the instants they were entered, and the order of becoming pending are brought up to date. -/
def W.refresh (w : W) (p : Nat) : W :=
  w.each (w.d.polCtxs p) fun w n =>
    let C := w.d.ctx n
    let a := w.d.activity p n
    let w := if a = C.act then w else w.modCtx n fun C => { C with act := a, since := w.d.aon.hub }
    let pending := a = 1 && C.res == 1
    if pending && C.pend == 0 then
      (w.modHub fun h => { h with pendCtr := h.pendCtr + 1 }).modCtx n fun C => { C with pend := w.d.hub.pendCtr + 1 }
    else if !pending && C.pend != 0 then w.modCtx n fun C => { C with pend := 0 }
    else w

/-- The context that satisfies `f` with the least `key`. -/
def Dev.minCtx (d : Dev) (p : Nat) (f : Ctx → Bool) (key : Ctx → Nat) : Option Nat :=
  (d.polCtxs p).foldl (fun best n =>
    if f (d.ctx n) then
      match best with
      | some m => if key (d.ctx n) < key (d.ctx m) then some n else best
      | none => some n
    else best) none

/-- A resident slot of polder `p` that is free (R246). -/
def Dev.freeSlot (d : Dev) (p : Nat) : Option Nat :=
  let used := (d.ctxs.filter fun (n, C) => (d.pol p).hasCtx n && (C.res == 2 || C.res == 3 || C.res == 4)).map fun x => x.2.slot
  (d.pol p).slotIds.find? fun i => !used.contains i
/-- The slots that a polder of POL_SLOTS `n` owns from its formation on (R246): the lowest that no other polder owns (DESIGN CHOICE, entry 58). -/
def Dev.ownSlots (d : Dev) (n : Nat) : List Nat :=
  let taken := d.pols.flatMap fun x => x.2.slotIds
  ((List.range 512).filter fun i => !taken.contains i).take n

/-- Host address of context `n`'s save record (R247). -/
def Dev.saveAddr (d : Dev) (p n : Nat) : Nat := (d.pol p).saveBase + (n - (d.pol p).ctxBase) * 256

/-- An eviction (R250 steps 1 to 3): the record is sealed and written, the slot is free. -/
def W.evict (w : W) (p n : Nat) : W :=
  let C := w.d.ctx n
  let gen := u32 (C.gen + 1)
  let rec_ := toLe 2 n ++ toLe 2 2 ++ toLe 4 gen ++ toLe 8 0 ++
    (Config.sealRecord w.d.sealEpoch n gen C.budget C.tenant ++ zeros 240).take 240
  (w.emit (.hostWrite (w.d.saveAddr p n) rec_)).modCtx n fun C => { C with res := 1, gen := gen, record := some rec_ }

/-- A load (R250 step 4): a context never saved is RESIDENT at once. -/
def W.load (w : W) (p n slot : Nat) : W :=
  let C := w.d.ctx n
  match C.record with
  | none => w.modCtx n fun C => { C with res := 3, slot := slot, pend := 0 }
  | some _ =>
    let (_, w) := w.hostRead (w.d.saveAddr p n) 256 (.saveRec n)
    w.modCtx n fun C => { C with res := 2, slot := slot, pend := 0 }

/-- One pending context of polder `p` is served by R248 and R249, if it can be. -/
def W.serveOne (w : W) (p : Nat) : Option W :=
  match w.d.minCtx p (fun C => C.pend != 0) (·.pend) with
  | none => none
  | some n =>
    match w.d.freeSlot p with
    | some slot => some (w.load p n slot)
    | none =>
      if (w.d.pol p).saveBase = 0 then none
      else
        let resident (C : Ctx) : Bool := C.res == 3
        match w.d.minCtx p (fun C => resident C && C.act == 0) (·.since) with
        | some m => some ((w.evict p m).load p n (w.d.ctx m).slot)
        | none =>
          if (w.d.polCtxs p).all fun m => !resident (w.d.ctx m) || (w.d.ctx m).act == 3 then
            match w.d.minCtx p (fun C => resident C && C.act == 3) (·.since) with
            | some m =>
              some (((w.modPol p fun P => { P with evictBlocked := sat64 (P.evictBlocked + 1) }).evict p m).load p n (w.d.ctx m).slot)
            | none => none
          else none

/-- Pending contexts of polder `p` are served in turn. -/
def W.serve (p : Nat) : Nat → W → W
  | 0, w => w
  | k + 1, w => match w.serveOne p with
    | some w' => W.serve p k (w'.refresh p)
    | none => w

/-- RESIDENCY_STARVED, once for each episode (R249). -/
def W.starve (w : W) (p : Nat) : W :=
  let P := w.d.pol p
  match w.d.minCtx p (fun C => C.pend != 0) (·.pend) with
  | some n =>
    if P.saveBase = 0 && (w.d.freeSlot p).isNone then
      if P.starving then w
      else (w.modPol p fun P => { P with starving := true, starved := sat64 (P.starved + 1) }).event 16 stRESIDENCY_STARVED 0 1 p n
    else w.modPol p fun P => { P with starving := false }
  | none => if P.starving then w.modPol p fun P => { P with starving := false } else w

/-- The hold of a table descriptor on other tenants' jobs ends when no ring of its context has an entry between its head and its recorded
tail (R256). -/
def W.endTblHold (w : W) (p : Nat) : W :=
  if (w.d.pol p).tblCtx.isEmpty then w
  else
    let busy (c : Nat) : Bool := (w.d.ctxRings p c).any fun r => let R := w.d.ring r; R.hostFills && R.st == 1 && R.head != R.tail
    w.modPol p fun P => { P with tblCtx := P.tblCtx.filter busy }

/-- A slot that has become free ends the episode of RESIDENCY_STARVED, whoever takes it (R249). -/
def W.endStarving (w : W) (p : Nat) : W :=
  if (w.d.pol p).starving && (w.d.freeSlot p).isSome then w.modPol p fun P => { P with starving := false } else w

/-- The scheduler's work on polder `p` after a change. -/
def W.settlePol (w : W) (p : Nat) : W :=
  if (w.d.pol p).st = 2 then
    let w := ((w.refresh p).endTblHold p).endStarving p
    (W.serve p (w.d.polCtxs p).length w).starve p
  else w

/-- The scheduler's work after a change, on every polder. -/
def W.settle (w : W) : W := w.each (List.range 16) fun w p => if (w.d.pol p).st = 0 then w else w.settlePol p

/-! ## Taking descriptors -/

/-- The SUBMIT ring's next descriptor can be taken (R203, R206, R208, R209, R246): read, nothing in progress, a completion entry free, context
RESIDENT, polder ready. -/
def Dev.takeable (d : Dev) (r : Nat) : Option Bytes :=
  let R := d.ring r
  match d.ringPol r, R.batch with
  | some p, e :: _ =>
    if R.kind == 0 && R.st == 1 && R.desc.isNone && (d.ctx R.owner).res == 3 && (d.pol p).hasCtx R.owner &&
      decide ((d.ring R.cq).room > 0) && d.polReady p && d.running
    then some e else none
  | _, _ => none

/-- The hub takes the descriptor at the head of ring `r` (R204, R205, R209, R217). -/
def W.take (w : W) (r : Nat) (waiting : Bool := false) : W :=
  let R := w.d.ring r
  match R.batch with
  | [] => w
  | e :: rest =>
    let w := w.modRing r fun R =>
      { R with head := u32 (R.head + 1), seq := R.seq + 1, batch := rest, desc := some { bytes := e, seq := R.seq, waiting := waiting } }
    (w.modRing R.cq fun Q => { Q with reserved := Q.reserved + 1 }).shadow r

/-- The version a function has selected (R232). -/
def Dev.ifSel (d : Dev) (fn : Nat) : Nat := (tget (0x20, false) d.hub.ifSel fn).1

/-- Step 1 of R208: VER supported and allowed. -/
def Dev.verOk (d : Dev) (fn ver : Nat) : Bool := ver == 0x20 || (ver == 0x21 && d.ifSel fn == 0x21)

/-- The header's reserved fields under the layout of its VER (R207). -/
def headOk (b : Bytes) : Bool :=
  let f := fld b 2 2
  decide (f < (if dVer b = 0x21 then 4 else 2)) && fld b 4 4 == 0

/-- Steps 1 and 2 of R208 for a descriptor of ring `r` whose TYPE's own layout conditions are `layout`: the status that refuses it. -/
def Dev.descRefused (d : Dev) (r : Nat) (b : Bytes) (layout : Bool) : Option Nat :=
  if !d.verOk (d.ringFn r) (dVer b) then some stVERSION_BAD
  else if !headOk b || !layout then some stRESERVED_NONZERO
  else none

/-- Taking a descriptor of ring `r`, of which `want` says whether the command is the one for it: refused descriptors complete, the others
go to `f` once they are in progress. -/
def W.takeFor (w : W) (r : Nat) (want : Bytes → Bool) (layout : Bytes → Bool) (f : W → Bytes → W) : W :=
  match w.d.takeable r with
  | none => w
  | some b =>
    if !want b then w
    else
      let refused := w.d.descRefused r b (layout b)
      let w := w.take r
      match refused with
      | some st => (w.completeSt r st).settle
      | none => (f w b).settle

end Sys2Proof.Machine
end

