-- ==== Sys2Proof/Machine/JobOps.lean ====
section
/-! DEFINITION. The parts of a running job that every step shares: queues, faulting steps, flags, counts of corrections (R52, R165 to R172, R186,
R221). -/

namespace Sys2Proof.Machine

def Job.queue (j : Job) (d q : Nat) : Queue := tget {} j.qs (16 * d + q)
def Job.setQueue (j : Job) (d q : Nat) (f : Queue → Queue) : Job := { j with qs := tmod {} j.qs (16 * d + q) f }
/-- The wait tokens that a step still has to take: a pass that restarts has taken them (R78, R170). -/
def Queue.needs (Q : Queue) (waits : List Nat) : List Nat := if Q.pos < Q.taken then [] else waits
/-- The queue after its next step was issued: an array goes on to the next pass, every other queue is busy (R61, R172). -/
def Queue.issue (Q : Queue) (q : Nat) : Queue :=
  if q < 8 then { Q with pos := Q.pos + 1, taken := max Q.taken (Q.pos + 1) } else { Q with busy := true }
/-- The queue when its step in progress released or faulted; of an array, the pass issued last. -/
def Queue.done (Q : Queue) (q : Nat) : Queue :=
  if q < 8 then { Q with flights := Q.flights.filter fun f => f.pos + 1 != Q.pos } else { pos := Q.pos + 1 }
/-- Position of the step issued last. -/
def Queue.now (Q : Queue) (q : Nat) : Nat := if q < 8 then Q.pos - 1 else Q.pos
/-- Site of logical die `d` (R160). -/
def Job.site (j : Job) (d : Nat) : Nat := lget 12 j.dies d
/-- The logical die at a site. -/
def Job.ldie (j : Job) (s : Nat) : Option Nat := j.dies.findIdx? (· == s)

/-- The job of polder `p` while its steps may run. -/
def Dev.runningJob (d : Dev) (p : Nat) : Option Job :=
  match (d.pol p).job with
  | some j => if j.stage = .running then some j else none
  | none => none

/-- FTZ of an engine (R49, R161): bit 0 arrays, 1 vector engines, 2 transform units, 3 collective slices. -/
def Job.ftzOf (j : Job) (k : Nat) : Bool := j.ftz.testBit k

/-- Flags raised by queue `q` of die `d` (R52). -/
def W.raiseFlags (w : W) (p d q fl : Nat) : W :=
  match (w.d.pol p).job with
  | none => w
  | some j => w.modDie (j.site d) fun D => { D with flags := tset D.flags q (tget 0 D.flags q ||| fl) }

/-- The flags that the accumulators of a tile still hold: those of its K-blocks so far, where no special rule decides (R46, R52). -/
def AccBank.heldFlags (B : AccBank) : Nat :=
  if B.open_ then (if B.cur then B.h1 else B.h0).foldl (fun f a =>
    f ||| (if a.sp.testBit 0 then 0 else if a.sp.testBit 1 || (a.sp.testBit 2 && a.sp.testBit 3) then fInvalid else if a.sp = 0 then a.fl else 0)) 0
  else 0
/-- The flags that open tiles of a die hold, which the engine has raised when the job ends before their last pass (R52). -/
def Die.heldFlags (D : Die) : Nat := D.arrays.foldl (fun f A => A.2.banks.foldl (fun f B => f ||| B.2.heldFlags) f) 0

/-- The flag summary of a job: the OR of the flags of every engine it used, and of its collectives (R52, R336). -/
def Dev.flagSummary (d : Dev) (j : Job) : Nat :=
  j.dies.foldl (fun a s => (d.die s).flags.foldl (fun a x => a ||| x.2) (a ||| (d.die s).heldFlags)) j.flags

/-- The check summary of a job (R221). -/
def Job.check (j : Job) : Nat := checkSummary j.codeRetry j.checker j.spCorr j.dramCorr

/-- Corrections that a step of polder `p` met, in the job's check summary and the counters. -/
def W.jobFx (w : W) (p : Nat) (fx : MemFx) : W :=
  (w.countFx p fx).modJob p fun j =>
    { j with codeRetry := j.codeRetry + fx.retry, spCorr := j.spCorr + (MemFx.spN fx), dramCorr := j.dramCorr + (MemFx.dramN fx) }

/-- The step in progress of a queue, for an array the pass issued last, is faulting: it releases no token, and the steps behind it run as if it had
not faulted (R186). -/
def W.stepFault (w : W) (p d q status detail : Nat) (info : Nat := 0) : W :=
  w.modJob p fun j =>
    let Q := j.queue d q
    ({ j with faults := j.faults ++ [{ die := d, queue := q, pos := Q.now q, status := status, detail := detail, info := info }] } : Job).setQueue d q
      fun Q => Q.done q

/-- The faulting step that decides: first in the order (logical die, queue, position) (R186). -/
def deciding (l : List StepFault) : Option StepFault :=
  l.foldl (fun best f => match best with
    | none => some f
    | some b =>
      if f.die < b.die || (f.die == b.die && (f.queue < b.queue || (f.queue == b.queue && f.pos < b.pos))) then some f else some b) none

end Sys2Proof.Machine
end

