-- ==== Sys2Proof/Machine/Sluice.lean ====
section
/-! DEFINITION. The sluice store and the grant table (R233 to R242). -/

namespace Sys2Proof.Machine

/-- A right of R239. -/
inductive Right where
  | wait
  | signal
  | set
  deriving DecidableEq, Repr

/-- The bit of a right in a grant entry (R240). -/
def Right.bit : Right → Nat
  | .wait => 48
  | .signal => 49
  | .set => 50

/-- The polder that owns sluice `i`: its group is allotted and its owner valid (R233). -/
def Dev.sluOwnerPol (d : Dev) (i : Nat) : Option Nat := if (d.sluice i).valid then d.sluPol i else none

/-- Some VALID entry of polder `p` satisfies `f` (R241). -/
def Dev.grantAny (d : Dev) (p : Nat) (f : Nat → Bool) : Bool :=
  d.grants.any fun (g, e) => decide (256 * p ≤ g ∧ g < 256 * p + 256) && e.testBit 63 && f e

/-- Local context `n` may do `right` on sluice `i` (R239, R241). -/
def Dev.granted (d : Dev) (i n : Nat) (right : Right) : Bool :=
  match d.sluOwnerPol i with
  | none => false
  | some p =>
    (d.sluice i).ctx == n || d.grantAny p fun e =>
      bits e 12 0 == i && e.testBit right.bit && !e.testBit 51 && bits e 28 16 == n

/-- Remote chip `chip` may do `right` on sluice `i`, having arrived under key slot `key` (R239 to R241, R322 check 6). -/
def Dev.grantedRemote (d : Dev) (i chip : Nat) (key : Option Nat) (right : Right) : Bool :=
  match d.sluOwnerPol i with
  | none => false
  | some p => d.grantAny p fun e =>
      bits e 12 0 == i && e.testBit right.bit && e.testBit 51 && bits e 28 16 == chip &&
        (!e.testBit 52 || key == some (bits e 41 32))

/-- Effect of an add or a set on a sluice (R234). -/
def sluApply (S : Sluice) (set : Bool) (n : Nat) : Sluice :=
  if set then { S with value := n % 2 ^ 64 }
  else
    let v := S.value + n
    if v ≥ 2 ^ 64 then { S with value := 2 ^ 64 - 1, sat := true } else { S with value := v }

/-- WAIT's fields (R211). -/
def waitSluice (b : Bytes) : Nat := fld b 8 8 % 2 ^ 13
def waitThreshold (b : Bytes) : Nat := fld b 0x10 8

/-- The rings that hold a WAIT on sluice `i`. -/
def Dev.waiters (d : Dev) (i : Nat) : List Nat :=
  (d.rings.filter fun (_, R) => match R.desc with
    | some D => D.waiting && waitSluice D.bytes == i
    | none => false).map Prod.fst

/-- WAITs that the value of sluice `i` satisfies complete, with that value (R235, R238, R220). -/
def W.wake (w : W) (i : Nat) : W :=
  w.each (w.d.waiters i) fun w r =>
    match (w.d.ring r).desc with
    | none => w
    | some D =>
      let v := (w.d.sluice i).value
      if v ≥ waitThreshold D.bytes then w.complete r { info := u32 v } else w

/-- One operation on sluice `i` (R234, R235). -/
def W.sluOp (w : W) (i : Nat) (set : Bool) (n : Nat) : W :=
  (w.modSluice i fun S => sluApply S set n).wake i

/-- The sluice that a device-local address names: the first byte of its 64 (R137, R139). DEDUCED (entry 12). -/
def sluiceAt (a : Nat) : Option Nat := match region a with
  | .slu i 0 => some i
  | _ => none

end Sys2Proof.Machine
end

