-- ==== Sys2Proof/Machine/FabricOps.lean ====
section
/-! DEFINITION. Sending over the fabric: routes, members, sealing, frames, remote operations and their ends (R293 to R325, R335 to R341). -/

namespace Sys2Proof.Machine

def Dev.port (d : Dev) (n : Nat) : Port := tget {} d.fabric.ports n
def W.modPort (w : W) (n : Nat) (f : Port → Port) : W := w.modFabric fun F => { F with ports := tmod {} F.ports n f }
/-- Counter k of port n (R341). -/
def W.linkCnt (w : W) (n k : Nat) (x : Nat := 1) : W :=
  w.modFabric fun F => { F with cnt := tmod 0 F.cnt (8 * n + k) fun v => sat64 (v + x) }

/-! ## Routes (R309 to R311) -/

/-- Coordinate of a chip offset in dimension `k` with sizes `nx`, `ny`, `nz`. -/
def coord (o k nx ny nz : Nat) : Nat :=
  match k with
  | 0 => o % nx
  | 1 => (o / nx) % ny
  | _ => (o / (nx * ny)) % nz

/-- The torus direction of the first dimension in which two chips differ: dimension and whether it goes +. -/
def torusHop (topo me dst : Nat) : Option (Nat × Bool) :=
  let nx := bits topo 23 16 + 1
  let ny := bits topo 31 24 + 1
  let nz := bits topo 39 32 + 1
  let base := bits topo 12 0
  [(0, nx), (1, ny), (2, nz)].findSome? fun (k, n) =>
    let s := coord (me - base) k nx ny nz
    let t := coord (dst - base) k nx ny nz
    if s = t then none
    else if topo.testBit (40 + k) then some (k, decide ((t + n - s) % n ≤ n / 2))
    else some (k, decide (s < t))

/-- The destination lies in the torus (R311). -/
def inTorus (topo dst : Nat) : Bool :=
  bits topo 63 62 == 1 &&
    decide (bits topo 12 0 ≤ dst ∧ dst < bits topo 12 0 + (bits topo 23 16 + 1) * (bits topo 31 24 + 1) * (bits topo 39 32 + 1))

/-- The logical port towards a chip (R311). -/
def Dev.route (d : Dev) (dst : Nat) : Option Nat :=
  let F := d.fabric
  if inTorus F.topo dst then
    (torusHop F.topo d.hub.chip dst).map fun (k, plus) =>
      let f := 2 * k + (if plus then 0 else 1)
      bits F.torusPorts (4 * f + 3) (4 * f)
  else
    let ent := bits (tget 0 F.route (dst / 4)) (8 * (dst % 4) + 7) (8 * (dst % 4))
    if ent.testBit 7 then some (ent % 16) else none

/-- Enabled ports of logical port `lp` (R298). -/
def Dev.members (d : Dev) (lp : Nat) : List Nat :=
  (List.range d.numPorts).filter fun n => (d.port n).enable && (d.port n).lport == lp

/-- Members that are UP and, for a polder's own traffic, allotted to it (R298, R313). -/
def Dev.usable (d : Dev) (lp : Nat) (pol : Option Nat) : List Nat :=
  (d.members lp).filter fun n => (d.port n).st == 2 && (match pol with
    | some p => (d.pol p).hasPort n
    | none => true)

/-! ## Frames (R300 to R304, R338, R339) -/

/-- The 48-byte header; with `aad`, the fields that change on the way read as zero (R338). -/
def headerBytes (f : Frame) (aad : Bool) : Bytes :=
  toLe 1 f.kind ++
    toLe 1 (f.ver % 16 + 16 * b2n f.enc + 32 * b2n f.last + 64 * b2n f.tc + 128 * b2n (f.eackv && !aad)) ++
    toLe 2 f.payload.length ++ toLe 2 f.dst ++ toLe 2 f.src ++
    toLe 1 (f.srcPol % 32 + 32 * b2n (f.vc && !aad)) ++ toLe 1 f.dstPol ++
    toLe 2 (f.srcPort % 64 + 64 * f.keyslot) ++ toLe 2 (if aad then 0 else f.hseq) ++ toLe 2 (if aad then 0 else f.hack) ++
    toLe 4 f.eseq ++ toLe 4 (if aad then 0 else f.eack) ++ toLe 4 f.job ++ toLe 4 f.tag ++ toLe 8 f.nseq ++ toLe 8 f.addr

/-- The nonce of R339. -/
def frameNonce (f : Frame) : Bytes :=
  toBe 12 (f.src * 2 ^ 83 + (f.job % 2 ^ 32) * 2 ^ 48 + f.srcPort * 2 ^ 42 + f.nseq)

/-- A MAC address of R300: `k` 0 for a port, 1 for a logical port; chip and number. -/
def mac (k chip n : Nat) : Bytes := toBe 6 (0x025A * 2 ^ 32 + k * 2 ^ 24 + chip * 2 ^ 8 + n)
/-- What stands before the Salruat header of a frame on port `n` (R300, R308): the MAC addresses, the 802.1Q tag of a switched port, the EtherType. The peer port of
a direct link is the one of the last hello (DEDUCED, entry 62). -/
def Dev.ethHead (d : Dev) (n : Nat) (f : Frame) : Bytes :=
  let P := d.port n
  let F := d.fabric
  let me := d.hub.chip
  (if P.mode = 1 then mac 1 f.dst P.lport ++ mac 1 me P.lport ++ toBe 2 0x8100 ++ toBe 2 ((if f.tc then F.pcpCtrl else F.pcpBulk) * 2 ^ 13 + F.vid)
    else mac 0 P.peerChip P.peerPort ++ mac 0 me n) ++ toBe 2 0x88B5

/-- The polder whose members a frame may leave on (R298, R313): none for transit, read responses, which have the TRANSIT slots, frames of the link and of connections,
and those that belong to no polder. -/
def Dev.framePol (d : Dev) (f : Frame) : Option Nat :=
  if f.src ≠ d.hub.chip || f.kind == 3 || decide (f.kind ≥ 0x10) || decide (f.srcPol ≥ 16) then none else some f.srcPol

def Dev.key (d : Dev) (k : Nat) : Key := tget {} d.fabric.keys k

/-- The frame sealed under its key (R338). -/
def Dev.seal (d : Dev) (f : Frame) : Frame :=
  if f.enc then
    let (ct, tag) := gcmSeal (toBe 32 (d.key f.keyslot).key) (frameNonce f) (headerBytes f true) (f.payload ++ f.trailer)
    { f with payload := ct.take f.payload.length, trailer := ct.drop f.payload.length, gcmTag := tag }
  else f

/-- The frame opened under its key, if the tag verifies. -/
def Dev.unseal (d : Dev) (f : Frame) : Option Frame :=
  match gcmOpen (toBe 32 (d.key f.keyslot).key) (frameNonce f) (headerBytes f true) (f.payload ++ f.trailer) f.gcmTag with
  | some pt => some { f with payload := pt.take f.payload.length, trailer := pt.drop f.payload.length }
  | none => none

/-- Bytes of the frame on the link (R300). -/
def frameSize (f : Frame) (switched : Bool) : Nat :=
  max 64 (14 + (if switched then 4 else 0) + 48 + f.payload.length + f.trailer.length + (if f.enc then 16 else 0) + 4)

/-- The octets of a frame on the link (R300): what stands before its Salruat header, the header, payload, trailer and tag, padding to the Ethernet minimum, which is
ignored and here of zeros (DESIGN CHOICE, entry 62), and the FCS. -/
def frameOctets (head : Bytes) (f : Frame) : Bytes :=
  let b := head ++ headerBytes f false ++ f.payload ++ f.trailer ++ f.gcmTag
  let b := b ++ zeros (60 - b.length)
  b ++ toLe 4 (crc32 b)

/-- PFC priority of a frame on a port (R306). -/
def Dev.prio (d : Dev) (n : Nat) (f : Frame) : Nat :=
  if (d.port n).mode = 1 then (if f.tc then d.fabric.pcpCtrl else d.fabric.pcpBulk) else 2 * b2n f.tc + b2n f.vc

def connKey (lp chip tc : Nat) : Nat := (lp * 8192 + chip) * 2 + tc
def Dev.conn (d : Dev) (lp chip tc : Nat) : Conn := tget {} d.fabric.conns (connKey lp chip tc)
def W.modConn (w : W) (lp chip tc : Nat) (f : Conn → Conn) : W :=
  w.modFabric fun F => { F with conns := tmod {} F.conns (connKey lp chip tc) f }

/-- The frame goes out on port `n` as it stands. -/
def W.wire (w : W) (n : Nat) (f : Frame) : W := (w.emit (.frame n (w.d.ethHead n f) f)).linkCnt n 0

/-- Room in the 512 KiB replay buffer (R305). -/
def Port.hasRoom (P : Port) (f : Frame) : Bool :=
  decide ((P.replay.map fun g => frameSize g false).foldl (· + ·) 0 + frameSize f false ≤ 524288)

/-- A frame on port `n` must wait (R305, R306, R312, R313): its priority is paused, the replay buffer has no room, or one of its own priority waits. Control waits behind
no bulk, and bulk behind control that could go but for room. -/
def Dev.holds (d : Dev) (n : Nat) (f : Frame) : Bool :=
  let P := d.port n
  let stopped (g : Frame) : Bool := P.paused.testBit (d.prio n g)
  stopped f || (P.mode == 0 && !P.hasRoom f) ||
    P.held.any fun h => d.prio n h.f == d.prio n f || (h.f.tc && !f.tc && !stopped h.f)

/-- The member of logical port `lp` that a frame leaves by (R299): in DIRECT mode the lowest usable one with transmit space, any being allowed. -/
def Dev.member (d : Dev) (lp : Nat) (f : Frame) : Option Nat :=
  match d.usable lp (d.framePol f) with
  | [] => none
  | n :: l =>
    if (d.port n).mode = 1 then some (lget n (n :: l) (f.dst % (l.length + 1)))
    else some (((n :: l).find? fun m => !d.holds m f).getD n)

/-- A frame leaves port `n`: on a DIRECT port HSEQ and HACK are set, and the frame is kept for replay (R305). -/
def W.sendNow (w : W) (n : Nat) (f : Frame) : W :=
  let P := w.d.port n
  if P.mode = 1 then w.wire n f
  else
    let g := { f with hseq := P.txSeq, hack := P.rxSeq }
    (w.modPort n fun P => { P with txSeq := (P.txSeq + 1) % 2 ^ 16, replay := P.replay ++ [g] }).wire n g

/-- A frame is given to port `n`; `inp` is the port by which it came in transit. An LL_ACK carries no HSEQ and is never held. -/
def W.direct (w : W) (n : Nat) (f : Frame) (inp : Option Nat := none) : W :=
  if f.kind = 0x11 then w.wire n { f with hseq := 0, hack := if (w.d.port n).mode = 0 then (w.d.port n).rxSeq else 0 }
  else if w.d.holds n f then w.modPort n fun P => { P with held := P.held ++ [{ inp := inp, f := f }] }
  else w.sendNow n f

/-- Bytes of transit frames that fill the receive buffer class of priority `q` at port `n`: those that came by it and are held (R306). -/
def Dev.rxHeld (d : Dev) (n q : Nat) : Nat :=
  (d.fabric.ports.flatMap fun x => (x.2.held.filter fun h => h.inp == some n && d.prio n h.f == q).map fun h => frameSize h.f ((d.port n).mode == 1)).sum

/-- Receive buffers 75 % full pause their sender, and those drained to 50 % let it go on (R306). -/
def W.pausePeers (w : W) : W :=
  if w.d.fabric.ports.all fun x => x.2.pausing == 0 && x.2.held.all fun h => h.inp.isNone then w
  else w.each (List.range w.d.numPorts) fun w n => w.each (List.range 8) fun w q =>
    let x := w.d.rxHeld n q
    let on := (w.d.port n).pausing.testBit q
    if !on && decide (4 * x ≥ 3 * (Config.rxClass + 1)) then (w.modPort n fun P => { P with pausing := P.pausing ||| 2 ^ q }).emit (.pfc n q true)
    else if on && decide (2 * x ≤ Config.rxClass + 1) then (w.modPort n fun P => { P with pausing := P.pausing ^^^ 2 ^ q }).emit (.pfc n q false)
    else w

/-- The held frame that goes next: the oldest whose priority is not paused, control first (R306, R313). -/
def Dev.nextHeld (d : Dev) (n : Nat) : Option HeldFrame :=
  let l := (d.port n).held.filter fun h => !(d.port n).paused.testBit (d.prio n h.f)
  match l.find? (·.f.tc) with
  | some h => some h
  | none => l.head?

/-- Frames that were held back go out as far as they may. -/
def W.releaseHeld : Nat → W → Nat → W
  | 0, w, _ => w
  | k + 1, w, n =>
    match w.d.nextHeld n with
    | none => w
    | some h =>
      if (w.d.port n).mode = 0 && !(w.d.port n).hasRoom h.f then w
      else W.releaseHeld k ((w.modPort n fun P => { P with held := P.held.erase h }).sendNow n h.f) n
def W.release (w : W) (n : Nat) : W := (W.releaseHeld ((w.d.port n).held.length + 1) w n).pausePeers

/-- Byte 8 of a connection's HELLO: the connection's TC, which the frame's own TC, always 1, does not tell, and whether the HELLO only acknowledges (DESIGN CHOICE,
entry 14). -/
def helloKind (tc : Nat) (only : Bool) : Nat := tc + 2 * b2n only
/-- HELLO payload of a switched connection (R316): chip, logical port, mode and level as R314 lays them out, the first ESEQ, and `kind`. -/
def helloSwitched (chip lp eseq kind : Nat) : Bytes := toLe 4 (chip + lp * 2 ^ 19 + 1 * 2 ^ 23 + 2 * 2 ^ 25) ++ toLe 4 eseq ++ toLe 8 kind

/-- The frame with what it acknowledges end to end: its own connection, or, in an ACK, the one of the bulk frames that it answers
(DESIGN CHOICE, entry 14). -/
def Dev.withEack (d : Dev) (lp : Nat) (f : Frame) : Frame :=
  let C := d.conn lp f.dst (if f.kind = 6 then 0 else b2n f.tc)
  { f with eack := C.rx, eackv := C.rxOpen }

/-- The HELLO that opens a connection, answers for it, or, with `only`, acknowledges what has come on it. -/
def W.sendHello (w : W) (n lp chip tc : Nat) (only : Bool := false) : W :=
  let C := w.d.conn lp chip tc
  let first := (C.unacked.head?.map (·.eseq)).getD C.tx
  let h : Frame := { kind := 0x10, tc := true, dst := chip, src := w.d.hub.chip, srcPort := n, eseq := first, eack := C.rx, eackv := C.rxOpen,
                     payload := helloSwitched w.d.hub.chip lp first (helloKind tc only) }
  w.wire n { h with trailer := toLe 4 (crc32c h.payload) }

/-- The frame is sealed under its key slot as it first leaves its source, by port `n` (R338, R339): NSEQ counts per key slot and port. A transit frame is passed on
as it came. -/
def W.sealOn (w : W) (n : Nat) (f : Frame) : W × Frame :=
  if f.enc && f.src == w.d.hub.chip then
    let q := tget 0 (w.d.key f.keyslot).nseq n
    (w.modFabric fun F => { F with keys := tmod {} F.keys f.keyslot fun K => { K with nseq := tset K.nseq n (q + 1) } },
      w.d.seal { f with srcPort := n, nseq := q })
  else (w, f)

/-- Why a frame of this device cannot be sealed for port `n` (R324, R339): no key, which lets nothing in at the destination (DEDUCED, entry 22), or its numbers are
used up. -/
def Dev.keyFault (d : Dev) (n : Nat) (f : Frame) : Option Nat :=
  if !f.enc || f.src ≠ d.hub.chip then none
  else if !(d.key f.keyslot).valid then some 6
  else if tget 0 (d.key f.keyslot).nseq n ≥ 2 ^ 42 then some 7
  else none

/-- A frame on a switched connection (R307): the connection is opened first, and the window holds at most 1,024 frames. It is sealed once it has its ESEQ, which the
tag covers (R338). -/
def W.switched (w : W) (n lp : Nat) (f : Frame) (inp : Option Nat := none) : W :=
  let tc := b2n f.tc
  let C := w.d.conn lp f.dst tc
  if C.st = 2 ∧ C.unacked.length < 1024 then
    let (w, g) := w.sealOn n (w.d.withEack lp { f with eseq := C.tx })
    (w.modConn lp f.dst tc fun C => { C with tx := u32 (C.tx + 1), unacked := C.unacked ++ [g] }).direct n g inp
  else
    let w := w.modConn lp f.dst tc fun C => { C with waiting := C.waiting ++ [f] }
    if C.st = 0 then (w.modConn lp f.dst tc fun C => { C with st := 1 }).sendHello n lp f.dst tc else w

/-- A frame goes out on member `n` of logical port `lp`. -/
def W.transmit (w : W) (n lp : Nat) (f : Frame) (inp : Option Nat := none) : W :=
  if (w.d.port n).mode = 1 then w.switched n lp f inp
  else
    let (w, g) := w.sealOn n f
    w.direct n g inp

/-- VC of a frame on its next hop (R312): 1 once it has crossed the wrap link of the dimension that it travels in, and on that link. `carried` is the VC that it brings
along this dimension. -/
def Dev.hopVc (d : Dev) (dst : Nat) (carried : Bool) : Bool :=
  let T := d.fabric.topo
  match inTorus T dst, torusHop T d.hub.chip dst with
  | true, some (k, plus) =>
    let n := bits T (8 * k + 23) (8 * k + 16) + 1
    let c := coord (d.hub.chip - bits T 12 0) k (bits T 23 16 + 1) (bits T 31 24 + 1) (bits T 39 32 + 1)
    carried || (if plus then c + 1 == n else c == 0)
  | _, _ => carried

/-- Why an operation could not be sent: the detail of R324. -/
inductive SendRes where
  | sent (w : W)
  | failed (detail : Nat)

/-- A frame of this device leaves by member `n` of logical port `lp`. -/
def W.leave (w : W) (n lp : Nat) (f : Frame) : SendRes :=
  let f := { f with srcPort := n, vc := w.d.hopVc f.dst false }
  match w.d.keyFault n f with
  | some det => .failed det
  | none => .sent (w.transmit n lp f)

/-- A frame is sent to its chip by R311, under `key`; the details are those of R324. -/
def W.sendFrame (w : W) (f : Frame) (key : Option Nat) : SendRes :=
  match w.d.route f.dst with
  | none => .failed 1
  | some lp =>
    let f := { f with src := w.d.hub.chip, enc := key.isSome, keyslot := key.getD 0 }
    match w.d.member lp f with
    | some n => w.leave n lp f
    | none => if (w.d.members lp).any fun n => (w.d.port n).st == 4 then .failed 2 else .failed 8

/-- A frame that answers, or a collective's control frame: one that cannot be sent is dropped. -/
def W.sendCtl (w : W) (f : Frame) (key : Option Nat) : W :=
  match w.sendFrame f key with
  | .sent w => w
  | .failed _ => w

/-- CODE of a payload (R304). -/
def codeOf (payload : Bytes) : Bytes := if payload.isEmpty then [] else toLe 4 (crc32c payload)

/-- SRC_POL of a frame of polder `p`, or of none (R301; DEDUCED, entry 62). -/
def srcPolOf (p : Nat) : Nat := min p 16
/-- ACK of one tag (R302), by polder `p`. -/
def ackFrame (p dst tag : Nat) : Frame := { kind := 6, tc := true, srcPol := srcPolOf p, dst := dst, payload := toLe 4 tag, trailer := codeOf (toLe 4 tag) }
/-- NAK (R303), by polder `p`. -/
def nakFrame (p dst tag reason detail : Nat) : Frame :=
  let pl := toLe 4 tag ++ toLe 1 reason ++ toLe 1 detail ++ toLe 2 0
  { kind := 7, tc := true, srcPol := srcPolOf p, dst := dst, payload := pl, trailer := codeOf pl }

/-! ## Remote operations (R317 to R325) -/

/-- The polder an issuer works for. -/
def Issuer.polder : Issuer → Nat
  | .dma p _ _ => p
  | .ring p _ => p
  | .service p => p
  | .coll p _ _ => p

def OpKind.isSluice : OpKind → Bool
  | .add => true
  | .set => true
  | _ => false

/-- The frame of an operation (R302, R304). -/
def ROp.frame (o : ROp) : Frame :=
  let tr := codeOf o.payload ++ o.trailer
  { kind := match o.kind with
      | .write => 1
      | .read _ => 2
      | .add => 4
      | .set => 5
      | .coll .. => 8
      | .ctl k => k
    tc := match o.kind with
      | .ctl _ => true
      | _ => false
    last := o.last, dst := o.chip, srcPol := o.issuer.polder, dstPol := o.dstPol, job := o.job, tag := o.tag, addr := o.addr,
    payload := o.payload, trailer := tr }

def W.dropOp (w : W) (id : Nat) : W := w.modFabric fun F => { F with ops := F.ops.filter (·.id != id) }
def W.modOp (w : W) (id : Nat) (f : ROp → ROp) : W :=
  w.modFabric fun F => { F with ops := F.ops.map fun o => if o.id = id then f o else o }

/-! ## Collectives: what a loss does (R335) -/

/-- Entry `c` of polder `p`'s collective table (R328). -/
def W.collEntry (w : W) (p c : Nat) : Bytes := w.read ((w.d.pol p).coll.base + 64 * c) 64
/-- Members of a collective: (chip, polder) by rank (R329). -/
def W.collMembers (w : W) (e : Bytes) : List (Nat × Nat) :=
  let n := bits (fld e 4 2) 11 0 + 1
  let l := w.read (fld e 0x18 8) (4 * n)
  (List.range n).map fun i => (bits (fld l (4 * i) 4) 12 0, bits (fld l (4 * i) 4) 20 16)
/-- Key slot of a collective's frames (R328). -/
def collKey (e : Bytes) : Option Nat := if (fld e 0x20 2).testBit 15 then some (bits (fld e 0x20 2) 9 0) else none

/-- The number of polder `p`'s job in its frames (R301, R339). -/
def Dev.jobNumber (d : Dev) (p : Nat) : Nat := match (d.pol p).job with
  | some j => j.number % 2 ^ 32
  | none => 0xFFFFFFFF

/-- A control frame of a collective is sent, and remembered while its job runs (R302, R324). -/
def W.issueCtl (w : W) (p c chip q kind : Nat) (payload : Bytes) (key : Option Nat) : W :=
  let id := w.d.fabric.opCtr
  let o : ROp := { id := id, issuer := .coll p c 0, kind := .ctl kind, chip := chip, addr := 0, payload := payload, key := key, job := w.d.jobNumber p
                   tag := 2 ^ 31 + id % 2 ^ 31, sent := true, dstPol := q }
  (w.modFabric fun F => { F with opCtr := id + 1, ctls := F.ctls ++ [o] }).sendCtl o.frame key

/-- Unreleased COLL steps of collective `c` become faulting, its pending sends and operations end (R333, R335). -/
def W.collFail (w : W) (p c status detail chip : Nat) : W :=
  let K := (w.d.pol p).coll
  if K.failed.any fun x => x.1 == c then w
  else
    let w := w.each (K.steps.filter (·.c == c)) fun w s => w.stepFault p s.ldie s.q status detail (if status = stCONTRIBUTION_BAD then chip else 0)
    let w := w.modPol p fun P => { P with coll := { P.coll with
      steps := P.coll.steps.filter (·.c != c), sends := P.coll.sends.filter (·.c != c), failed := P.coll.failed ++ [(c, status, detail, chip)] } }
    w.modFabric fun F => { F with ops := F.ops.filter fun o => !(match o.issuer with
      | .coll q c' _ => q == p && c' == c
      | _ => false) }

/-- COLL_ABORT frames to every member of collective `c` on another chip but `except` (R302). -/
def W.abortFrames (w : W) (p c status chip detail : Nat) (except : Option Nat) : W :=
  let e := w.collEntry p c
  w.each (w.collMembers e) fun w (m, q) =>
    if m = w.d.hub.chip ∨ some m = except then w
    else w.issueCtl p c m q 0x0A (toLe 8 (c + status * 2 ^ 16 + chip * 2 ^ 32 + detail * 2 ^ 48)) (collKey e)
/-- The other members of a collective on this chip that have a job past R185 step 6 (R322). -/
def W.collPeers (w : W) (p c : Nat) : List Nat :=
  ((w.collMembers (w.collEntry p c)).filter fun m =>
    m.1 == w.d.hub.chip && m.2 != p && (w.d.runningJob m.2).isSome && (w.d.pol m.2).coll.valid).map Prod.snd

/-- COLL_ABORT with CONTRIBUTION_BAD to every member of collective `c` but this one (R333, R334). -/
def W.collAbortAll (w : W) (p c status chip detail : Nat) : W :=
  w.each (w.collPeers p c) (f := fun w q => w.collFail q c status detail chip) |>.abortFrames p c status chip detail none

/-- The collectives of polder `p`'s job, and those that segments have landed for (R335). -/
def Dev.activeColls (d : Dev) (p : Nat) : List Nat :=
  let K := (d.pol p).coll
  ((((d.pol p).job.map (·.colls)).getD []) ++ (K.steps.map (·.c)) ++ (K.sends.map (·.c)) ++ (K.landings.map (·.c))).eraseDups.filter fun c => decide (c ≤ K.count)

/-- One member learns that `chip` is lost to collective `c` (R335): it records the chip, and unless the collective has failed already its steps end and the other
members hear of it. -/
def W.learnLoss (w : W) (p c chip detail : Nat) : W :=
  let w := w.modPol p fun P => { P with coll := { P.coll with lostValid := true, lostChip := chip } }
  if (w.d.pol p).coll.failed.any fun x => x.1 == c then w
  else (w.collFail p c stMEMBER_LOST detail chip).abortFrames p c stMEMBER_LOST chip detail (some chip)

/-- Polder `p`, and the other members on this chip, learn that member `chip` of collective `c` is lost. -/
def W.memberLost (w : W) (p c chip detail : Nat) : W :=
  (w.learnLoss p c chip detail).each (w.collPeers p c) fun w q => w.learnLoss q c chip detail

/-- A chip is lost to every collective of every polder that has it as a member (R335). -/
def W.chipLost (w : W) (chip detail : Nat) : W :=
  w.each (List.range 16) fun w p =>
    if (w.d.pol p).coll.valid && (w.d.runningJob p).isSome then
      w.each (w.d.activeColls p) fun w c =>
        if (w.collMembers (w.collEntry p c)).any fun m => m.1 == chip then w.memberLost p c chip detail else w
    else w

/-- A COLL step whose frames are refused or cannot be delivered is faulting as R324 says; what it still had to send is dropped. -/
def W.collSegFail (w : W) (p c seg status detail : Nat) : W :=
  let K := (w.d.pol p).coll
  let mine (x : CollStep) : Bool := x.c == c && x.seg == seg
  let w := w.each (K.steps.filter mine) fun w s => w.stepFault p s.ldie s.q status detail
  let w := w.modPol p fun P => { P with coll := { P.coll with
    steps := P.coll.steps.filter fun x => !mine x, sends := P.coll.sends.filter fun x => !(x.c == c && x.seg == seg) } }
  w.modFabric fun F => { F with ops := F.ops.filter (·.issuer != .coll p c seg) }

/-! ## How operations fail and go out (R320, R321, R324) -/

/-- An operation fails at its issuer (R324). Service firmware keeps it for its retry (R289, R291). A member that a collective's frames do not reach is lost (R335); of
any other refusal the step is faulting. -/
def W.opFail (w : W) (o : ROp) (status detail : Nat) : W :=
  match o.issuer with
  | .dma p d q =>
    let w := w.modFabric fun F => { F with ops := F.ops.filter fun x => x.issuer != o.issuer }
    w.stepFault p d q status detail
  | .ring _ r => (w.dropOp o.id).completeSt r status detail
  | .service _ => w.modOp o.id fun o => { o with sent := false, waitNak := true }
  | .coll p c seg =>
    if status = stREMOTE_UNREACHABLE ∧ (detail = 2 ∨ detail = 3 ∨ detail = 8) then (w.dropOp o.id).memberLost p c o.chip (if detail = 3 then 3 else 1)
    else w.collSegFail p c seg status detail

/-- Whether an operation that is not sent may be sent now (R320, R321): adds and sets of a polder to a chip one at a time, and after the reads
and writes that their issuer sent before them. -/
def maySend (before : List ROp) (o : ROp) : Bool :=
  !o.sent && !o.waitNak &&
    (!o.kind.isSluice ||
      before.all fun b => !(b.issuer == o.issuer) && !(b.kind.isSluice && b.issuer.polder == o.issuer.polder && b.chip == o.chip))

/-- The first operation that may be sent. -/
def nextOp : List ROp → List ROp → Option ROp
  | _, [] => none
  | before, o :: rest => if maySend before o then some o else nextOp (before ++ [o]) rest

/-- Operations that may be sent are sent, in order. -/
def W.pump : Nat → W → W
  | 0, w => w
  | k + 1, w =>
    match nextOp [] w.d.fabric.ops with
    | none => w
    | some o =>
      match w.sendFrame o.frame o.key with
      | .sent w' => W.pump k (w'.modOp o.id fun o => { o with sent := true, sentAt := w.d.aon.hub })
      | .failed det => W.pump k (w.opFail o stREMOTE_UNREACHABLE det)

def W.pumpAll (w : W) : W := W.pump (2 * w.d.fabric.ops.length + 2) w

/-- A remote operation is issued: its TAG is its operation sequence number for an add or a set, and unique otherwise (R319, R320). -/
def W.issueOp (w : W) (o : ROp) : Nat × W :=
  let id := w.d.fabric.opCtr
  let k := o.issuer.polder * 8192 + o.chip
  let seq := tget 0 w.d.fabric.opSeq k
  let tag := if o.kind.isSluice then u32 seq else 2 ^ 31 + id % 2 ^ 31
  let w := w.modFabric fun F =>
    { F with opCtr := id + 1, ops := F.ops ++ [{ o with id := id, tag := tag }],
             opSeq := if o.kind.isSluice then tset F.opSeq k (seq + 1) else F.opSeq }
  (id, w)

end Sys2Proof.Machine
end

