-- ==== Sys2Proof/Machine/JobEnd.lean ====
section
/-! DEFINITION. How a job ends, whatever ends it (R186, R187, R216, R251, R254, R258, R335), and how a warm-up is cancelled (R190). -/

namespace Sys2Proof.Machine

/-- Remote operations of the issuers that `f` selects are forgotten: their frames land or are dropped (R254 step 3). -/
def W.dropOps (w : W) (f : Issuer → Bool) : W :=
  w.modFabric fun F => { F with ops := F.ops.filter fun o => !f o.issuer, ctls := F.ctls.filter fun o => !f o.issuer }

/-- An operation that belongs to polder `p`'s job. -/
def Issuer.ofJob (p : Nat) : Issuer → Bool
  | .dma q _ _ => q == p
  | .coll q _ _ => q == p
  | _ => false

/-- Collective state as at a job's start (R332). -/
def PolColl.clear (K : PolColl) : PolColl :=
  { K with landings := [], sends := [], steps := [], credits := [], begun := [], failed := [] }

/-- Key slot `k` takes a key, or is erased: NSEQ counts from 0 (R339), and no number has been accepted under the new key (R340; DEDUCED,
entry 13). -/
def W.setKey (w : W) (k : Nat) (key : Option Nat) : W :=
  w.modFabric fun F =>
    { F with
      keys := tset F.keys k (match key with
        | some v => { valid := true, key := v }
        | none => {})
      windows := F.windows.filter (·.slot != k) }

/-- Key changes that waited for polder `p`'s job take effect, in the order of their descriptors, which then complete (R216, R219). -/
def W.applyKeys (w : W) (p : Nat) : W :=
  let l := w.d.fabric.keyWait.filter (·.polder == p)
  let w := w.modFabric fun F => { F with keyWait := F.keyWait.filter (·.polder != p) }
  w.each l fun w c => (w.setKey c.slot c.key).completeSt c.ring stOK

/-- The warm-up of polder `p` is cancelled: every byte that it wrote is zero again, and the seals of J2's slots are lifted, unless J2 is still to start
(R190). -/
def W.cancelWarm (w : W) (p : Nat) (toStart : Bool) : W :=
  match (w.d.pol p).warm with
  | none => w
  | some x => (w.each x.written fun w (a, n) => w.zero a n).modPol p fun P =>
      { P with warm := none, waitRo := if toStart then P.waitRo ++ [(x.ring, x.ro)] else P.waitRo }

/-- READY banks that were locked for the job are free again (R126). -/
def W.unlockBanks (w : W) (p : Nat) : W :=
  w.each (((w.d.polSites p).flatMap fun s => [fnBank s 0 0, fnBank s 0 1, fnBank s 1 0, fnBank s 1 1, smBank s 0, smBank s 1]) ++
    [ptBank p 0, ptBank p 1]) fun w n => if (w.d.bank n).locked then w.modBank n fun B => { B with locked := false } else w

/-- DIE_WITHDRAWN on both rings (R366). -/
def W.withdrawnEvent (w : W) (p s cause : Nat) : W :=
  (w.event 16 stDIE_WITHDRAWN 0 5 s cause).event p stDIE_WITHDRAWN 0 5 s cause

/-- The targeted tests of the arrays of site `s` whose evidence records wait for them begin (R371, R372 step 9). -/
def W.startTests (w : W) (s : Nat) : W :=
  w.each (w.d.evids.filter (·.site == s)) fun w e => w.modDie s fun D =>
    { D with test := (D.test ||| (if e.waitPhys then 2 ^ e.phys else 0)) ||| (if e.waitSub then 2 ^ e.sub else 0) }

/-- Dies whose withdrawal waited for the job's end are withdrawn (R16, R370), and the targeted tests of the arrays that the job still used
begin (R372 step 9). -/
def W.endWithdraw (w : W) (p : Nat) : W :=
  w.each (w.d.polSites p) fun w s =>
    let w := w.startTests s
    if (w.d.die s).withdraw = 0 then w
    else
      let was := (w.d.die s).withdrawn
      let w := w.modDie s fun D => { D with withdrawn := true, withdraw := 0 }
      if was then w else w.withdrawnEvent p s 1

/-- The tally of R258. -/
def W.tally (w : W) (n : Nat) (ok : Bool) : W :=
  w.modCtx n fun C => if ok then { C with ok := sat64 (C.ok + 1) } else { C with err := sat64 (C.err + 1) }

/-- The job's time is charged to its context's budget; a slice of all ones is never spent (R243, R251). -/
def W.charge (w : W) (j : Job) : W :=
  w.modCtx j.ctx fun C =>
    if C.slice = 0xFFFFFFFF then C else { C with budget := C.budget - ((w.d.aon.hub : Int) - (j.t0 : Int)) }

/-- The job of polder `p` ends with the completion `c`. Without `record`, nothing is written or counted (R424, R426). -/
def W.endJob (w : W) (p : Nat) (c : Compl) (record : Bool := true) : W :=
  match (w.d.pol p).job with
  | none => w
  | some j =>
    let w := w.dropOps (Issuer.ofJob p)
    let w := w.modPol p fun P =>
      { P with job := none, coll := P.coll.clear, imgs := if j.release then P.imgs.filter (·.addr != j.img) else P.imgs }
    let w := (w.unlockBanks p).endWithdraw p
    let w := match j.ring with
      | some r => if record then (((w.charge j).tally j.ctx (c.status == stOK)).complete r c) else w
      | none => w.modPol p fun P =>
          { P with svc := { P.svc with flags := P.svc.flags ||| c.flags
                                       job := P.svc.job.map fun x : SvcJob => { x with status := some c.status, detail := c.detail } } }
    w.applyKeys p

/-- What a job's record says when it ends with a status (R52, R220, R221). -/
def Dev.jobCompl (d : Dev) (j : Job) (status detail : Nat) : Compl :=
  { status := status, detail := detail, flags := d.flagSummary j, check := j.check, info := min j.entered 0xFFFFFFFF }

/-- COLL_ABORT with MEMBER_LOST, detail ENDED, to every member of each collective of the job (R254 step 3, R335, R423 step 2). -/
def W.abortColls (w : W) (p : Nat) : W :=
  w.each (w.d.activeColls p) fun w c =>
    let me := w.d.hub.chip
    (w.abortFrames p c stMEMBER_LOST me 4 none).each (w.collPeers p c) fun w q => w.learnLoss q c me 4

end Sys2Proof.Machine
end

