-- ==== Sys2Proof/Machine/Steps.lean ====
section
/-! DEFINITION. How a step is read from its image, issued and released, and how its operands are reached (R35, R154, R160, R161, R164, R169 to
R172, R179 to R182). -/

namespace Sys2Proof.Machine

/-! ## The image (R161, R164) -/

/-- `n` bytes of an image from offset `off`. -/
def W.img (w : W) (j : Job) (off n : Nat) : Bytes := w.read (j.img + off) n
/-- A little-endian field of the image. -/
def W.imgFld (w : W) (j : Job) (off n : Nat) : Nat := le (w.img j off n)
/-- Entry of argument slot `n` (R162): KIND and SIZE. -/
def W.argKind (w : W) (j : Job) (n : Nat) : Nat := w.imgFld j (0x40 + 8 * n) 8 % 16
def W.argSize (w : W) (j : Job) (n : Nat) : Nat := w.imgFld j (0x40 + 8 * n) 8 / 2 ^ 16
def Job.arg (j : Job) (n : Nat) : Nat := lget 0 j.args n
/-- Entry of segment `g`, 32 bytes. -/
def W.segEntry (w : W) (j : Job) (g : Nat) : Bytes := w.img j (w.imgFld j 0x28 4 + 32 * g) 32
/-- OFF and COUNT of the stream of logical die `d` and queue `q` in segment `g`. -/
def W.stream (w : W) (j : Job) (g d q : Nat) : Nat × Nat :=
  let e := w.img j (fld (w.segEntry j g) 0 4 + 8 * (16 * d + q)) 8
  (fld e 0 4, fld e 4 4)
/-- Step number `i` of a stream, 32 bytes. -/
def W.stepBytes (w : W) (j : Job) (g d q i : Nat) : Bytes := w.img j ((w.stream j g d q).1 + 32 * i) 32

/-! ## Step headers and tokens (R169, R170) -/

/-- The 64-bit header of a step. -/
def stepHead (b : Bytes) : Nat := fld b 0 8
def stepOp (b : Bytes) : Nat := stepHead b % 256
def stepKind (b : Bytes) : Nat := bits (stepHead b) 11 8
/-- The tokens that a header names at two bit places. -/
def tokensAt (h lo1 lo2 : Nat) : List Nat :=
  (if h.testBit (lo1 + 6) then [bits h (lo1 + 5) lo1] else []) ++ (if h.testBit (lo2 + 6) then [bits h (lo2 + 5) lo2] else [])
/-- Wait tokens and signal tokens. -/
def stepWaits (b : Bytes) : List Nat := tokensAt (stepHead b) 16 24
def stepSignals (b : Bytes) : List Nat := tokensAt (stepHead b) 32 40
/-- The count slot that a step names. -/
def stepCount (b : Bytes) : Option Nat := if (stepHead b).testBit 53 then some (bits (stepHead b) 52 48) else none

/-- Every wait token holds at least the number of times that the step names it. -/
def tokensReady (toks : Tab Nat) (l : List Nat) : Bool := l.all fun t => decide (tget 0 toks t ≥ (l.filter (· == t)).length)
def takeTokens (toks : Tab Nat) (l : List Nat) : Tab Nat := l.foldl (fun T t => tmod 0 T t (· - 1)) toks
/-- Tokens are 8-bit counters; validation keeps them at or below 255 (R184). -/
def addTokens (toks : Tab Nat) (l : List Nat) : Tab Nat := l.foldl (fun T t => tmod 0 T t fun v => (v + 1) % 256) toks

/-- An array may start its next pass: no pass is held, and none on the same accumulator bank is in flight (R60, R61, R78). NOP has no bank. -/
def passMayStart (Q : Queue) (b : Bytes) : Bool :=
  !(Q.flights.any (·.held)) && (stepKind b != 1 || !(Q.flights.any fun f => f.bank == bits (fld b 0x1C 4) 9 8))

/-- The next step of a queue that has not been issued. -/
def W.headStep (w : W) (p d q : Nat) : Option (Job × Bytes) :=
  match w.d.runningJob p with
  | none => none
  | some j =>
    if d ≥ j.dies.length then none
    else
      let Q := j.queue d q
      let b := w.stepBytes j j.seg d q Q.pos
      if Q.busy || Q.pos ≥ (w.stream j j.seg d q).2 || !passMayStart Q b then none else some (j, b)

/-- The head step of a queue may be issued (R170, R172). -/
def W.canIssue (w : W) (p d q : Nat) : Bool :=
  match w.headStep p d q with
  | none => false
  | some (j, b) => tokensReady (w.d.die (j.site d)).tokens ((j.queue d q).needs (stepWaits b))

/-- The remote token of a `MOVE` (R178): the logical die and the token. -/
def W.remoteToken (w : W) (j : Job) (d : Nat) (b : Bytes) : Option (Nat × Nat) :=
  if stepKind b = 4 ∧ stepOp b = 1 ∧ (fld b 0xE 1).testBit 6 then
    let t := w.img j (w.imgFld j (w.imgFld j 0x24 4 + 32 * d) 4 + 32 * fld b 0xA 2) 32
    some (fld t 1 1, fld b 0xE 1 % 64)
  else none

/-- The signal tokens of step `b`, and any remote token, are incremented (R170, R178). -/
def W.signalStep (w : W) (j : Job) (d : Nat) (b : Bytes) : W :=
  let w := w.modDie (j.site d) fun D => { D with tokens := addTokens D.tokens (stepSignals b) }
  match w.remoteToken j d b with
  | some (rd, t) => w.modDie (j.site rd) fun D => { D with tokens := addTokens D.tokens [t] }
  | none => w

/-- The step issued last in queue `q` releases, and the queue goes on (R171). -/
def W.releaseStep (w : W) (p d q : Nat) : W :=
  match w.d.runningJob p with
  | none => w
  | some j =>
    (w.signalStep j d (w.stepBytes j j.seg d q ((j.queue d q).now q))).modJob p fun j => j.setQueue d q fun Q => Q.done q

/-- The `n`-th pass in flight of array queue `q`, from the oldest on, releases its tokens, unless it is held (R61, R78). -/
def W.releaseFlight (w : W) (p d q n : Nat) : W :=
  match w.d.runningJob p with
  | none => w
  | some j =>
    match (j.queue d q).flights[n]? with
    | none => w
    | some f =>
      if f.held then w
      else (w.signalStep j d (w.stepBytes j j.seg d q f.pos)).modJob p fun j => j.setQueue d q fun Q =>
        { Q with flights := Q.flights.eraseIdx n }

/-- The next step of queue `q` is issued, if it is one that `want` accepts and its wait tokens are there; then `f` carries it out. -/
def W.issue (w : W) (p d q : Nat) (want : Bytes → Bool) (f : W → Job → Bytes → W) : W :=
  match w.headStep p d q with
  | none => w
  | some (j, b) =>
    let need := (j.queue d q).needs (stepWaits b)
    if !want b || !tokensReady (w.d.die (j.site d)).tokens need then w
    else
      let w := w.modDie (j.site d) fun D => { D with tokens := takeTokens D.tokens need }
      f (w.modJob p fun j => j.setQueue d q fun Q => Q.issue q) j b

/-- Rows of a step: those its descriptors give, or the count that it names (R96); no rows, or COUNT_RANGE above the maximum. -/
def W.rowsOf (w : W) (j : Job) (d : Nat) (b : Bytes) (rows max : Nat) : Except Nat Nat :=
  match stepCount b with
  | none => .ok rows
  | some c =>
    let v := tget 0 (w.d.die (j.site d)).counts c
    if v > max then .error stCOUNT_RANGE else .ok v

/-! ## Packing (R35) -/

/-- Bytes and elements of the smallest whole group of elements of width `w` bits. -/
def packGroup (w : Nat) : Nat × Nat :=
  match w with
  | 32 => (4, 1)
  | 16 => (2, 1)
  | 8 => (1, 1)
  | 6 => (3, 4)
  | 4 => (1, 2)
  | 2 => (1, 4)
  | _ => (1, 8)

/-- Packed size in bytes of `n` elements. -/
def packedLen (w n : Nat) : Nat := ceilDiv (n * w) 8

def unpackGroups (w nb ne : Nat) : Nat → Bytes → List Nat
  | 0, _ => []
  | k + 1, bs =>
    let v := le (bs.take nb)
    ((List.range ne).map fun i => (v >>> (w * i)) % 2 ^ w) ++ unpackGroups w nb ne k (bs.drop nb)

/-- The codes of `n` packed elements. -/
def unpack (w n : Nat) (bs : Bytes) : List Nat :=
  let (nb, ne) := packGroup w
  (unpackGroups w nb ne (ceilDiv n ne) bs).take n

def packGroups (w nb ne : Nat) : Nat → List Nat → Bytes
  | 0, _ => []
  | k + 1, l =>
    toLe nb (((l.take ne).zipIdx.map fun (c, i) => (c % 2 ^ w) <<< (w * i)).foldl (· + ·) 0) ++ packGroups w nb ne k (l.drop ne)

/-- Elements packed. -/
def pack (w : Nat) (l : List Nat) : Bytes :=
  let (nb, ne) := packGroup w
  (packGroups w nb ne (ceilDiv l.length ne) l).take (packedLen w l.length)

/-! ## Tile descriptors (R179 to R182) -/

/-- A tile descriptor. -/
structure Tile where
  paged : Bool
  base : Nat
  idx : Nat
  fmt : Nat
  off : Nat
  stride : Nat
  cols : Nat
  rows : Nat
  soff : Int
  sstride : Nat
  deriving DecidableEq, Repr

def tileOf (b : Bytes) : Tile :=
  { paged := fld b 0 1 % 16 == 1, base := fld b 0 1 / 16, idx := fld b 1 1, fmt := fld b 2 1 % 64, off := fld b 4 6, stride := fld b 0xC 4,
    cols := fld b 0x10 3 + 1, rows := fld b 0x14 2 + 1, soff := sext 32 (fld b 0x18 4), sstride := fld b 0x1C 4 }

/-- Descriptor `i` of logical die `d`. -/
def W.tile (w : W) (j : Job) (d i : Nat) : Tile :=
  tileOf (w.img j (w.imgFld j (w.imgFld j 0x24 4 + 32 * d) 4 + 32 * i) 32)

/-- Address of element (0,0) (R180): a device-local one, or with a chip number in bits [60:48] for a GLOBAL argument; the logical address of a
paged tile (R181). -/
def Job.tileAddr (j : Job) (t : Tile) : Nat :=
  if t.paged then t.off
  else match t.base with
    | 0 => spBase (j.site t.idx) + t.off
    | 1 => stackBase (j.site t.idx) + t.off
    | _ => j.arg t.idx + t.off

def Tile.f (t : Tile) : Fmt := fmtD t.fmt
/-- Bytes of a row, and of a scale row for group size `g`. -/
def Tile.rowLen (t : Tile) : Nat := packedLen t.f.w t.cols
def Tile.scaleLen (t : Tile) (g : Nat) : Nat := if t.f.scaled then ceilDiv t.cols (max 1 (t.f.group g)) else 0
/-- Address of row `r` and of its scale row. -/
def Job.rowAddr (j : Job) (t : Tile) (r : Nat) : Nat := j.tileAddr t + r * t.stride
def Job.scaleAddr (j : Job) (t : Tile) (r : Nat) : Nat := ((j.tileAddr t : Int) + t.soff).toNat + r * t.sstride
/-- Group size of a GSIZE code (R174). -/
def gsizeOf (c : Nat) : Nat := if c = 0 then 0 else 16 * 2 ^ c

/-! ## Faults of a step -/

/-- Why a step faults: status and detail. -/
structure StepErr where
  status : Nat
  detail : Nat := 0
  deriving DecidableEq, Repr

/-- A fault is raised, or the step goes on. -/
def W.orFault (w : W) (p d q : Nat) (r : Except StepErr W) : W :=
  match r with
  | .ok w' => w'
  | .error e => w.stepFault p d q e.status e.detail

/-- The corrections that a step's reading met are counted, and its failure makes the step faulting (R142, R146, R151). -/
def W.withFx (w : W) (p d q : Nat) (fx : MemFx) (f : W → W) : W :=
  match w.d.runningJob p with
  | none => w
  | some _ =>
    let w := w.jobFx p fx
    match MemFail.code fx.fail with
    | some (st, det) => (w.memReport p fx.fail).stepFault p d q st det
    | none => f w

/-! ## Reading and writing operands -/

/-- The chip that a tile lies on when that is another one (R140, R317): a GLOBAL argument names it. -/
def W.tileChip (w : W) (j : Job) (t : Tile) : Option Nat :=
  let a := j.tileAddr t
  if !t.paged && t.base == 2 && w.argKind j t.idx == 3 && a / 2 ^ 48 ≠ w.d.hub.chip then some (a / 2 ^ 48 % 2 ^ 13) else none

/-- The device-local part of an address: a global address whose CHIP is the own number is served locally (R140). -/
def localPart (a : Nat) : Nat := a % 2 ^ 48

/-- Operands that an argument address places lie in the own die's scratchpad, as every direct operand of an engine does (R143). -/
def W.ownTiles (w : W) (j : Job) (d : Nat) (ids : List Nat) : Bool :=
  ids.all fun i => decide (i ≥ 0xFFFE) || (let t := w.tile j d i
    t.paged || t.base != 2 || ((w.tileChip j t).isNone && (match region (localPart (j.tileAddr t)) with
      | .sp s _ => s == j.site d
      | _ => false)))

/-- Page-table bank of polder `p` that is ACTIVE (R153, R154). -/
def Dev.ptActive (d : Dev) (p : Nat) : Nat := if (d.bank (ptBank p 0)).st = 4 then 0 else 1

/-- Entry `idx` of polder `p`'s page-table bank `b`. -/
def W.ptEntry (w : W) (p b idx : Nat) : Nat := le (w.read (ptBase (w.d.pol p).home b + 8 * idx) 8)

/-- Translation of a logical address (R154). -/
def W.translate (w : W) (p base la : Nat) (wr : Bool) : Except StepErr Nat :=
  let idx := base + la / 2 ^ 18
  if idx ≥ (w.d.pol p).ptEntries then .error { status := stPAGE_FAULT, detail := dPT_INDEX }
  else
    let e := w.ptEntry p (w.d.ptActive p) idx
    if !e.testBit 46 then .error { status := stPAGE_FAULT, detail := dPT_INVALID }
    else if wr && !e.testBit 47 then .error { status := stPAGE_FAULT, detail := dPT_READONLY }
    else .ok (bits e 29 0 * 2 ^ 18 + la % 2 ^ 18)

/-- The pieces (device-local address, length) of `n` bytes from logical address `la`, page by page, as far as translation goes. -/
def W.pagePieces (w : W) (p base : Nat) (wr : Bool) : Nat → Nat → Nat → List (Nat × Nat) × Option StepErr
  | 0, _, _ => ([], none)
  | k + 1, la, n =>
    if n = 0 then ([], none)
    else
      let m := min n (2 ^ 18 - la % 2 ^ 18)
      match w.translate p base la wr with
      | .error e => ([], some e)
      | .ok a =>
        let (l, e) := W.pagePieces w p base wr k (la + m) (n - m)
        ((a, m) :: l, e)

/-- The pieces of `n` bytes of a tile from `a`: translated for a paged tile, otherwise the range itself. -/
def W.pieces (w : W) (p : Nat) (j : Job) (t : Tile) (wr : Bool) (a n : Nat) : List (Nat × Nat) × Option StepErr :=
  if t.paged then w.pagePieces p (j.arg t.idx) wr (n / 2 ^ 18 + 2) a n else ([(localPart a, n)], none)

/-- The bytes of a list of pieces, as far as polder `p` reaches them, and what stops the reading (R138, R143). -/
def W.reachedBytes (w : W) (p : Nat) : List (Nat × Nat) → Bytes × Option StepErr
  | [] => ([], none)
  | (a, m) :: l =>
    match w.d.reach .dma p a m false with
    | (k, some det) => (w.readDev a k, some { status := stADDRESS_FAULT, detail := det })
    | (_, none) => let (bs, e) := W.reachedBytes w p l; (w.readDev a m ++ bs, e)

/-- Up to `n` bytes of a tile from `a`, read by a step of polder `p` in ascending order, and what stops the reading (R138, R143, R154). -/
def W.readTo (w : W) (p : Nat) (j : Job) (t : Tile) (a n : Nat) : Bytes × Option StepErr :=
  let (l, e) := w.pieces p j t false a n
  match w.reachedBytes p l with
  | (bs, some x) => (bs, some x)
  | (bs, none) => (bs, e)

/-- `n` bytes of a tile from `a`, all of them. -/
def W.readTile (w : W) (p : Nat) (j : Job) (t : Tile) (a n : Nat) : Except StepErr Bytes :=
  match w.readTo p j t a n with
  | (_, some e) => .error e
  | (bs, none) => .ok bs

/-- Bytes written by an engine into its scratchpad: those before a refused address land (R138, R159). -/
def W.putBytes (w : W) (p a : Nat) (bs : Bytes) : W × Option StepErr :=
  match w.d.reach .dma p (localPart a) bs.length true with
  | (_, none) => (w.write (localPart a) bs, none)
  | (m, some det) => (if m = 0 then w else w.write (localPart a) (bs.take m), some { status := stADDRESS_FAULT, detail := det })

/-- Several runs of bytes written in order, up to the first refusal. -/
def W.putAll (w : W) (p : Nat) : List (Nat × Bytes) → W × Option StepErr
  | [] => (w, none)
  | (a, bs) :: l => match w.putBytes p a bs with
    | (w, none) => W.putAll w p l
    | (w, some e) => (w, some e)

/-- Codes of row `r` of a tile. -/
def W.rowCodes (w : W) (p : Nat) (j : Job) (t : Tile) (r : Nat) : Except StepErr (List Nat) :=
  (w.readTile p j t (j.rowAddr t r) t.rowLen).map (unpack t.f.w t.cols)

/-- Codes of the first `n` rows. -/
def W.rowsCodes (w : W) (p : Nat) (j : Job) (t : Tile) (n : Nat) : Except StepErr (List (List Nat)) :=
  (List.range n).mapM (w.rowCodes p j t)

/-- Scale bytes of row `r` for group size `g`. -/
def W.scaleRow (w : W) (p : Nat) (j : Job) (t : Tile) (g r : Nat) : Except StepErr (List Nat) :=
  if t.f.scaled then (w.readTile p j t (j.scaleAddr t r) (t.scaleLen g)).map fun bs => bs.map (·.toNat) else .ok []

end Sys2Proof.Machine
end

