-- ==== Sys2Proof/Machine/Arrays.lean ====
section
/-! DEFINITION. Array passes: their operands, accumulator banks, stationary sets and results (R55 to R71, R174), and check episodes with their
evidence (R78 to R80, R366 to R380). -/

namespace Sys2Proof.Machine

/-- The fields of an ARRAY step (R174). -/
structure Pass where
  a : Nat
  b : Nat
  res : Nat
  scale : Option Nat
  k0 : Nat
  ks : Nat
  mt : Nat
  nt : Nat
  outFmt : Nat
  /-- 0 WS, 1 IS, 2 OS. -/
  mode : Nat
  bank : Nat
  gcode : Nat
  first : Bool
  last : Bool
  reuse : Bool
  e4nan : Bool
  cmax : Nat
  deriving DecidableEq, Repr

def passOf (s : Bytes) : Pass :=
  let u := fld s 0x18 4
  let v := fld s 0x1C 4
  { a := fld s 8 2, b := fld s 0xA 2, res := fld s 0xC 2, scale := if v.testBit 15 then some (fld s 0x10 4) else none, k0 := fld s 0x14 3,
    ks := bits u 17 0, mt := bits u 24 18 + 1, nt := bits u 31 25 + 1, outFmt := bits v 5 0, mode := bits v 7 6, bank := bits v 9 8,
    gcode := bits v 11 10, first := v.testBit 12, last := v.testBit 13, reuse := v.testBit 14, e4nan := v.testBit 16, cmax := bits v 23 17 + 1 }

/-- Physical array that serves logical array `q` at site `s` (R374). -/
def Dev.physOf (d : Dev) (s q : Nat) : Nat := bits (d.die s).lmap (4 * q + 3) (4 * q)
def Dev.array (d : Dev) (s phys : Nat) : ArrayS := tget {} (d.die s).arrays phys
def ArrayS.bank (A : ArrayS) (k : Nat) : AccBank := tget {} A.banks k
/-- The stationary set used last. -/
def ArrayS.held (A : ArrayS) : List OpRow := if A.set then A.s1 else A.s0
/-- A load fills the other set (R65). -/
def ArrayS.load (A : ArrayS) (rows : List OpRow) : ArrayS := if A.set then { A with set := false, s0 := rows } else { A with set := true, s1 := rows }

/-- Rows and columns of the tile: the count, read when the first pass starts, is held for all passes of the tile (R71). A later pass in another mode
keeps the rows and columns that the first pass's mode gave: the count still limits the dimension that the first pass streamed (DESIGN CHOICE, entry 49:
the spec does not say what a tile of mixed modes does with a count). -/
def W.passDims (w : W) (j : Job) (d : Nat) (A : ArrayS) (s : Bytes) (P : Pass) : Except StepErr (Nat × Nat) :=
  if !P.first then .ok ((A.bank P.bank).mt, (A.bank P.bank).nt)
  else match w.rowsOf j d s (if P.mode = 1 then P.nt else P.mt) P.cmax with
    | .error st => .error { status := st }
    | .ok n => .ok (if P.mode = 1 then (P.mt, n) else (n, P.nt))

/-- Row `r` of an operand over a pass's K range: its codes, and the scale byte over each 16 of them, which serves K-blocks of 16 and of 32 alike (R39,
R62). -/
def W.opRow (w : W) (p : Nat) (j : Job) (t : Tile) (g k0 ks r : Nat) : Except StepErr OpRow := do
  let codes ← w.readTile p j t (j.rowAddr t r + k0 * t.f.w / 8) (packedLen t.f.w ks)
  let nb := ceilDiv ks 16
  let size := max 1 (t.f.group g)
  let scales ← if t.f.scaled then w.readTile p j t (j.scaleAddr t r + k0 / size) ((k0 + (nb - 1) * 16) / size + 1 - k0 / size) else .ok []
  .ok { codes := unpack t.f.w ks codes
        scales := if t.f.scaled then (List.range nb).map fun i => (lget 0 scales ((k0 + i * 16) / size - k0 / size)).toNat else [] }

/-- What a pass computes: the array's state after it, the rows of codes that it writes, and its flags. -/
structure PassRes where
  arr : ArrayS
  rows : List (List Nat)
  flags : Nat

/-- What a grid's values are wrong by, K-block by K-block. -/
def errsAt (errs : List (Nat × BlkErr)) (j : Nat) : List BlkErr := (errs.filter (·.1 == j)).map Prod.snd

/-- A pass with its operands read: the stationary set, the accumulators and, at the last pass, the result (R43, R60, R64 to R66). `errs` is what the
grid forms wrongly. The flags of an element's arithmetic wait in its accumulator for the tile's last pass, and are dropped if rules 1 to 3 of R46 then
decide (DEDUCED, entry 50: R46 tests the whole row and column before anything is computed, and R45 lets no cut of K into passes show). -/
def passCompute (op : ArrOp) (fa fb : Fmt) (ftz : Bool) (P : Pass) (mt nt : Nat) (A : ArrayS) (ra rb : List OpRow)
    (errs : List (Nat × BlkErr) := []) : PassRes :=
  let kb := kBlock op fa fb
  let A := if P.mode = 2 || P.reuse then A else A.load (if P.mode = 1 then ra else rb)
  let xa := ra.map (prepRow op fa ftz kb)
  let xb := rb.map (prepRow op fb ftz kb)
  let bx := fa.half
  let B := A.bank P.bank
  let old := if B.cur then B.h1 else B.h0
  let acc := (xa.zipIdx.flatMap fun (a, m) => xb.zipIdx.map fun (b, n) =>
    accPass op bx (if P.first then accInit op else lget {} old (m * nt + n)) a b fun j => gridOff (errsAt errs j) m n)
  let keep := ((xa ++ xb).flatMap fun r => r.map (·.keep)).foldl (· ||| ·) 0
  if P.last then
    let out := acc.map (finishEl op P.outFmt ftz P.e4nan P.scale)
    let codes := out.map Prod.fst
    let rows := if P.mode = 1 then (List.range nt).map fun n => (List.range mt).map fun m => lget 0 codes (m * nt + n)
      else (List.range mt).map fun m => (codes.drop (m * nt)).take nt
    { arr := { A with banks := tset A.banks P.bank { B with open_ := false, mt := mt, nt := nt } }, rows := rows
      flags := out.foldl (fun f x => f ||| x.2) keep }
  else
    let B' : AccBank := if B.cur then { open_ := true, mt := mt, nt := nt, cur := false, h0 := acc, h1 := B.h1 }
      else { open_ := true, mt := mt, nt := nt, cur := true, h0 := B.h0, h1 := acc }
    { arr := { A with banks := tset A.banks P.bank B' }, rows := [], flags := keep }

/-- The check records of a pass, from its operands as the checkers' own converters read them (R74 to R78). -/
def passChecks (op : ArrOp) (fa fb : Fmt) (ftz : Bool) (P : Pass) (ra rb : List OpRow) (errs : List (Nat × BlkErr)) : List (Nat × List CheckRec) :=
  let kb := kBlock op fa fb
  passRecords op fa.half (ra.map (prepRow op fa ftz kb)) (rb.map (prepRow op fb ftz kb)) (P.k0 / kb) (errsAt errs)

/-- A bank whose tile has `mt` rows and `nt` columns and holds no accumulators yet. -/
def ArrayS.openBank (A : ArrayS) (P : Pass) (mt nt : Nat) : ArrayS :=
  { A with banks := tset A.banks P.bank { A.bank P.bank with open_ := !P.last, mt := mt, nt := nt } }

/-- The operands of a pass, its stationary one as held when REUSE is set (R26, R65). After a pass whose count was 0, which loaded no set, REUSE takes
the set that the array still holds (DESIGN CHOICE, entry 49: the spec does not say what such a pass computes with). -/
def W.passOperands (w : W) (p : Nat) (j : Job) (d : Nat) (P : Pass) (A : ArrayS) (mt nt : Nat) :
    Except StepErr (List OpRow × List OpRow) := do
  let ta := w.tile j d P.a
  let tb := w.tile j d P.b
  let g := gsizeOf P.gcode
  let ra ← if P.mode = 1 && P.reuse then .ok A.held else (List.range mt).mapM (w.opRow p j ta g P.k0 P.ks)
  let rb ← if P.mode = 0 && P.reuse then .ok A.held else (List.range nt).mapM (w.opRow p j tb g P.k0 P.ks)
  .ok (ra, rb)

/-! ## Check episodes (R367 to R373) -/

/-- The operand area of a K-block (R379): A's elements, A's scales, B's elements, B's scales. -/
def operandArea (kb wa wb : Nat) (ra rb : List OpRow) (jb : Nat) : List Bytes :=
  let el (w : Nat) (r : OpRow) : Bytes :=
    let c := (r.codes.drop (jb * kb)).take kb
    pack w (c ++ List.replicate (kb - c.length) 0)
  let sc (r : OpRow) : Bytes := if r.scales.isEmpty then [] else toLe 1 (lget 0 r.scales (jb * kb / 16))
  [ra.flatMap (el wa), ra.flatMap sc, rb.flatMap (el wb), rb.flatMap sc]

/-- The step at a position of an episode's queue, as a pass. -/
def W.epPass (w : W) (j : Job) (e : Episode) : Bytes := w.stepBytes j j.seg e.ldie e.logical e.pos

/-- The operation of an ARRAY step. -/
def arrOpOf (c : Nat) : ArrOp :=
  match c with
  | 1 => .matmul
  | 2 => .distL2sq
  | 3 => .distL1
  | 4 => .maxplus
  | 5 => .minplus
  | 6 => .hamming
  | _ => .cmpcount

/-- The held pass of an episode. -/
def Job.flightOf (j : Job) (e : Episode) : Option Flight := (j.queue e.ldie e.logical).flights.find? (·.pos == e.pos)

/-- The K-block of an episode as its arrays take it: the operation, whether it is on 16-bit operands, the rows and columns, and its number in the
reduction. The operands are read again (R63, R373). -/
structure EpBlk where
  op : ArrOp
  bx : Bool
  xa : List Blk
  xb : List Blk
  jj : Nat

/-- The operands of the held pass of episode `e`. -/
def W.epOperands (w : W) (j : Job) (e : Episode) : Option (Flight × List OpRow × List OpRow) :=
  (j.flightOf e).bind fun f =>
    match w.passOperands e.polder j e.ldie (passOf (w.epPass j e)) f.before f.mt f.nt with
    | .ok (ra, rb) => some (f, ra, rb)
    | .error _ => none

def W.epBlk (w : W) (j : Job) (e : Episode) : Option EpBlk :=
  (w.epOperands j e).map fun (_, ra, rb) =>
    let b := w.epPass j e
    let P := passOf b
    let op := arrOpOf (stepOp b)
    let fa := (w.tile j e.ldie P.a).f
    let fb := (w.tile j e.ldie P.b).f
    let kb := kBlock op fa fb
    { op := op, bx := fa.half, xa := (ra.map (prepRow op fa (j.ftzOf 0) kb)).filterMap (·[e.j]?)
      xb := (rb.map (prepRow op fb (j.ftzOf 0) kb)).filterMap (·[e.j]?), jj := P.k0 / kb + e.j }

/-- The check records of a computation of the episode's K-block (R367, R368). -/
def EpBlk.records (x : EpBlk) (errs : List BlkErr) : List CheckRec := blockRecords x.op x.bx x.xa x.xb x.jj errs
/-- Two computations have identical grids and decisions (R368). -/
def EpBlk.equal (x : EpBlk) (e f : List BlkErr) : Bool := gridOf x.op x.bx x.xa x.xb e == gridOf x.op x.bx x.xa x.xb f
/-- DIFF_S (R378): the grid sums of two computations, for the checker and index of the first record of O. -/
def EpBlk.diff (x : EpBlk) (recs : List CheckRec) (e f : List BlkErr) : Nat :=
  match recs with
  | [] => 0
  | k :: _ => gridSum x.op x.bx x.xa x.xb x.jj e k ^^^ gridSum x.op x.bx x.xa x.xb x.jj f k

/-- CHECKERS, INDEX_M and INDEX_N of R378. -/
def recCheckers (l : List CheckRec) : Nat := l.foldl (fun c k => c ||| 2 ^ k.checker) 0
def recIndex (l : List CheckRec) (checker : Nat) : Nat := ((l.find? (·.checker == checker)).map (·.idx)).getD 0xFF
/-- The bit pattern of the first record. -/
def recPat (l : List CheckRec) : Nat := (l.head?.map (·.pat)).getD 0

/-- An evidence record's first 256 bytes, with its operand area (R378, R379). -/
def W.evidRecord (w : W) (e : Episode) (s cls seq patP diffS sub : Nat) : Bytes × Bytes :=
  match (w.d.pol e.polder).job with
  | none => ([], [])
  | some j =>
    let b := w.epPass j e
    let P := passOf b
    let (mt, nt) := ((j.flightOf e).map fun f => (f.mt, f.nt)).getD (0, 0)
    let ta := w.tile j e.ldie P.a
    let tb := w.tile j e.ldie P.b
    let kb := kBlock (arrOpOf (stepOp b)) ta.f tb.f
    let parts := match w.epOperands j e with
      | some (_, ra, rb) => operandArea kb ta.f.w tb.f.w ra rb e.j
      | none => []
    let area := parts.flatten
    let len (i : Nat) : Bytes := toLe 4 (lget [] parts i).length
    (toLe 4 0x44564945 ++ toLe 2 2 ++ toLe 1 cls ++ toLe 1 0 ++ toLe 8 seq ++ toLe 1 s ++ toLe 1 e.phys ++ toLe 1 e.logical ++ toLe 1 sub ++
      toLe 1 e.polder ++ toLe 1 P.bank ++ toLe 1 (recCheckers e.recs) ++ toLe 1 (b2n e.capture) ++ toLe 1 (stepOp b) ++ toLe 1 ta.fmt ++
      toLe 1 tb.fmt ++ toLe 1 P.gcode ++ toLe 1 P.mode ++ toLe 1 (mt - 1) ++ toLe 1 (nt - 1) ++ toLe 1 0 ++ toLe 4 P.k0 ++ toLe 2 kb ++
      toLe 2 e.j ++ toLe 1 (recIndex e.recs 0) ++ toLe 1 (recIndex e.recs 1) ++ zeros 6 ++ toLe 12 (recPat e.recs) ++ zeros 4 ++ toLe 12 patP ++
      zeros 4 ++ toLe 12 diffS ++ zeros 4 ++ sha384 area ++ len 0 ++ len 1 ++ len 2 ++ len 3 ++ zeros 96,
     if e.capture then area else [])

/-- TEST_FAIL, 16 bytes (R378, R409). -/
def resultBytes (r : TestRes) : Bytes :=
  toLe 1 r.block ++ toLe 1 r.site ++ toLe 1 r.unitNo ++ toLe 1 r.test ++ toLe 1 r.result ++ toLe 1 r.nfail ++ toLe 2 r.bit ++ toLe 8 r.addr

/-- A record goes to its slot if records are enabled and the slot is free, and EVIDENCE follows; otherwise it is dropped and counted (R377). -/
def W.writeEvid (w : W) (e : Evid) : W :=
  let h := w.d.hub
  let n := 2 ^ h.evidLog2
  if h.evidEnable && decide (sub32 (u32 e.seq) h.evidHead < n) then
    let pad (b : Bytes) : Bytes := (b ++ zeros 16).take 16
    let rec_ := e.head.take 7 ++ toLe 1 e.test ++ (e.head.drop 8).take 0x98 ++ pad e.fail ++ toLe 1 e.subTest ++ zeros 15 ++ pad e.subFail ++
      zeros 48 ++ e.area
    (w.emit (.hostWrite (h.evidBase + (e.seq % n) * 0x8000) rec_)).event 16 stEVIDENCE 0 5 e.site e.seq
  else w.hubErr 6 1

/-- The next evidence sequence number. -/
def W.evidSeq (w : W) : Nat × W :=
  (w.d.hub.evidSeq, w.modHub fun h => { h with evidSeq := h.evidSeq + 1 })

def W.dropEpisode (w : W) (s : Nat) (e : Episode) : W := w.modDie s fun D => { D with episodes := D.episodes.erase e }

/-- The substitute for physical array `phys` of site `s`: the spare, or the lowest-numbered array in service that is borrowed (R369). -/
def Dev.substitute (d : Dev) (s phys : Nat) : Nat :=
  let D := d.die s
  let ok (n : Nat) : Bool := n != phys && !D.quar.testBit n && !D.chkq.testBit n
  if (d.logicalOf s 8).isNone && ok 8 then 8
  else ((List.range 9).find? fun n => ok n && (d.logicalOf s n).isSome).getD 0xF

/-- The spare keeps its power only while it serves a logical array, computes for an episode or is under test (R56). -/
def Die.spareServes (D : Die) : Bool := (List.range 8).any fun n => bits D.lmap (4 * n + 3) (4 * n) == 8
def W.spareRest (w : W) (s : Nat) : W :=
  let slice := w.d.bist.slots.any fun (_, S) => S.st == 2 && bits S.cmd 7 0 == 1 && bits S.cmd 12 8 == s && bits S.cmd 23 16 == 8
  w.modDie s fun D => { D with spareOn := D.spareOn && (D.spareServes || D.test.testBit 8 || D.episodes.any (·.sub == 8) || slice) }

/-- The `i`-th pass in flight of logical array `q` mismatches in the K-blocks of `recs`: it is held, the passes behind it are abandoned, the kept bank
halves and the flags are those that it found, and an episode opens for each K-block (R78, R79, R367). -/
def W.holdPass (w : W) (p d q i : Nat) (errs : List (Nat × BlkErr)) (recs : List (Nat × List CheckRec)) : W :=
  match w.d.runningJob p with
  | none => w
  | some j =>
    match (j.queue d q).flights[i]? with
    | none => w
    | some f =>
      let s := j.site d
      let phys := w.d.physOf s q
      let cap := (w.d.pol p).capture
      ((w.modDie s fun D => { D with
          arrays := tset D.arrays phys f.before, flags := tset D.flags q f.flags
          episodes := D.episodes ++ recs.map fun (k, rs) => { polder := p, ldie := d, logical := q, phys := phys, pos := f.pos, j := k, recs := rs,
                                                                errs := errsAt errs k, capture := cap } }).hubErr 0 recs.length).modJob p fun j =>
        j.setQueue d q fun Q => { Q with pos := f.pos + 1, flights := Q.flights.take i ++ [{ f with held := true, errs := errs }] }

/-- What a pass of `f` does with its operands read: its array takes it, its flags are raised, and a last pass writes its rows (R60, R62). -/
def W.passEffect (w : W) (p d q : Nat) (j : Job) (b : Bytes) (f : Flight) (ra rb : List OpRow) : W × Option StepErr :=
  let s := j.site d
  let phys := w.d.physOf s q
  let P := passOf b
  let r := passCompute (arrOpOf (stepOp b)) (w.tile j d P.a).f (w.tile j d P.b).f (j.ftzOf 0) P f.mt f.nt f.before ra rb f.errs
  let w := (w.modDie s fun D => { D with arrays := tset D.arrays phys r.arr }).raiseFlags p d q r.flags
  let t := w.tile j d P.res
  w.putAll p (r.rows.zipIdx.map fun (c, i) => (j.rowAddr t i, pack t.f.w c))

/-- An accumulator entry of any kind: its sign, exponent, special values, flags and significand, as the digits of `n`. -/
def anyEl (n : Nat) : AccEl :=
  { v := .num (n.testBit 0) (n / 2 ^ 21) ((n / 2 % 2 ^ 11 : Nat) - 1024), sp := n / 2 ^ 12 % 16, fl := n / 2 ^ 16 % 32 }
/-- Accumulators whose contents the spec leaves open, after a pass of the tile that faulted: free values (entry 51). -/
def W.spoilBank (w : W) (s phys : Nat) (P : Pass) (mt nt : Nat) : W :=
  let (k, w) := w.fresh
  let els : List AccEl := (List.range (mt * nt)).map fun i => anyEl (Config.freeNat (k + i))
  (w.dev fun d => { d with freeCtr := d.freeCtr + mt * nt }).modDie s fun D =>
    let A := tget {} D.arrays phys
    { D with arrays := tset D.arrays phys { A with banks := tset A.banks P.bank { open_ := !P.last, mt := mt, nt := nt, h0 := els, h1 := els } } }

/-- The passes in flight before the newest whose checks end with this command: the oldest that mismatches, with what it formed wrongly (R61, R78). -/
def W.lateMismatch (w : W) (p d q : Nat) (ck : List ArrErr) : Option (Nat × List (Nat × BlkErr) × List (Nat × List CheckRec)) :=
  match w.d.runningJob p with
  | none => none
  | some j =>
    let fs := (j.queue d q).flights
    fs.zipIdx.findSome? fun (f, i) =>
      let back := fs.length - 1 - i
      let errs := f.errs ++ (ck.filter (·.back == back)).map fun e => (e.j, e.err)
      if back = 0 || (ck.filter (·.back == back)).isEmpty then none
      else
        let b := w.stepBytes j j.seg d q f.pos
        let P := passOf b
        match w.passOperands p j d P f.before f.mt f.nt with
        | .error _ => none
        | .ok (ra, rb) =>
          let recs := passChecks (arrOpOf (stepOp b)) (w.tile j d P.a).f (w.tile j d P.b).f (j.ftzOf 0) P ra rb errs
          if recs.isEmpty then none else some (i, errs, recs)

/-- An older pass in flight mismatches: what it wrote wrongly stands in its result region until it is finished, and it is held (R78). -/
def W.holdLate (w : W) (p d q : Nat) (x : Nat × List (Nat × BlkErr) × List (Nat × List CheckRec)) : W :=
  match w.d.runningJob p with
  | none => w
  | some j =>
    match (j.queue d q).flights[x.1]? with
    | none => w
    | some f =>
      let b := w.stepBytes j j.seg d q f.pos
      match w.passOperands p j d (passOf b) f.before f.mt f.nt with
      | .error _ => w
      | .ok (ra, rb) => (w.passEffect p d q j b { f with errs := x.2.1 } ra rb).1.holdPass p d q x.1 x.2.1 x.2.2

/-- The pass of logical array `q` that was just issued runs: it reads its operands, and its results are written; its checks, and those of passes
before it that `ck` names, end (R61, R78, R79). -/
def W.runPass (w : W) (p d q : Nat) (j : Job) (b : Bytes) (fail : MemFail) (ck : List ArrErr) : W :=
  let s := j.site d
  let phys := w.d.physOf s q
  let A := w.d.array s phys
  let P := passOf b
  match w.passDims j d A b P with
  | .error e => (w.modDie s fun D => { D with arrays := tset D.arrays phys (A.openBank P 0 0) }).stepFault p d q e.status e.detail
  | .ok (mt, nt) =>
    if mt = 0 || nt = 0 then (w.modDie s fun D => { D with arrays := tset D.arrays phys (A.openBank P mt nt) }).releaseStep p d q
    else match MemFail.code fail with
    | some (st, det) => ((w.spoilBank s phys P mt nt).memReport p fail).stepFault p d q st det
    | none =>
      match w.passOperands p j d P A mt nt with
      | .error e => (w.spoilBank s phys P mt nt).stepFault p d q e.status e.detail
      | .ok (ra, rb) =>
        let errs := (ck.filter (·.back == 0)).map fun e => (e.j, e.err)
        let f : Flight := { pos := (j.queue d q).pos, bank := P.bank, mt := mt, nt := nt, errs := errs, before := A, flags := tget 0 (w.d.die s).flags q }
        match (w.modJob p fun j => j.setQueue d q fun Q => { Q with flights := Q.flights ++ [f] }).passEffect p d q j b f ra rb with
        | (w, some e) => w.stepFault p d q e.status e.detail
        | (w, none) =>
          match w.lateMismatch p d q ck with
          | some x => w.holdLate p d q x
          | none =>
            let recs := passChecks (arrOpOf (stepOp b)) (w.tile j d P.a).f (w.tile j d P.b).f (j.ftzOf 0) P ra rb errs
            if recs.isEmpty then w else w.holdPass p d q (j.queue d q).flights.length errs recs

/-- The held pass of an episode is finished: once none of its K-blocks is in an episode, its WAF additions are repeated from the kept half with the
accepted partials, and its results written again (R78 step 4, R80). -/
def W.finishPass (w : W) (s : Nat) (e : Episode) : W :=
  let w := w.spareRest s
  if (w.d.die s).episodes.any fun x => x.polder == e.polder && x.ldie == e.ldie && x.logical == e.logical && x.pos == e.pos then w
  else match w.d.runningJob e.polder with
  | none => w
  | some j =>
    match w.epOperands j e with
    | none => w
    | some (f, ra, rb) =>
      let w := w.modJob e.polder fun j => j.setQueue e.ldie e.logical fun Q =>
        { Q with flights := Q.flights.map fun g => if g.pos = e.pos then { g with held := false } else g }
      match w.passEffect e.polder e.ldie e.logical j (w.epPass j e) f ra rb with
      | (w, some x) => w.stepFault e.polder e.ldie e.logical x.status x.detail
      | (w, none) => w

/-- A computation of the episode's K-block is accepted, with whatever it formed wrongly that no check saw (R78 step 4); CHECKER counts it (R221, R385). -/
def W.acceptBlk (w : W) (e : Episode) (errs : List BlkErr) : W :=
  (w.modJob e.polder fun j => { j.setQueue e.ldie e.logical fun Q =>
      { Q with flights := Q.flights.map fun g =>
          if g.pos = e.pos then { g with errs := g.errs.filter (·.1 != e.j) ++ errs.map fun x => (e.j, x) } else g } with
    checker := j.checker + 1 }).polErr e.polder 0 1

/-- The spare finishes the pass from the K-block after the episode's (R80): it computes those K-blocks anew, so what the failing array found in them is
dropped, and what the spare forms wrongly (`rest`) is checked by the spare's own checkers (R367). -/
def W.takeOver (w : W) (s : Nat) (e : Episode) (rest : List (Nat × BlkErr)) : W :=
  let later (n : Nat) : Bool := decide (e.j < n)
  let rest := rest.filter fun x => later x.1
  let same (x : Episode) : Bool := x.polder == e.polder && x.ldie == e.ldie && x.logical == e.logical && x.pos == e.pos
  let w := w.modDie s fun D => { D with episodes := D.episodes.filter fun x => !(same x && later x.j) }
  let w := w.modJob e.polder fun j => j.setQueue e.ldie e.logical fun Q =>
    { Q with flights := Q.flights.map fun g => if g.pos = e.pos then { g with errs := g.errs.filter (fun x => !later x.1) ++ rest } else g }
  match w.d.runningJob e.polder with
  | none => w
  | some j =>
    match w.epOperands j e with
    | none => w
    | some (_, ra, rb) =>
      let b := w.epPass j e
      let P := passOf b
      let recs := passChecks (arrOpOf (stepOp b)) (w.tile j e.ldie P.a).f (w.tile j e.ldie P.b).f (j.ftzOf 0) P ra rb rest
      if recs.isEmpty then w
      else (w.modDie s fun D => { D with episodes := D.episodes ++ recs.map fun (k, rs) =>
        { polder := e.polder, ldie := e.ldie, logical := e.logical, phys := 8, pos := e.pos, j := k, recs := rs, errs := errsAt rest k,
          capture := (w.d.pol e.polder).capture } }).hubErr 0 recs.length

/-- ARRAY_QUARANTINED on both rings (R366). -/
def W.quarEvent (w : W) (e : Episode) (s cls sub seq : Nat) : W :=
  (w.event 16 stARRAY_QUARANTINED 0 5 s (e.logical + e.phys * 2 ^ 8 + cls * 2 ^ 16 + sub * 2 ^ 24 + u32 seq * 2 ^ 32)).event e.polder
    stARRAY_QUARANTINED 0 5 s (e.logical + cls * 2 ^ 16)

/-- LASTING (1) or CHECKER_PATH (2): the failing array is quarantined, and the spare takes over, or the die is withdrawn at the job's end when the
substitute was borrowed (R80, R370, R372). `errs` is what the accepted computation formed wrongly unseen, and `rest` what the spare forms wrongly in the
K-blocks after it. -/
def W.quarantine (w : W) (s : Nat) (e : Episode) (cls diffS : Nat) (errs : List BlkErr) (rest : List (Nat × BlkErr)) : W :=
  let (seq, w) := w.evidSeq
  let (head, area) := w.evidRecord e s cls seq e.patP (if cls = 2 then 0 else diffS) e.sub
  let w := (((w.hubErr (cls + 1) 1).polErr e.polder 6 1).dropEpisode s e).modDie s fun D =>
    if cls = 1 then { D with quar := D.quar ||| 2 ^ e.phys } else { D with chkq := D.chkq ||| 2 ^ e.phys }
  let w := w.dev fun d => { d with evids := d.evids ++ [{ site := s, phys := e.phys, sub := e.sub, seq := seq, head := head, area := area }] }
  let w := w.acceptBlk e errs
  let w := if e.sub = 8 && (w.d.logicalOf s 8).isNone then
      (w.modDie s fun D => { D with lmap := setBits D.lmap (4 * e.logical + 3) (4 * e.logical) 8, spareOn := true
                                    arrays := tset D.arrays 8 (tget {} D.arrays e.phys), test := D.test ||| 2 ^ e.phys }).takeOver s e rest
    else w.modDie s fun D => { D with withdraw := 1 }
  (w.quarEvent e s cls e.sub seq).finishPass s e

/-- UNRESOLVED: the pass is faulting, the die withdrawn, and both arrays are tested (R370). Its other K-blocks in episodes end with it. -/
def W.unresolved (w : W) (s : Nat) (e : Episode) (diffS : Nat) : W :=
  let (seq, w) := w.evidSeq
  let (head, area) := w.evidRecord e s 3 seq e.patP diffS e.sub
  let w := (((w.hubErr 4 1).polErr e.polder 6 1).dropEpisode s e).modDie s fun D =>
    { D with quar := D.quar ||| 2 ^ e.phys, withdrawn := true
             episodes := D.episodes.filter fun x => !(x.polder == e.polder && x.ldie == e.ldie && x.logical == e.logical && x.pos == e.pos) }
  let w := w.dev fun d => { d with evids := d.evids ++ [{ site := s, phys := e.phys, sub := e.sub, seq := seq, head := head, area := area, waitSub := true }] }
  let w := if e.sub = 8 && (w.d.logicalOf s 8).isNone then w.startTests s else w
  ((w.spareRest s).withdrawnEvent e.polder s 2).stepFault e.polder e.ldie e.logical stCHECK_MISMATCH dCODE_MISMATCH

/-- A watchdog or a reset of polder `p` interrupts its episodes: no result, and an INTERRUPTED record where the repeat had not agreed (R373). -/
def W.interruptEpisodes (w : W) (p : Nat) : W :=
  w.each (w.d.polSites p) fun w s => (w.each ((w.d.die s).episodes.filter (·.polder == p)) fun w e =>
    let w := w.dropEpisode s e
    if e.stage = .repeatP then w
    else
      let (seq, w) := w.evidSeq
      let (head, area) := w.evidRecord e s 4 seq e.patP e.diffS e.sub
      (w.hubErr 5 1).writeEvid { site := s, phys := e.phys, sub := e.sub, seq := seq, head := head, area := area }).spareRest s

/-! ## The commands -/

/-- One array pass (R43 to R48, R58 to R71), with what the arrays form wrongly, if anything. -/
def W.arrayStep (w : W) (op : ArrOp) (p d q : Nat) (fx : MemFx) (ck : List ArrErr) : W :=
  w.issue p d q (fun b => stepKind b == 1 && stepOp b == op.code && decide (q < 8)) fun w j b => (w.jobFx p fx).runPass p d q j b fx.fail ck

/-- MATMUL (R43). -/
def execMatmul (p d q : Nat) (fx : MemFx) (ck : List ArrErr) (s : State) : Host.Outcome State Fault Refusal :=
  s.run fun w => w.arrayStep .matmul p d q fx ck

/-- DIST_L2SQ (R66). -/
def execDistL2sq (p d q : Nat) (fx : MemFx) (ck : List ArrErr) (s : State) : Host.Outcome State Fault Refusal :=
  s.run fun w => w.arrayStep .distL2sq p d q fx ck

/-- DIST_L1 (R66). -/
def execDistL1 (p d q : Nat) (fx : MemFx) (ck : List ArrErr) (s : State) : Host.Outcome State Fault Refusal :=
  s.run fun w => w.arrayStep .distL1 p d q fx ck

/-- MAXPLUS (R66). -/
def execMaxplus (p d q : Nat) (fx : MemFx) (ck : List ArrErr) (s : State) : Host.Outcome State Fault Refusal :=
  s.run fun w => w.arrayStep .maxplus p d q fx ck

/-- MINPLUS (R66). -/
def execMinplus (p d q : Nat) (fx : MemFx) (ck : List ArrErr) (s : State) : Host.Outcome State Fault Refusal :=
  s.run fun w => w.arrayStep .minplus p d q fx ck

/-- HAMMING (R66). -/
def execHamming (p d q : Nat) (fx : MemFx) (ck : List ArrErr) (s : State) : Host.Outcome State Fault Refusal :=
  s.run fun w => w.arrayStep .hamming p d q fx ck

/-- CMPCOUNT (R66). -/
def execCmpcount (p d q : Nat) (fx : MemFx) (ck : List ArrErr) (s : State) : Host.Outcome State Fault Refusal :=
  s.run fun w => w.arrayStep .cmpcount p d q fx ck

/-- The episode of site `s` that is served (R373). -/
def Dev.episode (d : Dev) (s : Nat) : Option Episode := (d.die s).episodes.head?
def W.setEpisode (w : W) (s : Nat) (e : Episode) : W := w.modDie s fun D => { D with episodes := e :: D.episodes.drop 1 }

/-- REPEAT_COMPLETE (R368 step 1): P, which formed `errs` wrongly, is checked; if it agrees, the episode is TRANSIENT, and otherwise a substitute is
called. -/
def execRepeatComplete (site : Nat) (errs : List BlkErr) (s : State) : Host.Outcome State Fault Refusal :=
  s.run fun w =>
    match w.d.episode site with
    | none => w
    | some e =>
      if e.stage ≠ .repeatP then w
      else match (w.d.runningJob e.polder).bind (w.epBlk · e) with
      | none => w
      | some x =>
        if (x.records errs).isEmpty then (((w.dropEpisode site e).hubErr 1 1).acceptBlk e errs).finishPass site e
        else w.setEpisode site { e with stage := .waitSub, patP := recPat (x.records errs) }

/-- SUBSTITUTE_READY (R369): the spare is powered, or a borrowed array is free. -/
def execSubstituteReady (site : Nat) (s : State) : Host.Outcome State Fault Refusal :=
  s.run fun w =>
    match w.d.episode site with
    | none => w
    | some e =>
      if e.stage ≠ .waitSub then w
      else
        let sub := w.d.substitute site e.phys
        (w.setEpisode site { e with stage := .compS, sub := sub }).modDie site fun D => { D with spareOn := D.spareOn || sub == 8 }

/-- SUBSTITUTE_COMPLETE (R368 steps 2 and 3): S, which formed `errs` wrongly, is checked and compared with O. `rest` is what the spare forms wrongly
when it then finishes the pass (R80). -/
def execSubstituteComplete (site : Nat) (errs : List BlkErr) (rest : List ArrErr) (s : State) : Host.Outcome State Fault Refusal :=
  s.run fun w =>
    match w.d.episode site with
    | none => w
    | some e =>
      if e.stage ≠ .compS && e.stage ≠ .compS2 then w
      else match (w.d.runningJob e.polder).bind (w.epBlk · e) with
      | none => w
      | some x =>
        let diff := x.diff e.recs errs e.errs
        if (x.records errs).isEmpty then
          w.quarantine site e (if x.equal errs e.errs then 2 else 1) diff errs (rest.map fun r => (r.j, r.err))
        else if e.stage = .compS then w.setEpisode site { e with stage := .compS2, diffS := diff }
        else w.unresolved site e diff

end Sys2Proof.Machine
end

