-- ==== Sys2Proof/Machine/FabricLink.lean ====
section
/-! DEFINITION. Fabric ports: their states, the per-hop replay, switched connections, the neighbour check, and the timers (R293 to R316,
R341, R359, R465). -/

namespace Sys2Proof.Machine

/-! ## What leaves with a port -/

/-- The operation that a frame of this device carries. -/
def Dev.opOf (d : Dev) (f : Frame) : Option ROp :=
  if f.src ≠ d.hub.chip then none
  else d.fabric.ops.find? fun o => o.sent && o.tag == f.tag && o.chip == f.dst && o.frame.kind == f.kind

/-- The operation of a frame that cannot be sent again fails (R305, R324). -/
def W.frameLost (w : W) (f : Frame) (detail : Nat) : W :=
  match w.d.opOf f with
  | some o => w.opFail o stREMOTE_UNREACHABLE detail
  | none => w

/-- Kinds that a failed member's replay buffer sends again (R305): WRITE, READ_REQ, READ_RESP, SIGNAL, SET, COLL_DATA. -/
def resends (kind : Nat) : Bool := kind == 1 || kind == 2 || kind == 3 || kind == 4 || kind == 5 || kind == 8

/-- The members of a chip that a logical port no longer reaches are lost to their collectives (R335). -/
def W.routeLost (w : W) (lp : Nat) : W :=
  w.each (List.range 16) fun w p =>
    if !(w.d.pol p).coll.valid || (w.d.runningJob p).isNone || !(w.d.usable lp (some p)).isEmpty then w
    else w.each (w.d.activeColls p) fun w c =>
      w.each (((w.collMembers (w.collEntry p c)).map Prod.fst).filter fun m => m ≠ w.d.hub.chip && w.d.route m == some lp) fun w m => w.memberLost p c m 1

/-- Frames in the replay buffer of a port that stops sending go to another usable member as they are, or their operations fail (R305); those that it held and had not
sent are later frames, and go there too (R299). -/
def W.replayLost (w : W) (n : Nat) : W :=
  let P := w.d.port n
  let w := w.modPort n fun P => { P with replay := [], held := [], replays := 0 }
  let again (w : W) (h : HeldFrame) : W :=
    match w.d.member P.lport h.f with
    | some m => w.direct m h.f h.inp
    | none => w.frameLost h.f 8
  let w := if P.mode = 1 then w
    else (w.each ((P.replay.filter fun f => resends f.kind).map fun f => { f := f }) again).each (P.held.filter fun h => decide (h.f.kind < 0x10)) again
  ((w.routeLost P.lport).pumpAll).pausePeers

/-- A port goes DOWN and retrains at once (R297). Its hop sequence numbers start again (DEDUCED, entry 15). -/
def W.portDown (w : W) (n cause : Nat) : W :=
  let P := w.d.port n
  if P.st = 2 ∨ P.st = 4 then
    ((w.modPort n fun P => { P with st := 1, cause := cause, hvalid := false, txSeq := 0, rxSeq := 0, paused := 0, pausing := 0 })).replayLost n
  else w

/-- The neighbour check fails: EXCLUDED (R315). -/
def W.exclude (w : W) (n : Nat) : W := (w.modPort n fun P => { P with st := 4 }).linkCnt n 6

/-- The port's laser is on: its optical engine is the element selected, it is not too hot, and its block is latched (R17, R359, R465). -/
def Port.laser (P : Port) : Bool := P.phy && !P.hot && P.latched
/-- The PHY that the port uses can carry a signal (R17, R359, R465). -/
def Port.lit (P : Port) : Bool := !P.phy || P.laser

/-! ## Frames of the link itself -/

/-- HELLO of a DIRECT port (R314). -/
def Dev.helloFrame (d : Dev) (n : Nat) : Frame :=
  let P := d.port n
  let pl := toLe 16 (d.hub.chip + n * 2 ^ 13 + P.lport * 2 ^ 19 + P.mode * 2 ^ 23 + 2 * 2 ^ 25)
  { kind := 0x10, tc := true, dst := P.peerChip, src := d.hub.chip, srcPort := n, payload := pl, trailer := codeOf pl }

/-- LL_ACK (R302, R305), to the neighbour of the last hello (DEDUCED, entry 62). -/
def Dev.llAckFrame (d : Dev) (n : Nat) (nak : Bool) : Frame :=
  let pl := toLe 4 (b2n nak)
  { kind := 0x11, tc := true, dst := (d.port n).peerChip, src := d.hub.chip, srcPort := n, payload := pl, trailer := codeOf pl }

/-- GOODBYE (R302). -/
def Dev.goodbyeFrame (d : Dev) (n : Nat) : Frame :=
  { kind := 0x12, tc := true, dst := (d.port n).peerChip, src := d.hub.chip, srcPort := n }

/-- GOODBYE on every UP port (R335, R426). -/
def W.goodbyes (w : W) : W :=
  w.each ((List.range w.d.numPorts).filter fun n => (w.d.port n).st == 2) fun w n =>
    if (w.d.port n).mode = 0 then w.direct n (w.d.goodbyeFrame n) else w.wire n (w.d.goodbyeFrame n)

/-! ## Receiving -/

/-- Frames before `hack` leave the replay buffer (R305). -/
def ackReplay (l : List Frame) (hack : Nat) : List Frame := l.filter fun f => (hack + 2 ^ 16 - f.hseq - 1) % 2 ^ 16 ≥ 2 ^ 15

/-- HACK of an arriving frame (R305). -/
def W.takeHack (w : W) (n hack : Nat) : W :=
  let P := w.d.port n
  let left := ackReplay P.replay hack
  (w.modPort n fun P => { P with replay := left, replays := if left.length < P.replay.length then 0 else P.replays }).release n

/-- Frames not acknowledged are sent again as they are, with the present HACK (R305). -/
def W.replayAll (w : W) (n : Nat) : W :=
  let P := w.d.port n
  if P.replay.isEmpty then w
  else
    let w := w.modPort n fun P => { P with replays := P.replays + 1 }
    w.each P.replay fun w f => (w.wire n { f with hack := P.rxSeq }).linkCnt n 3

/-- A DIRECT port asks for a replay. -/
def W.llNak (w : W) (n : Nat) : W := if (w.d.port n).mode = 0 then w.direct n (w.d.llAckFrame n true) else w

/-- Kinds of R302. -/
def kindOk (k : Nat) : Bool := (1 ≤ k && k ≤ 0x0A) || (0x10 ≤ k && k ≤ 0x12)

/-- The payload of a frame of the link is as R302 gives it: its length, and the reserved bits of an LL_ACK. -/
def linkPayloadOk (f : Frame) : Bool :=
  match f.kind with
  | 0x10 => f.payload.length == 16
  | 0x11 => f.payload.length == 4 && decide (le f.payload < 2)
  | 0x12 => f.payload.isEmpty
  | _ => true

/-- Check 1 of R322: the LNK_CNT number under which the frame is discarded, if it is. -/
def badFrame (f : Frame) : Option Nat :=
  if !f.fcsOk then some 2
  else if f.ver ≠ 2 || f.rsvd || !kindOk f.kind || f.payload.length > 4096 || !linkPayloadOk f then some 5
  else none

/-- Waiting frames of a connection go out as the window allows. -/
def W.pushConn : Nat → W → Nat → Nat → Nat → W
  | 0, w, _, _, _ => w
  | k + 1, w, lp, chip, tc =>
    let C := w.d.conn lp chip tc
    match C.waiting with
    | [] => w
    | f :: rest =>
      if C.st = 2 ∧ C.unacked.length < 1024 then
        match w.d.member lp f with
        | some n =>
          let w := w.modConn lp chip tc fun C => { C with waiting := rest }
          W.pushConn k (match w.d.keyFault n f with
            | some det => w.frameLost f det
            | none => w.switched n lp f) lp chip tc
        | none => w
      else w

/-- EACK of an arriving frame: frames before it are acknowledged (R307). -/
def W.takeEack (w : W) (lp chip tc eack : Nat) : W :=
  let C := w.d.conn lp chip tc
  let left := C.unacked.filter fun f => sub32 eack (u32 (f.eseq + 1)) ≥ 2 ^ 31
  let w := w.modConn lp chip tc fun C => { C with unacked := left, retx := if left.length < C.unacked.length then 0 else C.retx }
  W.pushConn (C.waiting.length + 1) w lp chip tc

/-- A connection fails: its operations complete, and the next frame opens a new one (R307, R324, R335). The peer's own connection, in the other direction, goes on. -/
def W.connFail (w : W) (lp chip tc detail : Nat) : W :=
  let C := w.d.conn lp chip tc
  let w := w.modConn lp chip tc fun C => { C with st := 0, unacked := [], waiting := [], retx := 0 }
  let w := w.each (C.unacked ++ C.waiting) fun w f => w.frameLost f detail
  (w.chipLost chip (if detail = 3 then 3 else 1)).pumpAll

/-- Transit (R312): the frame goes out by R311 as it stands, its VC set for the link that it crosses. -/
def W.forward (w : W) (inPort : Nat) (f : Frame) : W :=
  match w.d.route f.dst with
  | none => w
  | some lp =>
    match w.d.member lp f with
    | none => w
    | some n =>
      let F := w.d.fabric
      let lin := (w.d.port inPort).lport
      let came := match inTorus F.topo f.dst, torusHop F.topo w.d.hub.chip f.dst with
        | true, some (k, _) => bits F.torusPorts (8 * k + 3) (8 * k) == lin || bits F.torusPorts (8 * k + 7) (8 * k + 4) == lin
        | _, _ => true
      (w.transmit n lp { f with vc := w.d.hopVc f.dst (came && f.vc) } (some inPort)).pausePeers

/-- A DIRECT port accepts a frame whose FCS is right and whose HSEQ is the next expected, whatever check 1 says of it then; it takes every other frame for lost (R305). -/
def W.hopAccept (w : W) (n : Nat) (f : Frame) : W :=
  let w := (w.linkCnt n 1).takeHack n f.hack
  if f.kind = 0x11 then w else w.modPort n fun P => { P with rxSeq := (P.rxSeq + 1) % 2 ^ 16 }

/-- A frame that passed check 1 on a SWITCHED port (R307): its connection delivers the one next expected, and acknowledges any other, which it discards, by a HELLO
(DESIGN CHOICE, entry 14). Frames of the link and of connections are not sequenced. -/
def W.connArrive (w : W) (n : Nat) (f : Frame) : W × Bool :=
  let lp := (w.d.port n).lport
  let tc := b2n f.tc
  let w := if f.eackv then w.takeEack lp f.src (if f.kind = 6 then 0 else tc) f.eack else w
  let C := w.d.conn lp f.src tc
  if !C.rxOpen then (w, false)
  else if f.eseq = C.rx then ((w.linkCnt n 1).modConn lp f.src tc fun C => { C with rx := u32 (C.rx + 1) }, f.dst == w.d.hub.chip)
  else (w.sendHello n lp f.src tc true, false)

/-- An arriving frame passes the port: false when it is discarded or passed on, otherwise the frame is for this device (R297, R300, R305, R307, R312, R322 check 1). -/
def W.arrive (w : W) (n : Nat) (f : Frame) : W × Bool :=
  let P := w.d.port n
  let link := f.kind == 0x10 || f.kind == 0x11 || f.kind == 0x12
  if !(P.st = 2 || (P.st = 4 && link)) then (w, false)
  else if !f.fcsOk then ((w.linkCnt n 2).llNak n, false)
  else if P.mode = 0 then
    if f.kind ≠ 0x11 && f.hseq ≠ P.rxSeq then (w.llNak n, false)
    else
      let w := w.hopAccept n f
      match badFrame f with
      | some k => (w.linkCnt n k, false)
      | none => if link || f.dst = w.d.hub.chip then (w, true) else (w.forward n f, false)
  else match badFrame f with
    | some k => (w.linkCnt n k, false)
    | none => if link then (w.linkCnt n 1, true) else w.connArrive n f

/-! ## The commands -/

/-- FRAME_DISCARD (R322 check 1): a frame that check 1 refuses. -/
def execFrameDiscard (n : Nat) (f : Frame) (s : State) : Host.Outcome State Fault Refusal :=
  s.run fun w => if (badFrame f).isSome then (w.arrive n f).1 else w

/-- LNK_PORT_CTRL: what a write of `v` to port `n` asks, besides ENABLE. -/
def Port.withCtrl (P : Port) (v : Nat) : Port :=
  { P with phy := v.testBit 30, mode := if bits v 29 28 < 2 then bits v 29 28 else P.mode, lport := bits v 27 24, transit := bits v 23 21 }

/-- A slice holds port `n` (R412). -/
def Dev.portTested (d : Dev) (n : Nat) : Bool :=
  d.bist.slots.any fun (_, S) =>
    (S.st == 1 || S.st == 2) &&
      (((bits S.cmd 7 0 == 8 || bits S.cmd 7 0 == 9) && bits S.cmd 23 16 == n) ||
       (bits S.cmd 7 0 == 6 && 1 ≤ bits S.cmd 23 16 && bits S.cmd 23 16 ≤ 3 &&
         3 * (d.linkSites.findIdx? (· == bits S.cmd 12 8)).getD 99 + bits S.cmd 23 16 - 1 == n))

/-- An enable of R295 and R298 is accepted for port `n` with control `Q`. -/
def Dev.portEnableOk (d : Dev) (n : Nat) (Q : Port) : Bool :=
  let ms := (d.members Q.lport).filter (· ≠ n)
  Q.transit ≠ 0 && decide (ms.length < 8) &&
    ms.all (fun m => (d.port m).mode == Q.mode && (Q.mode == 1 || (d.port m).expChip == Q.expChip)) &&
    !d.portTested n && (Q.mode == 0 || (!Q.expValid && Q.expChip == 0 && Q.expPort == 0))

/-- A write of ENABLE = 1 to `LNK_PORT_CTRL[n]` (R17, R295, R435). A reserved MODE keeps the one that stands (R7). -/
def W.portEnable (w : W) (n v : Nat) (ign : W → W) : W :=
  if n ≥ w.d.numPorts then w
  else
    let P := w.d.port n
    if P.enable then
      if v.testBit 30 = P.phy ∧ (P.withCtrl v).mode = P.mode ∧ bits v 27 24 = P.lport then
        w.modPort n fun P => { P with transit := if bits v 23 21 = 0 then P.transit else bits v 23 21 }
      else ign (w.modPort n fun P => { P with cfgErr := true })
    else
      let Q := P.withCtrl v
      if w.d.portEnableOk n Q then w.modPort n fun _ => { Q with enable := true, st := 1 }
      else ign (w.modPort n fun _ => { Q with cfgErr := true })

/-- A write of ENABLE = 0 to `LNK_PORT_CTRL[n]`: an enabled port is disabled, clearing ENABLE only (R435); a disabled one takes the fields. -/
def W.portDisable (w : W) (n v : Nat) : W :=
  if n ≥ w.d.numPorts then w
  else if (w.d.port n).enable then
    (w.modPort n fun P =>
      { P with enable := false, st := 0, hvalid := false, txSeq := 0, rxSeq := 0, paused := 0, pausing := 0 }).replayLost n
  else w.modPort n fun P => P.withCtrl v

/-- PCS_LOCK (R297, R314): a TRAINING port goes UP, and a DIRECT one says HELLO. -/
def execPcsLock (n : Nat) (s : State) : Host.Outcome State Fault Refusal :=
  s.run fun w =>
    let P := w.d.port n
    if P.enable && P.st = 1 && P.lit then
      let w := w.modPort n fun P => { P with st := 2, hvalid := false }
      (if P.mode = 0 then w.direct n (w.d.helloFrame n) else w).pumpAll.settle
    else w

/-- PCS_LOSS (R297). -/
def execPcsLoss (n : Nat) (s : State) : Host.Outcome State Fault Refusal := s.run fun w => (w.portDown n 1).settle

/-- SILENCE_TIMEOUT (R297). -/
def execSilenceTimeout (n : Nat) (s : State) : Host.Outcome State Fault Refusal := s.run fun w => (w.portDown n 2).settle

/-- REPLAY_LIMIT (R297): the port's first unacknowledged frame has been replayed 16 times. -/
def execReplayLimit (n : Nat) (s : State) : Host.Outcome State Fault Refusal :=
  s.run fun w => if (w.d.port n).replays ≥ 16 then (w.portDown n 3).settle else w

/-- LL_ACK_TIMER (R297): every UP port, and an EXCLUDED one (R315). -/
def execLlAckTimer (n : Nat) (s : State) : Host.Outcome State Fault Refusal :=
  s.run fun w => if (w.d.port n).st = 2 || (w.d.port n).st = 4 then w.direct n (w.d.llAckFrame n false) else w

/-- HELLO_TIMER (R314). -/
def execHelloTimer (n : Nat) (s : State) : Host.Outcome State Fault Refusal :=
  s.run fun w =>
    let P := w.d.port n
    if (P.st = 2 || P.st = 4) && P.mode = 0 then w.direct n (w.d.helloFrame n) else w

/-- LL_ACK (R305): HACK frees the replay buffer; NAK asks for a replay. -/
def execLlAck (n : Nat) (f : Frame) (s : State) : Host.Outcome State Fault Refusal :=
  s.run fun w =>
    if f.kind ≠ 0x11 then w
    else
      let (w, mine) := w.arrive n f
      if mine && (w.d.port n).mode = 0 && (fld f.payload 0 4).testBit 0 then w.replayAll n else w

/-- GOODBYE (R297, R335): the peer is a member lost by its reset, and the port goes DOWN. -/
def execGoodbye (n : Nat) (f : Frame) (s : State) : Host.Outcome State Fault Refusal :=
  s.run fun w =>
    if f.kind ≠ 0x12 then w
    else
      let (w, mine) := w.arrive n f
      if mine then ((w.chipLost f.src 2).portDown n 4).settle else w

/-- A HELLO on a DIRECT port (R314, R315). -/
def W.helloDirect (w : W) (n : Nat) (f : Frame) : W :=
  let v := fld f.payload 0 4
  let chip := bits v 12 0
  let port := bits v 18 13
  let w := w.modPort n fun P => { P with hvalid := true, peerChip := chip, peerPort := port, helloAt := w.d.aon.hub }
  let P := w.d.port n
  if P.st = 2 && P.expValid && !(chip = P.expChip && port = P.expPort) then ((w.exclude n).replayLost n) else w

/-- A HELLO on a SWITCHED port opens a connection, answers for one, or only acknowledges (R307, R316); LNK_PORT_STATUS names it (R296). A peer that still acknowledges
this side's frames and names a first ESEQ that has been delivered loses nothing of what it delivered (entry 14). -/
def W.helloSwitchedIn (w : W) (n : Nat) (f : Frame) : W :=
  let lp := (w.d.port n).lport
  let v := fld f.payload 0 4
  let first := fld f.payload 4 4
  let tc := fld f.payload 8 1 % 2
  let only := (fld f.payload 8 1).testBit 1
  let w := w.modPort n fun P => { P with hvalid := true, peerChip := bits v 12 0, peerPort := bits v 18 13, helloAt := w.d.aon.hub }
  if f.dst ≠ w.d.hub.chip then w
  else
    let w := if f.eackv then w.takeEack lp f.src tc f.eack else w
    let C := w.d.conn lp f.src tc
    if only then w
    else if C.st = 1 && !(bits v 12 0 = f.src && bits v 22 19 = lp) then (w.connFail lp f.src tc 2).linkCnt n 6
    else
      let rx := if f.eackv && C.rxOpen && decide (sub32 C.rx first ≤ 1024) then C.rx else first
      let w := w.modConn lp f.src tc fun C => { C with st := 2, rxOpen := true, rx := rx }
      let w := if C.st = 1 then w else w.sendHello n lp f.src tc
      W.pushConn (C.waiting.length + 1) w lp f.src tc

/-- HELLO (R314, R316). -/
def execHello (n : Nat) (f : Frame) (s : State) : Host.Outcome State Fault Refusal :=
  s.run fun w =>
    if f.kind ≠ 0x10 then w
    else
      let (w, mine) := w.arrive n f
      if !mine then w
      else (if (w.d.port n).mode = 0 then w.helloDirect n f else w.helloSwitchedIn n f).settle

/-- PFC_FRAME (R306): a priority is paused or resumed, and what it held goes out. -/
def execPfcFrame (n prio : Nat) (pause : Bool) (s : State) : Host.Outcome State Fault Refusal :=
  s.run fun w =>
    let P := w.d.port n
    if P.st ≠ 2 && P.st ≠ 4 then w
    else
      let w := w.modPort n fun P =>
        { P with paused := if pause then P.paused ||| 2 ^ prio else (P.paused ||| 2 ^ prio) ^^^ 2 ^ prio }
      if pause then w else w.release n

/-- A frame of a connection itself, to find the member that it leaves by. -/
def Dev.connFrame (d : Dev) (chip : Nat) : Frame := { kind := 0x10, dst := chip, src := d.hub.chip }

/-- RETRANSMISSION_TIMEOUT (R307): every unacknowledged frame of the connection is sent again, unchanged. -/
def execRetransmissionTimeout (lp chip tc : Nat) (s : State) : Host.Outcome State Fault Refusal :=
  s.run fun w =>
    let C := w.d.conn lp chip tc
    let counted := w.modConn lp chip tc fun C => { C with retx := C.retx + 1 }
    if C.st = 1 then
      match w.d.member lp (w.d.connFrame chip) with
      | some n => counted.sendHello n lp chip tc
      | none => w
    else if C.unacked.isEmpty || C.retx ≥ w.d.fabric.limit then w
    else counted.each C.unacked fun w f => match w.d.member lp f with
      | some n => (w.wire n f).linkCnt n 4
      | none => w

/-- CONNECTION_FAILED (R307): LIMIT retransmissions have passed without progress. -/
def execConnectionFailed (lp chip tc : Nat) (s : State) : Host.Outcome State Fault Refusal :=
  s.run fun w =>
    let C := w.d.conn lp chip tc
    if C.st ≠ 0 && decide (C.retx ≥ w.d.fabric.limit) then (w.connFail lp chip tc 3).settle else w

/-- The ports of the link die at a site. -/
def Dev.sitePorts (d : Dev) (site : Nat) : List Nat :=
  match d.linkSites.findIdx? (· == site) with
  | some i => [3 * i, 3 * i + 1, 3 * i + 2]
  | none => []

/-- FIBRE_LATCH_RELEASE (R465): the lasers of the block's ports turn off, and optical ports go DOWN. -/
def execFibreLatchRelease (site : Nat) (s : State) : Host.Outcome State Fault Refusal :=
  s.run fun w => w.each (w.d.sitePorts site) fun w n =>
    let w := w.modPort n fun P => { P with latched := false }
    if (w.d.port n).phy then (w.portDown n 1).settle else w

/-- FIBRE_LATCH_ENGAGE (R465): the lasers may turn on again. -/
def execFibreLatchEngage (site : Nat) (s : State) : Host.Outcome State Fault Refusal :=
  s.run fun w => w.each (w.d.sitePorts site) fun w n => w.modPort n fun P => { P with latched := true }

/-- OPERATION_TIMEOUT (R325): an operation sent and not answered within OPTMO fails with TIMEOUT. -/
def execOperationTimeout (op : Nat) (s : State) : Host.Outcome State Fault Refusal :=
  s.run fun w =>
    match w.d.fabric.ops.find? fun o => o.id == op && o.sent with
    | some o => ((w.opFail o stREMOTE_UNREACHABLE 3).pumpAll).settle
    | none => w

/-- NAK_WAIT_RESEND (R324): a frame refused with NAK WAIT is sent again. -/
def execNakWaitResend (op : Nat) (s : State) : Host.Outcome State Fault Refusal :=
  s.run fun w =>
    match w.d.fabric.ops.find? fun o => o.id == op && o.waitNak with
    | some o => match o.issuer with
      | .service _ => w
      | _ => (w.modOp op fun o => { o with waitNak := false }).pumpAll.settle
    | none => match w.d.fabric.ctls.find? fun o => o.id == op && o.waitNak with
      | some o =>
        ((w.modFabric fun F => { F with ctls := F.ctls.map fun x => if x.id = op then { x with waitNak := false } else x }).sendCtl o.frame o.key).settle
      | none => w

/-- The neighbour check of a job's start, on each enabled DIRECT port of its polder, in whatever state (R315). -/
def W.neighbourCheck (w : W) (p : Nat) : W :=
  w.each ((List.range w.d.numPorts).filter fun n => (w.d.pol p).hasPort n && (w.d.port n).mode == 0 && (w.d.port n).enable) fun w n =>
    let P := w.d.port n
    let ok := P.expValid && P.hvalid && decide (w.d.aon.hub - P.helloAt ≤ 300000) && P.peerChip == P.expChip && P.peerPort == P.expPort
    if ok then (if P.st = 4 then w.modPort n fun P => { P with st := 2 } else w)
    else if P.st = 4 then w.linkCnt n 6 else (w.exclude n).replayLost n

end Sys2Proof.Machine
end

