-- ==== Sys2Proof/Machine/Power.lean ====
section
/-! DEFINITION. Power, clocks and thermal control (R342 to R363). One freeboard is 0.25 W; frequencies are MHz; temperatures are 0.125 °C. -/

namespace Sys2Proof.Machine

/-! ## The budget (R347, R348) -/

/-- Reserve, MIN_CAP and MAX_CAP (R348). -/
def reserve (variant : Nat) : Nat := match variant with
  | 0 => 960
  | 1 => 1680
  | _ => 2400
def minCap (variant : Nat) : Nat := match variant with
  | 0 => 3432
  | 1 => 4272
  | _ => 4344
def maxCap (variant : Nat) : Nat := match variant with
  | 0 => 12000
  | 1 => 10400
  | _ => 7600

/-- Kind of a compute die's variable island: 0 array, 1 vector, 2 scratchpad, 3 control core (R342, R354). -/
def islKind (i : Nat) : Option Nat :=
  if i < 8 then some 0 else if i < 10 then some 1 else if i = 10 then some 2 else if i = 12 then some 3 else none
def minGrant (kind : Nat) : Nat := match kind with
  | 0 => 8
  | 1 => 4
  | 2 => 4
  | _ => 2
def maxGrant (kind : Nat) : Nat := match kind with
  | 0 => 56
  | 1 => 32
  | 2 => 24
  | _ => 8
def rangeMin (kind : Nat) : Nat := if kind = 3 then 1000 else 500
def rangeMax (kind : Nat) : Nat := if kind = 3 then 2000 else 1650
/-- The variable islands of a die, in island order. -/
def varIslands : List Nat := [0, 1, 2, 3, 4, 5, 6, 7, 8, 9, 10, 12]

/-- CEIL and FLOOR of kind `k` of polder `p`, and the floor in force (R354). -/
def Power.ceil (P : Power) (p k : Nat) : Nat := tget (rangeMax k * 2 ^ 16) P.lim (4 * p + k) / 2 ^ 16
def Power.floor (P : Power) (p k : Nat) : Nat := tget (rangeMax k * 2 ^ 16) P.lim (4 * p + k) % 2 ^ 16
def Power.floorNow (P : Power) (p k : Nat) : Nat := tget 0 P.floors (4 * p + k)
def Power.weightOf (P : Power) (p : Nat) : Nat := tget 16 P.weight p
def Power.island (P : Power) (s i : Nat) : Isl := tget {} P.isl (16 * s + i)

/-- The fixed grants of a die and its stack (R345, R347). -/
def Dev.fixedOf (d : Dev) (s : Nat) : Nat := 20 + (if d.isStacked s then 64 else 0)
/-- The floor of a die: its fixed grants and its minimum grants (R349). -/
def Dev.floorOf (d : Dev) (s : Nat) : Nat := d.fixedOf s + 78
def sumOf (l : List Nat) : Nat := l.foldl (· + ·) 0
/-- Polders that are not EMPTY. -/
def Dev.formed (d : Dev) : List Nat := (List.range 16).filter fun p => (d.pol p).st != 0

/-- One unit each to the first `n` of a list. -/
def giveOnes (n : Nat) : List (Nat × Nat) → List (Nat × Nat)
  | [] => []
  | (p, x) :: l => match n with
    | 0 => (p, x) :: l
    | m + 1 => (p, x + 1) :: giveOnes m l

/-- The variable island under a running slice, with the target of its test point (R408, R413). -/
def Dev.slotIsland (d : Dev) (S : Slot) : Option (Nat × Nat) :=
  let s := bits S.cmd 12 8
  let u := bits S.cmd 23 16
  let f (n : Nat) : Nat := if S.cmd.testBit 35 then S.freq else n
  if S.st ≠ 2 then none
  else match bits S.cmd 7 0 with
    | 1 => (d.logicalOf s u).map fun n => (16 * s + n, f 1500)
    | 2 => some (16 * s + 8 + u % 2, f 1500)
    | 3 => some (16 * s + 12, f 2000)
    | 4 => some (16 * s + 10, f 1500)
    | _ => none
/-- The islands under running slices: they receive their maximum grants first. -/
def Dev.testedIslands (d : Dev) : List (Nat × Nat) := (d.bist.slots.filterMap fun (_, S) => d.slotIsland S).eraseDups

/-- What the islands under test on the dies `l` draw above their minimum grants (R347, R408). -/
def Dev.testExtra (d : Dev) (l : List Nat) : Nat :=
  sumOf ((d.testedIslands.filter fun x => l.contains (x.1 / 16)).map fun x => ((islKind (x.1 % 16)).map fun k => maxGrant k - minGrant k).getD 0)

/-- Shares of the polders that are not EMPTY (R349); the unallotted dies draw their floor and what a slice there draws above it (R347). -/
def Dev.shares (d : Dev) : List (Nat × Nat) :=
  let idle := d.computeSites.filter fun s => (d.sitePol s).isNone
  let un := sumOf (idle.map d.floorOf) + d.testExtra idle
  let fl (p : Nat) : Nat := sumOf ((d.polSites p).map d.floorOf)
  let b := d.power.cap - reserve d.variant - un
  let rest := b - sumOf (d.formed.map fl)
  let wsum := sumOf (d.formed.map d.power.weightOf)
  let raw := d.formed.map fun p => (p, fl p + rest * d.power.weightOf p / wsum)
  giveOnes (rest - sumOf (d.formed.map fun p => rest * d.power.weightOf p / wsum)) raw

/-- `share(x, w)` of R352: x divided by weight, the units left over going one each, in order, to those below their weight. -/
def shareOut (x : Nat) (ws : List Nat) : List Nat :=
  let t := sumOf ws
  if t = 0 then ws
  else
    let ds := ws.map fun w => x * w / t
    let rec give (left : Nat) : List Nat → List Nat → List Nat
      | dd :: ds, w :: ws => if left ≠ 0 ∧ dd < w then (dd + 1) :: give (left - 1) ds ws else dd :: give left ds ws
      | ds, _ => ds
    give (x - sumOf ds) ds ws

/-- The test point of island `key`, while a slice tests it. -/
def Dev.testPoint (d : Dev) (key : Nat) : Option Nat := (d.testedIslands.find? (·.1 == key)).map Prod.snd

/-- An island in an allocation. -/
structure Want where
  key : Nat
  kind : Nat
  want : Nat
  lo : Nat
  ceil : Nat
  floorF : Nat
  /-- Target of its test point, under a running slice. -/
  point : Option Nat
  deriving DecidableEq, Repr

/-- The variable islands of polder `p` in ascending (site, island), as R352 weighs them. -/
def Dev.wants (d : Dev) (p : Nat) : List Want :=
  (d.polSites p).flatMap fun s => varIslands.filterMap fun i => (islKind i).map fun k =>
    let key := 16 * s + i
    let tested := (d.testPoint key).isSome
    let dem := max (minGrant k) (min (maxGrant k) (d.power.island s i).demand)
    let want := if tested then maxGrant k else dem
    let c := d.power.ceil p k
    let ff := d.power.floorNow p k
    { key := key, kind := k, want := want, ceil := c, floorF := ff, point := d.testPoint key
      lo := if tested then want
        else if ff = 0 then minGrant k else min want (max (minGrant k) (ceilDiv (want * ff) c)) }

/-- The grants of R352 for an allowance `a`. -/
def allocate (a : Nat) (l : List Want) : List Nat :=
  let want := l.map (·.want)
  let lo := l.map (·.lo)
  let mn := l.map fun x => minGrant x.kind
  if sumOf want ≤ a then want
  else if sumOf lo ≤ a then List.zipWith (· + ·) lo (shareOut (a - sumOf lo) (List.zipWith (· - ·) want lo))
  else List.zipWith (· + ·) mn (shareOut (a - sumOf mn) (List.zipWith (· - ·) lo mn))

/-- The target of R352 for a grant `g`; under a running slice its test point, which level 1 still lowers when it has `cut` the grant (R356). -/
def targetOf (x : Want) (g : Nat) (cut : Bool := false) : Nat :=
  let f := max (rangeMin x.kind) (25 * ((x.ceil * g / x.want) / 25))
  match x.point with
  | some t => if cut then min t f else t
  | none => f

/-- A new target: lowered at once, raised once the rail allows it (R343). -/
def Isl.aim (I : Isl) (f : Nat) : Isl :=
  if f ≤ I.target then { I with target := f, raise := none } else { I with raise := some f }

/-- What level 1 of R356 leaves of a die's grant: the throttle factor, or the minimum under a limit action (R359). -/
def Therm.grant (T : Therm) (kind g : Nat) : Nat :=
  if T.logicLimit || T.dramLevel = 2 then minGrant kind else max (minGrant kind) (g * T.factor / 16)

/-- An island takes the grant `g` of R352, as level 1 leaves it (R356, R359). -/
def W.setGrant (w : W) (x : Want) (g : Nat) : W :=
  let g' := (tget {} w.d.power.therm (x.key / 16)).grant x.kind g
  w.modPower fun P => { P with isl := tmod {} P.isl x.key fun I => ({ I with base := g, grant := g' } : Isl).aim (targetOf x g' (g' ≠ g)) }

/-- Some island of polder `p` has its floor unmet (R352). -/
def Dev.floorUnmet (d : Dev) (p : Nat) : Bool :=
  (d.wants p).any fun x =>
    let I := tget {} d.power.isl x.key
    decide ((I.raise.getD I.target) < x.floorF)

/-- The islands of polder `p`, as `Dev.wants` lists them, take the grants `gs`; a floor that is then unmet counts for the running period (R355). -/
def W.setGrants (w : W) (p avail : Nat) (l : List Want) (gs : List Nat) : W :=
  let w := w.each (l.zip gs) fun w (x, g) => w.setGrant x g
  let total := sumOf ((w.d.polSites p).map w.d.fixedOf) + sumOf (l.map fun x => (tget {} w.d.power.isl x.key).grant)
  w.modPower fun P =>
    { P with pgrant := tmod (0, 0, 0) P.pgrant p fun (sh, _, _) => (sh, total, avail)
             unmet := if w.d.floorUnmet p then P.unmet ||| 2 ^ p else P.unmet }

/-- Grants and targets of polder `p` with the allowance `avail` (R352, R359). -/
def W.grantPol (w : W) (p avail : Nat) : W :=
  let l := w.d.wants p
  w.setGrants p avail l (allocate (avail - sumOf ((w.d.polSites p).map w.d.fixedOf)) l)

/-- First-use grants that hold go on, under the ceilings and the protection of the new period (R356 to R359). -/
def W.holdGrants (w : W) (p avail : Nat) : W :=
  let l := w.d.wants p
  w.setGrants p avail l (l.map fun x => (tget {} w.d.power.isl x.key).base)

/-- Loans of open mode for (polder, share, want, fixed): what each borrower receives (R353). -/
def loans (l : List (Nat × Nat × Nat × Nat)) : List (Nat × Nat) :=
  let spare := sumOf (l.map fun (_, s, t, f) => (s - f) - t)
  let unmet := l.map fun (_, s, t, f) => t - (s - f)
  let lent := if sumOf unmet ≤ spare then unmet else shareOut spare unmet
  (l.map (·.1)).zip lent

/-- Fixed islands of a site and their targets under its protection level (R345, R359, "Device Organisation"). -/
def Dev.fixedTargets (d : Dev) (s : Nat) : List (Nat × Nat × Nat) :=
  let T := tget {} d.power.therm s
  let slow (n : Nat) : Nat := match n with
    | 0 => 1500
    | 1 => 1000
    | _ => 500
  match d.siteKind s with
  | 1 => [(11, 20, 1500)]
  | 2 => [(11, 20, slow T.dramLevel)]
  | 3 => [(0, 0, 1600), (1, 0, 1600), (2, 0, 1600), (3, 0, slow T.level), (4, 0, slow T.level), (5, 0, slow T.level)]
  | 0 => [(0, 0, 1000), (1, 0, if T.level = 0 then 1500 else 1000), (2, 0, if T.level = 0 then 2000 else 1000), (3, 0, 1000), (4, 0, 100)]
  | _ => []

/-- The throttle factor at a period's start (R359). -/
def Therm.step (T : Therm) : Therm :=
  if T.logic ≥ 800 then { T with factor := max 2 (T.factor - 2) }
  else if T.logic < 784 then { T with factor := min 16 (T.factor + 1) }
  else T

/-- A counter of R363. -/
def W.polCnt (w : W) (p k n : Nat) : W := w.modPower fun P => { P with polCnt := tmod 0 P.polCnt (4 * p + k) fun v => sat64 (v + n) }
def W.devCnt (w : W) (k n : Nat) : W :=
  w.modPower fun P => { P with devCnt := lset P.devCnt k (sat64 (lget 0 P.devCnt k + n)) }

/-- The end of a period: its counters, and FLOOR_UNMET (R355, R358, R363). -/
def W.endPeriod (w : W) : W :=
  let w := w.devCnt 0 1
  let w := if w.d.power.limited then (w.devCnt 1 1).modPower fun P => { P with limited := false } else w
  let unmet := w.d.formed.filter fun p => w.d.power.unmet.testBit p
  let w := w.each w.d.formed fun w p =>
    let hot := (w.d.polSites p).any fun s =>
      let T := tget {} w.d.power.therm s
      decide (T.factor < 16) || T.logicLimit || decide (T.dramLevel ≠ 0)
    let w := if hot then w.polCnt p 1 1 else w
    if unmet.contains p then w.polCnt p 2 1 else w
  let w := w.modPower fun P =>
    { P with floorAge := min 1000 (P.floorAge + 1), floorMap := unmet.foldl (fun m p => m ||| 2 ^ p) P.floorMap
             floorNum := if unmet.isEmpty then P.floorNum else min 0xFFFFFFFF (P.floorNum + 1) }
  if !unmet.isEmpty && decide (w.d.power.floorAge ≥ 1000) then
    (w.event 16 stFLOOR_UNMET 0 0 0 (w.d.power.floorMap + 2 ^ 32 * w.d.power.floorNum)).modPower fun P =>
      { P with floorAge := 0, floorMap := 0, floorNum := 0 }
  else w

/-- Demand of an island from its average power in mW (R351). -/
def demandOf (kind ceil target mw : Nat) : Nat :=
  max (minGrant kind) (min (maxGrant kind) (if target = 0 then minGrant kind else ceilDiv (mw * ceil) (250 * target)))

/-- The polder whose limits an island of site `s` has. -/
def Dev.limPol (d : Dev) (s : Nat) : Nat := (d.sitePol s).getD 16

/-- ARBITER_PERIOD (R350 to R355, R357, R359, R363): the period that ended is counted, demands are taken from the islands' draws, and shares,
loans, grants and targets are computed. -/
def execArbiterPeriod (draws : List (Nat × Nat)) (s : State) : Host.Outcome State Fault Refusal :=
  s.run fun w =>
    if !(w.d.aon.rail33 && w.d.aon.rail12 && w.d.aon.refclk) then w
    else
      let w := w.endPeriod
      let w := w.modPower fun P =>
        { P with openMode := P.openReg, therm := tmapi (fun _ T => T.step) P.therm, floors := tmapi (fun _ v => v % 2 ^ 16) P.lim, unmet := 0 }
      -- First-use grants hold until the boundary that ends their first full period (R357).
      let holding := w.d.formed.filter fun p => tget 0 w.d.power.firstUse p ≥ 2
      let w := w.modPower fun P => { P with firstUse := (P.firstUse.map fun (p, n) => (p, n - 1)).filter fun x => x.2 != 0 }
      let w := w.each w.d.computeSites fun w s => w.each varIslands fun w i =>
        match islKind i with
        | none => w
        | some k =>
          if ((w.d.sitePol s).map holding.contains).getD false then w
          else
            let I := w.d.power.island s i
            let mw := ((draws.find? (·.1 == 16 * s + i)).map Prod.snd).getD 0
            w.modPower fun P => { P with isl := tset P.isl (16 * s + i) { I with demand := demandOf k (P.ceil (w.d.limPol s) k) I.target mw } }
      let sh := w.d.shares
      let rows := sh.map fun (p, x) =>
        (p, x, sumOf ((w.d.wants p).map (·.want)), sumOf ((w.d.polSites p).map w.d.fixedOf))
      let lent := if w.d.power.openMode then loans rows else []
      let w := w.modPower fun P => { P with pgrant := sh.map fun (p, x) => (p, x, 0, 0) }
      let w := w.each rows fun w (p, x, want, _) =>
        let loan := ((lent.find? (·.1 == p)).map Prod.snd).getD 0
        let w := if want > x + loan then w.polCnt p 0 1 else w
        let w := if loan = 0 then w else w.polCnt p 3 loan
        if holding.contains p then w.holdGrants p (x + loan) else w.grantPol p (x + loan)
      -- Islands of unallotted dies are held at their minimum grants (R349), and fixed islands at their frequencies.
      let w := w.each (w.d.computeSites.filter fun s => (w.d.sitePol s).isNone) fun w s => w.each varIslands fun w i =>
        match islKind i with
        | none => w
        | some k =>
          let point := w.d.testPoint (16 * s + i)
          w.setGrant { key := 16 * s + i, kind := k, want := maxGrant k, lo := 0, ceil := rangeMax k, floorF := 0, point := point }
            (if point.isSome then maxGrant k else minGrant k)
      w.each (List.range 25) fun w s => w.each (w.d.fixedTargets s) fun w (i, g, f) =>
        w.modPower fun P => { P with isl := tmod {} P.isl (16 * s + i) fun I => ({ I with base := g, grant := g } : Isl).aim f }

/-- First use (R357), at R185 step 4: a job whose context or image is new to the polder takes its demands from the header's power classes. -/
def W.firstUse (w : W) (p ctx img : Nat) (cls : Nat → Nat) : W :=
  if w.d.power.lastJob.any fun x => x.1 == p && x.2 == (ctx, img) then w
  else
    let avail := (tget (0, 0, 0) w.d.power.pgrant p).2.2
    let fixed := sumOf ((w.d.polSites p).map w.d.fixedOf)
    let n := 12 * (w.d.polSites p).length
    let w := w.each (w.d.polSites p) fun w s => w.each varIslands fun w i =>
      match islKind i with
      | none => w
      | some k =>
        let c := cls (if k = 3 then 4 else k)
        let dem := if c = 0xFFFF then (avail - fixed) / n else c
        w.modPower fun P => { P with isl := tmod {} P.isl (16 * s + i) fun I => { I with demand := max (minGrant k) (min (maxGrant k) dem) } }
    let w := w.grantPol p avail
    w.modPower fun P => { P with firstUse := tset P.firstUse p 2, lastJob := tset P.lastJob p (ctx, img) }

/-- RAIL_VOLTAGE_REACHED (R343): the raised targets of a die are applied. -/
def execRailVoltageReached (site : Nat) (s : State) : Host.Outcome State Fault Refusal :=
  s.run fun w => w.modPower fun P => { P with isl := P.isl.map fun (k, I) =>
    if k / 16 = site then (match I.raise with
      | some f => (k, { I with target := f, raise := none })
      | none => (k, I))
    else (k, I) }

/-- DROOP_CLOCKING (R344): one stretched cycle, which no register, grant or counter shows. -/
def execDroopClocking (_site _isl : Nat) (s : State) : Host.Outcome State Fault Refusal := s.run id

/-- A write of `v` to `CLK_POL_LIM[i]` (R354): refused out of range; a lowered ceiling acts at once. -/
def W.clkPolLim (w : W) (i v : Nat) (ign : W → W) : W :=
  let k := i % 4
  let c := bits v 31 16
  let f := bits v 15 0
  if c < rangeMin k || c > rangeMax k || c % 25 ≠ 0 || (f ≠ 0 && (f < rangeMin k || f > c || f % 25 ≠ 0)) then ign w
  else
    let w := w.modPower fun P => { P with lim := tset P.lim i (v % 2 ^ 32) }
    if (w.d.pol (i / 4)).st = 0 then w
    else w.each (w.d.polSites (i / 4)) fun w s => w.each varIslands fun w j =>
      if islKind j = some k then
        w.modPower fun P => { P with isl := tmod {} P.isl (16 * s + j) fun I =>
          { I with target := min I.target c, raise := I.raise.map (min c) } }
      else w

/-- Some port is allotted to more than one polder that is not EMPTY (R265, R350). -/
def Dev.portsShared (d : Dev) : Bool :=
  (List.range 36).any fun n => decide ((d.formed.filter fun p => (d.pol p).hasPort n).length > 1)

/-- A write of `v` to `PWR_MODE` (R350). -/
def W.pwrMode (w : W) (v : Nat) (ign : W → W) : W :=
  if !v.testBit 31 && w.d.portsShared then ign w else w.modPower fun P => { P with openReg := v.testBit 31 }

/-- INPUT_LIMITER (R358): for each microsecond over MAX_CAP every variable target falls by 25 MHz, not below its range (R342). -/
def execInputLimiter (us : Nat) (s : State) : Host.Outcome State Fault Refusal :=
  s.run fun w => w.modPower fun P =>
    { P with limited := true, thermStatus := P.thermStatus ||| 0x20
             isl := P.isl.map fun (k, I) => match (if w.d.isCompute (k / 16) then islKind (k % 16) else none) with
               | some kd => (k, { I with target := max (min I.target (rangeMin kd)) (I.target - 25 * us), raise := none })
               | none => (k, I) }

/-- A write to `PWR_TRIP` (R360, R458): the fields are written, and clearing VALID releases THERMTRIP#. -/
def W.pwrTrip (w : W) (v : Nat) : W :=
  w.modAon fun A =>
    { A with
      tripValid := v.testBit 31
      tripCause := if bits v 30 28 ≤ 3 ∧ bits v 30 28 ≠ 0 then bits v 30 28 else if bits v 30 28 = 0 then 0 else A.tripCause
      tripSite := bits v 4 0
      thermtrip := if v.testBit 31 then A.thermtrip else false }

/-- The laser of port `n` follows its case temperature; OPTICS_OFF says that one that was on is off (R17, R359, R361). -/
def W.opticTemp (w : W) (n : Nat) (temp : Int) : W :=
  let w := w.modPower fun P => { P with optTemp := tset P.optTemp n temp }
  if temp ≥ 640 then
    let on := (w.d.port n).laser
    let w := w.modPort n fun P => { P with hot := true }
    if on then ((w.modPower fun P => { P with thermStatus := P.thermStatus ||| 0x10 }).portDown n 1).settle else w
  else if temp < 600 then w.modPort n fun P => { P with hot := false }
  else w

/-- Level of a two-step protection: raised at its thresholds, normal below `norm`, otherwise kept. -/
def levelOf (temp t1 t2 norm : Int) (old : Nat) : Nat :=
  if temp ≥ t2 then 2 else if temp < norm then 0 else if temp ≥ t1 then max 1 old else old

def W.modTherm (w : W) (s : Nat) (f : Therm → Therm) (status : Nat) : W :=
  w.modPower fun P => { P with therm := tmod {} P.therm s f, thermStatus := P.thermStatus ||| status }

/-- A sensor's reading and the response of R359 and R361. -/
def W.sensor (w : W) (k : Sensor) (t : Int) : W :=
  match k with
  | .computeDie s =>
    w.modTherm s (fun T => { T with logic := t, logicLimit := if t ≥ 840 then true else if t < 784 then false else T.logicLimit })
      ((if t ≥ 800 then 1 else 0) ||| (if t ≥ 840 then 2 else 0))
  | .linkDie s =>
    w.modTherm s (fun T => { T with logic := t, level := levelOf t 800 840 784 T.level }) ((if t ≥ 800 then 1 else 0) ||| (if t ≥ 840 then 2 else 0))
  | .hubDie => w.modTherm 12 (fun T => { T with logic := t, level := levelOf t 800 840 784 T.level }) (if t ≥ 800 then 0x40 else 0)
  | .dramDie s =>
    w.modTherm s (fun T => { T with dram := t, dramLevel := levelOf t 736 760 720 T.dramLevel })
      ((if t ≥ 736 then 4 else 0) ||| (if t ≥ 760 then 8 else 0))
  | .optic n => w.opticTemp n t

/-- Every sensor is below its "normal again" threshold (R360). -/
def Dev.allCool (d : Dev) : Bool :=
  (d.power.therm.all fun (_, T) => decide (T.logic < 784) && decide (T.dram < 720)) && d.power.optTemp.all fun x => decide (x.2 < 600)

end Sys2Proof.Machine
end

