-- ==== Sys2Proof/Machine/Sfu.lean ====
section
/-! DEFINITION. The special functions (R107 to R121): slots, their evaluation, and the built-in functions with their intermediates. -/

namespace Sys2Proof.Machine

/-! ## Exact values -/

/-- An exact result with denominator 1 as a value. -/
def XR.toFV : XR → FV
  | .nan => .nan
  | .inf s => .inf s
  | .num s n _ e => .num s n e

/-- Exponent of the leading bit of a nonzero exact result. -/
def XR.top : XR → Int
  | .num _ n d e => if n = 0 then 0 else floorLog2Q n d + e
  | _ => 0

/-- A result far below every format stands for itself in any rounding: only its sign and that it is not zero matter. -/
def XR.cap (x : XR) (lo : Int) : XR :=
  match x with
  | .num s n _ _ => if n ≠ 0 ∧ x.top < lo then .num s 1 1 lo else x
  | x => x

/-- Exact sum, an addend more than 300 binades below the other standing for itself by its sign. -/
def XR.plus (x y : XR) : XR :=
  match x, y with
  | .num _ n _ _, .num _ m _ _ => if n = 0 ∨ m = 0 then x.add y else (x.cap (y.top - 300)).add (y.cap (x.top - 300))
  | x, y => x.add y

/-- Exact product. -/
def XR.times (x y : XR) : XR := x.toFV.mul y.toFV

/-- An intermediate (R108): 24 significant bits, RNE, exponent unbounded; inexact if it changes. -/
def interm (x : XR) : FV × Nat :=
  match x with
  | .nan => (.nan, 0)
  | .inf s => (.inf s, 0)
  | .num s n d e =>
    if n = 0 then (.num s 0 0, 0)
    else
      let q := floorLog2Q n d + e - 23
      let (k, ex) := roundUnits n d e q
      (.num s k q, flagIf (!ex) fInexact)

/-- x × 2^k. -/
def XR.scale (x : XR) (k : Int) : XR :=
  match x with
  | .num s n d e => .num s n d (e + k)
  | x => x

def XR.neg : XR → XR
  | .nan => .nan
  | .inf s => .inf (!s)
  | .num s n d e => .num (!s) n d e

/-- An FP32 constant. -/
def f32 (c : Nat) : FV := decodeF fmtFP32 c

/-! ## Slots (R112 to R116) -/

/-- A slot: MODE 0 LIN, 1 BIN, 2 BINS; its domain, its tails and its segment entries. -/
structure SlotDef where
  mode : Nat
  /-- W of a LIN slot, EB of the others. -/
  w : Int
  lnb : Nat := 0
  lo : FV := .num false 0 0
  tlo : Nat := 0
  thi : Nat := 0
  tloA : Nat := 0
  tloB : Nat := 0
  thiA : Nat := 0
  thiB : Nat := 0
  seg : Nat → Nat

/-- A user slot from its section (R114, R115). -/
def userSlot (b : Bytes) : SlotDef :=
  { mode := fld b 0 1, w := sext 8 (fld b 2 1), lnb := fld b 3 1, lo := f32 (fld b 4 4), tlo := fld b 8 1, thi := fld b 9 1, tloA := fld b 0xC 4,
    tloB := fld b 0x10 4, thiA := fld b 0x14 4, thiB := fld b 0x18 4, seg := fun i => fld b (32 + 12 * i) 12 }

/-- A built-in slot: the domain of R112, and the entries of the set of its flavour, `tabs` holding slot k of flavour m under 16 m + k. -/
def builtinSlot (tabs : Tab Bytes) (flavour k : Nat) : SlotDef :=
  let seg (i : Nat) : Nat := fld (tget [] tabs (16 * flavour + k)) (32 + 12 * i) 12
  match k with
  | 0 => { mode := 0, w := 0, seg := seg }
  | 9 => { mode := 0, w := 0, seg := seg }
  | 10 => { mode := 0, w := 0, seg := seg }
  | 4 => { mode := 1, w := 0, lnb := 1, seg := seg }
  | 5 => { mode := 1, w := 0, lnb := 1, seg := seg }
  | 6 => { mode := 1, w := -12, lnb := 4, seg := seg }
  | 7 => { mode := 1, w := -14, lnb := 4, seg := seg }
  | 8 => { mode := 1, w := -32, lnb := 5, tlo := 1, thi := 0, thiA := 0x3F317218, seg := seg }
  | _ => { mode := 0, w := 0, lo := .num false 1 0, seg := seg }

/-- The value of a segment at the fraction t × 2^−24 (R116), exact. -/
def segValue (entry t : Nat) : XR :=
  let c0 := sext 32 (bits entry 95 64)
  let c1 := sext 24 (bits entry 63 40)
  let c2 := sext 18 (bits entry 39 22)
  let ex := sext 8 (bits entry 21 14)
  if bits entry 5 4 = 1 then intXR c0 (ex - 31)
  else
    intXR (c0 * 2 ^ 49 + c1 * (t : Int) * 2 ^ (33 - bits entry 13 10) + c2 * ((t * t : Nat) : Int) * 2 ^ (15 - bits entry 9 6)) (ex - 80)

/-- Where an argument falls (R116). -/
inductive SlotAt where
  | seg (i t : Nat)
  | low
  | high
  deriving DecidableEq, Repr

/-- floor (n × 2^e) for n, as a natural number. -/
def floorNat (n : Nat) (e : Int) : Nat := n * pow2 e / pow2 (-e)

def SlotDef.place (S : SlotDef) (r : FV) : SlotAt :=
  match r with
  | .nan => .low
  | .inf s => if S.mode ≠ 2 && s then .low else .high
  | .num s m e =>
    if S.mode = 0 then
      match r.toXR.add S.lo.neg.toXR with
      | .num t n _ f =>
        if n = 0 then .seg 0 0
        else if t then .low
        else if floorLog2Q n 1 + f ≥ S.w then .high
        else let v := floorNat n (f - S.w + 32); .seg (v / 2 ^ 24) (v % 2 ^ 24)
      | _ => .low
    else if m = 0 || (S.mode = 1 && s) then .low
    else
      let l := m.log2
      let ex : Int := e + l
      if ex < S.w then .low
      else if ex ≥ S.w + 2 ^ S.lnb then .high
      else
        let P := (if S.mode = 2 then 128 else 256) / 2 ^ S.lnb
        let v := (m - 2 ^ l) * P * 2 ^ 24 / 2 ^ l
        .seg ((if S.mode = 2 && s then 128 else 0) + (ex - S.w).toNat * P + v / 2 ^ 24) (v % 2 ^ 24)

/-- A tail at `r` (R114): the exact value, and invalid where it creates a NaN. A subnormal constant is taken as it is, under FTZ too (DESIGN CHOICE, entry
56: R49 flushes operands and results, and does not say whether a tail constant is one). -/
def SlotDef.tail (S : SlotDef) (hi : Bool) (r : FV) : XR × Nat :=
  let kind := if hi then S.thi else S.tlo
  let A := f32 (if hi then S.thiA else S.tloA)
  let B := f32 (if hi then S.thiB else S.tloB)
  let half := if S.mode = 2 && r.sign then 128 else 0
  let lastSeg := if S.mode = 2 then half + 127 else 255
  match kind with
  | 0 => (A.toXR, 0)
  | 1 => (r.toXR, 0)
  | 2 =>
    let y := (B.mul r).plus A.toXR
    (y, flagIf y.isNan fInvalid)
  | _ => (if hi then segValue (S.seg lastSeg) (2 ^ 24 - 1) else segValue (S.seg half) 0, 0)

/-- A slot evaluated at an argument (R116): exact. -/
def SlotDef.eval (S : SlotDef) (r : FV) : XR × Nat :=
  if r.isNan then (.nan, 0)
  else match S.place r with
    | .seg i t => (segValue (S.seg i) t, 0)
    | .low => S.tail false r
    | .high => S.tail true r

/-! ## The built-in functions (R109, R110) -/

/-- T_s of the built-in functions: at the start of their domains slots 0 to 5 are exact (R111). -/
def tabVal (tabs : Tab Bytes) (flavour s : Nat) (r : FV) : XR :=
  let S := builtinSlot tabs flavour s
  if s ≤ 5 && S.place r == .seg 0 0 then (if s = 1 || s = 2 then intXR 0 0 else intXR 1 0) else (S.eval r).1

def cL2E : FV := .num false 0xB8AA3B295C17F0BB (-63)
def cLN2 : FV := .num false 0xB17217F7D1CF79AB (-64)
def cI2P : Nat := 0x28BE60DB9391054A7F09D5F47D4D377036D8A566
def cK2P : FV := f32 0x3F906EBA
def cR2 : FV := f32 0x3F3504F3
def cC1 : FV := f32 0x3F4C422A
def cC2 : FV := f32 0x3D372713
def cHalf : FV := .num false 1 (-1)

/-- The sixteen built-in functions, as R176 numbers them from 0x20. -/
inductive Fn where
  | exp2 | exp | log2 | ln | rcp | rsqrt | sqrt | tanh | erf | sigmoid | silu | softplus | geluErf | geluTanh | sin | cos
  deriving DecidableEq, Repr

/-- floor of m × 2^e with a sign, as an integer. -/
def floorInt (s : Bool) (m : Nat) (e : Int) : Int :=
  let n : Int := (m * pow2 e : Nat)
  (if s then -n else n) / (pow2 (-e) : Int)

/-- Magnitude below 2^k; at least 2^k. -/
def FV.below (x : FV) (k : Int) : Bool :=
  match x with
  | .num _ m e => m == 0 || decide (floorLog2Q m 1 + e < k)
  | _ => false
def FV.atLeast (x : FV) (k : Int) : Bool :=
  match x with
  | .num _ m e => m != 0 && decide (floorLog2Q m 1 + e ≥ k)
  | _ => false

/-- 2^u by its integer and fraction parts, the fraction truncated to 32 bits (`EXP`; exact for `EXP2`, whose fraction is not cut). -/
def pow2Of (T : Nat → FV → XR) (cut : Bool) (s : Bool) (m : Nat) (e : Int) : XR :=
  let n := floorInt s m e
  let f := (XR.num s m 1 e).add (intXR (-n) 0)
  let f' : FV := match f with
    | .num _ k _ q => if cut && decide (q < -32) then .num false (floorNat k (q + 32)) (-32) else .num false k q
    | x => x.toFV
  (T 0 f').scale n

/-- e^x without the thresholds of `EXP`. -/
def expRaw (T : Nat → FV → XR) (x : FV) : XR :=
  match x.mul cL2E with
  | .num s n _ e => if n = 0 then intXR 1 0 else pow2Of T true s n e
  | .inf true => intXR 0 0
  | y => y

def rcpRaw (T : Nat → FV → XR) (x : FV) : XR :=
  match x with
  | .nan => .nan
  | .inf s => .num s 0 1 0
  | .num s m e =>
    if m = 0 then .inf s
    else
      let l := m.log2
      let y := (T 3 (.num false m (-(l : Int)))).scale (-(e + l))
      if s then y.neg else y

def tanhRaw (T : Nat → FV → XR) (x : FV) : XR :=
  if x.isInf || x.atLeast 4 then intXR (if x.sign then -1 else 1) 0
  else if x.below (-12) then x.toXR
  else let y := T 6 x.abs; if x.sign then y.neg else y

def erfRaw (T : Nat → FV → XR) (x : FV) : XR :=
  if x.isInf || x.atLeast 2 then intXR (if x.sign then -1 else 1) 0
  else if x.below (-14) then x.mul cK2P
  else let y := T 7 x.abs; if x.sign then y.neg else y

/-- 0.5 × t + 0.5. -/
def halfPlus (t : FV) : XR := (cHalf.mul t).plus cHalf.toXR

/-- SIGMOID of a finite x, before its rounding, with the flags of its intermediates. -/
def sigmoidRaw (T : Nat → FV → XR) (x : FV) : XR × Nat :=
  if x.isZero || !x.sign then
    let (t, f) := interm (tanhRaw T (x.mul cHalf).toFV)
    (halfPlus t, f)
  else
    let (a, f1) := interm (expRaw T x)
    let (d, f2) := interm ((intXR 1 0).plus a.toXR)
    let (c, f3) := interm (rcpRaw T d)
    (a.mul c, f1 ||| f2 ||| f3)

/-- |x| = 4^k × m′ with m′ in [1, 4): k and m′. -/
def quarterExp (m : Nat) (e : Int) : Int × FV :=
  let l := floorLog2Q m 1 + e
  let k := l / 2
  (k, .num false m (e - 2 * k))

/-- A built-in function (R109): the exact result that is rounded once, and the flags that arise before that. -/
def sfu (T : Nat → FV → XR) (fn : Fn) (x : FV) : XR × Nat :=
  match x with
  | .nan => (.nan, 0)
  | .inf s =>
    match fn with
    | .exp2 => if s then (intXR 0 0, 0) else (.inf false, 0)
    | .exp => if s then (intXR 0 0, 0) else (.inf false, 0)
    | .log2 => if s then (.nan, fInvalid) else (.inf false, 0)
    | .ln => if s then (.nan, fInvalid) else (.inf false, 0)
    | .rcp => (.num s 0 1 0, 0)
    | .rsqrt => if s then (.nan, fInvalid) else (intXR 0 0, 0)
    | .sqrt => if s then (.nan, fInvalid) else (.inf false, 0)
    | .tanh => (intXR (if s then -1 else 1) 0, 0)
    | .erf => (intXR (if s then -1 else 1) 0, 0)
    | .sigmoid => (intXR (if s then 0 else 1) 0, 0)
    | .silu => if s then (.num true 0 1 0, 0) else (.inf false, 0)
    | .softplus => if s then (intXR 0 0, 0) else (.inf false, 0)
    | .geluErf => if s then (.num true 0 1 0, 0) else (.inf false, 0)
    | .geluTanh => if s then (.num true 0 1 0, 0) else (.inf false, 0)
    | .sin => (.nan, fInvalid)
    | .cos => (.nan, fInvalid)
  | .num s m e =>
    let l := m.log2
    let ex : Int := e + l
    let mant : FV := .num false m (-(l : Int))
    match fn with
    | .exp2 =>
      if m = 0 then (intXR 1 0, 0)
      else if !s && FV.cmp x (.num false 128 0) != .lt then (.num false 1 1 400, 0)
      else if FV.cmp x (.num true 150 0) == .lt then (.num false 1 1 (-400), 0)
      else (pow2Of T false s m e, 0)
    | .exp =>
      match x.mul cL2E with
      | .num t n _ f =>
        let u : FV := .num t n f
        if n = 0 then (intXR 1 0, 0)
        else if FV.cmp u (.num false 128 0) != .lt then (.num false 1 1 400, 0)
        else if FV.cmp u (.num true 150 0) == .lt then (.num false 1 1 (-400), 0)
        else (pow2Of T true t n f, 0)
      | y => (y, 0)
    | .log2 => if m = 0 then (.inf true, 0) else if s then (.nan, fInvalid) else ((intXR ex 0).plus (T 1 mant), 0)
    | .ln =>
      if m = 0 then (.inf true, 0) else if s then (.nan, fInvalid)
      else (((intXR ex 0).times cLN2.toXR).plus (T 2 mant), 0)
    | .rcp => (rcpRaw T x, 0)
    | .rsqrt =>
      if m = 0 then (.inf s, 0) else if s then (.nan, fInvalid)
      else let (k, m') := quarterExp m e; ((T 4 m').scale (-k), 0)
    | .sqrt =>
      if m = 0 then (x.toXR, 0) else if s then (.nan, fInvalid)
      else let (k, m') := quarterExp m e; ((T 5 m').scale k, 0)
    | .tanh => (tanhRaw T x, 0)
    | .erf => (erfRaw T x, 0)
    | .sigmoid => let (y, f) := sigmoidRaw T x; (y.cap (-2000), f)
    | .silu =>
      let (y, f1) := sigmoidRaw T x
      let (g, f2) := interm y
      ((x.mul g).cap (-2000), f1 ||| f2)
    | .softplus =>
      if m = 0 || !s then
        let (a, f1) := interm (expRaw T x.neg)
        (x.toXR.plus (T 8 a), f1)
      else
        let (a, f1) := interm (expRaw T x)
        ((T 8 a).cap (-2000), f1)
    | .geluErf =>
      let (w, f1) := interm (x.mul cR2)
      let (g, f2) := interm (erfRaw T w)
      let (h, f3) := interm (halfPlus g)
      (x.mul h, f1 ||| f2 ||| f3)
    | .geluTanh =>
      let (a, f1) := interm (x.mul x)
      let (b, f2) := interm (a.mul x)
      let (v, f3) := interm ((cC2.mul b).plus x.toXR)
      let (w, f4) := interm (cC1.mul v)
      let (t, f5) := interm (tanhRaw T w)
      let (h, f6) := interm (halfPlus t)
      (x.mul h, f1 ||| f2 ||| f3 ||| f4 ||| f5 ||| f6)
    | .sin =>
      if x.below (-12) then (x.toXR, 0)
      else
        let w := (floorInt s (m * cI2P) (e - 126) % 2 ^ 34).toNat
        let v : FV := .num false (w % 2 ^ 32) (-32)
        (match w / 2 ^ 32 with
          | 0 => T 9 v
          | 1 => T 10 v
          | 2 => (T 9 v).neg
          | _ => (T 10 v).neg, 0)
    | .cos =>
      if x.below (-12) then (intXR 1 0, 0)
      else
        let w := (floorInt s (m * cI2P) (e - 126) % 2 ^ 34).toNat
        let v : FV := .num false (w % 2 ^ 32) (-32)
        (match w / 2 ^ 32 with
          | 0 => T 10 v
          | 1 => (T 9 v).neg
          | 2 => (T 10 v).neg
          | _ => T 9 v, 0)

/-- A function inside `SOFTMAX`, `NORM` and `ROPE`: an FP32 result, rounded by R48 (R131). -/
def sfu32 (T : Nat → FV → XR) (ftz : Bool) (fn : Fn) (c : Nat) : Nat × Nat :=
  let (x, f0) := rd32 ftz c
  let (y, f1) := sfu T fn x
  let (r, f2) := toFloat fmtFP32 ftz false y
  (r, f0 ||| f1 ||| f2)

end Sys2Proof.Machine
end

