-- ==== Sys2Proof/Machine/TableRules.lean ====
section
/-! DEFINITION. What the spec says of the two built-in table sets: exact results, monotonicity, error bounds and the backward steps of the compatibility
set (R111, R118 to R121), and the sets that a firmware image gives (R112, R391, R392). -/

namespace Sys2Proof.Machine

/-- The slots of a set as a stage holds them: 0 to 10, 3,104 bytes each, in ascending order (R112, R113, R392; DEDUCED, entry 31). -/
def setSlots (flavour : Nat) (stage : Bytes) : Tab Bytes := (List.range 11).map fun k => (16 * flavour + k, slice stage (3104 * k) 3104)

/-- One element of an SFU step: an FP32 input with its flags, and the output code with its flags (R107, R108). -/
def sfuEl (g : FV → XR × Nat) (fmt : Nat) (ftz nanOv : Bool) (x : Nat × Nat) : Nat × Nat :=
  let (y, f) := g (decodeF fmtFP32 x.1)
  let (v, f') := convertOut fmt ftz nanOv y
  (v, x.2 ||| f ||| f')

/-- A built-in function under a pair of table sets, without FTZ: output code and flags. -/
def tableFn (tabs : Tab Bytes) (flavour : Nat) (fn : Fn) (fmt x : Nat) : Nat × Nat := sfuEl (sfu (tabVal tabs flavour) fn) fmt false false (x, 0)

/-! ## Exact results (R111) -/

/-- The FP32 code of (−1)^s × 2^n. -/
def pow32 (s : Bool) (n : Int) : Nat := enc32 (.num s 1 n)
/-- The FP32 code of an integer. -/
def int32 (n : Int) : Nat := enc32 (.num (decide (n < 0)) n.natAbs 0)

/-- R111, in both modes. -/
structure ExactResults (f : Fn → Nat → Nat → Nat × Nat) : Prop where
  exp2 : ∀ n : Int, -149 ≤ n → n ≤ 127 → f .exp2 0 (int32 n) = (pow32 false n, 0)
  exp : f .exp 0 0 = (0x3F800000, 0) ∧ f .exp 0 0x80000000 = (0x3F800000, 0)
  log2 : ∀ n : Int, -149 ≤ n → n ≤ 127 → f .log2 0 (pow32 false n) = (int32 n, 0)
  ln : f .ln 0 0x3F800000 = (0, 0) ∧ (f .ln 0 0x40000000).1 = 0x3F317218
  rcp : ∀ (s : Bool) (n : Int), -127 ≤ n → n ≤ 127 → f .rcp 0 (pow32 s n) = (pow32 s (-n), 0)
  rsqrt : ∀ k : Int, -74 ≤ k → k ≤ 63 → f .rsqrt 0 (pow32 false (2 * k)) = (pow32 false (-k), 0)
  sqrt : ∀ k : Int, -74 ≤ k → k ≤ 63 → f .sqrt 0 (pow32 false (2 * k)) = (pow32 false k, 0)
  cos : f .cos 0 0 = (0x3F800000, 0) ∧ f .cos 0 0x80000000 = (0x3F800000, 0)

/-! ## Error bounds (R119, R120) -/

/-- A finite value is the real number `r`. -/
def FV.isReal : FV → ℝ → Prop
  | .num s m e, r => r = (if s then -1 else 1) * (m : ℝ) * (2 : ℝ) ^ e
  | _, _ => False

/-- `y` is the exact value of the error function at `x`. -/
def erfAt (x y : ℝ) : Prop := y = 2 / √Real.pi * ∫ t in (0 : ℝ)..x, Real.exp (-t ^ 2)

/-- `y` is the exact value of a function at `x`, where it has one. -/
def Fn.exact (fn : Fn) (x y : ℝ) : Prop :=
  match fn with
  | .exp2 => y = (2 : ℝ) ^ x
  | .exp => y = Real.exp x
  | .log2 => 0 < x ∧ y = Real.logb 2 x
  | .ln => 0 < x ∧ y = Real.log x
  | .rcp => x ≠ 0 ∧ y = 1 / x
  | .rsqrt => 0 < x ∧ y = 1 / √x
  | .sqrt => 0 ≤ x ∧ y = √x
  | .tanh => y = Real.tanh x
  | .erf => erfAt x y
  | .sigmoid => y = 1 / (1 + Real.exp (-x))
  | .silu => y = x / (1 + Real.exp (-x))
  | .softplus => y = Real.log (1 + Real.exp x)
  | .geluErf => ∃ e, erfAt (x / √2) e ∧ y = x * (1 + e) / 2
  | .geluTanh => y = x / 2 * (1 + Real.tanh (√(2 / Real.pi) * (x + 0.044715 * x ^ 3)))
  | .sin => y = Real.sin x
  | .cos => y = Real.cos x

/-- The float format of an output code. -/
def outFloat (fmt : Nat) : FFmt := match (fmtD fmt).elem with
  | .float f => f
  | _ => fmtFP32

/-- `u` is the ulp of format `f` at the exact result `y`, the subnormal ulp where `y` is subnormal. -/
def ulpAt (f : FFmt) (y u : ℝ) : Prop :=
  ∃ k : ℤ, u = (2 : ℝ) ^ k ∧
    (k = f.lsb ∧ |y| < (2 : ℝ) ^ (k + f.fb + 1) ∨ f.lsb ≤ k ∧ (2 : ℝ) ^ (k + f.fb) ≤ |y| ∧ |y| < (2 : ℝ) ^ (k + f.fb + 1))

/-- The entry of R119 for a function, an output format and an input: `n` ulps, and an absolute error of 2^−k where it gives one; 0 ulps where it gives
that alone. -/
def Fn.entry (fn : Fn) (fmt : Nat) (x : ℝ) (n : Nat) (k : Option Nat) : Prop :=
  let ulps (a : Nat) : Prop := n = (if fmt = 0 then a else 1) ∧ k = none
  let near (a : Nat) : Prop := n = (if fmt = 0 then 0 else 1) ∧ k = (if fmt ≤ 2 then some a else none)
  match fn with
  | .exp2 => ulps 1
  | .exp => ulps 2
  | .log2 => ((x < 1 / 2 ∨ 2 ≤ x) ∧ ulps 2) ∨ (1 / 2 ≤ x ∧ x < 2 ∧ near 22)
  | .ln => ((x < 1 / 2 ∨ 2 ≤ x) ∧ ulps 2) ∨ (1 / 2 ≤ x ∧ x < 2 ∧ near 22)
  | .rcp => ulps 1
  | .rsqrt => ulps 1
  | .sqrt => ulps 1
  | .tanh => ulps 2
  | .erf => ulps 2
  | .sigmoid => (0 ≤ x ∧ ulps 2) ∨ (x < 0 ∧ ulps 3)
  | .silu => ulps 4
  | .softplus => ulps 4
  | .geluErf => (-4 ≤ x ∧ ulps 3) ∨ (x < -4 ∧ near 24)
  | .geluTanh => (-4 ≤ x ∧ ulps 4) ∨ (x < -4 ∧ near 24)
  | .sin => near 23
  | .cos => near 23

/-- The bound of R119, with `more` ulps added to an entry that is given in ulp (R120). It bears on a finite output for a result that the format can
hold. -/
def WithinBounds (more : Nat) (f : Fn → Nat → Nat → Nat × Nat) : Prop :=
  ∀ (fn : Fn) (fmt c : Nat) (x y v top u : ℝ) (n : Nat) (k : Option Nat), fmt ≤ 4 → c < 2 ^ 32 → (decodeF fmtFP32 c).isReal x → fn.exact x y →
    (decodeF (outFloat fmt) (outFloat fmt).maxCode).isReal top → |y| ≤ top → (decodeF (outFloat fmt) (f fn fmt c).1).isReal v →
    ulpAt (outFloat fmt) y u → fn.entry fmt x n k →
    |v - y| ≤ (if n = 0 then 0 else ((n + more : Nat) : ℝ) * u) ∨ ∃ a, k = some a ∧ |v - y| ≤ (2 : ℝ) ^ (-(a : ℤ))

/-! ## Monotonicity and the backward steps (R118, R121) -/

/-- An input at or above −0; a strictly positive one; a strictly negative one. -/
def FV.nonNeg (x : FV) : Bool := !x.isNan && (x.isZero || !x.sign)
def FV.positive (x : FV) : Bool := !x.isNan && !x.isZero && !x.sign
def FV.negative (x : FV) : Bool := !x.isNan && !x.isZero && x.sign

/-- The ranges of R118 that hold both inputs: true where the function does not decrease, false where it does not increase. -/
def Fn.monotone (fn : Fn) (x y : FV) : Option Bool :=
  let both (r : FV → Bool) : Bool := r x && r y
  let some_ (b : Bool) (up : Bool) : Option Bool := if b then some up else none
  match fn with
  | .exp2 => some_ (both fun x => !x.isNan) true
  | .exp => some_ (both fun x => !x.isNan) true
  | .log2 => some_ (both FV.nonNeg) true
  | .ln => some_ (both FV.nonNeg) true
  | .sqrt => some_ (both FV.nonNeg) true
  | .tanh => some_ (both fun x => !x.isNan) true
  | .sigmoid => some_ (both fun x => !x.isNan) true
  | .erf => some_ (both fun x => !x.isNan) true
  | .softplus => some_ (both fun x => !x.isNan) true
  | .silu => some_ (both FV.nonNeg) true
  | .geluErf => some_ (both FV.nonNeg) true
  | .geluTanh => some_ (both FV.nonNeg) true
  | .rcp => some_ (both FV.negative || both FV.positive) false
  | .rsqrt => some_ (both FV.positive) false
  | .sin => none
  | .cos => none

/-- From the lower input to the higher one, the output steps back against the function's direction. -/
def stepsBack (up : Bool) (u v : FV) : Bool := if up then FV.cmp u v == .gt else FV.cmp u v == .lt

/-- The kerfs of R121: the lower and the higher of the two adjacent inputs, and the sign of the outputs. -/
def backKerfs : Fn → List (Nat × Nat)
  | .tanh => [(0x3F87FFFF, 0x3F880000), (0x400FFFFF, 0x40100000), (0xBF880000, 0xBF87FFFF), (0xC0100000, 0xC00FFFFF)]
  | .rsqrt => ((List.range 127).map fun k => 0x01400000 + k * 0x01000000).map (fun x => (x - 1, x)) ++
      ((List.range 11).map fun k => 6 * 4 ^ k).map fun x => (x - 1, x)
  | _ => []

/-- R118, but for steps across the kerfs of `except`. -/
def MonotoneBut (except : Fn → List (Nat × Nat)) (f : Fn → Nat → Nat → Nat × Nat) : Prop :=
  ∀ (fn : Fn) (fmt a b : Nat) (up : Bool), fmt ≤ 4 → a < 2 ^ 32 → b < 2 ^ 32 → fn.monotone (decodeF fmtFP32 a) (decodeF fmtFP32 b) = some up →
    FV.cmp (decodeF fmtFP32 a) (decodeF fmtFP32 b) = .lt →
    stepsBack up (decodeF (outFloat fmt) (f fn fmt a).1) (decodeF (outFloat fmt) (f fn fmt b).1) = true →
    ∃ k ∈ except fn, FV.cmp (decodeF fmtFP32 a) (decodeF fmtFP32 k.1) ≠ .gt ∧ FV.cmp (decodeF fmtFP32 k.2) (decodeF fmtFP32 b) ≠ .gt

/-- R121: each kerf steps back by one ulp of the FP32 output. -/
def BackSteps (f : Fn → Nat → Nat → Nat × Nat) : Prop :=
  ∀ (fn : Fn), ∀ k ∈ backKerfs fn,
    if fn = .tanh ∧ k.1 < 0x80000000 then (f fn 0 k.2).1 + 1 = (f fn 0 k.1).1 else (f fn 0 k.2).1 = (f fn 0 k.1).1 + 1

/-! ## The sets -/

/-- What the spec says of the two sets of an image (R111, R118 to R121): a claim about the values of a built-in function takes it as a premise on
`Sec.tables`. -/
structure TableRules (tabs : Tab Bytes) : Prop where
  exact : ∀ m, m ≤ 1 → ExactResults (tableFn tabs m)
  native : MonotoneBut (fun _ => []) (tableFn tabs 0)
  nativeBounds : WithinBounds 0 (tableFn tabs 0)
  compat : MonotoneBut backKerfs (tableFn tabs 1)
  compatBounds : WithinBounds 1 (tableFn tabs 1)
  backSteps : BackSteps (tableFn tabs 1)

/-- The built-in sets that hub firmware fills from an image's TBL_NATIVE and TBL_COMPAT stages, byte for byte (R4, R112, R391 step 8, R392). That they
keep `TableRules` is a property of the images that the manufacturer signs: the device checks the signature, and nothing of the contents (entry 31). -/
def builtinSets (native compat : Bytes) : Tab Bytes := setSlots 0 native ++ setSlots 1 compat

end Sys2Proof.Machine
end

