-- ==== Sys2Proof/Machine/Boot.lean ====
section
/-! DEFINITION. The security processor: fuses, firmware load, life cycle, identity, the attestation report (R390 to R401), and what
REPAIR fuses take out of service (R80, R375, R416). -/

namespace Sys2Proof.Machine

/-! ## Arrays and dies out of service -/

/-- Physical array `phys` of site `s` leaves service: the spare takes over its logical number, or, with the spare in use or out, the die is
withdrawn (R16, R80, R415). -/
def W.arrayOut (w : W) (s phys : Nat) : W :=
  let D := w.d.die s
  if D.quar.testBit phys then w
  else
    let w := w.modDie s fun D => { D with quar := D.quar ||| 2 ^ phys }
    match w.d.logicalOf s phys with
    | none => w
    | some n =>
      if (w.d.logicalOf s 8).isSome || D.quar.testBit 8 || D.chkq.testBit 8 then w.modDie s fun D => { D with withdrawn := true }
      else w.modDie s fun D => { D with lmap := setBits D.lmap (4 * n + 3) (4 * n) 8, spareOn := true }

/-- Entry `k` of the REPAIR fuses (R416). -/
def fuseEntry (repair k : Nat) : Nat := bits repair (64 * k + 63) (64 * k)
/-- Entries used, and entries with VALID (R399, R416). -/
def fuseUsed (repair : Nat) : Nat := ((List.range 32).filter fun k => fuseEntry repair k ≠ 0).length
def fuseValid (repair : Nat) : Nat := ((List.range 32).filter fun k => (fuseEntry repair k).testBit 7).length

/-- ARRAY_OUT and DIE_OUT of the fuses in force (R375, R416). -/
def W.fuseRepairs (w : W) : W :=
  w.each ((List.range 32).map (fuseEntry w.d.aon.shadow.repair)) fun w e =>
    if !e.testBit 7 then w
    else match bits e 3 0 with
      | 1 => w.arrayOut (bits e 12 8) (bits e 19 16)
      | 2 => w.modDie (bits e 12 8) fun D => { D with withdrawn := true }
      | _ => w

/-! ## Boot ROM (R390, R391) -/

/-- The fuse count of R393. -/
def svnCount (svn : Nat) : Nat := if svn = 0 then 0 else svn.log2 + 1
/-- The life-cycle state that the fuses give (R394). -/
def lcOf (f : Fuses) : Nat := if f.retired then 4 else if f.returned then 3 else if f.secured then 1 else 0
/-- DEBUG_PORT (R394, R396): open in FACTORY, RETURNED and FIELD_DEBUG. -/
def portOpen (lc : Nat) : Bool := lc == 0 || lc == 3 || lc == 2

/-- A fresh nonce (R395). -/
def W.newNonce (w : W) : W :=
  let (k, w) := w.fresh
  w.modSec fun S => { S with nonce := Config.random k % 2 ^ 128 }

/-- Step 3 of R391: the store is zeroed, channel 0 takes a push, STATE WAIT. -/
def W.romWait (w : W) : W :=
  ((w.zero storeBase storeSize).modChan 0 fun C => { C with ptr := 0, limit := storeSize, mode := 0, st := 1 }).modSec
    fun S => { S with boot := 1, pushBad := false }

/-- The boot ROM from step 1 (R391, R395): the fuse shadow is loaded, and RETIRED halts. -/
def W.bootRom (w : W) (f : Fuses) : W :=
  let w := (w.modAon fun A => { A with shadow := f, sensed := true }).newNonce
  let w := w.modSec fun S => { S with boot := 0, lc := lcOf f, attempts := 0, result := 0 }
  let w := w.fuseRepairs
  if f.retired then w.modSec fun S => { S with boot := 4 } else w.romWait

/-! ## Firmware images (R392) -/

/-- Stage i: TYPE, OFF, SLEN. -/
def stageOf (h : Bytes) (i : Nat) : Nat × Nat × Nat := (fld h (0x20 + 16 * i) 1, fld h (0x24 + 16 * i) 4, fld h (0x28 + 16 * i) 4)
/-- The stages of an image's header. -/
def stagesOf (h : Bytes) : List (Nat × Nat × Nat) := (List.range (fld h 0x12 1)).map (stageOf h)

/-- No two of the ranges (start, length) overlap. -/
def disjointRanges : List (Nat × Nat) → Bool
  | [] => true
  | (a, n) :: l => l.all (fun (b, m) => decide (a + n ≤ b ∨ b + m ≤ a ∨ n = 0 ∨ m = 0)) && disjointRanges l

/-- The HEADER check of R392. -/
def fwHeaderOk (h : Bytes) : Bool :=
  let n := fld h 0x12 1
  let st := stagesOf h
  let len := fld h 0x18 4
  fld h 0 4 == 0x4D524946 && fld h 4 2 == 2 && fld h 6 2 / 8 == 0 && fld h 0x11 1 / 4 == 0 && fld h 0x13 1 == 0 && fld h 0x1C 4 == 0 &&
    isZero h 0x180 0x20 && decide (1 ≤ n ∧ n ≤ 16) && isZero h (0x20 + 16 * n) (16 * (16 - n)) &&
    ((List.range n).all fun i => fld h (0x21 + 16 * i) 3 == 0 && fld h (0x2C + 16 * i) 4 == 0) &&
    (st.all fun (t, o, l) => decide (1 ≤ t ∧ t ≤ 6 ∧ 0x200 ≤ o ∧ o % 64 = 0 ∧ o + l ≤ len)) &&
    ((rangeFrom 1 7).all fun t => (st.filter (·.1 == t)).length == 1) && disjointRanges (st.map (·.2))

/-- RESULT of the checks of R392 on the image in the store. A stopped push decides first (R391; DEDUCED, entry 16). -/
def W.fwResult (w : W) : Nat :=
  let h := w.read storeBase 0x200
  let len := fld h 0x18 4
  let f := w.d.aon.shadow
  let k := fld h 0x11 1 % 4
  let signer := slice h 0x120 96
  if w.d.sec.pushBad then 8
  else if !fwHeaderOk h then 2
  else if len ≠ w.d.sec.cmdLen || len < 0x1000 || len > storeSize || len % 64 ≠ 0 then 3
  else if !(fld h 6 2).testBit w.d.variant then 4
  else if f.signerRev.testBit k || be (sha384 signer) ≠ lget 0 f.signerDig k then 5
  else if !ecdsaVerify signer (slice h 0x1A0 96) (h.take 0x1A0 ++ w.read (storeBase + 0x200) (len - 0x200)) then 6
  else if fld h 0x10 1 < svnCount f.svn || fld h 0x10 1 > 128 then 7
  else 1

/-! ## Identity (R397) -/

/-- `p384_from_seed`. -/
def p384Seed (s : Bytes) : Nat := be (hkdfExpand s ("P384".toUTF8.toList.map (BitVec.ofNat 8 ·.toNat)) 64) % (p384N - 1) + 1
def ascii (s : String) : Bytes := s.toUTF8.toList.map fun b => BitVec.ofNat 8 b.toNat

/-- The keys of R397 for a life-cycle state and debug state: DeviceID, m1, alias. -/
def Dev.identity (d : Dev) (lc debug : Nat) : Nat × Bytes × Nat :=
  let f := d.aon.shadow
  let secret := toBe 48 (if lc = 3 then f.ts else f.uds)
  let cdi0 := hmacSha384 secret (ascii "WZ-DEVID" ++ Config.romDigest)
  let m1 := sha384 (d.sec.imageDigest ++ toLe 1 lc ++ toLe 1 debug ++ toLe 1 (svnCount f.svn) ++ toLe 1 d.sec.keyIdx)
  let cdi1 := hmacSha384 cdi0 m1
  (p384Seed cdi0, m1, p384Seed (hmacSha384 cdi1 (ascii "WZ-ALIAS")))

/-- The slot 0 chain, as GET_CERTIFICATE returns it (R397, R398): length, root digest, certificates. -/
def Dev.chainFor (d : Dev) (devid : Nat) (m1 : Bytes) (alias_ lc : Nat) : Bytes :=
  let aliasCert := Config.certOf devid (p384Pub alias_) m1
  let own := Config.certOf devid (p384Pub devid) []
  let root := if lc = 3 then sha384 own else Config.rootDigest
  let certs := (if lc = 3 then own else d.aon.shadow.cert) ++ aliasCert
  toLe 4 (4 + root.length + certs.length) ++ root ++ certs

/-- Identity is derived, the DeviceID key erased and the fuse read path locked (R397). -/
def W.deriveIdentity (w : W) (debug : Nat) : W :=
  let lc := w.d.sec.lc
  let (dv, m1, al) := w.d.identity lc debug
  w.modSec fun S => { S with devidPub := p384Pub dv, aliasKey := al, chain := w.d.chainFor dv m1 al lc, locked := true }

/-- DEVICE_ID (R397). -/
def Dev.deviceId (d : Dev) : Bytes := sha384 d.sec.devidPub

/-- SEC_BOOT_CMD in WAIT (R391 step 5). -/
def W.secBootCmd (w : W) (v : Nat) (ign : W → W) : W :=
  if w.d.sec.boot ≠ 1 then ign w
  else
    (w.modSec fun S => { S with boot := 2, cmdLen := v % 2 ^ 32, pushBad := decide ((w.d.chan 0).st = 2), verified := false }).modChan 0
      fun C => { C with st := 0 }

/-- FIRMWARE_VERIFY_DONE (R391 steps 6, 7 and 9, R392). -/
def execFirmwareVerifyDone (s : State) : Host.Outcome State Fault Refusal :=
  s.run fun w =>
    if w.d.sec.boot ≠ 2 || w.d.sec.verified then w
    else
      let r := w.fwResult
      if r = 1 then
        let h := w.read storeBase 0x200
        let w := w.modSec fun S =>
          { S with result := 1, verified := true, svnImage := fld h 0x10 1, keyIdx := fld h 0x11 1 % 4, packFloor := fld h 0x14 4
                   imageLen := fld h 0x18 4, imageDigest := sha384 (w.read storeBase (fld h 0x18 4))
                   stageDigs := (stagesOf h).map fun (_, o, n) => sha384 (w.read (storeBase + o) n) }
        w.deriveIdentity 0
      else (w.modSec fun S => { S with attempts := min 255 (S.attempts + 1), result := r }).romWait

/-- The bytes of the image's stage of TYPE `t`. -/
def W.stageBytes (w : W) (t : Nat) : Bytes :=
  match (stagesOf (w.read storeBase 0x200)).find? (·.1 == t) with
  | some (_, o, n) => w.read (storeBase + o) n
  | none => []

/-- HUB_FIRMWARE_RUNNING (R391 step 8): the built-in slots are filled from the image's stages TBL_NATIVE and TBL_COMPAT (R112, R392); the pack version is
never below the image's floor (R382). -/
def execHubFirmwareRunning (s : State) : Host.Outcome State Fault Refusal :=
  s.run fun w =>
    if w.d.sec.boot = 2 && w.d.sec.verified then
      (w.modSec fun S => { S with boot := 3, tables := builtinSets (w.stageBytes 4) (w.stageBytes 5) }).modBist fun B => { B with packVer := max B.packVer w.d.sec.packFloor }
    else w

/-! ## SVN and life-cycle commands (R393 to R396) -/

/-- Every polder is EMPTY. -/
def Dev.allEmpty (d : Dev) : Bool := d.formed.isEmpty

def W.cmdResult (w : W) (r : Nat) : W := w.modSec fun S => { S with cmdResult := r }
/-- A command that blows fuses begins. -/
def W.pulse (w : W) (l : List FusePulse) : W := w.modSec fun S => { S with busy := true, pulses := l, cmdResult := 0 }

/-- SEC_SVN_CMD (R393), `c` being the fuse count. -/
def W.secSvn (w : W) (v c : Nat) : W :=
  let t := bits v 7 0
  if !w.d.running || !(w.d.sec.lc = 0 || w.d.sec.lc = 1) then w.cmdResult 1
  else if c < t ∧ t ≤ w.d.sec.svnImage then w.pulse ((rangeFrom c t).map .svn)
  else w.cmdResult 5

/-- The gate of every LC command (R394): STATE RUNNING and every polder EMPTY, else BUSY; then the state it is listed for, else STATE. -/
def W.lcGate (w : W) (ok : Bool) (f : W → W) : W :=
  if !w.d.running || !w.d.allEmpty then w.cmdResult 2
  else if !ok then w.cmdResult 1
  else f w

/-- A service token of TYPE `ty` verifies on this device (R395). -/
def Dev.tokenOk (d : Dev) (b : Bytes) (ty : Nat) : Bool :=
  let key := slice b 0xC0 96
  fld b 0 4 == 0x4E4B5454 && fld b 4 2 == 2 && fld b 6 1 == ty && fld b 7 1 == 0 && slice b 8 48 == d.deviceId &&
    slice b 0x38 16 == toLe 16 d.sec.nonce && isZero b 0x48 0x18 && be (sha384 key) == d.aon.shadow.serviceDig &&
    ecdsaVerify key (slice b 0x60 96) (b.take 0x60)

/-- A command with a token: it is read from SEC_TOKEN_ADDR, and the nonce is drawn afresh whatever comes of it (R395). -/
def W.withToken (w : W) (tok : ReadRes) (ty : Nat) (f : W → W) : W :=
  let w := w.askHost w.d.sec.tokenAddr 288
  match tok with
  | .err _ => (w.cmdResult 4).newNonce
  | .ok b => if w.d.tokenOk b ty then (f w).newNonce else (w.cmdResult 3).newNonce

/-- Every key slot of `l` is erased. -/
def W.eraseKeys (w : W) (l : List Nat) : W := w.each l fun w k => w.setKey k none

/-- Entering FIELD_DEBUG (R394, R401): stacks DIRTY, keys erased, sessions ended, every die's on-die state scrubbed, a new alias key. -/
def W.enterDebug (w : W) : W :=
  let w := w.each w.d.stackSites fun w s => w.setStack s 1
  let w := w.modFabric fun F => { F with keys := [], windows := [] }
  let w := (w.each w.d.computeSites fun w s => w.scrubDie s).dev fun d => { d with banks := [] }
  let w := w.modSec fun S => { S with sessions := [], lc := 2, cmdResult := 0 }
  w.deriveIdentity 1

/-- SEC_LC_CMD (R394, R396): CODE 1 to 4. -/
def W.lcSecure (w : W) : W := w.lcGate (w.d.sec.lc == 0 && w.d.aon.shadow.certWritten) fun w => w.pulse [.secured]
def W.lcDebug (w : W) (tok : ReadRes) : W := w.lcGate (w.d.sec.lc == 1) fun w => w.withToken tok 1 W.enterDebug
def W.lcReturn (w : W) (tok : ReadRes) : W :=
  w.lcGate (w.d.sec.lc == 1 || w.d.sec.lc == 2) fun w => w.withToken tok 2 fun w => w.pulse [.returned]
def W.lcRetire (w : W) : W := w.lcGate true fun w => w.pulse [.retired]

/-- What a pulse leaves of the fuses (R390, R393, R416): a REPAIR entry's bits are blown first and VALID last, so that a failed one has no
VALID; any other pulse that fails leaves its fuse unblown. -/
def FusePulse.apply (f : Fuses) (ok : Bool) : FusePulse → Fuses
  | .svn b => if ok then { f with svn := f.svn ||| 2 ^ b } else f
  | .secured => if ok then { f with secured := true } else f
  | .returned => if ok then { f with returned := true } else f
  | .retired => if ok then { f with retired := true } else f
  | .repair k v => { f with repair := f.repair ||| ((if ok then v % 2 ^ 64 ||| 0x80 else (v % 2 ^ 64 ||| 0x80) - 0x80) <<< (64 * k)) }

/-- The registers after a pulse: the command ends with its last one, FUSE if one failed (R393, R396, R416). -/
def W.pulseDone (w : W) (ok : Bool) : W :=
  match w.d.sec.pulses with
  | [] => w
  | .repair _ _ :: rest =>
    (w.modSec fun S => { S with pulses := rest }).modBist fun B => { B with fuseBusy := false, fuseResult := if ok then 0 else 4 }
  | _ :: rest =>
    w.modSec fun S =>
      let r := if ok then S.cmdResult else 6
      { S with pulses := rest, cmdResult := r
               busy := rest.any fun p => match p with
                 | .repair _ _ => false
                 | _ => true }

/-- FUSE_PROGRAM_COMPLETE (R390): the first pulse in progress ends, and `ok` is its sense check. -/
def execFuseProgramComplete (ok : Bool) (s : State) : Host.Outcome State Fault Refusal :=
  .next { s.commit (s.w.pulseDone ok) with
    fuses := match s.dev.sec.pulses with
      | [] => s.fuses
      | p :: _ => p.apply s.fuses ok }

/-! ## The attestation report (R399 to R401) -/

/-- SCRUB_PENDING (R401). -/
def Dev.scrubPending (d : Dev) : Bool :=
  (!d.sec.rebuildSites.isEmpty) ||
    (List.range 16).any fun p => ((d.pol p).st == 1 || (d.pol p).st == 2) && !d.allClean p

/-- The entry of polder `p` (R400). -/
def Dev.polEntry (d : Dev) (p : Nat) : Bytes :=
  let P := d.pol p
  let clean := (d.polStacks p).foldl (fun m s => if (d.die s).stack = 3 then m ||| 2 ^ s else m) 0
  toLe 1 (P.st + 16 * b2n P.service) ++ toLe 1 P.home ++ toLe 2 0 ++ toLe 4 P.dies ++ toLe 8 P.ports ++
    toLe 4 (if P.st = 0 then 0 else clean) ++ toLe 2 P.ctxBase ++ toLe 2 P.ctxCount ++ toLe 4 P.formGen ++ toLe 4 0

/-- Bytes 0x000 to 0x6FF of the report that function `fn` receives (R399, R400). -/
def Dev.reportBody (d : Dev) (fn : Nat) (nonce : Bytes) : Bytes :=
  let S := d.sec
  let shows (s : Nat) : Bool := fn == 0 || (d.pol (vfPol fn)).hasSite s
  let stack := (List.range 25).foldl (fun m s => if shows s then m + (d.die s).stack * 4 ^ s else m) 0
  let head := toLe 4 0x52545441 ++ toLe 2 2 ++ toLe 2 0 ++ toLe 4 0x760 ++ toLe 4 S.layoutGen ++ (nonce ++ zeros 32).take 32 ++ d.deviceId ++
    toLe 1 d.variant ++ toLe 1 0xB0 ++ toLe 2 d.hub.chip ++ toLe 1 S.lc ++ toLe 1 (b2n (S.lc == 2) + 2 * b2n (portOpen S.lc)) ++
    toLe 1 (svnCount d.aon.shadow.svn) ++ toLe 1 S.svnImage ++ toLe 1 S.keyIdx ++ toLe 1 d.aon.shadow.signerRev ++
    toLe 2 (fuseValid d.aon.shadow.repair) ++ toLe 4 d.bist.packVer ++ (Config.romDigest ++ zeros 48).take 48 ++ (S.imageDigest ++ zeros 48).take 48 ++
    toLe 1 S.stageDigs.length ++ zeros 15
  let stages := ((S.stageDigs.flatMap fun x => (x ++ zeros 48).take 48) ++ zeros 768).take 768
  let tail := sha384 S.chain ++ toLe 8 stack ++ toLe 4 (b2n d.scrubPending + 2 * b2n S.rebuildInt + 4 * b2n d.power.openMode) ++ zeros 228
  let pols := (List.range 16).flatMap fun p => if fn = 0 ∨ p = vfPol fn then d.polEntry p else zeros 32
  head ++ stages ++ tail ++ pols

/-- The signed report, 1,888 bytes, its signature drawn at free value `k`. -/
def Dev.report (d : Dev) (fn : Nat) (nonce : Bytes) (k : Nat) : Bytes :=
  let b := d.reportBody fn nonce
  b ++ (Config.ecdsaSign k d.sec.aliasKey (sha384 b) ++ zeros 96).take 96

end Sys2Proof.Machine
end

