-- ==== Sys2Proof/Machine/ImgTokens.lean ====
section
/-! DEFINITION. The streams of a segment as abstract queues: every order in which they can run (R170 to R172, R184), and what is ordered before
what (R62, R96, R189). -/

namespace Sys2Proof.Machine

/-- A queue of a segment: logical die, queue number, and for each step the tokens that it takes and that it gives, by 64 × die + token. -/
structure NQueue where
  die : Nat
  q : Nat
  steps : List (List Nat × List Nat)
  deriving DecidableEq, Repr

def occurs (l : List Nat) (t : Nat) : Nat := (l.filter (· == t)).length

/-- The steps issued so far of each queue, at positions `pos`. -/
def issuedSteps (net : List NQueue) (pos : List Nat) : List (Nat × Nat × (List Nat × List Nat)) :=
  ((net.zip pos).zipIdx.map fun ((n, k), i) => (n.steps.take k).zipIdx.map fun (st, j) => (i, j, st)).flatten

/-- Value of token `t`: what released steps gave less what issued steps took. The release of `hold` (queue index, position) is withheld. -/
def tokenAt (net : List NQueue) (hold : Option (Nat × Nat)) (pos : List Nat) (t : Nat) : Nat :=
  let l := issuedSteps net pos
  (l.map fun (i, j, st) => if hold = some (i, j) then 0 else occurs st.2 t).foldl (· + ·) 0 -
    (l.map fun (_, _, st) => occurs st.1 t).foldl (· + ·) 0

/-- The next step of queue `i` can be issued: its tokens are there, and, but in an array queue, the step before it has released (R170, R172). -/
def canGo (net : List NQueue) (hold : Option (Nat × Nat)) (pos : List Nat) (i : Nat) : Bool :=
  match (net[i]?, pos[i]?) with
  | (some n, some k) =>
    (match n.steps[k]? with
      | none => false
      | some st => st.1.all fun t => decide (tokenAt net hold pos t ≥ occurs st.1 t)) &&
      (match hold with
        | some (h, p) => !(h == i && decide (p < k) && decide (8 ≤ n.q))
        | none => true)
  | _ => false

def successors (net : List NQueue) (hold : Option (Nat × Nat)) (pos : List Nat) : List (List Nat) :=
  ((List.range net.length).filter (canGo net hold pos)).map fun i => lset pos i (lget 0 pos i + 1)

/-- Every combination of positions that some order reaches: `n` rounds from those at hand, each issuing one step. -/
def reachable (net : List NQueue) (hold : Option (Nat × Nat)) : Nat → List (List Nat) → List (List Nat)
  | 0, l => l
  | n + 1, l => l ++ reachable net hold n (l.flatMap (successors net hold)).eraseDups

def allOrders (net : List NQueue) (hold : Option (Nat × Nat)) : List (List Nat) :=
  reachable net hold ((net.map fun n => n.steps.length).foldl (· + ·) 0) [List.replicate net.length 0]

/-- Every token that a segment names. -/
def netTokens (net : List NQueue) : List Nat := ((net.flatMap (·.steps)).flatMap fun st => st.1 ++ st.2).eraseDups

/-- No order takes a token above 255, and every order that can go no further has drained every stream with every token zero (R184). -/
def netSound (net : List NQueue) : Bool :=
  (allOrders net none).all fun pos =>
    ((netTokens net).all fun t => decide (tokenAt net none pos t ≤ 255)) &&
      (!(successors net none pos).isEmpty ||
        (pos == (net.map fun n => n.steps.length) && (netTokens net).all fun t => tokenAt net none pos t == 0))

/-- Step `x` releases before step `y` is issued in every order: with `x`'s release withheld, `y` is out of reach. -/
def netBefore (net : List NQueue) (x y : Nat × Nat) : Bool :=
  (allOrders net (some x)).all fun pos => decide (lget 0 pos y.1 ≤ y.2)

end Sys2Proof.Machine
end

