-- ==== Sys2Proof/Machine/VecMath.lean ====
section
/-! DEFINITION. The arithmetic of the vector engine and the transform unit on one element or one row (R86 to R94, R101, R104 to R106, R130 to
R136). -/

namespace Sys2Proof.Machine

/-- A code and flags: the common result of every lane operation. -/
abbrev CF := Nat × Nat

/-- An element widened to FP32 (R53, R86): exact but for INT32, which rounds. -/
def widenCode (f : Fmt) (ftz : Bool) (code : Nat) : CF :=
  let (v, f1) := readElem f.elem f.scalar ftz code
  let (c, f2) := widen ftz v
  (c, f1 ||| f2)

/-- A signed integer element extended to 32 bits (R87). -/
def intCode (f : Fmt) (code : Nat) : Int :=
  match f.elem with
  | .sint w _ => sext w code
  | _ => (code % 2 ^ f.w : Nat)

/-- Two operands; three operands. -/
def bin (g : Bool → Nat → Nat → CF) (ftz : Bool) : List Nat → CF
  | a :: b :: _ => g ftz a b
  | _ => (0, 0)
def tern (g : Bool → Nat → Nat → Nat → CF) (ftz : Bool) : List Nat → CF
  | a :: b :: c :: _ => g ftz a b c
  | _ => (0, 0)
def una (g : Bool → Nat → CF) (ftz : Bool) : List Nat → CF
  | a :: _ => g ftz a
  | _ => (0, 0)

/-- CLAMP (R86). -/
def fClamp (ftz : Bool) (a b c : Nat) : CF :=
  let (x, f1) := fMax ftz a b
  let (y, f2) := fMin ftz x c
  (y, f1 ||| f2)

/-- ABS and NEG (R86): a sign change; a NaN gives the canonical NaN. -/
def fAbs (ftz : Bool) (a : Nat) : CF := let (x, f) := rd32 ftz a; (enc32 x.abs, f)
def fNeg (ftz : Bool) (a : Nat) : CF := let (x, f) := rd32 ftz a; (enc32 x.neg, f)
/-- SEL (R86). -/
def fSel (_ftz : Bool) (a b c : Nat) : CF := (if (decodeF fmtFP32 a).isZero then c else b, 0)
/-- CVT (R86). -/
def fCvt (_ftz : Bool) (a : Nat) : CF := (a, 0)

/-- The relations of CMP (R86): 0 eq, 1 ne, 2 lt, 3 le, 4 gt, 5 ge, on two FP32 values. -/
def relHolds (rel : Nat) (a b : FV) : Bool :=
  if a.isNan || b.isNan then rel == 1
  else
    let o := FV.cmp a b
    match rel with
    | 0 => o == .eq
    | 1 => o != .eq
    | 2 => o == .lt
    | 3 => o != .gt
    | 4 => o == .gt
    | _ => o != .lt

def fCmp (rel : Nat) (ftz : Bool) (a b : Nat) : CF :=
  let (x, f1) := rd32 ftz a
  let (y, f2) := rd32 ftz b
  (b2n (relHolds rel x y), f1 ||| f2)

/-! ## Integer operations (R87) -/

def i32max : Int := 2147483647
def i32min : Int := -2147483648
/-- Saturation at bounds, with overflow and inexact. -/
def satInt (lo hi x : Int) : Int × Nat := if x > hi then (hi, fOverflow ||| fInexact) else if x < lo then (lo, fOverflow ||| fInexact) else (x, 0)
def iAdd (a b : Int) : Int × Nat := satInt i32min i32max (a + b)
def iSub (a b : Int) : Int × Nat := satInt i32min i32max (a - b)
def iMin (a b : Int) : Int × Nat := (min a b, 0)
def iMax (a b : Int) : Int × Nat := (max a b, 0)
/-- A bitwise operation on 32-bit patterns. -/
def iBits (g : Nat → Nat → Nat) (a b : Int) : Int × Nat := (sext 32 (g (wrap 32 a) (wrap 32 b)), 0)
def iShl (a b : Int) : Int × Nat := (sext 32 (wrap 32 a <<< (wrap 32 b % 32)), 0)
def iShr (a b : Int) : Int × Nat := (a / (2 ^ (wrap 32 b % 32) : Int), 0)

/-- An integer result in INT32, INT8 or U8. -/
def narrow (fmt : Nat) (x : Int × Nat) : CF :=
  match fmt with
  | 0x20 => let (v, f) := satInt (-128) 127 x.1; (wrap 8 v, x.2 ||| f)
  | 0x22 => let (v, f) := satInt 0 255 x.1; (wrap 8 v, x.2 ||| f)
  | _ => (wrap 32 x.1, x.2)

/-! ## Reductions (R89, R101) -/

/-- FP32 constants. -/
def pInf32 : Nat := 0x7F800000
def nInf32 : Nat := 0xFF800000
def one32 : Nat := 0x3F800000
/-- An integer below 2^24 as FP32, exactly. -/
def nat32 (n : Nat) : Nat := enc32 (.num false n 0)

inductive Red where
  | max | min | sum | ssq
  deriving DecidableEq, Repr

/-- A left-to-right reduction. -/
def foldCF (g : Nat → Nat → CF) (s : CF) (xs : List Nat) : CF := xs.foldl (fun a x => let (c, f) := g a.1 x; (c, a.2 ||| f)) s

/-- One row reduced in ascending order. -/
def reduceRow (r : Red) (ftz : Bool) : List Nat → CF
  | [] => (match r with
      | .max => nInf32
      | .min => pInf32
      | _ => 0, 0)
  | x :: xs => match r with
    | .max => foldCF (fMax ftz) (x, 0) xs
    | .min => foldCF (fMin ftz) (x, 0) xs
    | .sum => foldCF (fAdd ftz) (x, 0) xs
    | .ssq => foldCF (fun s y => fFma ftz y y s) (fMul ftz x x) xs

/-! ## Output -/

/-- An FP32 value converted to the output format (R48, R88). -/
def outCode (fmt : Nat) (ftz nanOv : Bool) (x : CF) : CF :=
  let (c, f) := convertOut fmt ftz nanOv (decodeF fmtFP32 x.1).toXR
  (c, x.2 ||| f)

/-- An exact result rounded once to the output format; invalid where it is a NaN that no operand held (`round_out`). -/
def outExact (fmt : Nat) (ftz nanOv anyNan : Bool) (x : XR) : CF :=
  let (c, f) := convertOut fmt ftz nanOv x
  (c, f ||| flagIf (x.isNan && !anyNan) fInvalid)

/-- FP32 sum of two exact products, one rounding (R90). -/
def sumProd (ftz : Bool) (a b : Nat) (neg : Bool) (c d : Nat) : CF :=
  let (x, f1) := rd32 ftz a
  let (y, f2) := rd32 ftz b
  let (z, f3) := rd32 ftz c
  let (u, f4) := rd32 ftz d
  let q := z.mul u
  let (r, f5) := fin32 ftz (x.isNan || y.isNan || z.isNan || u.isNan) ((x.mul y).add (if neg then q.neg else q))
  (r, f1 ||| f2 ||| f3 ||| f4 ||| f5)

def flagsOf (l : List CF) : Nat := l.foldl (fun a x => a ||| x.2) 0

/-! ## Rotary embedding (R90) -/

/-- cos and sin of a position and a frequency. -/
def ropeAngle (T : Nat → FV → XR) (ftz : Bool) (p f : Nat) : CF × CF :=
  let u := sext 32 (p * f)
  let (r, f0) := fin32 ftz false ((intXR u (-31)).times (f32 0x40490FDB).toXR)
  let (c, f1) := sfu32 T ftz .cos r
  let (s, f2) := sfu32 T ftz .sin r
  ((c, f0 ||| f1), (s, f2))

/-- Rotated FP32 values of columns below dr: (column, value). -/
def ropeRow (T : Nat → FV → XR) (ftz half : Bool) (dr pos : Nat) (freq xs : List Nat) : List (Nat × CF) :=
  (List.range (dr / 2)).flatMap fun i =>
    let a := if half then i else 2 * i
    let b := if half then i + dr / 2 else 2 * i + 1
    let (c, s) := ropeAngle T ftz pos (lget 0 freq i)
    let xa := lget 0 xs a
    let xb := lget 0 xs b
    let fl := c.2 ||| s.2
    let ya := sumProd ftz xa c.1 true xb s.1
    let yb := sumProd ftz xa s.1 false xb c.1
    [(a, (ya.1, ya.2 ||| fl)), (b, (yb.1, yb.2 ||| fl))]

/-! ## Top-k (R93) -/

/-- One value ranks strictly before another: NaN first, then by value with −0 below +0, then the lower column. -/
def ranksBefore (small : Bool) (a b : FV × Nat) : Bool :=
  match a.1.isNan, b.1.isNan with
  | true, true => decide (a.2 < b.2)
  | true, false => true
  | false, true => false
  | false, false =>
    match FV.cmp a.1 b.1 with
    | .lt => small
    | .gt => !small
    | .eq => if a.1.isZero && a.1.sign != b.1.sign then (if small then a.1.sign else b.1.sign) else decide (a.2 < b.2)

def insertRank (small : Bool) (x : FV × Nat) : List (FV × Nat) → List (FV × Nat)
  | [] => [x]
  | y :: l => if ranksBefore small x y then x :: y :: l else y :: insertRank small x l

/-- The k first of a row's candidates in rank order. -/
def topK (small : Bool) (k : Nat) (l : List (FV × Nat)) : List (FV × Nat) := (l.foldl (fun acc x => insertRank small x acc) []).take k

/-! ## Soft maximum (R131, R132) -/

/-- The flags of the edge cases of R132: 1, invalid where forming a NaN created it; 2, none; 3, those of rounding 1/k. Beside them the forming of z raises
no flag. -/
def nanFlags (kept : List CF) : Nat := flagsOf (kept.filter fun z => (decodeF fmtFP32 z.1).isNan) &&& fInvalid

/-- One row: FP32 scores, the scale, which columns are kept, and the additive terms. The outputs, the log-sum-exp and the flags: of scores and terms those
of kept columns alone, where z is formed. -/
def softmaxRow (T : Nat → FV → XR) (fmt : Nat) (ftz nanOv : Bool) (s : Nat) (xs : List CF) (keep : List Bool) (adds : Option (List CF)) :
    List Nat × Nat × Nat :=
  let z0 : List CF := xs.map fun x => let (c, f) := fMul ftz s x.1; (c, x.2 ||| f)
  let zs : List CF := match adds with
    | none => z0
    | some l => List.zipWith (fun z a => let (c, f) := fAdd ftz z.1 a.1; (c, z.2 ||| a.2 ||| f)) z0 l
  let kz : List (CF × Bool) := zs.zip keep
  let kept := (kz.filter Prod.snd).map Prod.fst
  let zf := flagsOf kept
  let vals := kept.map fun z => decodeF fmtFP32 z.1
  let nought := (convertOut fmt ftz nanOv (intXR 0 0)).1
  if vals.any FV.isNan then (xs.map fun _ => (convertOut fmt ftz nanOv .nan).1, fmtFP32.nan, nanFlags kept)
  else if vals.all fun v => v.isInf && v.sign then (xs.map fun _ => nought, nInf32, 0)
  else
    let k := (vals.filter fun v => v.isInf && !v.sign).length
    if k ≥ 1 then
      let (y, f) := convertOut fmt ftz nanOv (.num false 1 k 0)
      (kz.map fun (z, b) => if b && z.1 == pInf32 then y else nought, pInf32, f)
    else
      let (m, fm) := reduceRow .max ftz (kept.map Prod.fst)
      let es := kz.map fun (z, b) =>
        if b then let (dlt, f1) := fSub ftz z.1 m; let (e, f2) := sfu32 T ftz .exp dlt; (some e, f1 ||| f2) else (none, 0)
      let ef := es.foldl (fun a x => a ||| x.2) 0
      let (sum, fs) := foldCF (fAdd ftz) (0, 0) (es.filterMap Prod.fst)
      let (rc, fr) := sfu32 T ftz .rcp sum
      let ys := es.map fun (e, _) => match e with
        | none => (nought, 0)
        | some e =>
          let (a, f1) := rd32 ftz e
          let (b, f2) := rd32 ftz rc
          let (c, f3) := outExact fmt ftz nanOv (a.isNan || b.isNan) (a.mul b)
          (c, f1 ||| f2 ||| f3)
      let (ln, fl) := sfu32 T ftz .ln sum
      let (lse, f5) := fAdd ftz m ln
      (ys.map Prod.fst, lse, zf ||| fm ||| ef ||| fs ||| fr ||| flagsOf ys ||| fl ||| f5)

/-! ## Normalisation (R134, R135) -/

/-- An exact product of two FP32 values rounded once to the output. -/
def outMul (fmt : Nat) (ftz nanOv : Bool) (a b : Nat) : CF :=
  let (x, f1) := rd32 ftz a
  let (y, f2) := rd32 ftz b
  let (c, f3) := outExact fmt ftz nanOv (x.isNan || y.isNan) (x.mul y)
  (c, f1 ||| f2 ||| f3)
/-- a × b + c rounded once to the output. -/
def outFma (fmt : Nat) (ftz nanOv : Bool) (a b c : Nat) : CF :=
  let (x, f1) := rd32 ftz a
  let (y, f2) := rd32 ftz b
  let (z, f3) := rd32 ftz c
  let (r, f4) := outExact fmt ftz nanOv (x.isNan || y.isNan || z.isNan) ((x.mul y).add z.toXR)
  (r, f1 ||| f2 ||| f3 ||| f4)

/-- rsqrt(rne(rne(ss / n) + eps)). -/
def normQ (T : Nat → FV → XR) (ftz : Bool) (ss n eps : Nat) : CF :=
  let (ms, f1) := fDiv ftz ss (nat32 n)
  let (v, f2) := fAdd ftz ms eps
  let (q, f3) := sfu32 T ftz .rsqrt v
  (q, f1 ||| f2 ||| f3)

/-- One row in RMS form. -/
def rmsRow (T : Nat → FV → XR) (fmt : Nat) (ftz nanOv : Bool) (eps : Nat) (xs : List Nat) (g : Option (List Nat)) : List Nat × Nat :=
  let (ss, f0) := reduceRow .ssq ftz xs
  let (q, f1) := normQ T ftz ss xs.length eps
  let ys := xs.zipIdx.map fun (x, j) => match g with
    | none => outMul fmt ftz nanOv x q
    | some g => let (t, f) := fMul ftz x q; let (y, f') := outMul fmt ftz nanOv t (lget 0 g j); (y, f ||| f')
  (ys.map Prod.fst, f0 ||| f1 ||| flagsOf ys)

/-- One row in layer form. -/
def layerRow (T : Nat → FV → XR) (fmt : Nat) (ftz nanOv : Bool) (eps : Nat) (xs : List Nat) (g b : Option (List Nat)) : List Nat × Nat :=
  let (sm, f0) := reduceRow .sum ftz xs
  let (mu, f1) := fDiv ftz sm (nat32 xs.length)
  let ds := xs.map fun x => fSub ftz x mu
  let (ss, f2) := reduceRow .ssq ftz (ds.map Prod.fst)
  let (q, f3) := normQ T ftz ss xs.length eps
  let ys := ds.zipIdx.map fun (x, j) => match g, b with
    | none, none => outMul fmt ftz nanOv x.1 q
    | some g, none => let (t, f) := fMul ftz x.1 q; let (y, f') := outMul fmt ftz nanOv t (lget 0 g j); (y, f ||| f')
    | none, some b => let (t, f) := fMul ftz x.1 q; let (y, f') := outFma fmt ftz nanOv t one32 (lget 0 b j); (y, f ||| f')
    | some g, some b => let (t, f) := fMul ftz x.1 q; let (y, f') := outFma fmt ftz nanOv t (lget 0 g j) (lget 0 b j); (y, f ||| f')
  (ys.map Prod.fst, f0 ||| f1 ||| flagsOf ds ||| f2 ||| f3 ||| flagsOf ys)

/-! ## The transform unit (R104 to R106) -/

/-- Sign bits of R105: true for −1. -/
def lfsrSigns : Nat → Nat → List Bool
  | 0, _ => []
  | n + 1, s => (s % 2 == 1) :: lfsrSigns n (if s % 2 = 1 then (s / 2) ^^^ 0xD800000000000000 else s / 2)

/-- One butterfly stage at distance 2^t. -/
def butterfly (ftz : Bool) (t : Nat) (z : List CF) : List CF :=
  let n := 2 ^ t
  z.zipIdx.map fun (x, j) =>
    if j.testBit t then let y := lget (0, 0) z (j - n); let (c, f) := fSub ftz y.1 x.1; (c, x.2 ||| f)
    else let y := lget (0, 0) z (j + n); let (c, f) := fAdd ftz x.1 y.1; (c, x.2 ||| f)

/-- FP32 multiplication by a power of two. -/
def scale2 (ftz : Bool) (k : Int) (x : CF) : CF :=
  let (v, f1) := rd32 ftz x.1
  let (c, f2) := fin32 ftz v.isNan (v.toXR.scale k)
  (c, x.2 ||| f1 ||| f2)

def applySign (neg : Bool) (x : CF) : CF := if neg then (enc32 (decodeF fmtFP32 x.1).neg, x.2) else x

/-- Rotation of one segment (R106). -/
def rotateSeg (ftz : Bool) (n : Nat) (inv : Bool) (signs : List Bool) (z : List CF) : List CF :=
  let l := n.log2
  let h : Int := if n = 32 then 2 else 3
  let z := if inv then z else List.zipWith applySign signs z
  let z := (List.range l).foldl (fun z t => butterfly ftz t z) z
  let z := if inv then List.zipWith applySign signs z else z
  z.map (scale2 ftz (if inv then h - l else -h))

end Sys2Proof.Machine
end

