-- ==== Sys2Proof/Machine/Vector.lean ====
section
/-! DEFINITION. Vector steps and the transform unit (R81 to R106, R107, R130 to R136, R175 to R177). -/

namespace Sys2Proof.Machine

/-- The fields of a VECTOR step (R175). -/
structure VStep where
  src0 : Nat
  src1 : Nat
  src2 : Nat
  dst : Nat
  dst2 : Nat
  cmax : Nat
  imm : Nat
  p : Nat
  tr : Nat
  tc : Nat
  outFmt : Nat
  e4nan : Bool
  x : Nat
  deriving DecidableEq, Repr

def vstepOf (b : Bytes) : VStep :=
  let v := fld b 0x1C 4
  { src0 := fld b 8 2, src1 := fld b 0xA 2, src2 := fld b 0xC 2, dst := fld b 0xE 2, dst2 := fld b 0x10 2, cmax := fld b 0x12 2 + 1,
    imm := fld b 0x14 4, p := fld b 0x18 4, tr := bits v 5 0 + 1, tc := bits v 11 6 + 1, outFmt := bits v 17 12, e4nan := v.testBit 18,
    x := bits v 26 19 }

/-- Op flags X of a VECTOR step. -/
def stepX (b : Bytes) : Nat := (vstepOf b).x

/-- A step as its engine sees it: the state when it was issued, its polder, job, logical die and engine, its fields, FTZ, rows and columns. -/
structure VC where
  w : W
  p : Nat
  j : Job
  d : Nat
  e : Nat
  st : VStep
  ftz : Bool
  rows : Nat
  cols : Nat

def VC.tile (c : VC) (i : Nat) : Tile := c.w.tile c.j c.d i
/-- Function-table bank that is ACTIVE on the engine (R112). -/
def Dev.fnActive (d : Dev) (s e : Nat) : Nat := if (d.bank (fnBank s e 0)).st = 4 then fnBank s e 0 else fnBank s e 1
def VC.bank (c : VC) : Bank := c.w.d.bank (c.w.d.fnActive (c.j.site c.d) c.e)
/-- T_s of the active bank's flavour (R120). -/
def VC.T (c : VC) (k : Nat) (r : FV) : XR := tabVal c.w.d.sec.tables c.bank.flavour k r

/-- Elements of row `r` of a source over the region, broadcast as its shape requires (R82, R182): each column of the tile, or one for all. -/
def spread {α : Type} (cols : Nat) (l : List α) : List α :=
  match l with
  | [a] => List.replicate cols a
  | l => l

/-- Codes of row `r` of a source descriptor; a one-row source serves every row. -/
def VC.codes (c : VC) (i r : Nat) : Except StepErr (List Nat) :=
  let t := c.tile i
  (c.w.rowCodes c.p c.j t (if t.rows = 1 then 0 else r)).map (spread c.cols)

/-- A float source widened to FP32 (R86), IMM included. -/
def VC.floats (c : VC) (i r : Nat) : Except StepErr (List CF) :=
  if i = 0xFFFE then .ok (List.replicate c.cols (let (v, f) := rd32 c.ftz c.st.imm; (enc32 v, f)))
  else (c.codes i r).map fun l => l.map (widenCode (c.tile i).f c.ftz)

/-- A U8 or BIT1 mask: nonzero keeps an element; an absent one keeps all. -/
def VC.mask (c : VC) (i r : Nat) : Except StepErr (List Bool) :=
  if i = 0xFFFF then .ok (List.replicate c.cols true) else (c.codes i r).map fun l => l.map (· != 0)

/-- What a step does: the bytes it writes, in order, its flags, and the fault that ends it (R91, R138). -/
structure VOut where
  writes : List (Nat × Bytes) := []
  flags : Nat := 0
  err : Option StepErr := none

/-- The write of a whole destination row. -/
def VC.put (c : VC) (i r : Nat) (codes : List Nat) : Nat × Bytes :=
  let t := c.tile i
  (c.j.rowAddr t r, pack t.f.w codes)

/-- What one tile adds: a tile that is refused writes nothing, the tiles before it stand, and none follows it (R81, R91, R138). -/
def VOut.add (o : VOut) (tile : Unit → Except StepErr (List (Nat × Bytes) × Nat)) : VOut :=
  if o.err.isSome then o
  else match tile () with
    | .error e => { o with err := some e }
    | .ok (ws, fl) => { o with writes := o.writes ++ ws, flags := o.flags ||| fl }

/-- The writes of the rows of one row tile, each row's region-shaped write first, in the order of the column tiles, `n` bits wide each (R81). -/
def colTiles (n : Nat) (rows : List (List (Nat × Bytes))) : List (Nat × Bytes) :=
  let cut (k : Nat) (x : Nat × Bytes) : Nat × Bytes := (x.1 + k * n / 8, slice x.2 (k * n / 8) ((k + 1) * n / 8 - k * n / 8))
  let tiles := rows.foldl (fun m l => max m (ceilDiv ((l.headD (0, [])).2.length * 8) (max 1 n))) 0
  ((List.range tiles).flatMap fun k => (rows.flatMap fun l => (l.take 1).map (cut k)).filter fun x => !x.2.isEmpty) ++ rows.flatMap (·.drop 1)

/-- Row tiles in ascending order (R81), of rows that are independent; `n` is the width of a column tile in bits. -/
def rowTiles (tr rows n : Nat) (fn : Nat → Except StepErr (List (Nat × Bytes) × Nat)) : VOut :=
  (chunksOf tr (ceilDiv rows tr) (List.range rows)).foldl (fun o tile => o.add fun _ =>
    (tile.mapM fn).map fun rs => (colTiles n (rs.map Prod.fst), rs.foldl (fun a x => a ||| x.2) 0)) {}

/-- A step whose rows are independent. -/
def VC.byRow (c : VC) (fn : Nat → Except StepErr (List (Nat × Bytes) × Nat)) : VOut :=
  rowTiles c.st.tr c.rows (c.st.tc * (c.tile c.st.dst).f.w) fn

/-- A step whose elements are independent: `fn` gives a row's elements in order, as far as its sources can be read, and what stops the reading. Every
tile whose sources could be read stands (R81, R138). -/
def VC.byEl (c : VC) (fn : Nat → List CF × Option StepErr) : VOut :=
  (chunksOf c.st.tr (ceilDiv c.rows c.st.tr) (List.range c.rows)).foldl (fun o tile =>
    let rows := tile.map fun r => (r, fn r)
    (List.range (ceilDiv c.cols c.st.tc)).foldl (fun o k => o.add fun _ => do
      let ps ← rows.mapM fun (r, ys, e) =>
        let l := (ys.drop (k * c.st.tc)).take c.st.tc
        match e with
        | some e => if l.length < min c.st.tc (c.cols - k * c.st.tc) then .error e else .ok (r, l)
        | none => .ok (r, l)
      .ok (ps.map fun (r, l) => let (a, bs) := c.put c.st.dst r (l.map Prod.fst); (a + k * c.st.tc * (c.tile c.st.dst).f.w / 8, bs),
        ps.foldl (fun f x => f ||| flagsOf x.2) 0)) o) {}

/-- The effect of a step that has run: flags, writes, and then what follows them. -/
def W.vecApply (w : W) (p d q : Nat) (o : VOut) (after : W → W) : W :=
  match (w.raiseFlags p d q o.flags).putAll p o.writes with
  | (w, some e) => w.stepFault p d q e.status e.detail
  | (w, none) => match o.err with
    | some e => w.stepFault p d q e.status e.detail
    | none => after w

/-- A VECTOR step that `want` accepts, on the region that `region` names: `pre` is checked when it is issued, then the count, then it runs (R96,
R127, R170). -/
def W.vecStep (w : W) (p d e : Nat) (fx : MemFx) (want : Bytes → Bool) (body : VC → VOut) (region : VStep → Nat := (·.src0))
    (pre : VC → Option StepErr := fun _ => none) (after : VC → W → W := fun _ w => w) : W :=
  w.issue p d (8 + e) (fun b => stepKind b == 2 && want b && decide (e < 2)) fun w j b =>
    let st := vstepOf b
    let i := region st
    let (rows, cols) := if i ≥ 0xFFFE then (1, 1) else let t := w.tile j d i; (t.rows, t.cols)
    let c : VC := { w := w, p := p, j := j, d := d, e := e, st := st, ftz := j.ftzOf 1, rows := rows, cols := cols }
    match pre c with
    | some er => w.stepFault p d (8 + e) er.status er.detail
    | none =>
      match w.rowsOf j d b rows st.cmax with
      | .error s => w.stepFault p d (8 + e) s 0
      | .ok 0 => w.releaseStep p d (8 + e)
      | .ok n =>
        if !w.ownTiles j d [st.src0, st.src1, st.src2, st.dst, st.dst2] then w.stepFault p d (8 + e) stADDRESS_FAULT dNOT_OWNER
        else w.withFx p d (8 + e) fx fun w =>
        let c := { c with w := w, rows := n }
        w.vecApply p d (8 + e) (body c) (after c)

/-! ## Element-wise steps (R86 to R88) -/

/-- Codes of row `r` of a source descriptor as far as they can be read, and what stops the reading. -/
def VC.codesTo (c : VC) (i r : Nat) : List Nat × Option StepErr :=
  let t := c.tile i
  let (bs, e) := c.w.readTo c.p c.j t (c.j.rowAddr t (if t.rows = 1 then 0 else r)) t.rowLen
  let l := unpack t.f.w (min t.cols (bs.length * 8 / t.f.w)) bs
  (if t.cols = 1 then l.flatMap (List.replicate c.cols) else l, e)

/-- `codesTo` of a source in which IMM may stand, as `lift` reads an element and `imm` the immediate. -/
def VC.elsTo {α : Type} (c : VC) (imm : α) (lift : Fmt → Nat → α) (i r : Nat) : List α × Option StepErr :=
  if i = 0xFFFE then (List.replicate c.cols imm, none) else let (l, e) := c.codesTo i r; (l.map (lift (c.tile i).f), e)

/-- The elements of several sources side by side, as far as all of them can be read. -/
def sideBySide {α : Type} (d : α) (cols : Nat) (ls : List (List α × Option StepErr)) : List (List α) × Option StepErr :=
  let n := ls.foldl (fun m l => min m l.1.length) cols
  ((List.range n).map fun k => ls.map fun l => lget d l.1 k, (ls.find? fun l => l.2.isSome && l.1.length == n).bind Prod.snd)

/-- A float element-wise step of `n` sources. -/
def VC.ew (n : Nat) (g : Bool → List Nat → CF) (out : Nat → Bool → Bool → CF → CF := outCode) (c : VC) : VOut :=
  c.byEl fun r =>
    let imm : CF := let (v, f) := rd32 c.ftz c.st.imm; (enc32 v, f)
    let (ls, e) := sideBySide (0, 0) c.cols (([c.st.src0, c.st.src1, c.st.src2].take n).map fun i => c.elsTo imm (widenCode · c.ftz) i r)
    (ls.map fun xs =>
      let (v, f) := g c.ftz (xs.map Prod.fst)
      out c.st.outFmt c.ftz c.st.e4nan (v, f ||| flagsOf xs), e)

/-- CMP writes its U8 result as it is. -/
def outMask (_ : Nat) (_ _ : Bool) (x : CF) : CF := x

/-- An integer element-wise step. -/
def VC.iw (g : Int → Int → Int × Nat) (c : VC) : VOut :=
  c.byEl fun r =>
    let (ls, e) := sideBySide 0 c.cols ([c.st.src0, c.st.src1].map fun i => c.elsTo (sext 32 c.st.imm) intCode i r)
    (ls.map fun xs => narrow c.st.outFmt (g (lget 0 xs 0) (lget 0 xs 1)), e)

def W.ewStep (w : W) (op n : Nat) (g : Bool → List Nat → CF) (p d e : Nat) (fx : MemFx) : W :=
  w.vecStep p d e fx (fun b => stepOp b == op) (VC.ew n g)
def W.cmpStep (w : W) (rel : Nat) (p d e : Nat) (fx : MemFx) : W :=
  w.vecStep p d e fx (fun b => stepOp b == 0x0A && stepX b % 8 == rel) (VC.ew 2 (bin (fCmp rel)) outMask)
def W.iwStep (w : W) (op : Nat) (g : Int → Int → Int × Nat) (p d e : Nat) (fx : MemFx) : W :=
  w.vecStep p d e fx (fun b => stepOp b == op) (VC.iw g)

/-! ## Special functions (R107 to R116) -/

/-- A unary function of the widened input whose exact result is rounded once to the output. -/
def VC.unary (g : FV → XR × Nat) (c : VC) : VOut :=
  c.byRow fun r => do
    let xs ← c.floats c.st.src0 r
    let ys : List CF := xs.map (sfuEl g c.st.outFmt c.ftz c.st.e4nan)
    .ok ([c.put c.st.dst r (ys.map Prod.fst)], flagsOf ys)

def W.sfuStep (w : W) (op : Nat) (fn : Fn) (p d e : Nat) (fx : MemFx) : W :=
  w.vecStep p d e fx (fun b => stepOp b == op) fun c => c.unary (sfu c.T fn)

/-- USERn (R116, R127): slot 11 + n of the bound bank. -/
def W.userStep (w : W) (p d e : Nat) (fx : MemFx) : W :=
  let slot (c : VC) : Nat := 11 + (stepOp (c.w.stepBytes c.j c.j.seg d (8 + e) (c.j.queue d (8 + e)).pos) - 0x30)
  w.vecStep p d e fx (fun b => decide (0x30 ≤ stepOp b ∧ stepOp b ≤ 0x34))
    (fun c => c.unary (userSlot (tget [] c.bank.user (slot c))).eval)
    (pre := fun c => if c.bank.user.any (·.1 == slot c) then none else some { status := stTABLE_SLOT_EMPTY })

/-! ## Rows (R89 to R93, R130 to R136) -/

/-- Elements of a list whose mask is set. -/
def keepOnly {α : Type} (l : List α) (m : List Bool) : List α := ((l.zip m).filter Prod.snd).map Prod.fst

def VC.reduce (k : Red) (c : VC) : VOut :=
  c.byRow fun r => do
    let xs ← c.floats c.st.src0 r
    let m ← c.mask c.st.src1 r
    let l := keepOnly xs m
    let (v, f) := reduceRow k c.ftz (l.map Prod.fst)
    let (o, f') := outCode c.st.outFmt c.ftz c.st.e4nan (v, f ||| flagsOf l)
    .ok ([c.put c.st.dst r [o]], f')

def W.redStep (w : W) (op : Nat) (k : Red) (p d e : Nat) (fx : MemFx) : W := w.vecStep p d e fx (fun b => stepOp b == op) (VC.reduce k)

/-- An optional row operand. -/
def VC.optRow (c : VC) (i r : Nat) : Except StepErr (Option (List Nat) × Nat) :=
  if i = 0xFFFF then .ok (none, 0) else (c.floats i r).map fun l => (some (l.map Prod.fst), flagsOf l)

def VC.norm (layer : Bool) (c : VC) : VOut :=
  c.byRow fun r => do
    let xs ← c.floats c.st.src0 r
    let (g, fg) ← c.optRow c.st.src1 r
    let (b, fb) ← if layer then c.optRow c.st.src2 r else .ok (none, 0)
    let (ys, f) := if layer then layerRow c.T c.st.outFmt c.ftz c.st.e4nan c.st.imm (xs.map Prod.fst) g b
      else rmsRow c.T c.st.outFmt c.ftz c.st.e4nan c.st.imm (xs.map Prod.fst) g
    .ok ([c.put c.st.dst r ys], f ||| flagsOf xs ||| fg ||| fb)

/-- SOFTMAX (R130): mkind in X [1:0], causal in X [2], qoff in P. DST2 may be absent, and no log-sum-exp is written then (DESIGN CHOICE, entry 52: R130
calls src2 alone optional, and R175 lets DST2 be 0xFFFF). -/
def VC.softmax (c : VC) : VOut :=
  c.byRow fun r => do
    let xs ← c.floats c.st.src0 r
    let mk := c.st.x % 4
    let m ← if mk = 1 then c.mask c.st.src1 r else .ok (List.replicate c.cols true)
    let adds ← if mk = 2 then (c.floats c.st.src1 r).map some else .ok none
    let lim ← if c.st.src2 = 0xFFFF then .ok none else (c.codes c.st.src2 r).map fun l => some (lget 0 l 0)
    let keep := m.zipIdx.map fun (b, k) =>
      b && !(c.st.x.testBit 2 && decide ((k : Int) > sext 32 c.st.p + r)) && (match lim with
        | some n => decide (k < n)
        | none => true)
    let (ys, lse, f) := softmaxRow c.T c.st.outFmt c.ftz c.st.e4nan c.st.imm xs keep adds
    .ok (c.put c.st.dst r ys :: (if c.st.dst2 = 0xFFFF then [] else [c.put c.st.dst2 r [lse]]), f)

/-- ROPE (R90): dr in P, layout in X [0]; columns at or above dr are copied unchanged. -/
def VC.rope (c : VC) : VOut :=
  c.byRow fun r => do
    let raw ← c.codes c.st.src0 r
    let xs ← c.floats c.st.src0 r
    let pos ← c.codes c.st.src1 r
    let freq ← c.codes c.st.src2 r
    let rot := (ropeRow c.T c.ftz (c.st.x.testBit 0) c.st.p (lget 0 pos 0) freq (xs.map Prod.fst)).map fun (k, y) =>
      (k, outCode c.st.outFmt c.ftz c.st.e4nan y)
    let same := (c.tile c.st.src0).fmt == c.st.outFmt
    let ys : List CF := (raw.zip xs).zipIdx.map fun ((code, x), k) =>
      if k < c.st.p then ((rot.find? (·.1 == k)).map Prod.snd).getD (0, 0) |> fun y => (y.1, y.2 ||| x.2)
      else if same then (code, 0) else outCode c.st.outFmt c.ftz c.st.e4nan x
    .ok ([c.put c.st.dst r (ys.map Prod.fst)], flagsOf ys)

/-- TOPK (R93): k − 1 in P, dir in X [0]. -/
def VC.topk (c : VC) : VOut :=
  c.byRow fun r => do
    let xs ← c.floats c.st.src0 r
    let m ← c.mask c.st.src1 r
    let cand := (keepOnly (xs.zipIdx) m).map fun (x, i) => (decodeF fmtFP32 x.1, i)
    let k := bits c.st.p 9 0 + 1
    let best := topK (c.st.x.testBit 0) k cand
    let ys := (best.map fun (v, _) => outCode c.st.outFmt c.ftz c.st.e4nan (enc32 v, 0)) ++
      List.replicate (k - best.length) (outCode c.st.outFmt c.ftz c.st.e4nan (nInf32, 0))
    let ix := best.map Prod.snd ++ List.replicate (k - best.length) 0xFFFFFFFF
    .ok ([c.put c.st.dst r (ys.map Prod.fst), c.put c.st.dst2 r ix], flagsOf ys ||| flagsOf xs)

/-! ## Gather and scatter (R91, R92, R98) -/

/-- Bytes of a row with its scale row, as address and contents (R35). A GS row moves its codes alone: the group size that says where its scales lie is no
field of these steps (DESIGN CHOICE, entry 30). -/
def VC.rawRow (c : VC) (t : Tile) (r : Nat) : Except StepErr (Bytes × Bytes) := do
  let b ← c.w.readTile c.p c.j t (c.j.rowAddr t r) t.rowLen
  let s ← if t.f.blk ≠ 0 then c.w.readTile c.p c.j t (c.j.scaleAddr t r) (t.scaleLen 0) else .ok []
  .ok (b, s)
def VC.putRaw (c : VC) (t : Tile) (r : Nat) (x : Bytes × Bytes) : List (Nat × Bytes) :=
  (c.j.rowAddr t r, x.1) :: (if x.2.isEmpty then [] else [(c.j.scaleAddr t r, x.2)])

/-- Index `v` of an INT32 source lies in [0, L). -/
def inWindow (v L : Nat) : Bool := decide (v < 2 ^ 31 ∧ v < L)

def indexErr : StepErr := { status := stINDEX_RANGE }

/-- Row-mode movement (R91, R98): tile by tile, every index is checked, then `mv` gives each row's writes. -/
def VC.moveRows (c : VC) (L : Nat) (mv : Nat → Nat → Except StepErr (List (Nat × Bytes))) : VOut :=
  c.byRow fun r => do
    let ix ← c.codes c.st.src1 r
    let i := lget 0 ix 0
    if inWindow i L then (mv r i).map fun l => (l, 0) else .error indexErr

/-- Rows that are complete, and columns complete in the next row tile, when an index is out of range (R91). -/
def tilesDone (tr tc : Nat) (bad : List (List Bool)) : Nat × Nat × Bool :=
  match bad.findIdx? fun l => l.any id with
  | none => (bad.length, 0, false)
  | some r =>
    let r0 := r / tr * tr
    let cols := ((bad.drop r0).take tr).map fun l => (l.findIdx? id).getD l.length
    (r0, (cols.foldl min (cols.headD 0)) / tc * tc, true)

/-- Element (r, k) of the region is in a complete tile. -/
def doneAt (tr : Nat) (x : Nat × Nat × Bool) (r k : Nat) : Bool := decide (r < x.1) || (x.2.2 && decide (r < x.1 + tr ∧ k < x.2.1))

/-- Code of element `i` of a window, in row-major order. In element mode a block format moves its codes alone (DESIGN CHOICE, entry 30: one scale byte
serves a whole block). -/
def VC.elem (c : VC) (t : Tile) (i : Nat) : Except StepErr Nat :=
  (c.w.rowCodes c.p c.j t (i / t.cols)).map fun l => lget 0 l (i % t.cols)

def VC.gatherEl (c : VC) : VOut :=
  let win := c.tile c.st.src0
  let L := win.rows * win.cols
  match (List.range c.rows).mapM fun r => c.codes c.st.src1 r with
  | .error e => { err := some e }
  | .ok ix =>
    let done := tilesDone c.st.tr c.st.tc (ix.map fun l => l.map fun v => !inWindow v L)
    let dt := c.tile c.st.dst
    let rows := (ix.zipIdx).mapM fun (l, r) => do
      let old ← c.w.rowCodes c.p c.j dt r
      let new ← (l.zipIdx).mapM fun (v, k) => if doneAt c.st.tr done r k then c.elem win v else .ok (lget 0 old k)
      .ok (r, new)
    match rows with
    | .error e => { err := some e }
    | .ok rows =>
      { writes := (rows.filter fun (r, _) => doneAt c.st.tr done r 0).map fun (r, l) => c.put c.st.dst r l
        err := if done.2.2 then some indexErr else none }

/-- SCATTER in element mode, and scatter-add (R92): in row-major order over the complete tiles, `upd` giving the new code. -/
def VC.scatterEl (upd : Bool → Nat → Nat → CF) (c : VC) : VOut :=
  let win := c.tile c.st.dst
  let L := win.rows * win.cols
  let got : Except StepErr (List (List Nat × List Nat)) :=
    (List.range c.rows).mapM fun r => do .ok (← c.codes c.st.src1 r, ← c.codes c.st.src0 r)
  match got with
  | .error e => { err := some e }
  | .ok rows =>
    let done := tilesDone c.st.tr c.st.tc (rows.map fun x => x.1.map fun v => !inWindow v L)
    let l := (rows.zipIdx).flatMap fun (x, r) => ((x.1.zip x.2).zipIdx).filterMap fun ((i, v), k) =>
      if doneAt c.st.tr done r k then some (i, v) else none
    let res := l.foldlM (fun (a : Tab Nat × Nat) (x : Nat × Nat) => do
      let old ← match tfind a.1 x.1 with
        | some y => Except.ok y
        | none => c.elem win x.1
      let (v, f) := upd c.ftz old x.2
      .ok (tset a.1 x.1 v, a.2 ||| f)) ([], 0)
    match res with
    | .error e => { err := some e }
    | .ok (tab, fl) =>
      let touched := (tab.map fun x => x.1 / win.cols).eraseDups
      let got : Except StepErr (List (Nat × List Nat)) := touched.mapM fun r => do
        let old ← c.w.rowCodes c.p c.j win r
        .ok (r, old.zipIdx.map fun (v, k) => (tfind tab (r * win.cols + k)).getD v)
      match got with
      | .error e => { err := some e }
      | .ok rs => { writes := rs.map fun (r, l) => c.put c.st.dst r l, flags := fl, err := if done.2.2 then some indexErr else none }

/-- Scatter-add in row mode (R92): each element of a data row is added at the indexed window row. -/
def VC.scatterAddRows (c : VC) : VOut :=
  let win := c.tile c.st.dst
  let got : Except StepErr (List (Nat × List Nat)) :=
    (List.range c.rows).mapM fun r => do .ok (lget 0 (← c.codes c.st.src1 r) 0, ← c.codes c.st.src0 r)
  match got with
  | .error e => { err := some e }
  | .ok rows =>
    let done := tilesDone c.st.tr 1 (rows.map fun x => [!inWindow x.1 win.rows])
    let l := rows.take done.1
    let res := l.foldlM (fun (a : Tab (List Nat) × Nat) (x : Nat × List Nat) => do
      let old ← match tfind a.1 x.1 with
        | some y => Except.ok y
        | none => c.w.rowCodes c.p c.j win x.1
      let s := (old.zip x.2).map fun (u, v) => fAdd c.ftz u v
      .ok (tset a.1 x.1 (s.map Prod.fst), a.2 ||| flagsOf s)) ([], 0)
    match res with
    | .error e => { err := some e }
    | .ok (tab, fl) => { writes := tab.map fun (r, l) => c.put c.st.dst r l, flags := fl, err := if done.2.2 then some indexErr else none }

/-! ## Quantise, counts, summaries (R94, R97 to R102) -/

def VC.quant (c : VC) : VOut :=
  let t := c.tile c.st.dst
  c.byRow fun r => do
    let xs ← c.floats c.st.src0 r
    if t.f.blk = 0 then
      let ys := xs.map fun x => outCode c.st.outFmt c.ftz c.st.e4nan x
      .ok ([c.put c.st.dst r (ys.map Prod.fst)], flagsOf ys)
    else
      let bs := (chunksOf t.f.blk (ceilDiv c.cols t.f.blk) xs).map fun l => quantBlock t.f.elem (l.map fun x => decodeF fmtFP32 x.1)
      .ok ([c.put c.st.dst r (bs.flatMap fun b => b.2.1), (c.j.scaleAddr t r, bs.map fun b => BitVec.ofNat 8 b.1)],
        bs.foldl (fun a b => a ||| b.2.2) (flagsOf xs))

/-- DEQUANT (R94): block scales from the tile, group scales from SRC1. -/
def VC.dequant (c : VC) : VOut :=
  let t := c.tile c.st.src0
  let g := gsizeOf (c.st.p % 4)
  c.byRow fun r => do
    let codes ← c.w.rowCodes c.p c.j t (if t.rows = 1 then 0 else r)
    let scales ← if t.f.gs then (let u := c.tile c.st.src1; c.w.rowCodes c.p c.j u (if u.rows = 1 then 0 else r)) else c.w.scaleRow c.p c.j t g r
    let size := max 1 (t.f.group g)
    let ys := codes.zipIdx.map fun (code, i) =>
      let (v, f) := readElem t.f.elem t.f.scalar c.ftz code
      let (x, f') := widen c.ftz (applyScale t.f v (lget 0 scales (i / size)))
      outCode c.st.outFmt c.ftz c.st.e4nan (x, f ||| f')
    .ok ([c.put c.st.dst r (ys.map Prod.fst)], flagsOf ys)

/-- The mask column of COMPRESS: rows that are active. -/
def VC.activeRows (c : VC) : Except StepErr (List Nat) :=
  (List.range c.rows).filterMapM fun r => (c.codes c.st.src1 r).map fun l => if lget 0 l 0 = 0 then none else some r

/-- COMPRESS (R97). -/
def VC.compress (c : VC) : VOut :=
  match c.activeRows with
  | .error e => { err := some e }
  | .ok act =>
    match act.zipIdx.mapM fun (r, k) => (c.rawRow (c.tile c.st.src0) r).map fun x =>
        c.putRaw (c.tile c.st.dst) k x ++ [c.put c.st.dst2 k [r]] with
    | .error e => { err := some e }
    | .ok ws => { writes := ws.flatten }

/-- A count slot takes a value. -/
def VC.setCount (c : VC) (k v : Nat) (w : W) : W :=
  w.modDie (c.j.site c.d) fun D => { D with counts := tset D.counts k (v % 2 ^ 32) }

/-- All elements of the region in row-major order. -/
def VC.all (c : VC) : Except StepErr (List CF) := ((List.range c.rows).mapM fun r => c.floats c.st.src0 r).map List.flatten

/-- A summary word is written (R102). -/
def VC.setSummary (c : VC) (fmt v : Nat) (w : W) : W :=
  w.modDie (c.j.site c.d) fun D =>
    { D with sums := tmod {} D.sums (8 * c.e + c.st.p % 8) fun S => { seq := (S.seq + 1) % 65536, valid := true, value := v % 2 ^ 32, fmt := fmt } }

/-- SUMMARY of kind `k` (R101) over the region, by `g`. -/
def W.summaryStep (w : W) (k fmt : Nat) (g : Bool → List Nat → CF) (p d e : Nat) (fx : MemFx) : W :=
  let val (c : VC) : CF := match c.all with
    | .ok xs => let (v, f) := g c.ftz (xs.map Prod.fst); (v, f ||| flagsOf xs)
    | .error _ => (0, 0)
  w.vecStep p d e fx (fun b => stepOp b == 0x80 && stepX b % 8 == k)
    (fun c => match c.all with
      | .error er => { err := some er }
      | .ok _ => { flags := (val c).2 })
    (after := fun c w => c.setSummary fmt (val c).1 w)

/-- Number of nonzero elements; index of the first (R101): NaN counts as nonzero. -/
def nonZero (c : Nat) : Bool := !(decodeF fmtFP32 c).isZero
def snzOf (_ : Bool) (xs : List Nat) : CF := (min (xs.filter nonZero).length 0x7FFFFFFF, 0)
def sfirstOf (_ : Bool) (xs : List Nat) : CF :=
  (match xs.findIdx? nonZero with
    | some i => min i 0x7FFFFFFF
    | none => 0xFFFFFFFF, 0)

/-! ## The transform unit (R103, R177) -/

/-- Active smoothing bank of a site (R104). -/
def Dev.smActive (d : Dev) (s : Nat) : Bank := if (d.bank (smBank s 0)).st = 4 then d.bank (smBank s 0) else d.bank (smBank s 1)

/-- Signs and quantisation of one row of a TRANSFORM step (R103). -/
def transformRow (ftz nanOv : Bool) (f : Fmt) (smooth : Option (Nat → Nat)) (rot : Nat) (inv : Bool) (signs : List Bool) (xs : List CF) :
    List Nat × List Nat × Nat :=
  let x1 : List CF := match smooth with
    | none => xs
    | some v => xs.zipIdx.map fun (x, k) => let (y, fl) := fDiv ftz x.1 (v k); (y, x.2 ||| fl)
  let x2 : List CF := if rot = 0 then x1
    else ((chunksOf rot (ceilDiv x1.length rot) x1).zip (chunksOf rot (ceilDiv x1.length rot) signs)).flatMap fun (z, d) => rotateSeg ftz rot inv d z
  if f.blk = 0 then
    let ys := x2.map fun x => outCode f.code ftz nanOv x
    (ys.map Prod.fst, [], flagsOf ys)
  else
    let bs := (chunksOf f.blk (ceilDiv x2.length f.blk) x2).map fun l =>
      quantBlock f.elem (l.map fun x => (rd32 ftz x.1).1)
    (bs.flatMap fun b => b.2.1, bs.map Prod.fst, bs.foldl (fun a b => a ||| b.2.2) (flagsOf x2))

/-- A TRANSFORM step (R103 to R106, R177). -/
def W.transformStep (w : W) (p d : Nat) (fx : MemFx) : W :=
  w.issue p d 10 (fun b => stepKind b == 3) fun w j b =>
    let u := fld b 0x18 4
    let src := w.tile j d (fld b 8 2)
    let dst := w.tile j d (fld b 0xA 2)
    let ftz := j.ftzOf 2
    let s := j.site d
    match w.rowsOf j d b src.rows (fld b 0xC 2 + 1) with
    | .error st => w.stepFault p d 10 st 0
    | .ok 0 => w.releaseStep p d 10
    | .ok n =>
      if !w.ownTiles j d [fld b 8 2, fld b 0xA 2] then w.stepFault p d 10 stADDRESS_FAULT dNOT_OWNER
      else w.withFx p d 10 fx fun w =>
      let rot := gsizeOf (bits u 16 15)
      let B := w.d.smActive s
      let smooth : Option (Nat → Nat) := if u.testBit 14 then some fun k => tget B.dflt B.vals (bits u 13 0 + k) else none
      let signs := lfsrSigns src.cols (fld b 0x10 8)
      let o := rowTiles 64 n (64 * dst.f.w) fun r => do
        let codes ← w.rowCodes p j src (if src.rows = 1 then 0 else r)
        let xs := codes.map (widenCode src.f ftz)
        let (cs, sc, fl) := transformRow ftz (u.testBit 24) (fmtD (bits u 23 18)) smooth rot (u.testBit 17) signs xs
        .ok ((j.rowAddr dst r, pack dst.f.w cs) :: (if sc.isEmpty then [] else [(j.scaleAddr dst r, sc.map (BitVec.ofNat 8 ·))]), fl)
      w.vecApply p d 10 o id

/-! ## The commands -/

/-- ADD (R86). -/
def execFadd (p d e : Nat) (fx : MemFx) (s : State) : Host.Outcome State Fault Refusal :=
  s.run fun w => w.ewStep 0x01 2 (bin fAdd) p d e fx

/-- SUB (R86). -/
def execFsub (p d e : Nat) (fx : MemFx) (s : State) : Host.Outcome State Fault Refusal :=
  s.run fun w => w.ewStep 0x02 2 (bin fSub) p d e fx

/-- MUL (R86). -/
def execFmul (p d e : Nat) (fx : MemFx) (s : State) : Host.Outcome State Fault Refusal :=
  s.run fun w => w.ewStep 0x03 2 (bin fMul) p d e fx

/-- FMA (R86). -/
def execFma (p d e : Nat) (fx : MemFx) (s : State) : Host.Outcome State Fault Refusal :=
  s.run fun w => w.ewStep 0x04 3 (tern fFma) p d e fx

/-- MIN (R86). -/
def execFmin (p d e : Nat) (fx : MemFx) (s : State) : Host.Outcome State Fault Refusal :=
  s.run fun w => w.ewStep 0x05 2 (bin fMin) p d e fx

/-- MAX (R86). -/
def execFmax (p d e : Nat) (fx : MemFx) (s : State) : Host.Outcome State Fault Refusal :=
  s.run fun w => w.ewStep 0x06 2 (bin fMax) p d e fx

/-- CLAMP (R86). -/
def execClamp (p d e : Nat) (fx : MemFx) (s : State) : Host.Outcome State Fault Refusal :=
  s.run fun w => w.ewStep 0x07 3 (tern fClamp) p d e fx

/-- ABS (R86). -/
def execFabs (p d e : Nat) (fx : MemFx) (s : State) : Host.Outcome State Fault Refusal :=
  s.run fun w => w.ewStep 0x08 1 (una fAbs) p d e fx

/-- NEG (R86). -/
def execFneg (p d e : Nat) (fx : MemFx) (s : State) : Host.Outcome State Fault Refusal :=
  s.run fun w => w.ewStep 0x09 1 (una fNeg) p d e fx

/-- CMP_EQ (R86). -/
def execCmpEq (p d e : Nat) (fx : MemFx) (s : State) : Host.Outcome State Fault Refusal :=
  s.run fun w => w.cmpStep 0 p d e fx

/-- CMP_NE (R86). -/
def execCmpNe (p d e : Nat) (fx : MemFx) (s : State) : Host.Outcome State Fault Refusal :=
  s.run fun w => w.cmpStep 1 p d e fx

/-- CMP_LT (R86). -/
def execCmpLt (p d e : Nat) (fx : MemFx) (s : State) : Host.Outcome State Fault Refusal :=
  s.run fun w => w.cmpStep 2 p d e fx

/-- CMP_LE (R86). -/
def execCmpLe (p d e : Nat) (fx : MemFx) (s : State) : Host.Outcome State Fault Refusal :=
  s.run fun w => w.cmpStep 3 p d e fx

/-- CMP_GT (R86). -/
def execCmpGt (p d e : Nat) (fx : MemFx) (s : State) : Host.Outcome State Fault Refusal :=
  s.run fun w => w.cmpStep 4 p d e fx

/-- CMP_GE (R86). -/
def execCmpGe (p d e : Nat) (fx : MemFx) (s : State) : Host.Outcome State Fault Refusal :=
  s.run fun w => w.cmpStep 5 p d e fx

/-- SEL (R86). -/
def execSel (p d e : Nat) (fx : MemFx) (s : State) : Host.Outcome State Fault Refusal :=
  s.run fun w => w.ewStep 0x0B 3 (tern fSel) p d e fx

/-- CVT (R86). -/
def execCvt (p d e : Nat) (fx : MemFx) (s : State) : Host.Outcome State Fault Refusal :=
  s.run fun w => w.ewStep 0x0C 1 (una fCvt) p d e fx

/-- IADD (R87). -/
def execIadd (p d e : Nat) (fx : MemFx) (s : State) : Host.Outcome State Fault Refusal :=
  s.run fun w => w.iwStep 0x10 iAdd p d e fx

/-- ISUB (R87). -/
def execIsub (p d e : Nat) (fx : MemFx) (s : State) : Host.Outcome State Fault Refusal :=
  s.run fun w => w.iwStep 0x11 iSub p d e fx

/-- IMIN (R87). -/
def execImin (p d e : Nat) (fx : MemFx) (s : State) : Host.Outcome State Fault Refusal :=
  s.run fun w => w.iwStep 0x12 iMin p d e fx

/-- IMAX (R87). -/
def execImax (p d e : Nat) (fx : MemFx) (s : State) : Host.Outcome State Fault Refusal :=
  s.run fun w => w.iwStep 0x13 iMax p d e fx

/-- AND (R87). -/
def execBitAnd (p d e : Nat) (fx : MemFx) (s : State) : Host.Outcome State Fault Refusal :=
  s.run fun w => w.iwStep 0x14 (iBits (· &&& ·)) p d e fx

/-- OR (R87). -/
def execBitOr (p d e : Nat) (fx : MemFx) (s : State) : Host.Outcome State Fault Refusal :=
  s.run fun w => w.iwStep 0x15 (iBits (· ||| ·)) p d e fx

/-- XOR (R87). -/
def execBitXor (p d e : Nat) (fx : MemFx) (s : State) : Host.Outcome State Fault Refusal :=
  s.run fun w => w.iwStep 0x16 (iBits (· ^^^ ·)) p d e fx

/-- SHL (R87). -/
def execShl (p d e : Nat) (fx : MemFx) (s : State) : Host.Outcome State Fault Refusal :=
  s.run fun w => w.iwStep 0x17 iShl p d e fx

/-- SHR (R87). -/
def execShr (p d e : Nat) (fx : MemFx) (s : State) : Host.Outcome State Fault Refusal :=
  s.run fun w => w.iwStep 0x18 iShr p d e fx

/-- EXP2 (R109). -/
def execExp2 (p d e : Nat) (fx : MemFx) (s : State) : Host.Outcome State Fault Refusal :=
  s.run fun w => w.sfuStep 0x20 .exp2 p d e fx

/-- EXP (R109). -/
def execExp (p d e : Nat) (fx : MemFx) (s : State) : Host.Outcome State Fault Refusal :=
  s.run fun w => w.sfuStep 0x21 .exp p d e fx

/-- LOG2 (R109). -/
def execLog2 (p d e : Nat) (fx : MemFx) (s : State) : Host.Outcome State Fault Refusal :=
  s.run fun w => w.sfuStep 0x22 .log2 p d e fx

/-- LN (R109). -/
def execLn (p d e : Nat) (fx : MemFx) (s : State) : Host.Outcome State Fault Refusal :=
  s.run fun w => w.sfuStep 0x23 .ln p d e fx

/-- RCP (R109). -/
def execRcp (p d e : Nat) (fx : MemFx) (s : State) : Host.Outcome State Fault Refusal :=
  s.run fun w => w.sfuStep 0x24 .rcp p d e fx

/-- RSQRT (R109). -/
def execRsqrt (p d e : Nat) (fx : MemFx) (s : State) : Host.Outcome State Fault Refusal :=
  s.run fun w => w.sfuStep 0x25 .rsqrt p d e fx

/-- SQRT (R109). -/
def execSqrt (p d e : Nat) (fx : MemFx) (s : State) : Host.Outcome State Fault Refusal :=
  s.run fun w => w.sfuStep 0x26 .sqrt p d e fx

/-- TANH (R109). -/
def execTanh (p d e : Nat) (fx : MemFx) (s : State) : Host.Outcome State Fault Refusal :=
  s.run fun w => w.sfuStep 0x27 .tanh p d e fx

/-- ERF (R109). -/
def execErf (p d e : Nat) (fx : MemFx) (s : State) : Host.Outcome State Fault Refusal :=
  s.run fun w => w.sfuStep 0x28 .erf p d e fx

/-- SIGMOID (R109). -/
def execSigmoid (p d e : Nat) (fx : MemFx) (s : State) : Host.Outcome State Fault Refusal :=
  s.run fun w => w.sfuStep 0x29 .sigmoid p d e fx

/-- SILU (R109). -/
def execSilu (p d e : Nat) (fx : MemFx) (s : State) : Host.Outcome State Fault Refusal :=
  s.run fun w => w.sfuStep 0x2A .silu p d e fx

/-- SOFTPLUS (R109). -/
def execSoftplus (p d e : Nat) (fx : MemFx) (s : State) : Host.Outcome State Fault Refusal :=
  s.run fun w => w.sfuStep 0x2B .softplus p d e fx

/-- GELU_ERF (R109). -/
def execGeluErf (p d e : Nat) (fx : MemFx) (s : State) : Host.Outcome State Fault Refusal :=
  s.run fun w => w.sfuStep 0x2C .geluErf p d e fx

/-- GELU_TANH (R109). -/
def execGeluTanh (p d e : Nat) (fx : MemFx) (s : State) : Host.Outcome State Fault Refusal :=
  s.run fun w => w.sfuStep 0x2D .geluTanh p d e fx

/-- SIN (R109). -/
def execSin (p d e : Nat) (fx : MemFx) (s : State) : Host.Outcome State Fault Refusal :=
  s.run fun w => w.sfuStep 0x2E .sin p d e fx

/-- COS (R109). -/
def execCos (p d e : Nat) (fx : MemFx) (s : State) : Host.Outcome State Fault Refusal :=
  s.run fun w => w.sfuStep 0x2F .cos p d e fx

/-- USERN (R116, R127). -/
def execUsern (p d e : Nat) (fx : MemFx) (s : State) : Host.Outcome State Fault Refusal :=
  s.run fun w => w.userStep p d e fx

/-- RMAX (R89). -/
def execRmax (p d e : Nat) (fx : MemFx) (s : State) : Host.Outcome State Fault Refusal :=
  s.run fun w => w.redStep 0x40 .max p d e fx

/-- RMIN (R89). -/
def execRmin (p d e : Nat) (fx : MemFx) (s : State) : Host.Outcome State Fault Refusal :=
  s.run fun w => w.redStep 0x41 .min p d e fx

/-- RSUM (R89). -/
def execRsum (p d e : Nat) (fx : MemFx) (s : State) : Host.Outcome State Fault Refusal :=
  s.run fun w => w.redStep 0x42 .sum p d e fx

/-- RSSQ (R89). -/
def execRssq (p d e : Nat) (fx : MemFx) (s : State) : Host.Outcome State Fault Refusal :=
  s.run fun w => w.redStep 0x43 .ssq p d e fx

/-- NORM_RMS (R134). -/
def execNormRms (p d e : Nat) (fx : MemFx) (s : State) : Host.Outcome State Fault Refusal :=
  s.run fun w => w.vecStep p d e fx (fun b => stepOp b == 0x48 && !(stepX b).testBit 0) (VC.norm false)

/-- NORM_LAYER (R135). -/
def execNormLayer (p d e : Nat) (fx : MemFx) (s : State) : Host.Outcome State Fault Refusal :=
  s.run fun w => w.vecStep p d e fx (fun b => stepOp b == 0x48 && (stepX b).testBit 0) (VC.norm true)

/-- SOFTMAX (R130 to R133). -/
def execSoftmax (p d e : Nat) (fx : MemFx) (s : State) : Host.Outcome State Fault Refusal :=
  s.run fun w => w.vecStep p d e fx (fun b => stepOp b == 0x50) VC.softmax

/-- ROPE (R90). -/
def execRope (p d e : Nat) (fx : MemFx) (s : State) : Host.Outcome State Fault Refusal :=
  s.run fun w => w.vecStep p d e fx (fun b => stepOp b == 0x58) VC.rope

/-- GATHER (R91), in row mode and in element mode: the region is the shape of DST. -/
def execGather (p d e : Nat) (fx : MemFx) (s : State) : Host.Outcome State Fault Refusal :=
  s.run fun w => w.vecStep p d e fx (fun b => stepOp b == 0x60)
    (fun c =>
      if c.st.x.testBit 0 then c.gatherEl
      else
        let win := c.tile c.st.src0
        c.moveRows win.rows fun r i => (c.rawRow win i).map (c.putRaw (c.tile c.st.dst) r))
    (region := (·.dst))

/-- SCATTER (R92): the later write stands. -/
def execScatter (p d e : Nat) (fx : MemFx) (s : State) : Host.Outcome State Fault Refusal :=
  s.run fun w => w.vecStep p d e fx (fun b => stepOp b == 0x61 && !(stepX b).testBit 1) fun c =>
    if c.st.x.testBit 0 then c.scatterEl (fun _ _ v => (v, 0))
    else
      let win := c.tile c.st.dst
      c.moveRows win.rows fun r i => (c.rawRow (c.tile c.st.src0) r).map (c.putRaw win i)

/-- SCATTER_ADD (R92): each value is added to the FP32 window element with one rounding. -/
def execScatterAdd (p d e : Nat) (fx : MemFx) (s : State) : Host.Outcome State Fault Refusal :=
  s.run fun w => w.vecStep p d e fx (fun b => stepOp b == 0x61 && (stepX b).testBit 1) fun c =>
    if c.st.x.testBit 0 then c.scatterEl fAdd else c.scatterAddRows

/-- TOPK (R93). -/
def execTopk (p d e : Nat) (fx : MemFx) (s : State) : Host.Outcome State Fault Refusal :=
  s.run fun w => w.vecStep p d e fx (fun b => stepOp b == 0x68) VC.topk

/-- QUANT (R94). -/
def execQuant (p d e : Nat) (fx : MemFx) (s : State) : Host.Outcome State Fault Refusal :=
  s.run fun w => w.vecStep p d e fx (fun b => stepOp b == 0x70) VC.quant

/-- DEQUANT (R94). -/
def execDequant (p d e : Nat) (fx : MemFx) (s : State) : Host.Outcome State Fault Refusal :=
  s.run fun w => w.vecStep p d e fx (fun b => stepOp b == 0x71) VC.dequant

/-- COMPRESS (R97): the number of active rows goes to the count slot in P. -/
def execCompress (p d e : Nat) (fx : MemFx) (s : State) : Host.Outcome State Fault Refusal :=
  s.run fun w => w.vecStep p d e fx (fun b => stepOp b == 0x78) VC.compress
    (after := fun c w => match c.activeRows with
      | .ok l => c.setCount (c.st.p % 32) l.length w
      | .error _ => w)

/-- EXPAND (R98): packed row i goes to the indexed row of DST. -/
def execExpand (p d e : Nat) (fx : MemFx) (s : State) : Host.Outcome State Fault Refusal :=
  s.run fun w => w.vecStep p d e fx (fun b => stepOp b == 0x79) fun c =>
    let t := c.tile c.st.dst
    c.moveRows t.rows fun r i => (c.rawRow (c.tile c.st.src0) r).map (c.putRaw t i)

/-- CNT_LOAD (R99): one INT32 goes to the count slot in P. -/
def execCntLoad (p d e : Nat) (fx : MemFx) (s : State) : Host.Outcome State Fault Refusal :=
  s.run fun w => w.vecStep p d e fx (fun b => stepOp b == 0x7A)
    (fun c => match c.codes c.st.src0 0 with
      | .ok _ => {}
      | .error er => { err := some er })
    (after := fun c w => match c.codes c.st.src0 0 with
      | .ok l => c.setCount (c.st.p % 32) (lget 0 l 0) w
      | .error _ => w)

/-- CNT_STORE (R99): the count slot in P goes to DST as INT32. -/
def execCntStore (p d e : Nat) (fx : MemFx) (s : State) : Host.Outcome State Fault Refusal :=
  s.run fun w => w.vecStep p d e fx (fun b => stepOp b == 0x7B)
    (fun c => { writes := [c.put c.st.dst 0 [tget 0 (c.w.d.die (c.j.site c.d)).counts (c.st.p % 32)]] }) (region := (·.dst))

/-- SMAX (R101). -/
def execSmax (p d e : Nat) (fx : MemFx) (s : State) : Host.Outcome State Fault Refusal :=
  s.run fun w => w.summaryStep 0 0x00 (reduceRow .max) p d e fx

/-- SMIN (R101). -/
def execSmin (p d e : Nat) (fx : MemFx) (s : State) : Host.Outcome State Fault Refusal :=
  s.run fun w => w.summaryStep 1 0x00 (reduceRow .min) p d e fx

/-- SSUM (R101). -/
def execSsum (p d e : Nat) (fx : MemFx) (s : State) : Host.Outcome State Fault Refusal :=
  s.run fun w => w.summaryStep 2 0x00 (reduceRow .sum) p d e fx

/-- SNZ (R101). -/
def execSnz (p d e : Nat) (fx : MemFx) (s : State) : Host.Outcome State Fault Refusal :=
  s.run fun w => w.summaryStep 3 0x21 snzOf p d e fx

/-- SFIRST (R101). -/
def execSfirst (p d e : Nat) (fx : MemFx) (s : State) : Host.Outcome State Fault Refusal :=
  s.run fun w => w.summaryStep 4 0x21 sfirstOf p d e fx

/-- SCNT (R101): the value of the count slot in P [12:8]. -/
def execScnt (p d e : Nat) (fx : MemFx) (s : State) : Host.Outcome State Fault Refusal :=
  s.run fun w => w.vecStep p d e fx (fun b => stepOp b == 0x80 && stepX b % 8 == 5) (fun _ => {})
    (after := fun c w => c.setSummary 0x21 (tget 0 (c.w.d.die (c.j.site c.d)).counts (bits c.st.p 12 8)) w)

/-- TRANSFORM (R103 to R106). -/
def execTransform (p d : Nat) (fx : MemFx) (s : State) : Host.Outcome State Fault Refusal :=
  s.run fun w => w.transformStep p d fx

end Sys2Proof.Machine
end

