-- ==== Sys2Proof/Machine/ImgCheck.lean ====
section
/-! DEFINITION. Validation of a schedule image (R158 to R184, R189): every check of R183, each naming the structure that fails it. -/

namespace Sys2Proof.Machine

/-- A failed check: the detail code of R183 and the offset of the offending structure. -/
abbrev Bad := Nat × Nat

def chk (ok : Bool) (code off : Nat) : List Bad := if ok then [] else [(code, off)]

/-- The lowest code, and the lowest offset under it (R183). -/
def worst (l : List Bad) : Option Bad :=
  l.foldl (fun m x => match m with
    | none => some x
    | some y => if x.1 < y.1 || (x.1 == y.1 && x.2 < y.2) then some x else some y) none

/-! ## What an image holds (R161 to R167, R189) -/

def imLen (b : Bytes) : Nat := fld b 0x10 4
def imDies (b : Bytes) : Nat := fld b 0x18 1
def imStacks (b : Bytes) : Nat := fld b 0x19 1
def imSegs (b : Bytes) : Nat := fld b 0x1A 2
def imSels (b : Bytes) : Nat := fld b 0x1C 2
def imWarms (b : Bytes) : Nat := fld b 0x34 1
def imEntry (b : Bytes) : Nat := fld b 0x1E 2
def imSummary (b : Bytes) : Bool := (fld b 0x20 4).testBit 1
def imDieAt (b : Bytes) (d : Nat) : Nat := fld b 0x24 4 + 32 * d
def imSegAt (b : Bytes) (g : Nat) : Nat := fld b 0x28 4 + 32 * g
def imSelAt (b : Bytes) (i : Nat) : Nat := fld b 0x2C 4 + 64 * i
def imWarmAt (b : Bytes) (i : Nat) : Nat := fld b 0x30 4 + 16 * i
/-- Stream-table entry of logical die `d` and queue `q`. -/
def imStreamAt (b : Bytes) (g d q : Nat) : Nat := fld b (imSegAt b g) 4 + 8 * (16 * d + q)
def imArg (b : Bytes) (n : Nat) : Nat := fld b (0x40 + 8 * n) 8
def argKindOf (a : Nat) : Nat := a % 16
def argRo (a : Nat) : Bool := a.testBit 4
def argAlign (a : Nat) : Nat := bits a 12 8
def argSizeOf (a : Nat) : Nat := a / 2 ^ 16
/-- The steps of a stream: their offsets and bytes. -/
def imSteps (b : Bytes) (g d q : Nat) : List (Nat × Bytes) :=
  let e := imStreamAt b g d q
  (List.range (fld b (e + 4) 4)).map fun i => (fld b e 4 + 32 * i, slice b (fld b e 4 + 32 * i) 32)
/-- Tile descriptor `i` of logical die `d`: its offset and bytes. -/
def imDesc (b : Bytes) (d i : Nat) : Option (Nat × Bytes) :=
  let e := imDieAt b d
  if i < fld b (e + 4) 2 then some (fld b e 4 + 32 * i, slice b (fld b e 4 + 32 * i) 32) else none
def imTile (b : Bytes) (d i : Nat) : Option Tile := (imDesc b d i).map fun x => tileOf x.2
/-- The queues of a segment. -/
def imQueues (b : Bytes) : List (Nat × Nat) := (List.range (imDies b)).flatMap fun d => (List.range 15).map fun q => (d, q)

/-! ## HEADER and LAYOUT -/

/-- HEADER, but for the CRC. -/
def headOkIm (b : Bytes) : Bool :=
  fld b 0 4 == 0x4D494353 && fld b 4 2 == 2 && decide (imLen b ≥ 256) && decide (1 ≤ imDies b ∧ imDies b ≤ 20) &&
    decide (imStacks b ≤ 16 ∧ imStacks b ≤ imDies b) && decide (1 ≤ imSegs b ∧ imSegs b ≤ 4096) && decide (imSels b ≤ 1024) &&
    decide (imWarms b ≤ 16)

/-- The CRC of R161 over an image of LEN bytes. -/
def crcOkIm (b : Bytes) : Bool := crc32c (b.take 0xFC ++ b.drop 0x100) == fld b 0xFC 4

/-- A table: what it is, where, how long, and the structure that names it. -/
structure ImTab where
  kind : Nat
  off : Nat
  len : Nat
  namedBy : Nat
  deriving DecidableEq, Repr

def ImTab.inside (t : ImTab) (b : Bytes) : Bool := t.len == 0 || decide (256 ≤ t.off ∧ t.off + t.len ≤ imLen b)

/-- The tables that the header and its die and segment tables name. -/
def imTables (b : Bytes) : List ImTab :=
  let hd : List ImTab := [⟨0, fld b 0x24 4, 32 * imDies b, 0⟩, ⟨1, fld b 0x28 4, 32 * imSegs b, 0⟩, ⟨2, fld b 0x2C 4, 64 * imSels b, 0⟩,
    ⟨3, fld b 0x30 4, 16 * imWarms b, 0⟩]
  let ds : List ImTab := (List.range (imDies b)).map fun d => ⟨4, fld b (imDieAt b d) 4, 32 * fld b (imDieAt b d + 4) 2, imDieAt b d⟩
  let ss : List ImTab := (List.range (imSegs b)).map fun g => ⟨5, fld b (imSegAt b g) 4, 128 * imDies b, imSegAt b g⟩
  let st : List ImTab := (List.range (imSegs b)).flatMap fun g =>
    if (⟨5, fld b (imSegAt b g) 4, 128 * imDies b, 0⟩ : ImTab).inside b then
      (imQueues b).map fun (d, q) => ⟨6, fld b (imStreamAt b g d q) 4, 32 * fld b (imStreamAt b g d q + 4) 4, imStreamAt b g d q⟩
    else []
  hd ++ ds ++ ss ++ st

/-- `u` starts below `t`, or beside it and is named before it in the order (end, kind). -/
def ImTab.below (u t : ImTab) : Bool :=
  decide (u.off < t.off) || (u.off == t.off && (decide (u.len < t.len) || (u.len == t.len && decide (u.kind < t.kind))))

/-- LAYOUT (R161, R164): a shared table is named twice at one offset with one extent; of two tables that overlap otherwise, the one that
starts higher offends (DEDUCED, entry 18). -/
def layoutBad (b : Bytes) : List Bad :=
  let ts := imTables b
  let live := ts.filter (·.len != 0)
  chk (fld b 0x24 4 % 32 == 0 && fld b 0x28 4 % 32 == 0 && fld b 0x2C 4 % 32 == 0 && fld b 0x30 4 % 32 == 0 &&
      (imSels b != 0 || fld b 0x2C 4 == 0) && (imWarms b != 0 || fld b 0x30 4 == 0)) 2 0 ++
    ts.flatMap fun t =>
      chk (t.off % 32 == 0 && t.inside b && (t.kind != 6 || t.len != 0 || t.off == 0)) 2 t.namedBy ++
        (if t.len = 0 then [] else chk (live.all fun u => !u.below t || decide (u.off + u.len ≤ t.off)) 2 t.namedBy)

/-! ## RESERVED, ARGUMENT and SEGMENT of the tables -/

def headerReserved (b : Bytes) : List Bad :=
  chk (isZero b 6 2 && isZero b 0x14 4 && fld b 0x20 4 / 64 == 0 && isZero b 0x35 11 && isZero b 0xCC 0x30) 3 0

/-- An argument slot entry (R162). -/
def argBad (b : Bytes) (n : Nat) : List Bad :=
  let a := imArg b n
  let k := argKindOf a
  chk (decide (k ≤ 5) && bits a 7 5 == 0 && bits a 15 13 == 0 && (k == 2 || !argRo a) && (k == 2 || k == 3 || argAlign a == 0) &&
      !((k == 1 || k == 5) && argSizeOf a != 0)) 3 (0x40 + 8 * n) ++
    chk (decide (argAlign a ≤ 18)) 5 (0x40 + 8 * n)

/-- A die-table entry (R164). -/
def dieBad (b : Bytes) (d : Nat) : List Bad :=
  chk (isZero b (imDieAt b d + 6) 26) 3 (imDieAt b d) ++ chk (decide (fld b (imDieAt b d + 4) 2 ≤ 65533)) 8 (imDieAt b d)

/-- A segment-table entry (R164), and its entries for queue 15. -/
def segBad (b : Bytes) (g : Nat) : List Bad :=
  let o := imSegAt b g
  let k := fld b (o + 4) 2
  let next := fld b (o + 6) 2
  chk (decide (k ≤ 2) && decide (fld b (o + 10) 1 ≤ 1) && isZero b (o + 11) 21) 3 o ++
    chk ((k != 1 || decide (next < imSegs b)) && (k != 2 || decide (next < imSels b))) 6 o ++
    (List.range (imDies b)).flatMap fun d => chk (isZero b (imStreamAt b g d 15) 8) 3 (imStreamAt b g d 15)

/-- A selection entry (R100, R167). -/
def selBad (b : Bytes) (i : Nat) : List Bad :=
  let o := imSelAt b i
  let n := fld b (o + 5) 1
  let ok (s : Nat) : Bool := decide (s < imSegs b)
  chk (decide (fld b o 1 ≤ 1 ∧ fld b (o + 4) 1 ≤ 2) && isZero b (o + 6) 2 && isZero b (o + 0x3A) 6) 3 o ++
    chk (decide (1 ≤ n ∧ n ≤ 8) && ((List.range n).all fun k => ok (fld b (o + 0x28 + 2 * k) 2)) && ok (fld b (o + 0x38) 2) &&
      decide (fld b (o + 1) 1 < imDies b) &&
      (if fld b o 1 = 1 then imSummary b && decide (fld b (o + 2) 1 ≤ 1 ∧ fld b (o + 3) 1 ≤ 7)
       else decide (fld b (o + 3) 1 ≤ 15) && argKindOf (imArg b (fld b (o + 3) 1)) == 1)) 6 o

/-! ## Tile descriptors (R179 to R181) -/

/-- Bytes from element (0,0) to the last element, and the scale array as offset from the base and bytes, for a group size. -/
def Tile.extent (t : Tile) : Nat := (t.rows - 1) * t.stride + t.rowLen
def Tile.scaleExtent (t : Tile) (g : Nat) : Nat := (t.rows - 1) * t.sstride + t.scaleLen g

/-- A descriptor's fixed range, or its range within its slot (R138, R144, R180), with the scale array that group size `g` gives. -/
def Tile.fits (b : Bytes) (t : Tile) (g off : Nat) : List Bad :=
  let so := (t.off : Int) + t.soff
  let hi := if t.f.scaled then max (t.off + t.extent) (so + t.scaleExtent g).toNat else t.off + t.extent
  let ok (lim : Nat) : Bool := decide (hi ≤ lim) && (!t.f.scaled || decide (0 ≤ so))
  match t.base with
  | 0 => chk (ok spSize) 9 off
  | 1 => chk (ok sysOff) 9 off
  | _ => chk (ok (argSizeOf (imArg b t.idx))) 5 off

/-- A descriptor on its own. -/
def descBad (b : Bytes) (o : Nat) (r : Bytes) : List Bad :=
  let t := tileOf r
  let inRange := decide (t.idx < (if t.base = 0 then imDies b else if t.base = 1 then imStacks b else 16))
  let kind := argKindOf (imArg b t.idx)
  chk (decide (fld r 0 1 % 16 ≤ 1 ∧ t.base ≤ 2) && decide (fld r 2 1 < 64) && (fmtOf t.fmt).isSome && isZero r 3 1 && isZero r 0xA 2 &&
      isZero r 0x13 1 && isZero r 0x16 2 && ((fmtOf t.fmt).isNone || t.f.scaled || isZero r 0x18 8)) 3 o ++
    chk (t.cols * t.f.w % 8 == 0 && (t.rows == 1 || decide (t.rowLen ≤ t.stride)) && inRange &&
      (if t.paged then t.base == 2 && kind == 4 && t.f.scalar else t.base != 2 || kind == 2 || kind == 3)) 8 o ++
    (if !inRange then []
     else if t.paged then chk (decide ((t.off + t.extent - 1) / 2 ^ 18 < argSizeOf (imArg b t.idx))) 5 o
     else if t.f.gs then { t with fmt := 0x20, cols := t.rowLen }.fits b 0 o
     else t.fits b 0 o)

/-- The extent of a GS descriptor for the step that names it (R180). -/
def gsBad (b : Bytes) (d i g : Nat) : List Bad :=
  match imDesc b d i with
  | some (o, r) => let t := tileOf r; if t.f.gs && !t.paged && decide (g ≠ 0) then t.fits b g o else []
  | none => []

/-! ## What a step reads and writes -/

/-- Group size with which a step reads GS descriptors (R180). -/
def stepGroup (s : Bytes) : Nat :=
  match stepKind s with
  | 1 => gsizeOf (passOf s).gcode
  | 2 => if stepOp s = 0x71 then gsizeOf ((vstepOf s).p % 4) else 0
  | 4 => if stepOp s = 1 then gsizeOf (fld s 0x10 8 % 4) else 0
  | _ => 0

/-- Descriptors that a step reads, a scatter-add's window among them (R92), and those that it writes. -/
def stepReads (s : Bytes) : List Nat :=
  match stepKind s with
  | 1 => [(passOf s).a, (passOf s).b]
  | 2 => ([(vstepOf s).src0, (vstepOf s).src1, (vstepOf s).src2] ++
      (if stepOp s = 0x61 ∧ (vstepOf s).x.testBit 1 then [(vstepOf s).dst] else [])).filter (· < 0xFFFE)
  | 3 => [fld s 8 2]
  | 4 => if stepOp s = 2 then [] else [fld s 8 2]
  | _ => []
def stepWrites (s : Bytes) : List Nat :=
  match stepKind s with
  | 1 => if (passOf s).last then [(passOf s).res] else []
  | 2 => [(vstepOf s).dst, (vstepOf s).dst2].filter (· < 0xFFFE)
  | 3 => [fld s 0xA 2]
  | 4 => if stepOp s = 2 then [] else [fld s 0xA 2]
  | _ => []

/-- The bytes of a descriptor as runs (space, start, length): rows, then scale rows; a paged tile has no fixed place. -/
def Tile.runs (t : Tile) (g : Nat) : List (Nat × Int × Nat) :=
  if t.paged then []
  else
    let sp := 256 * t.base + t.idx
    ((List.range t.rows).map fun r => (sp, ((t.off + r * t.stride : Nat) : Int), t.rowLen)) ++
      (if t.f.scaled then (List.range t.rows).map fun r => (sp, (t.off : Int) + t.soff + (r * t.sstride : Nat), t.scaleLen g) else [])

def runsOf (b : Bytes) (d g : Nat) (ids : List Nat) : List (Nat × Int × Nat) := (ids.filterMap (imTile b d)).flatMap fun t => t.runs g

/-- The part of a run within [lo, hi). -/
def clipRun (lo hi : Int) (x : Nat × Int × Nat) : Nat × Int × Nat :=
  (x.1, max lo x.2.1, (min hi (x.2.1 + x.2.2) - max lo x.2.1).toNat)

/-- Two sets of runs share a byte. -/
def runsMeet (l m : List (Nat × Int × Nat)) : Bool :=
  l.any fun (s, a, n) => m.any fun (s', a', n') => s == s' && n != 0 && n' != 0 && decide (a < a' + n' ∧ a' < a + n)

/-- A write through an RO slot (R183 ADDRESS). -/
def roOk (b : Bytes) (t : Tile) : Bool := t.base != 2 || !argRo (imArg b t.idx)

/-- Reads only its own die's scratchpad, as far as validation knows (R83, R143): what an argument names is known when the job runs. -/
def ownOk (d : Nat) (t : Tile) : Bool := t.paged || (t.base == 0 && t.idx == d) || t.base == 2

/-! ## ARRAY steps (R55, R59, R62, R67, R174) -/

/-- Accepted operand pairs and outputs. -/
def pairOk (op : Nat) (fa fb : Fmt) (out : Nat) (scl : Bool) : Bool :=
  let h (f : Fmt) : Bool := f.half
  let e (f : Fmt) : Bool := f.code == 3 || f.code == 4 || f.code == 0x20
  let mx (f : Fmt) : Bool := f.blk == 32
  let wb (f : Fmt) : Bool := f.blk == 16
  let both (p q : Fmt → Bool) : Bool := (p fa && q fb) || (p fb && q fa)
  let int8 := fa.code == 0x20 && fb.code == 0x20
  let set := (h fa && h fb) || (e fa && e fb)
  match op with
  | 1 => (both h h || both h (·.gs) || both e e || both e (·.gs) || both mx mx || both mx (·.gs) || both wb wb || both wb (·.gs)) &&
      (decide (out ≤ 4) || (out == 0x21 && int8 && !scl))
  | 6 => fa.code == 0x23 && fb.code == 0x23 && out == 0x21 && !scl
  | 7 => set && out == 0x21 && !scl
  | _ => set && (out == 0 || (out == 0x21 && int8)) && !scl

/-- Bases and strides on 64 bytes, and each stride no smaller than the packed row, for group size `g`; the stride of a single row is free (R62, R179). -/
def alignedTile (g : Nat) (t : Tile) : Bool :=
  t.off % 64 == 0 && (t.rows == 1 || (t.stride % 64 == 0 && decide (t.rowLen ≤ t.stride))) &&
    (!t.f.scaled || ((((t.off : Int) + t.soff) % 64 == 0) && (t.rows == 1 || (t.sstride % 64 == 0 && decide (t.scaleLen g ≤ t.sstride)))))

/-- A pass whose tile is open in a bank: the step, and where its K range ended. -/
structure OpenTile where
  bank : Nat
  step : Bytes
  next : Nat
  deriving DecidableEq, Repr

/-- Two passes agree (R59). -/
def passesAgree (b : Bytes) (d : Nat) (x y : Bytes) : Bool :=
  let P := passOf x
  let Q := passOf y
  let fmts (R : Pass) : Option Nat × Option Nat := ((imTile b d R.a).map (·.fmt), (imTile b d R.b).map (·.fmt))
  stepOp x == stepOp y && fmts P == fmts Q && P.gcode == Q.gcode && P.scale == Q.scale && P.outFmt == Q.outFmt && P.e4nan == Q.e4nan &&
    P.mt == Q.mt && P.nt == Q.nt && stepCount x == stepCount y && P.cmax == Q.cmax

/-- The stationary operand and K range of a pass. -/
def stationary (P : Pass) : Nat × Nat × Nat × Nat := (P.mode, if P.mode = 0 then P.b else P.a, P.k0, P.ks)

def arrayBad (b : Bytes) (d : Nat) (prev : Option Bytes) (open_ : List OpenTile) (o : Nat) (s : Bytes) : List Bad :=
  let P := passOf s
  let op := stepOp s
  let cnt := (stepCount s).isSome
  let tile := open_.find? (·.bank == P.bank)
  let res := if P.last then imTile b d P.res else none
  let g := gsizeOf P.gcode
  let common := chk (decide (1 ≤ op ∧ op ≤ 7)) 7 o ++
    chk (isZero s 0xE 2 && isZero s 0x17 1 && isZero s 0x1F 1 && P.mode != 3 && (P.scale.isSome || isZero s 0x10 4) && (cnt || P.cmax == 1) &&
      (fmtOf P.outFmt).isSome) 3 o ++
    chk ((if P.last then res.isSome else P.res == 0xFFFF) && (imTile b d P.a).isSome && (imTile b d P.b).isSome) 8 o ++
    chk (([imTile b d P.a, imTile b d P.b, res].filterMap id).all fun t => t.paged || (t.base == 0 && t.idx == d)) 9 o ++
    chk (([imTile b d P.a, imTile b d P.b, res].filterMap id).all fun t => !t.paged && alignedTile g t) 8 o ++
    gsBad b d P.a g ++ gsBad b d P.b g ++
    chk (if P.first then tile.isNone && P.k0 == 0 else (match tile with
      | some t => passesAgree b d t.step s && t.next == P.k0
      | none => false)) 10 o ++
    chk (!P.reuse || (P.mode != 2 && (match prev with
      | some x => stationary (passOf x) == stationary P
      | none => false))) 10 o
  match imTile b d P.a, imTile b d P.b with
  | some A, some B =>
    let k := A.cols
    let m := if cnt && P.mode != 1 then P.cmax else P.mt
    let n := if cnt && P.mode == 1 then P.cmax else P.nt
    let aop := arrOpOf op
    let kb := kBlock aop A.f B.f
    common ++
      chk (decide (1 ≤ P.ks ∧ P.k0 + P.ks ≤ k) && (decide (P.k0 + P.ks = k) == P.last)) 10 o ++
      chk (A.rows == m && B.rows == n && B.cols == k && (P.gcode != 0) == (A.f.gs || B.f.gs) && pairOk op A.f B.f P.outFmt P.scale.isSome &&
        (match res with
          | some R => R.fmt == P.outFmt && (if P.mode = 1 then R.rows == n && R.cols == m else R.rows == m && R.cols == n)
          | none => true)) 8 o ++
      chk (P.k0 % kb == 0 && decide (P.ks ≤ (if P.mode = 2 then 131072 else 128 * pkOf aop A.f B.f)) && (P.last || P.ks % kb == 0)) 10 o
  | _, _ => common

/-- The array stream of a queue: each pass beside the one before it and the tiles open; at the end no tile is open. -/
def arrayStream (b : Bytes) (d : Nat) : Option Bytes → List OpenTile → Nat → List (Nat × Bytes) → List Bad
  | _, op, lastOff, [] => chk op.isEmpty 10 lastOff
  | prev, op, _, (o, s) :: rest =>
    if stepKind s ≠ 1 then arrayStream b d prev op o rest
    else
      let P := passOf s
      let left := op.filter (·.bank != P.bank)
      arrayBad b d prev op o s ++
        arrayStream b d (some s) (if P.last then left else { bank := P.bank, step := s, next := P.k0 + P.ks } :: left) o rest

/-! ## VECTOR steps (R81 to R102, R130 to R135, R175, R176, R281) -/

def isEw (op : Nat) : Bool := decide ((1 ≤ op ∧ op ≤ 0xC) ∨ (0x10 ≤ op ∧ op ≤ 0x18))
def isIntOp (op : Nat) : Bool := decide (0x10 ≤ op ∧ op ≤ 0x18)
def isSfu (op : Nat) : Bool := decide (0x20 ≤ op ∧ op ≤ 0x34)
def isRed (op : Nat) : Bool := decide (0x40 ≤ op ∧ op ≤ 0x43)

/-- The vector ops of R176, and which of SRC0 to SRC2 each takes: 0 absent, 1 optional, 2 required. -/
def vecUse (op x : Nat) : Option (List Nat) :=
  if op = 4 ∨ op = 7 ∨ op = 0xB then some [2, 2, 2]
  else if op = 8 ∨ op = 9 ∨ op = 0xC then some [2, 0, 0]
  else if isEw op then some [2, 2, 0]
  else if isSfu op then some [2, 0, 0]
  else if isRed op then some [2, 1, 0]
  else match op with
    | 0x48 => some (if x.testBit 0 then [2, 1, 1] else [2, 1, 0])
    | 0x50 => some [2, if x % 4 = 0 then 0 else 2, 1]
    | 0x58 => some [2, 2, 2]
    | 0x60 => some [2, 2, 0]
    | 0x61 => some [2, 2, 0]
    | 0x68 => some [2, 1, 0]
    | 0x70 => some [2, 0, 0]
    | 0x71 => some [2, 1, 0]
    | 0x78 => some [2, 2, 0]
    | 0x79 => some [2, 2, 0]
    | 0x7A => some [2, 0, 0]
    | 0x7B => some [0, 0, 0]
    | 0x80 => some (if x = 5 then [1, 0, 0] else [2, 0, 0])
    | 0x88 => some [2, 2, if x.testBit 0 then 2 else 1]
    | _ => none

/-- P and X hold nothing but what R176 gives the op, and no reserved code. -/
def vecPxOk (op p x : Nat) : Bool :=
  match op with
  | 0x0A => p == 0 && decide (x ≤ 5)
  | 0x48 => p == 0 && decide (x ≤ 1)
  | 0x50 => decide (x < 8 ∧ x % 4 ≠ 3)
  | 0x58 => decide (x ≤ 1)
  | 0x60 => p == 0 && decide (x ≤ 1)
  | 0x61 => p == 0 && decide (x ≤ 3)
  | 0x68 => decide (p < 1024 ∧ x ≤ 1)
  | 0x71 => decide (p < 4) && x == 0
  | 0x78 => decide (p < 32) && x == 0
  | 0x7A => decide (p < 32) && x == 0
  | 0x7B => decide (p < 32) && x == 0
  | 0x80 => p == p &&& (if x = 5 then 0x1F07 else 7) && decide (x ≤ 5)
  | 0x88 => p == 0 && decide (x ≤ 1)
  | _ => p == 0 && x == 0

def isFl16 (c : Nat) : Bool := decide (c ≤ 2)
def isOut5 (c : Nat) : Bool := decide (c ≤ 4)
def isInt3 (c : Nat) : Bool := c == 0x20 || c == 0x21 || c == 0x22
/-- Sources of a float op (R86). -/
def isVin (c : Nat) : Bool := isOut5 c || isInt3 c
/-- A source of a region of `r` × `c`: full or broadcast (R82, R182). -/
def Tile.covers (t : Tile) (r c : Nat) : Bool := (t.rows == r || t.rows == 1) && (t.cols == c || t.cols == 1)
def Tile.shape (t : Tile) (r c : Nat) : Bool := t.rows == r && t.cols == c
/-- An absent operand passes. -/
def optT (t : Option Tile) (f : Tile → Bool) : Bool := match t with
  | some t => f t
  | none => true

/-- Formats and shapes of a vector step's operands, those that are there. Where the op's own rule lists no formats they are the model's (DESIGN CHOICE,
entry 53): `RED` (R89) writes FP32, BF16, FP16, E4M3 or E5M2; `ROPE` (R90) reads what the element-wise ops read and writes those five; `SUMMARY` (R101)
reads what the element-wise ops read, and BIT1. -/
def vecShapeOk (op : Nat) (v : VStep) (t0 t1 t2 dst dst2 : Option Tile) : Bool :=
  let r := (t0.map (·.rows)).getD 1
  let c := (t0.map (·.cols)).getD 1
  let f0 := (t0.map (·.fmt)).getD 0
  let out := v.outFmt
  let dstIs (rr cc : Nat) : Bool := optT dst fun t => t.shape rr cc && t.fmt == out
  if op ≠ 0x60 ∧ c > 1048576 then false
  else if isEw op then
    let srcF (t : Tile) : Bool := if isIntOp op then isInt3 t.fmt else isVin t.fmt
    optT t1 (fun t => srcF t && t.covers r c) && optT t2 (fun t => srcF t && t.covers r c) && dstIs r c &&
      (if op = 0xB then f0 == 0x22 else optT t0 srcF) &&
      (if isIntOp op then isInt3 out else if op = 0xA then out == 0x22 else isOut5 out || out == 0x20 || out == 0x21)
  else if isSfu op then isVin f0 && isOut5 out && dstIs r c
  else if isRed op then
    isVin f0 && isOut5 out && dstIs r 1 && optT t1 fun t => t.fmt == 0x22 && t.covers r c
  else match op with
    | 0x48 => isFl16 f0 && isOut5 out && dstIs r c && optT t1 (fun t => isFl16 t.fmt && t.shape 1 c) &&
        optT t2 fun t => isFl16 t.fmt && t.shape 1 c
    | 0x50 => isFl16 f0 && isOut5 out && dstIs r c &&
        optT t1 (fun t => (if v.x % 4 = 1 then t.fmt == 0x23 else isFl16 t.fmt) && (t.rows == r || t.rows == 1) && t.cols == c) &&
        optT t2 (fun t => t.fmt == 0x21 && (t.rows == r || t.rows == 1) && t.cols == 1) &&
        optT dst2 fun t => t.fmt == 0 && t.shape r 1
    | 0x58 => isVin f0 && isOut5 out && dstIs r c && decide (v.p % 2 = 0 ∧ 2 ≤ v.p ∧ v.p ≤ c) &&
        optT t1 (fun t => t.fmt == 0x21 && (t.rows == r || t.rows == 1) && t.cols == 1) && optT t2 fun t => t.fmt == 0x21 && t.shape 1 (v.p / 2)
    | 0x60 => match t0, t1, dst with
        | some w, some i, some t => decide (t.cols ≤ 1048576) && w.fmt == t.fmt && i.fmt == 0x21 &&
            (if v.x.testBit 0 then i.shape t.rows t.cols else i.shape t.rows 1 && w.cols == t.cols)
        | _, _, _ => true
    | 0x61 => match t0, t1, dst with
        | some t, some i, some w => w.fmt == t.fmt && (!v.x.testBit 1 || w.fmt == 0) && i.fmt == 0x21 &&
            (if v.x.testBit 0 then i.shape t.rows t.cols else i.shape t.rows 1 && w.cols == t.cols)
        | _, _, _ => true
    | 0x68 => isVin f0 && isFl16 out && dstIs r (v.p + 1) && optT t1 (fun t => t.fmt == 0x22 && t.covers r c) &&
        optT dst2 fun t => t.fmt == 0x21 && t.shape r (v.p + 1)
    | 0x70 => isFl16 f0 && (isOut5 out || out == 0x20 || (fmtD out).blk != 0) && dstIs r c &&
        ((fmtD out).blk != 0) == dst2.isSome && decide ((fmtD out).blk = 0 ∨ c % (fmtD out).blk = 0) &&
        (match dst, dst2 with
          | some t, some u => u.fmt == 0x22 && u.base == t.base && u.idx == t.idx && (u.off : Int) == (t.off : Int) + t.soff
          | _, _ => true)
    | 0x71 => isFl16 out && dstIs r c &&
        (if (fmtD f0).gs then v.p != 0 && (match t1 with
          | some u => u.f.w == 8 && u.f.scalar && (u.rows == r || u.rows == 1) && u.cols == ceilDiv c (gsizeOf (v.p % 4))
          | none => false) else true)
    | 0x78 => out == f0 && optT t1 (fun t => t.fmt == 0x22 && t.shape r 1) &&
        optT dst (fun t => t.fmt == f0 && t.cols == c && decide (r ≤ t.rows)) && optT dst2 fun t => t.fmt == 0x21 && t.cols == 1 && decide (r ≤ t.rows)
    | 0x79 => out == f0 && optT t1 (fun t => t.fmt == 0x21 && t.shape r 1) && optT dst fun t => t.fmt == f0 && t.cols == c
    | 0x7A => f0 == 0x21
    | 0x7B => optT dst fun t => t.fmt == 0x21
    | 0x80 => v.x == 5 || isVin f0 || f0 == 0x23
    | 0x88 => f0 == 0 && optT t1 (fun t => t.fmt == 0x22 && t.shape r 256) && optT t2 (fun t => t.fmt == 0x21 && t.shape 256 16) &&
        optT dst fun t => t.fmt == 0x21 && t.shape r 2
    | _ => true

/-- A destination and a source that R83 lets coincide. -/
def coincide (t u : Tile) : Bool :=
  t.paged == u.paged && t.base == u.base && t.idx == u.idx && t.fmt == u.fmt && t.off == u.off && t.stride == u.stride && t.rows == u.rows &&
    t.cols == u.cols

/-- A VECTOR step. No check meets the eps that a `NORM` step holds in IMM: the image is accepted, and a NaN, an infinity or a negative number there enters
the arithmetic as it is (DESIGN CHOICE, entry 55: R134 calls eps finite and at least +0, and R183 names no check of it). -/
def vectorBad (b : Bytes) (d q o : Nat) (s : Bytes) : List Bad :=
  let v := vstepOf s
  let op := stepOp s
  match vecUse op v.x with
  | none => chk false 7 o ++ chk (fld s 0x1F 1 / 8 == 0 && (fmtOf v.outFmt).isSome) 3 o
  | some use =>
    let srcs := [v.src0, v.src1, v.src2]
    let t (i : Nat) : Option Tile := if i ≥ 0xFFFE then none else imTile b d i
    let ts := srcs.map t
    let dst := t v.dst
    let dst2 := t v.dst2
    let noDst := op == 0x7A || op == 0x80
    let g := stepGroup s
    chk (imSummary b && op != 0x78 && op != 0x79 || !imSummary b && op != 0x80) 7 o ++
      chk (vecPxOk op v.p v.x && fld s 0x1F 1 / 8 == 0 && (fmtOf v.outFmt).isSome) 3 o ++
      chk (!(op == 0x78 || op == 0x7A) || v.p % 32 / 16 == q - 8) 12 o ++
      chk (((srcs.zip use).zipIdx.all fun ((i, u), k) =>
          (u != 0 || i == 0xFFFF) && (u != 2 || i != 0xFFFF) && (i != 0xFFFE || (k != 0 && isEw op)) && (decide (i ≥ 0xFFFE) || (t i).isSome)) &&
        (if v.dst = 0xFFFF then noDst else dst.isSome) &&
        (if v.dst2 = 0xFFFF then op != 0x68 && op != 0x78 else dst2.isSome && (op == 0x50 || op == 0x68 || op == 0x70 || op == 0x78)) &&
        (ts.zipIdx.all fun (x, k) => optT x fun x => !x.paged || (k == 0 && (isEw op || isRed op || op == 0x50))) &&
        (optT dst fun x => !x.paged) && (optT dst2 fun x => !x.paged) &&
        vecShapeOk op v (lget none ts 0) (lget none ts 1) (lget none ts 2) dst dst2) 8 o ++
      chk ((ts.all fun x => optT x (ownOk d)) && optT dst (fun x => ownOk d x && roOk b x) && optT dst2 fun x => ownOk d x && roOk b x) 9 o ++
      (srcs.flatMap fun i => if i ≥ 0xFFFE then [] else gsBad b d i g) ++
      chk ([dst, dst2].all fun x => optT x fun x => ts.all fun y => optT y fun y =>
        ((isEw op || op == 0x58) && coincide x y) || !runsMeet (x.runs g) (y.runs g)) 11 o

/-! ## TRANSFORM and DMA steps (R103, R104, R177, R178) -/

/-- A TRANSFORM step. Its SRC and DST may overlap (DESIGN CHOICE, entry 54: R83 speaks of vector steps, R143 carries its placement over to the transform
unit, and no rule says whether the overlap rule goes with it). -/
def transformBad (b : Bytes) (d o : Nat) (s : Bytes) : List Bad :=
  let u := fld s 0x18 4
  let src := imTile b d (fld s 8 2)
  let dst := imTile b d (fld s 0xA 2)
  let out := bits u 23 18
  let rot := gsizeOf (bits u 16 15)
  chk (stepOp s == 1) 7 o ++
    chk (isZero s 0xE 2 && bits u 31 25 == 0 && isZero s 0x1C 4 && (fmtOf out).isSome) 3 o ++
    chk (match src, dst with
      | some x, some y => !x.paged && !y.paged && isFl16 x.fmt && (isOut5 out || out == 0x20 || (fmtD out).blk != 0) && y.fmt == out &&
          y.shape x.rows x.cols && decide (rot = 0 ∨ x.cols % rot = 0) && decide ((fmtD out).blk = 0 ∨ x.cols % (fmtD out).blk = 0)
      | _, _ => false) 8 o ++
    chk (optT src (ownOk d) && optT dst fun x => ownOk d x && roOk b x) 9 o ++
    chk ((fld s 0x10 8 == 0) == (rot == 0) && (!u.testBit 14 || optT src fun x => decide (bits u 13 0 + x.cols ≤ 16384))) 15 o

def dmaBad (b : Bytes) (d o : Nat) (s : Bytes) : List Bad :=
  let op := stepOp s
  let h := fld s 0xE 2
  let param := fld s 0x10 8
  let src := imTile b d (fld s 8 2)
  let dst := imTile b d (fld s 0xA 2)
  let g := stepGroup s
  chk (decide (1 ≤ op ∧ op ≤ 3)) 7 o ++
    chk (bits h 11 7 == 0 && isZero s 0x18 8 && (op == 2 || bits h 15 12 == 0) &&
      (op == 2 || decide (param < (if op = 3 then 2 ^ 32 else 4)))) 3 o ++
    (if op = 2 then
      chk (fld s 8 2 == 0xFFFF && fld s 0xA 2 == 0xFFFF && bits h 6 0 == 0) 8 o ++ chk (argKindOf (imArg b (bits h 15 12)) == 5) 5 o
    else
      chk (optT dst (roOk b)) 9 o ++
      chk (match src, dst with
        | some x, some y => if op = 3 then !x.paged && !y.paged else x.fmt == y.fmt && x.rows == y.rows && x.cols == y.cols && x.f.gs == (g != 0)
        | _, _ => false) 8 o ++
      chk (op == 1 || bits h 6 0 == 0) 8 o ++ gsBad b d (fld s 8 2) g ++ gsBad b d (fld s 0xA 2) g)

/-! ## Steps -/

/-- Reserved bits of a step header (R169). -/
def headerRsv (s : Bytes) : Bool :=
  let h := stepHead s
  bits h 15 12 == 0 && !h.testBit 23 && !h.testBit 31 && !h.testBit 39 && !h.testBit 47 && bits h 63 54 == 0 && decide (stepKind s ≤ 5)

/-- Kinds that a queue allows (R169). -/
def kindAllowed (q k : Nat) : Bool :=
  k == 0 || (if q < 8 then k == 1 else if q < 10 then k == 2 || k == 5 else if q = 10 then k == 3 || k == 5 else k == 4)

/-- A step beside its queue, ARRAY steps apart. -/
def stepBad (b : Bytes) (d q : Nat) (x : Nat × Bytes) : List Bad :=
  let (o, s) := x
  let k := stepKind s
  chk (headerRsv s) 3 o ++ chk (kindAllowed q k) 7 o ++
    chk ((stepCount s).isNone || k == 1 || k == 2 || k == 3 || k == 4) 12 o ++
    (match k with
      | 0 => chk (stepOp s == 0) 7 o ++ chk (isZero s 8 24) 3 o
      | 2 => vectorBad b d q o s
      | 3 => transformBad b d o s
      | 4 => dmaBad b d o s
      | 5 => chk (stepOp s == 0) 7 o ++ chk (isZero s 0xA 22) 3 o
      | _ => [])

/-! ## Segments: tokens and orders (R62, R96, R184, R189) -/

/-- The remote token of a MOVE (R178), as 64 × die + token. -/
def remoteTok (b : Bytes) (d : Nat) (s : Bytes) : List Nat :=
  if stepKind s = 4 ∧ stepOp s = 1 ∧ (fld s 0xE 1).testBit 6 then
    match imTile b d (fld s 0xA 2) with
    | some t => if t.base < 2 then [64 * t.idx + fld s 0xE 1 % 64] else []
    | none => []
  else []

/-- The queues of segment `g` that hold steps. -/
def segNet (b : Bytes) (g : Nat) : List NQueue :=
  (imQueues b).filterMap fun (d, q) =>
    let l := imSteps b g d q
    if l.isEmpty then none
    else some { die := d, q := q, steps := l.map fun (_, s) => ((stepWaits s).map (64 * d + ·), (stepSignals s).map (64 * d + ·) ++ remoteTok b d s) }

/-- A step of a segment: its place in the net, its die and queue, its offset and bytes. -/
structure SegStep where
  place : Nat × Nat
  die : Nat
  q : Nat
  off : Nat
  s : Bytes
  deriving DecidableEq, Repr

def segSteps (b : Bytes) (g : Nat) : List SegStep :=
  ((segNet b g).zipIdx.map fun (n, i) => (imSteps b g n.die n.q).zipIdx.map fun (x, k) =>
    ({ place := (i, k), die := n.die, q := n.q, off := x.1, s := x.2 } : SegStep)).flatten

/-- Count slots that a step reads, and the one that it writes (R96, R97, R99, R101). -/
def countReads (s : Bytes) : List Nat :=
  (stepCount s).toList ++
    (if stepKind s = 2 ∧ stepOp s = 0x7B then [(vstepOf s).p % 32] else []) ++
    (if stepKind s = 2 ∧ stepOp s = 0x80 ∧ (vstepOf s).x = 5 then [bits (vstepOf s).p 12 8] else [])
def countWrite (s : Bytes) : Option Nat :=
  if stepKind s = 2 ∧ (stepOp s = 0x78 ∨ stepOp s = 0x7A) then some ((vstepOf s).p % 32) else none

/-- COUNT_ORDER: a reader and a writer of a slot that no order relates (R96). -/
def countBad (b : Bytes) (g : Nat) : List Bad :=
  let net := segNet b g
  let l := segSteps b g
  l.flatMap fun x => match countWrite x.s with
    | none => []
    | some c => l.flatMap fun y =>
      chk (y.place == x.place || y.die != x.die || !(countReads y.s).contains c || netBefore net x.place y.place ||
        netBefore net y.place x.place) 12 (min x.off y.off)

/-- Number of the tile that a pass belongs to, counted along its stream. -/
def tileNo : List SegStep → Nat → List (Nat × Nat) → List (SegStep × Nat)
  | [], _, _ => []
  | x :: l, n, op =>
    let P := passOf x.s
    match (if P.first then none else op.find? (·.1 == P.bank)) with
    | some (_, k) => (x, k) :: tileNo l n op
    | none => (x, n) :: tileNo l (n + 1) ((P.bank, n) :: op.filter (·.1 != P.bank))

/-- OVERLAP on an array (R62): a result region and the operands of any pass of the stream that may be in flight with it: no tile of the same
bank between them (R61), and no token between them. -/
def flightBad (b : Bytes) (g : Nat) : List Bad :=
  let net := segNet b g
  (net.zipIdx.filter fun n => n.1.q < 8).flatMap fun (_, i) =>
    let l := tileNo ((segSteps b g).filter fun x => x.place.1 == i && stepKind x.s == 1) 0 []
    let runs (x : SegStep) (w : Bool) : List (Nat × Int × Nat) :=
      runsOf b x.die (stepGroup x.s) (if w then stepWrites x.s else stepReads x.s)
    let together (x y : SegStep × Nat) : Bool :=
      let (u, v) := if x.1.place.2 < y.1.place.2 then (x, y) else (y, x)
      !(l.any fun z => decide (u.1.place.2 < z.1.place.2 ∧ z.1.place.2 ≤ v.1.place.2) && (passOf z.1.s).bank == (passOf u.1.s).bank && z.2 != u.2) &&
        !netBefore net u.1.place v.1.place
    l.flatMap fun x => chk (l.all fun y => !runsMeet (runs x.1 true) (runs y.1 false) || (x != y && !together x y)) 11 x.1.off

/-- Destination areas of the warm-up: die, start, end, offset of the entry (R189). -/
def warmAreas (b : Bytes) : List (Nat × Nat × Nat × Nat) :=
  (List.range (imWarms b)).map fun i =>
    let o := imWarmAt b i
    (fld b (o + 1) 1, fld b (o + 8) 4 % 2 ^ 26, fld b (o + 8) 4 % 2 ^ 26 + fld b (o + 4) 4, o)

/-- The warm-up table (R189). -/
def warmBad (b : Bytes) : List Bad :=
  (warmAreas b).zipIdx.flatMap fun ((d, lo, hi, o), i) =>
    let a := imArg b (fld b o 1 % 16)
    let n := fld b (o + 4) 4
    chk (fld b o 1 / 16 == 0 && isZero b (o + 2) 2 && fld b (o + 8) 4 / 2 ^ 26 == 0) 3 o ++
      chk (argKindOf a == 2 && argRo a && decide (12 ≤ argAlign a) && decide (d < imDies b) && decide (n % 4096 = 0 ∧ n ≤ 0x4000000) &&
        decide (lo % 64 = 0 ∧ hi ≤ spSize) && decide (fld b (o + 12) 4 * 4096 + n ≤ argSizeOf a) &&
        ((warmAreas b).take i).all fun (d', lo', hi', _) => d' != d || decide (hi ≤ lo' ∨ hi' ≤ lo)) 16 o

/-- WARMUP within segment ENTRY: a step that writes bytes of an area comes after every step that reads any of them. -/
def warmOrder (b : Bytes) : List Bad :=
  let g := imEntry b
  let net := segNet b g
  let l := segSteps b g
  (warmAreas b).flatMap fun (d, lo, hi, _) =>
    let part (x : SegStep) (w : Bool) : List (Nat × Int × Nat) :=
      ((runsOf b x.die (stepGroup x.s) (if w then stepWrites x.s else stepReads x.s)).filter (·.1 == d)).map (clipRun lo hi)
    l.flatMap fun x => chk (l.all fun y => x == y || !runsMeet (part x true) (part y false) || netBefore net y.place x.place) 16 x.off

/-- TOKEN (R178, R184): the segment's entry offends. -/
def tokenBad (b : Bytes) (g : Nat) : List Bad :=
  chk (netSound (segNet b g)) 13 (imSegAt b g) ++
    (segSteps b g).flatMap fun x =>
      chk (!(stepKind x.s == 4 && stepOp x.s == 1 && (fld x.s 0xE 1).testBit 6) || optT (imTile b x.die (fld x.s 0xA 2)) fun t => decide (t.base < 2)) 13
        (imSegAt b g)

/-! ## SUMMARY (R184) -/

/-- Steps that write summary words: offset, word by (die, engine, index), and format. -/
def summaryWrites (b : Bytes) : List (Nat × (Nat × Nat × Nat) × Nat) :=
  ((List.range (imSegs b)).flatMap fun g => (imQueues b).flatMap fun (d, q) => (imSteps b g d q).filterMap fun (o, s) =>
    if stepKind s = 2 ∧ stepOp s = 0x80 then some (o, (d, q - 8, (vstepOf s).p % 8), if (vstepOf s).x < 3 then 0 else 0x21) else none)

/-- The format of a word: the one that the step at the lowest offset gives it. -/
def wordFmt (l : List (Nat × (Nat × Nat × Nat) × Nat)) (k : Nat × Nat × Nat) : Option Nat :=
  ((l.filter fun x => x.2.1 == k).foldl (fun (m : Option (Nat × Nat)) x => match m with
    | some (o, _) => if x.1 < o then some (x.1, x.2.2) else m
    | none => some (x.1, x.2.2)) none).map Prod.snd

def summaryBad (b : Bytes) : List Bad :=
  let l := summaryWrites b
  (l.flatMap fun x => chk (wordFmt l x.2.1 == some x.2.2) 14 x.1) ++
    (List.range (imSels b)).flatMap fun i =>
      let o := imSelAt b i
      if fld b o 1 = 1 then
        match wordFmt l (fld b (o + 1) 1, fld b (o + 2) 1, fld b (o + 3) 1) with
        | some f => chk (f == (if fld b (o + 4) 1 = 2 then 0 else 0x21)) 14 o
        | none => []
      else []

/-! ## The whole -/

/-- The checks of R183 after HEADER and LAYOUT. -/
def bodyBad (b : Bytes) (placed : Bool) : List Bad :=
  headerReserved b ++ chk placed 4 0 ++ chk (decide (imEntry b < imSegs b)) 6 0 ++ (List.range 16).flatMap (argBad b) ++
    ((List.range (imDies b)).flatMap fun d => dieBad b d ++
      (List.range (fld b (imDieAt b d + 4) 2)).flatMap fun i => match imDesc b d i with
        | some (o, r) => descBad b o r
        | none => []) ++
    (List.range (imSegs b)).flatMap (segBad b) ++ (List.range (imSels b)).flatMap (selBad b) ++ warmBad b ++
    ((List.range (imSegs b)).flatMap fun g =>
      ((imQueues b).flatMap fun (d, q) => (imSteps b g d q).flatMap (stepBad b d q) ++
        (if q < 8 then arrayStream b d none [] 0 (imSteps b g d q) else [])) ++
      tokenBad b g ++ countBad b g ++ flightBad b g) ++
    warmOrder b ++ summaryBad b

/-- Logical dies of a job on polder `p` (R160): stacked dies first, each ascending; the first `nstk` carry the logical stacks. -/
def Dev.binding (d : Dev) (p nd nstk : Nat) : Option (List Nat) :=
  let sites := d.jobSites p
  let stacked := sites.filter d.isStacked
  let first := stacked.take nstk
  let rest := sites.filter fun s => !first.contains s
  if stacked.length < nstk ∨ sites.length < nd then none else some (first ++ rest.take (nd - nstk))

/-- R158: the image address lies in a stack of the polder, on 4 KiB, below the system area; how far the image may reach. -/
def Dev.imageRoom (d : Dev) (p a : Nat) : Option Nat :=
  match region a with
  | .stack s off =>
    if (d.polStacks p).contains s && off % 4096 == 0 && decide (off < sysOff) then some (sysOff - off) else none
  | _ => none

/-- The result of validating the image at `a` for polder `p`: the check that it fails, if any (R183). -/
def W.validate (w : W) (p a : Nat) : Option Bad :=
  match w.d.imageRoom p a with
  | none => some (2, 0)
  | some room =>
    let h := w.read a (min room 256)
    if room < 256 then some (2, 0)
    else if !headOkIm h then some (1, 0)
    else if imLen h > 0x8000000 ∨ imLen h > room then some (2, 0)
    else
      let b := w.read a (imLen h)
      if !crcOkIm b then some (1, 0)
      else match worst (layoutBad b) with
        | some x => some x
        | none => worst (bodyBad b (w.d.binding p (imDies b) (imStacks b)).isSome)

end Sys2Proof.Machine
end

