-- ==== Sys2Proof/Machine/Tables.lean ====
section
/-! DEFINITION. Table loads and activations by descriptor: function tables, smoothing vectors and page tables (R104, R112 to R117, R122 to R129,
R152, R153, R214, R215, R255, R256). -/

namespace Sys2Proof.Machine

/-! ## The contents of a load -/

/-- An FP32 code is finite. -/
def finite32 (c : Nat) : Bool := bits c 30 23 != 255
/-- An FP32 code is a positive, finite, normal value (R104). -/
def smoothOk (c : Nat) : Bool := decide (0x00800000 ≤ c ∧ c < 0x7F800000)

/-- A segment entry without a reserved field or code (R115). -/
def segmentOk (b : Bytes) : Bool := fld b 0 1 % 16 == 0 && bits (fld b 0 1) 5 4 < 2

/-- A tail's constants, those that its kind uses, are finite (R117). -/
def tailOk (kind a b : Nat) : Bool :=
  match kind with
  | 0 => finite32 a
  | 1 => true
  | 2 => finite32 a && finite32 b
  | 3 => true
  | _ => false

/-- LO + 2^W, rounded to binary32, is finite (R117). -/
def linTopOk (lo w : Nat) : Bool :=
  match decodeF fmtFP32 lo with
  | .num s m e =>
    let k := sext 8 w
    let base := min e k
    let sum : Int := (if s then -(m : Int) else (m : Int)) * 2 ^ (e - base).toNat + 2 ^ (k - base).toNat
    finite32 (toFloat fmtFP32 false false (intXR sum base)).1
  | _ => false

/-- A slot header (R114, R117). -/
def slotHeadOk (b : Bytes) : Bool :=
  let mode := fld b 0 1
  let lnb := fld b 3 1
  decide (mode ≤ 2) && fld b 1 1 / 4 == 0 && fld b 0xA 2 == 0 && fld b 0x1C 4 == 0 &&
    (match mode with
      | 0 => lnb == 0 && finite32 (fld b 4 4) && linTopOk (fld b 4 4) (fld b 2 1)
      | 1 => decide (lnb ≤ 8) && fld b 4 4 == 0
      | _ => decide (lnb ≤ 7) && fld b 4 4 == 0) &&
    tailOk (fld b 8 1) (fld b 0xC 4) (fld b 0x10 4) && tailOk (fld b 9 1) (fld b 0x14 4) (fld b 0x18 4)

/-- A slot section: 32 bytes of header and 256 segment entries (R113). -/
def sectionOk (b : Bytes) : Bool := slotHeadOk b && (List.range 256).all fun i => segmentOk (slice b (32 + 12 * i) 12)

/-- The user slots of a user table image, by slot number, or nothing where R117 refuses it. -/
def userTable (b : Bytes) : Option (Tab Bytes) :=
  let present := bitsSet (fld b 6 1) 5
  let len := 64 + 3104 * present.length
  let secs := present.zipIdx.map fun (n, i) => (11 + n, slice b (64 + 3104 * i) 3104)
  if fld b 0 4 == 0x54425355 && fld b 4 2 == 2 && decide (fld b 6 1 < 32) && fld b 7 1 == 0 && isZero b 0x10 0x28 && fld b 0x38 4 == len &&
      b.length == len && crc32c (b.take 0x3C ++ b.drop 64) == fld b 0x3C 4 && secs.all fun s => sectionOk s.2
  then some secs else none

/-- Little-endian words of `k` bytes. -/
def wordsOf (k : Nat) : Nat → Bytes → List Nat
  | 0, _ => []
  | n + 1, b => le (b.take k) :: wordsOf k n (b.drop k)

/-- A table with the words `l` from index `off` on, entries equal to the default left out. -/
def overlay (dflt : Nat) (T : Tab Nat) (off : Nat) (l : List Nat) : Tab Nat :=
  (T.filter fun x => decide (x.1 < off)) ++ ((l.zipIdx.map fun (v, i) => (off + i, v)).filter fun x => x.2 != dflt) ++
    T.filter fun x => decide (off + l.length ≤ x.1)

/-- Every entry of a smoothing bank is positive, finite and normal (R104). -/
def smoothBankOk (dflt : Nat) (T : Tab Nat) : Bool := T.all (fun x => smoothOk x.2) && (smoothOk dflt || T.length == 16384)

/-- A page-table entry that a load may write (R152, R153): one with VALID = 1 has its reserved bits zero, this device's CHIP, and a local
frame in a stack of the polder. -/
def Dev.ptOk (d : Dev) (p e : Nat) : Bool :=
  !e.testBit 46 ||
    (bits e 55 48 == 0 && bits e 45 43 == 0 && bits e 42 30 == d.hub.chip && (d.polStacks p).contains (bits e 29 0 / 524288) &&
      decide (bits e 29 0 % 524288 ≤ 392959))

/-! ## Fields of the descriptors (R214, R215) -/

def tTarget (b : Bytes) : Nat := fld b 8 1 % 16
def tBank (b : Bytes) : Nat := fld b 9 1 % 2
def tTag (b : Bytes) : Nat := fld b 0xA 2
def tCopy (b : Bytes) : Bool := (fld b 0xC 4).testBit 1
def tLen (b : Bytes) : Nat := fld b 0x18 4
def tOff (b : Bytes) : Nat := fld b 0x1C 4

/-- The layout of TABLE_LOAD. -/
def tableLoadOk (b : Bytes) : Bool :=
  let t := fld b 8 1
  let f := fld b 0xC 4
  decide (t ≤ 2) && decide (fld b 9 1 ≤ 1) && decide (f < 4) && (if t = 0 then !f.testBit 1 && tOff b == 0 else !f.testBit 0) &&
    (tLen b != 0 || fld b 0x10 8 == 0) && tLen b % (if t = 0 then 1 else if t = 1 then 4 else 8) == 0 && isZero b 0x20 0x20

/-- The layout of TABLE_ACTIVATE. -/
def tableActOk (b : Bytes) : Bool := decide (fld b 8 1 ≤ 2) && fld b 9 1 == 0 && isZero b 0xC 0x34

/-! ## Loading -/

def W.modBanks (w : W) (l : List Nat) (f : Bank → Bank) : W := w.each l fun w n => w.modBank n f

/-- The refusal of a load of the banks `l` (R122, R123): of the first that refuses it. -/
def Dev.loadRefusal (d : Dev) (l : List Nat) : Option Nat := l.findSome? fun n => (d.bank n).loadRefused

/-- A load begins (R123 steps 1 to 3): every target bank LOADING, an EMPTY smoothing or page-table bank from all-zero entries, and the source
read where there is one. While it lasts, TBL_BANK_STATE shows the tag and flavour that the bank had (DESIGN CHOICE, entry 57: R122 does not say what they
read in LOADING). -/
def W.beginLoad (w : W) (p r : Nat) (b : Bytes) : W :=
  let l := w.d.targetBanks p (tTarget b) (tBank b)
  match w.d.loadRefusal l with
  | some st => w.completeSt r st
  | none =>
    let w := if tTarget b = 2 && (w.d.bank (ptBank p (tBank b))).st == 1 then w.zero (ptBase (w.d.pol p).home (tBank b)) 0x1000000 else w
    let w := w.modBanks l fun B => if B.st = 1 then { B with st := 2, vals := [], dflt := 0, user := [] } else { B with st := 2 }
    if tLen b = 0 then w
    else
      let (t, w) := w.hostRead (fld b 0x10 8) (tLen b) (.descData r)
      w.modRing r fun R => { R with desc := R.desc.map fun D => { D with tag := some t } }

/-- A load fails: every target bank EMPTY (R123, R153); the record counts the corrections that its reading met (R221). -/
def W.failLoad (w : W) (p r : Nat) (b : Bytes) (status detail : Nat) (check : Nat := 0) : W :=
  (w.modBanks (w.d.targetBanks p (tTarget b) (tBank b)) fun _ => { st := 1 }).complete r { status := status, detail := detail, check := check }

/-- The contents of a load of smoothing banks, at every site; nothing where R104 or R214 refuses them. -/
def W.loadSmooth (w : W) (p : Nat) (b : Bytes) (src : List Nat) : Option W :=
  if tOff b + src.length > 16384 then none
  else
    let go (w : W) (s : Nat) : Option W :=
      let B := w.d.bank (smBank s (tBank b))
      let A := w.d.bank (smBank s (1 - tBank b))
      let C := if tCopy b then A else B
      let vals := overlay C.dflt C.vals (tOff b) src
      if smoothBankOk C.dflt vals then
        some (w.modBank (smBank s (tBank b)) fun B => { B with st := 3, tag := tTag b, dflt := C.dflt, vals := vals })
      else none
    (w.d.polSites p).foldlM go w

/-- The contents of a load of a page-table bank (R153); nothing where it is refused. -/
def W.loadPt (w : W) (p : Nat) (b : Bytes) (src : List Nat) : Option W :=
  let n := (w.d.pol p).ptEntries
  let home := (w.d.pol p).home
  if tOff b + src.length > n || !(src.all (w.d.ptOk p)) then none
  else
    let w := if tCopy b then w.copyMem (ptBase home (tBank b)) (ptBase home (1 - tBank b)) (8 * n) else w
    let w := w.write (ptBase home (tBank b) + 8 * tOff b) (src.flatMap (toLe 8))
    some (w.modBank (ptBank p (tBank b)) fun B => { B with st := 3, tag := tTag b })

/-- A load ends with the bytes of its source (R123 step 4, R214, R220). -/
def W.endLoad (w : W) (p r : Nat) (b data : Bytes) (fx : MemFx) : W :=
  match tTarget b with
  | 0 =>
    let tab := if tLen b = 0 then some [] else userTable data
    match tab with
    | none => w.failLoad p r b stTABLE_BAD 0
    | some user =>
      (w.modBanks (w.d.targetBanks p 0 (tBank b)) fun B =>
        { B with st := 3, tag := tTag b, flavour := fld b 0xC 1 % 2, user := user }).complete r { info := tLen b }
  | 1 =>
    match w.loadSmooth p b (wordsOf 4 (tLen b / 4) data) with
    | none => w.failLoad p r b stTABLE_BAD 0
    | some w => w.complete r { info := tLen b / 4 }
  | _ =>
    let w := w.countFx p fx
    match MemFail.code fx.fail with
    | some (st, det) => (w.memReport p fx.fail).failLoad p r b st det (fxSummary fx)
    | none =>
      match w.loadPt p b (wordsOf 8 (tLen b / 8) data) with
      | none => w.failLoad p r b stTABLE_BAD 0 (fxSummary fx)
      | some w => w.complete r { info := tLen b / 8, check := fxSummary fx }

/-! ## Activation by descriptor (R124) -/

/-- Every engine exchanges its banks, or none does and the first refusal is the status. -/
def W.activateAll (w : W) (p r : Nat) (b : Bytes) : W :=
  let l := w.d.targetBanks p (tTarget b) 0
  let acts := l.map fun n => w.d.activation n (tTag b)
  match acts.findSome? fun a => match a with
    | .refused st => some st
    | _ => none with
  | some st => w.completeSt r st
  | none =>
    (w.each acts fun w a => match a with
      | .exchange x y => w.exchange x y
      | _ => w).completeSt r stOK

/-! ## Waiting and performing (R124, R256) -/

/-- The tenant record changes (R255, R256): the scrub runs first when the tag differs from the record. -/
def W.toTenant (w : W) (p tag : Nat) : W :=
  let differs := match (w.d.pol p).tenant with
    | some t => t != tag
    | none => false
  (if differs then w.tenantScrub p else w).modPol p fun P => { P with tenant := some tag }

/-- The table descriptor in progress on ring `r` has to wait for the running job: an activation always, a load of on-die banks when its
tenant differs from the record. -/
def Dev.tableWaits (d : Dev) (p r : Nat) (b : Bytes) : Bool :=
  (d.pol p).job.isSome &&
    (dType b == 6 || (decide (tTarget b < 2) && (match (d.pol p).tenant with
      | some t => t != (d.ctx (d.ring r).owner).tenant
      | none => false)))

/-- The table descriptor in progress on ring `r`, held until now, is performed if it need not wait. -/
def W.performTable (w : W) (p r : Nat) : W :=
  match (w.d.ring r).desc with
  | none => w
  | some D =>
    if !D.held || w.d.tableWaits p r D.bytes then w
    else
      let n := (w.d.ring r).owner
      let w := if tTarget D.bytes < 2 then (w.toTenant p (w.d.ctx n).tenant).modPol p fun P =>
        { P with tblCtx := P.tblCtx.filter (· != n) ++ [n] } else w
      let w := w.modRing r fun R => { R with desc := R.desc.map fun D => { D with held := false } }
      if dType D.bytes = 5 then w.beginLoad p r D.bytes else w.activateAll p r D.bytes

/-- A table descriptor is taken: held, and performed as soon as it may be. -/
def W.takeTable (w : W) (r : Nat) : W :=
  let w := w.modRing r fun R => { R with desc := R.desc.map fun D => { D with held := true } }
  w.performTable ((w.d.ringPol r).getD 16) r

/-- The rings of polder `p` whose table descriptor waits. -/
def Dev.heldRings (d : Dev) (p : Nat) : List Nat :=
  (d.rings.filter fun (r, R) => d.ringPol r == some p && (match R.desc with
    | some D => D.held
    | none => false)).map Prod.fst

/-- The table descriptors that waited are performed, in ring order. -/
def W.resumeHeld (w : W) (p : Nat) : W := w.each (w.d.heldRings p) fun w r => w.performTable p r

/-- TABLE_LOAD (R123, R214, R256). -/
def execTableLoad (r : Nat) (s : State) : Host.Outcome State Fault Refusal :=
  s.run fun w => w.takeFor r (fun b => dType b == 5) tableLoadOk fun w _ => w.takeTable r

/-- TABLE_ACTIVATE (R124, R215, R256). -/
def execTableActivate (r : Nat) (s : State) : Host.Outcome State Fault Refusal :=
  s.run fun w => w.takeFor r (fun b => dType b == 6) tableActOk fun w _ => w.takeTable r

/-- A page-table bank has drained: service firmware makes the changes that it made to the other one (R279). -/
def W.applyDelta (w : W) (p b : Nat) : W :=
  let P := w.d.pol p
  if P.svc.ptDelta.isEmpty then w
  else
    let w := w.each P.svc.ptDelta fun w (i, e) => w.write (ptBase P.home b + 8 * i) (toLe 8 e)
    w.modPol p fun P => { P with svc := { P.svc with ptDelta := [] } }

/-- Banks of a job's engines and of its polder. -/
def Dev.jobBanks (p : Nat) (j : Job) : List Nat :=
  (j.dies.flatMap fun s => [fnBank s 0 0, fnBank s 0 1, fnBank s 1 0, fnBank s 1 1, smBank s 0, smBank s 1]) ++ [ptBank p 0, ptBank p 1]

/-- Bank `n` is locked for a job as it becomes READY: the job holds such banks, has passed step 4 of R185, and the bank is one of its own (R126). -/
def Dev.locksBank (d : Dev) (p n : Nat) : Bool :=
  match (d.pol p).job with
  | some j => j.locks && (j.stage == .warmWait || j.stage == .running) && (Dev.jobBanks p j).contains n
  | none => false

/-- BANK_DRAIN_COMPLETE (R125, R126): DRAINING to READY, locked while a job that holds READY banks uses it. -/
def execBankDrainComplete (n : Nat) (s : State) : Host.Outcome State Fault Refusal :=
  s.run fun w =>
    if (w.d.bank n).st = 5 then
      let p := if n < 100 then w.d.sitePol (n / 4) else if n < 150 then w.d.sitePol ((n - 100) / 2) else some ((n - 150) / 2)
      let locks := match p with
        | some p => w.d.locksBank p n
        | none => false
      let w := w.modBank n fun B => { B with st := 3, locked := locks }
      if n < 150 then w else w.applyDelta ((n - 150) / 2) (n % 2)
    else w

end Sys2Proof.Machine
end

