-- ==== Sys2Proof/Machine/Jobs.lean ====
section
/-! DEFINITION. Jobs: how one is chosen and started, its segments, its warm-up, its faults, its watchdog, and the steps that only move the queues (R124
to R127, R158 to R173, R185 to R190, R210, R251 to R256). -/

namespace Sys2Proof.Machine

/-! ## The next job (R251, R256, R406) -/

/-- The polders that a self-test slice holds between jobs (R406). -/
def Dev.sliceHolds (d : Dev) (cmd : Nat) : List Nat :=
  let s := bits cmd 12 8
  let u := bits cmd 23 16
  match bits cmd 7 0 with
  | 1 =>
    let free := (d.die s).quar.testBit u || (d.die s).chkq.testBit u || (u == 8 && (d.logicalOf s 8).isNone)
    if free then [] else (d.sitePol s).toList
  | 2 => (d.sitePol s).toList
  | 3 => (d.sitePol s).toList
  | 5 => (List.range 16).filter fun p => (d.pol p).st != 0 && (d.pol p).landSize != 0
  | 6 => if 1 ≤ u ∧ u ≤ 3 then [] else (List.range 16).filter fun p => (d.pol p).st != 0
  | _ => []

/-- A slice waits for polder `p`'s next pause between jobs, or holds it. -/
def Dev.slicePauses (d : Dev) (p : Nat) : Bool :=
  d.bist.slots.any fun (_, S) => (S.st == 1 || S.st == 2) && (d.sliceHolds S.cmd).contains p

/-- Polder `p` may start a job: idle, no table descriptor waiting (R124, R256), no slice (R406). -/
def Dev.jobFree (d : Dev) (p : Nat) : Bool := (d.pol p).job.isNone && (d.heldRings p).isEmpty && !d.slicePauses p

/-- Ring `r` has a JOB ready (R185, R251). -/
def Dev.jobReady (d : Dev) (r : Nat) : Bool :=
  match d.takeable r with
  | some b => dType b == 1
  | none => false

/-- Context `n`'s jobs are passed over: a table descriptor of another tenant has set the record (R256). -/
def Dev.passedOver (d : Dev) (p n : Nat) : Bool :=
  !(d.pol p).tblCtx.isEmpty && (match (d.pol p).tenant with
    | some t => t != (d.ctx n).tenant
    | none => false)

/-- Rings of context `n` with a JOB ready. -/
def Dev.readyRings (d : Dev) (p n : Nat) : List Nat := if d.passedOver p n then [] else (d.ctxRings p n).filter d.jobReady

/-- Contexts of polder `p` with a job ready, ascending. -/
def Dev.readyCtxs (d : Dev) (p : Nat) : List Nat := (d.polCtxs p).filter fun n => !(d.readyRings p n).isEmpty

/-- The budget of a context is not spent (R243, R251). -/
def Ctx.hasBudget (C : Ctx) : Bool := C.slice == 0xFFFFFFFF || decide (C.budget > 0)

/-- The context whose job R251 runs next, and whether it is switched in. -/
def Dev.nextCtx (d : Dev) (p : Nat) : Option (Nat × Bool) :=
  let ready := d.readyCtxs p
  let after (c : Nat) : Option Nat := ((ready.filter (c < ·)) ++ (ready.filter (· ≤ c))).head?
  match (d.pol p).curCtx with
  | some c =>
    if ready.contains c && ((d.ctx c).hasBudget || ready.all (· == c)) then some (c, false) else (after c).map fun n => (n, true)
  | none => ready.head?.map fun n => (n, true)

/-- The ring whose JOB runs next in context `n`: the first after the ring of its last job (R251). -/
def Dev.nextRing (d : Dev) (p n : Nat) : Option Nat :=
  let l := d.readyRings p n
  match (d.ctx n).lastRing with
  | some r => ((l.filter (r < ·)) ++ (l.filter (· ≤ r))).head?
  | none => l.head?

/-- The switch to context `n` (R251, R190): its budget is refilled, a spent context gives up its slot, a warm-up of the old one is cancelled. -/
def W.switchCtx (w : W) (p n : Nat) : W :=
  let w := w.modCtx n fun C => { C with budget := (C.slice : Int) * 1000 }
  match (w.d.pol p).curCtx with
  | none => w
  | some c =>
    let w := if c = n then w else w.cancelWarm p true
    let C := w.d.ctx c
    let w := w.refresh p
    if c ≠ n && (w.d.pol p).hasCtx c && !C.hasBudget && C.res == 3 && !((w.d.ctxRings p c).any fun r => (w.d.ring r).runs) && (w.d.pol p).saveBase ≠ 0 &&
        ((w.d.polCtxs p).any fun m => (w.d.ctx m).pend != 0) then w.evict p c
    else w

/-! ## Arguments (R163, R210) -/

/-- The layout of a JOB descriptor. -/
def jobLayoutOk (b : Bytes) : Bool :=
  let f := fld b 0x38 8
  let argi := f.testBit 1
  let args := fld b 0x10 8
  fld b 0xE 2 == 0 && decide (f < (if dVer b = 0x21 then 4 else 2)) && (if argi then args == 0 else args % 8 == 0 && isZero b 0x18 0x20)

def jobArgi (b : Bytes) : Bool := (fld b 0x38 8).testBit 1
/-- The sixteen arguments of a descriptor whose argument block reads as `blk`. -/
def jobArgs (b blk : Bytes) : List Nat :=
  if jobArgi b then ((List.range 4).map fun n => fld b (0x18 + 8 * n) 8) ++ List.replicate 12 0 else (List.range 16).map fun n => fld blk (8 * n) 8

/-- The hub reads the argument block of a JOB descriptor, unless its arguments are inline (R210). -/
def W.readArgs (w : W) (b : Bytes) : W := w.when (!jobArgi b) fun w => w.askHost (fld b 0x10 8) 128

/-- A range is populated memory of polder `p` outside the system areas: a scratchpad or a stack (R163). -/
def Dev.localOk (d : Dev) (p a n : Nat) : Bool :=
  n == 0 || (match region a with
    | .stack _ _ => (d.reachAll .dma p a n false).isNone
    | .sp _ _ => (d.reachAll .dma p a n false).isNone
    | _ => false)

/-- Argument value `v` satisfies the slot entry `e` (R163). -/
def Dev.argOk (d : Dev) (p e v : Nat) : Bool :=
  let aligned := v % 2 ^ argAlign e == 0
  match argKindOf e with
  | 2 => aligned && d.localOk p v (argSizeOf e)
  | 3 => aligned && decide (v < 2 ^ 61) && (v / 2 ^ 48 != d.hub.chip || d.localOk p (v % 2 ^ 48) (argSizeOf e))
  | 4 => decide (v + argSizeOf e ≤ (d.pol p).ptEntries)
  | 5 => decide (v < 2 ^ 61) && (match region (v % 2 ^ 48) with
      | .slu _ _ => true
      | _ => false)
  | _ => true

/-- The lowest argument that fails (R163). -/
def Dev.badArg (d : Dev) (p : Nat) (img : Bytes) (args : List Nat) : Option Nat :=
  (List.range 16).find? fun n => !d.argOk p (imArg img n) (lget 0 args n)

/-- Ranges of the RO arguments (R163). -/
def roRanges (img : Bytes) (args : List Nat) : List (Nat × Nat) :=
  (List.range 16).filterMap fun n =>
    let e := imArg img n
    if argKindOf e = 2 && argRo e && argSizeOf e != 0 then some (lget 0 args n, argSizeOf e) else none

/-- The image contains an activation event (R126). -/
def imActivates (b : Bytes) : Bool :=
  (List.range (imSegs b)).any fun g =>
    (fld b (imSegAt b g + 0xA) 1).testBit 0 || (imQueues b).any fun (d, q) => (imSteps b g d q).any fun x => stepKind x.2 == 5

/-- The collectives that the image's COLL steps name (R335). -/
def imColls (b : Bytes) : List Nat :=
  ((List.range (imSegs b)).flatMap fun g => (imQueues b).flatMap fun (d, q) => (imSteps b g d q).filterMap fun x =>
    if stepKind x.2 == 4 && stepOp x.2 == 3 then some (fld x.2 0x10 2) else none).eraseDups

/-! ## Ends -/

/-- A job ends, and what waited for its end goes on. -/
def W.finishJob (w : W) (p : Nat) (c : Compl) : W := (w.endJob p c).resumeHeld p

/-- The job ends before it has run a step (R185 steps 2 to 4); its warm-up is cancelled (R190). The record counts the corrections met until then (R221). -/
def W.jobRefuse (w : W) (p status detail : Nat) : W :=
  let own := match (w.d.pol p).job, (w.d.pol p).warm with
    | some j, some x => j.ring == some x.ring
    | _, _ => false
  (w.when own fun w => w.cancelWarm p false).finishJob p { status := status, detail := detail, check := ((w.d.pol p).job.map Job.check).getD 0 }

/-- The running job ends with a status. -/
def W.jobStop (w : W) (p status detail : Nat) : W :=
  match (w.d.pol p).job with
  | none => w
  | some j => w.finishJob p (w.d.jobCompl j status detail)

/-! ## Segments (R165 to R168) -/

/-- Segment `g` starts: its page-table activation comes first, and a refusal ends the job (R166). -/
def W.enterSeg (w : W) (p g : Nat) : W :=
  let w := w.modJob p fun j => { j with seg := g, entered := j.entered + 1, qs := [] }
  match w.d.runningJob p with
  | none => w
  | some j =>
    let e := w.segEntry j g
    if (fld e 0xA 1).testBit 0 then
      match w.d.activation (ptBank p 0) (fld e 8 2) with
      | .already => w
      | .exchange x y => w.exchange x y
      | .refused st => w.jobStop p st 0
    else w

/-! ## Starting (R185) -/

/-- R185 step 6: the watchdog starts, and segment ENTRY. -/
def W.jobStep6 (w : W) (p : Nat) : W :=
  match (w.d.pol p).job with
  | none => w
  | some j =>
    let w := w.modJob p fun j => { j with stage := .running, t6 := w.d.aon.hub, limit := (w.d.pol p).wdog }
    w.enterSeg p (w.imgFld j 0x1E 2)

/-- R185 step 5: the warm-up for this job is complete, and an error that it met ends the job. -/
def W.jobStep5 (w : W) (p : Nat) : W :=
  match (w.d.pol p).job, (w.d.pol p).warm with
  | some j, some x =>
    if j.ring ≠ some x.ring || x.img ≠ j.img then w.jobStep6 p
    else if !x.done then w.modJob p fun j => { j with stage := .warmWait }
    else
      let w := (w.modPol p fun P => { P with warm := none }).modJob p fun j =>
        { j with codeRetry := j.codeRetry + x.fx.retry, spCorr := j.spCorr + (MemFx.spN x.fx), dramCorr := j.dramCorr + (MemFx.dramN x.fx) }
      if x.status ≠ 0 then w.jobStop p x.status x.detail else w.jobStep6 p
  | some _, none => w.jobStep6 p
  | _, _ => w

/-- The active flavour of every engine of the job matches its mode (R127). -/
def Dev.flavourOk (d : Dev) (j : Job) : Bool :=
  j.dies.all fun s => (d.bank (d.fnActive s 0)).flavour == b2n j.compat && (d.bank (d.fnActive s 1)).flavour == b2n j.compat

/-- No tile of an earlier job is open on the array. -/
def ArrayS.closed (A : ArrayS) : ArrayS := { A with banks := A.banks.map fun x => (x.1, { x.2 with open_ := false }) }

/-- Flags, those that accumulators hold among them, count slots, summary words and tokens of a job's dies are cleared (R52, R85, R185 step 4). -/
def W.clearDies (w : W) (j : Job) : W :=
  w.each j.dies fun w s => w.modDie s fun D =>
    { D with tokens := [], counts := [], sums := [], flags := [], arrays := D.arrays.map fun x => (x.1, x.2.closed) }

/-- R185 step 4: everything is cleared and first-use grants are made (R357), then the wait for LOADING banks and the locks (R126), the flavour (R127) and the key (R337). -/
def W.jobStep4 (w : W) (p : Nat) : W :=
  match (w.d.pol p).job with
  | none => w
  | some j =>
    let w := (w.clearDies j).firstUse p j.ctx j.img fun k => w.imgFld j (0xC0 + 2 * k) 2
    if j.locks && (Dev.jobBanks p j).any fun n => (w.d.bank n).st == 2 then w.modJob p fun j => { j with stage := .bankWait }
    else
      let w := if j.locks then w.modBanks (Dev.jobBanks p j) fun B => if B.st = 3 then { B with locked := true } else B else w
      let keyed := match j.key with
        | some k => !(w.d.pol p).hasKey k
        | none => false
      if !w.d.flavourOk j then w.jobRefuse p stTABLE_MODE 0
      else if keyed then w.jobRefuse p stKEY_SLOT_DENIED 0
      else (w.modPol p fun P => { P with coll := P.coll.clear }).jobStep5 p

/-- R185 steps 2 and 3 for an image that holds a slot: the binding (R160), the check of the port map (R315), the arguments (R163), then the tenant switch (R255). -/
def W.jobStep3 (w : W) (p : Nat) : W :=
  match (w.d.pol p).job with
  | none => w
  | some j =>
    let img := w.read j.img j.len
    match w.d.binding p (imDies img) (imStacks img) with
    | none => (w.modPol p fun P => { P with imgFaultValid := true, imgFault := 0 }).jobRefuse p stIMAGE_BAD 4
    | some dies =>
      let w := w.neighbourCheck p
      match w.d.badArg p img j.args with
      | some n => w.jobRefuse p stARG_BAD (1 + n)
      | none =>
        let w := w.modJob p fun j =>
          { j with
            dies := dies, nstk := imStacks img, compat := (fld img 0x20 4).testBit 0, summary := imSummary img, ftz := bits (fld img 0x20 4) 5 2
            ro := roRanges img j.args, locks := imActivates img, colls := imColls img }
        (w.toTenant p (w.d.ctx j.ctx).tenant).jobStep4 p

/-- The job waits for the validation of its image, or its image holds a slot already (R159, R185 steps 2 and 2′). -/
def W.jobStep2 (w : W) (p : Nat) (j : Job) : W :=
  let P := w.d.pol p
  match P.imgs.find? (·.addr == j.img) with
  | some i => (w.modPol p fun P => { P with job := some { j with len := i.len } }).jobStep3 p
  | none =>
    let w := w.modPol p fun P => { P with job := some j }
    if P.imgs.length ≥ 32 then w.jobRefuse p stIMAGE_SLOTS_FULL 0 else w

/-- POL_FAB_KEY as a job or a descriptor takes it (R337). -/
def Pol.keyNow (P : Pol) : Option Nat := if P.fabKeyed then some P.fabSlot else none

/-- JOB (R185, R210, R251): the descriptor that R251 chooses is taken. -/
def execJob (r : Nat) (args : ReadRes) (s : State) : Host.Outcome State Fault Refusal :=
  s.run fun w =>
    match w.d.ringPol r, w.d.takeable r with
    | some p, some b =>
      match w.d.nextCtx p with
      | none => w
      | some (n, switch) =>
        if dType b ≠ 1 || !w.d.jobFree p || w.d.nextRing p n ≠ some r then w
        else
          let refused := w.d.descRefused r b (jobLayoutOk b)
          let w := if switch then w.switchCtx p n else w
          let w := (w.take r).modPol p fun P =>
            { P with curCtx := some n, curRing := some r, jobs := P.jobs + 1, tblCtx := P.tblCtx.filter (· != n) }
          let w := w.modCtx n fun C => { C with lastRing := some r }
          let P := w.d.pol p
          let w := w.modPol p fun P => { P with waitRo := P.waitRo.filter (·.1 != r) }
          let j : Job :=
            { ring := some r, ctx := n, img := bits (fld b 8 8) 47 0, len := 0, release := (fld b 0x38 1).testBit 0, stage := .validating
              ro := (P.waitRo.filter (·.1 == r)).flatMap Prod.snd
              t0 := w.d.aon.hub, number := P.jobs, key := P.keyNow }
          (match refused with
            | some st => (w.modPol p fun P => { P with job := some { j with release := false } }).jobRefuse p st 0
            | none =>
              let w := w.readArgs b
              match args with
              | .err det =>
                if jobArgi b then w.jobStep2 p { j with args := jobArgs b [] }
                else (w.modPol p fun P => { P with job := some j }).jobRefuse p stHOST_READ_FAULT det
              | .ok blk => w.jobStep2 p { j with args := jobArgs b blk }).settle
    | _, _ => w

/-- IMAGE_VALIDATION_DONE (R159, R183, R185 step 2′), with what the reading of the image met: corrections count for its job (R221), and a failure ends
the job as any reading's does (R146, R151; DEDUCED, entry 59). -/
def execImageValidationDone (p : Nat) (fx : MemFx) (s : State) : Host.Outcome State Fault Refusal :=
  s.run fun w =>
    match (w.d.pol p).job with
    | none => w
    | some j =>
      if j.stage ≠ .validating then w
      else
        let w := w.jobFx p fx
        (match MemFail.code fx.fail with
        | some (st, det) => (w.memReport p fx.fail).jobRefuse p st det
        | none => match w.validate p j.img with
          | some (code, off) => (w.modPol p fun P => { P with imgFaultValid := true, imgFault := off }).jobRefuse p stIMAGE_BAD code
          | none =>
            let len := le (w.read (j.img + 0x10) 4)
            ((w.modPol p fun P => { P with imgs := P.imgs ++ [({ addr := j.img, len := len } : Img)] }).modJob p fun j => { j with len := len }).jobStep3 p).settle

/-- A job that waited for LOADING banks goes on. -/
def W.resumeBankWait (w : W) (p : Nat) : W :=
  match (w.d.pol p).job with
  | some j => if j.stage = .bankWait then w.jobStep4 p else w
  | none => w

/-- TABLE_LOAD_COMPLETE (R123, R214, R220): the read that the load waits for has come back. -/
def execTableLoadComplete (r : Nat) (fx : MemFx) (s : State) : Host.Outcome State Fault Refusal :=
  s.run fun w =>
    match w.d.ringPol r, (w.d.ring r).desc with
    | some p, some D =>
      if dType D.bytes ≠ 5 || D.held then w
      else match D.tag with
        | none => ((w.endLoad p r D.bytes [] fx).resumeBankWait p).settle
        | some t => match (w.d.hread t).bind (·.res) with
          | none => w
          | some (.err det) => (((w.dropRead t).failLoad p r D.bytes stHOST_READ_FAULT det).resumeBankWait p).settle
          | some (.ok data) => (((w.dropRead t).endLoad p r D.bytes data fx).resumeBankWait p).settle
    | _, _ => w

/-! ## The warm-up (R188 to R190) -/

/-- Every queue of the segment is drained: every step issued and released (R165). -/
def W.drained (w : W) (j : Job) : Bool :=
  (List.range j.dies.length).all fun d => (List.range 15).all fun q =>
    let Q := j.queue d q
    !Q.busy && Q.flights.isEmpty && decide (Q.pos ≥ (w.stream j j.seg d q).2)

/-- One entry of the warm-up table, unless an error has stopped the warm-up (R189). `bad` is the address at which a verification fails. -/
def W.warmEntry (w : W) (p : Nat) (img : Bytes) (args dies : List Nat) (fail : MemFail) (x : Warm) (i : Nat) : W × Warm :=
  if x.status ≠ 0 then (w, x)
  else
    let o := imWarmAt img i
    let n := fld img (o + 4) 4
    let src := lget 0 args (fld img o 1 % 16) + 4096 * fld img (o + 12) 4
    let dst := spBase (lget 12 dies (fld img (o + 1) 1)) + fld img (o + 8) 4 % 2 ^ 26
    match w.d.reachAll .dma p src n false with
    | some det => (w, { x with status := stADDRESS_FAULT, detail := det })
    | none =>
      match MemFail.code fail with
      | some (st, det) =>
        if src ≤ MemFail.addr fail ∧ MemFail.addr fail < src + n then (w.memReport p fail, { x with status := st, detail := det })
        else (w.write dst (w.readDev src n), { x with written := x.written ++ [(dst, n)] })
      | none => (w.write dst (w.readDev src n), { x with written := x.written ++ [(dst, n)] })

/-- WARMUP_START (R188): `args` is J2's argument block as the host's memory holds it. -/
def execWarmupStart (p : Nat) (args : ReadRes) (fx : MemFx) (s : State) : Host.Outcome State Fault Refusal :=
  s.run fun w =>
    match w.d.runningJob p, (w.d.pol p).warm with
    | some j, none =>
      match j.ring with
      | none => w
      | some r =>
        let R := w.d.ring r
        let b := R.batch.headD []
        let img := bits (fld b 8 8) 47 0
        let blk := match args with
          | .ok x => x
          | .err _ => []
        let a := jobArgs b blk
        let have_ := jobArgi b || (match args with
          | .ok _ => true
          | .err _ => false)
        let next := R.st == 1 && dType b == 1 && R.owner == j.ctx && (w.d.descRefused r b (jobLayoutOk b)).isNone && !R.batch.isEmpty
        let budget := (w.d.ctx j.ctx).hasBudget || (w.d.readyCtxs p).all (· == j.ctx)
        match (w.d.pol p).imgs.find? (·.addr == img) with
        | none => w
        | some i =>
          let image := w.read i.addr i.len
          match w.d.binding p (imDies image) (imStacks image) with
          | none => w
          | some dies =>
            let last := fld (w.segEntry j j.seg) 4 1 % 4 == 0
            if !(next && have_ && budget && last && w.drained j && j.faults.isEmpty && (w.d.badArg p image a).isNone && decide (imWarms image > 0)) then w
            else
              let x : Warm := { ring := r, img := img, args := a, ro := roRanges image a, fx := { fx with fail := MemFail.none } }
              let w := (w.readArgs b).countFx p fx
              let (w, x) := (List.range (imWarms image)).foldl (fun (y : W × Warm) k => y.1.warmEntry p image a dies fx.fail y.2 k) (w, x)
              w.modPol p fun P => { P with warm := some x }
    | _, _ => w

/-- WARMUP_COMPLETE (R188): the reading has ended; J2 goes on if it waits at its step 5. -/
def execWarmupComplete (p : Nat) (fx : MemFx) (s : State) : Host.Outcome State Fault Refusal :=
  s.run fun w =>
    match (w.d.pol p).warm with
    | none => w
    | some x =>
      if x.done then w
      else
        let (st, det) := if x.status ≠ 0 then (x.status, x.detail) else (MemFail.code fx.fail).getD (0, 0)
        let w := if x.status = 0 then w.memReport p fx.fail else w
        let x := { x with done := true, status := st, detail := det, fx := MemFx.plus x.fx fx }
        let w := (w.countFx p fx).modPol p fun P => { P with warm := some x }
        (match (w.d.pol p).job with
          | some j => if j.stage = JobStage.warmWait then w.jobStep5 p else w
          | none => w).settle

/-! ## The end of a segment (R165 to R167, R187) -/

/-- A value lies within bound `u` under CMP (R167). -/
def selWithin (cmp v u : Nat) : Bool :=
  match cmp with
  | 0 => decide (v ≤ u)
  | 1 => decide (sext 32 v ≤ sext 32 u)
  | _ =>
    match decodeF fmtFP32 v, decodeF fmtFP32 u with
    | x, y => !x.isNan && !y.isNan && (x.isZero && y.isZero || FV.cmp x y != .gt)

/-- The segment that selection entry `i` chooses; nothing where the summary word is unset (R102, R167). -/
def W.select (w : W) (j : Job) (i : Nat) : Option Nat :=
  let e := w.img j (w.imgFld j 0x2C 4 + 64 * i) 64
  let value : Option Nat :=
    if fld e 0 1 = 0 then some (j.arg (fld e 3 1) % 2 ^ 32)
    else
      let S := tget {} (w.d.die (j.site (fld e 1 1))).sums (8 * fld e 2 1 + fld e 3 1)
      if S.valid then some S.value else none
  value.map fun v =>
    match (List.range (fld e 5 1)).find? fun k => selWithin (fld e 4 1) v (fld e (8 + 4 * k) 4) with
    | some k => fld e (0x28 + 2 * k) 2
    | none => fld e 0x38 2

/-- The barrier of a segment is reached (R165): every queue drained, no remote operation of the job unacknowledged, no fault. -/
def W.atBarrier (w : W) (p : Nat) (j : Job) : Bool :=
  w.drained j && j.faults.isEmpty && (w.d.pol p).coll.steps.isEmpty && !(w.d.fabric.ops.any fun o => o.issuer.ofJob p)

/-- SEGMENT_BARRIER (R165 to R167, R187): the successor is taken, or the job ends. -/
def execSegmentBarrier (p : Nat) (s : State) : Host.Outcome State Fault Refusal :=
  s.run fun w =>
    match w.d.runningJob p with
    | none => w
    | some j =>
      if !w.atBarrier p j then w
      else
        let e := w.segEntry j j.seg
        (match fld e 4 1 % 4 with
          | 1 => w.enterSeg p (fld e 6 2)
          | 2 => match w.select j (fld e 6 2) with
            | some g => w.enterSeg p g
            | none => w.jobStop p stSUMMARY_UNSET 0
          | _ => w.jobStop p stOK 0).settle

/-- JOB_FAULT_END (R186): no step can be issued and none is in flight; the deciding step gives the status and `POL_JOB_FAULT`. -/
def execJobFaultEnd (p : Nat) (s : State) : Host.Outcome State Fault Refusal :=
  s.run fun w =>
    match w.d.runningJob p with
    | none => w
    | some j =>
      let stuck := (List.range j.dies.length).all fun d => (List.range 15).all fun q =>
        !(j.queue d q).busy && (j.queue d q).flights.isEmpty && !w.canIssue p d q
      match deciding j.faults with
      | none => w
      | some f =>
        if !stuck then w
        else
          let w := w.modPol p fun P =>
            { P with jobFaultValid := true, jobFault := (j.seg % 2 ^ 16) * 2 ^ 32 + f.die * 2 ^ 27 + f.queue * 2 ^ 23 + f.pos % 2 ^ 23 }
          let c := w.d.jobCompl j f.status f.detail
          (w.finishJob p (if f.status = stCONTRIBUTION_BAD then { c with info := f.info } else c)).settle

/-- WATCHDOG_EXPIRY (R254): the job is abandoned, its collectives end, the on-die state is scrubbed, and the record says TIMEOUT. -/
def execWatchdogExpiry (p : Nat) (s : State) : Host.Outcome State Fault Refusal :=
  s.run fun w =>
    match w.d.runningJob p with
    | none => w
    | some _ =>
      let w := (w.interruptEpisodes p).abortColls p
      match (w.d.pol p).job with
      | none => w
      | some j =>
        let c := w.d.jobCompl j stTIMEOUT 0
        (((w.tenantScrub p).cancelWarm p true).finishJob p c).settle

/-! ## Steps that only move the queues (R124, R171 to R173) -/

/-- STEP_RELEASE (R171): on an array, its `n`-th pass in flight releases, unless a check episode holds it (R61, R78); elsewhere the step in progress, once
nothing that it sent is unacknowledged. -/
def execStepRelease (p d q n : Nat) (s : State) : Host.Outcome State Fault Refusal :=
  s.run fun w =>
    match w.d.runningJob p with
    | none => w
    | some j =>
      let Q := j.queue d q
      if d ≥ j.dies.length then w
      else if q < 8 then w.releaseFlight p d q n
      else if Q.busy && Q.ops.isEmpty && !Q.coll then w.releaseStep p d q else w

/-- NOP_STEP (R173): it releases as it is issued. -/
def execNopStep (p d q : Nat) (s : State) : Host.Outcome State Fault Refusal :=
  s.run fun w => w.issue p d q (fun b => stepKind b == 0) fun w _ _ => w.releaseStep p d q

/-- The activation of a step on the double bank at `n`; an exchange that `ok` refuses ends the job with TABLE_MODE (R124, R127). -/
def W.stepActivate (w : W) (p d q n tag : Nat) (ok : Bank → Bool) : W :=
  match w.d.activation n tag with
  | .already => w.releaseStep p d q
  | .exchange x y => if ok (w.d.bank x) then (w.exchange x y).releaseStep p d q else w.stepFault p d q stTABLE_MODE 0
  | .refused st => w.stepFault p d q st 0

/-- ACTIVATE (R124, R127, R173): in a vector queue, the engine's function-table bank. -/
def execActivate (p d e : Nat) (s : State) : Host.Outcome State Fault Refusal :=
  s.run fun w => w.issue p d (8 + e) (fun b => stepKind b == 5 && decide (e < 2)) fun w j b =>
    w.stepActivate p d (8 + e) (fnBank (j.site d) e 0) (fld b 8 2) fun B => B.flavour == b2n j.compat

/-- ACTIVATE_SMOOTHING (R104, R173): in the transform queue, the smoothing bank. -/
def execActivateSmoothing (p d : Nat) (s : State) : Host.Outcome State Fault Refusal :=
  s.run fun w => w.issue p d 10 (fun b => stepKind b == 5) fun w j b =>
    w.stepActivate p d 10 (smBank (j.site d) 0) (fld b 8 2) fun _ => true

end Sys2Proof.Machine
end

