-- ==== Sys2Proof/Machine/RegPath.lean ====
section
/-! DEFINITION. How a register is reached from the host: the link, the function, the path, and what becomes of a write that is not allowed (R195, R420, R432
to R437, R443). -/

namespace Sys2Proof.Machine

/-- The host reaches the device through function `fn`. -/
def Dev.hostReach (d : Dev) (fn : Nat) : Bool := d.aon.linkUp && d.fnOk fn

/-- Offset in the BAR0 of function `fn` of a register that stands at `pf` in the PF's and at `vf` in a VF's (R438, R452). -/
def barOff (fn pf vf : Nat) : Nat := if fn = 0 then pf else vf
def ringOff (fn r x : Nat) : Nat := barOff fn (0x800000 + 64 * r + x) (64 * r + x)
def chanOff (fn c x : Nat) : Nat := barOff fn (0x400000 + 32 * c + x) (0xC0000 + 32 * c + x)
def ctxOff (fn n x : Nat) : Nat := barOff fn (0x1000000 + 32 * n + x) (0x80000 + 32 * n + x)
def sluOff (fn x : Nat) : Nat := barOff fn (0xC00000 + x) (0xA0000 + x)
def polOff (fn p x : Nat) : Nat := barOff fn (0x1400000 + 0x1000 * p + x) (0xC4000 + x)

/-- A write of a register at offset `off`, allowed by its path and instance when `ok` holds: `f` is given what an ignored write does. `early` marks the
registers that R420 serves before firmware is RUNNING. -/
def W.regWrite (w : W) (fn off : Nat) (ok : Bool) (f : W → (W → W) → W) (early : Bool := false) : W :=
  if !w.d.hostReach fn then w
  else if !(early || w.d.running) || !ok then w.ignored fn off
  else (f w fun w => w.ignored fn off).settle

/-- A write of a register that only the PF's BAR0 holds: a VF has no such offset. -/
def W.pfWrite (w : W) (fn off : Nat) (f : W → (W → W) → W) (early : Bool := false) : W :=
  if fn ≠ 0 then w else w.regWrite 0 off true f early

/-- A write of a register of polder `p`'s record (R447, R452): through the PF, where `pf` holds, and through the function that drives the polder. A VF's view
holds its own polder's record alone. -/
def W.polWrite (w : W) (fn p off : Nat) (pf : Bool) (f : W → (W → W) → W) : W :=
  if p ≥ 16 || (fn ≠ 0 && p ≠ vfPol fn) then w
  else w.regWrite fn (polOff fn p off) (w.d.driver p == fn || (pf && fn == 0)) f

/-- The same for a register whose path is the PF alone; a VF's write is ignored. -/
def W.polPfWrite (w : W) (fn p off : Nat) (f : W → (W → W) → W) : W :=
  if p ≥ 16 || (fn ≠ 0 && p ≠ vfPol fn) then w else w.regWrite fn (polOff fn p off) (fn == 0) f

end Sys2Proof.Machine
end

