-- ==== Sys2Proof/Machine/Bist.lean ====
section
/-! DEFINITION. Built-in self-test: slices, pattern packs, the repair list and fuse repair (R381 to R383, R403 to R416). -/

namespace Sys2Proof.Machine

/-- Offset in BAR0 of slot record `n` and of the set-up registers (R439). -/
def bistOff (x : Nat) : Nat := 0x2400000 + x

/-! ## The patterns of a pack (R381, R383) -/

/-- The entries of a pack, cut at their ELEN. -/
def patternsOf : Nat → Bytes → List Bytes
  | 0, _ => []
  | n + 1, b => b.take (fld b 0x18 4) :: patternsOf n (b.drop (fld b 0x18 4))
/-- The entries of the installed pack. -/
def Bist.patterns (B : Bist) : List Bytes := patternsOf (fld B.pack 0xC 4) ((B.pack.take (B.pack.length - 96)).drop 0x40)

/-- `n` operand rows of a pattern's AREA: their elements at `o`, their scales at `os` (R379). -/
def patternRows (e : Bytes) (f : Fmt) (n kb o os : Nat) : List OpRow :=
  (List.range n).map fun i =>
    { codes := unpack f.w kb (slice e (o + i * packedLen f.w kb) (packedLen f.w kb))
      scales := if f.scaled then List.replicate (ceilDiv kb 16) (fld e (os + i) 1) else [] }
/-- The K-block of a pattern, without FTZ and as K-block 0 of a reduction (DESIGN CHOICE, entry 63: the spec gives a pattern neither). -/
def patternBlk (e : Bytes) : EpBlk :=
  let op := arrOpOf (fld e 0 1)
  let fa := (fmtOf (fld e 1 1)).getD ⟨0, 32, .float fmtFP32, 0, false⟩
  let fb := (fmtOf (fld e 2 1)).getD ⟨0, 32, .float fmtFP32, 0, false⟩
  let kb := fld e 6 2
  let oa := 0x40
  let oas := oa + fld e 8 4
  let ob := oas + fld e 0xC 4
  let obs := ob + fld e 0x10 4
  { op := op, bx := fa.half, jj := 0
    xa := ((patternRows e fa (fld e 4 1 + 1) kb oa oas).map (prepRow op fa false kb)).filterMap List.head?
    xb := ((patternRows e fb (fld e 5 1 + 1) kb ob obs).map (prepRow op fb false kb)).filterMap List.head? }
/-- EXPECT of a pattern. -/
def patternExpect (e : Bytes) : Bytes := slice e (0x40 + fld e 8 4 + fld e 0xC 4 + fld e 0x10 4 + fld e 0x14 4) 48

/-- The rule of R46 or R69 that decides an element of a K-block, 0 for none. -/
def specRule (op : ArrOp) (a b : Blk) : Nat :=
  let sp := specBlk op a b
  let infs := (a.vals ++ b.vals).any FV.isInf
  match op with
  | .matmul => if sp.testBit 0 then 1 else if sp.testBit 1 || (sp.testBit 2 && sp.testBit 3) then 2 else if sp ≠ 0 then 3 else 4
  | .distL2sq => if sp.testBit 0 then 1 else if sp.testBit 1 then 2 else if sp ≠ 0 then 3 else 0
  | .distL1 => if sp.testBit 0 then 1 else if sp.testBit 1 then 2 else if sp ≠ 0 then 3 else 0
  | .maxplus => if sp.testBit 0 then 1 else if sp.testBit 1 then 2 else if infs then 4 else 0
  | .minplus => if sp.testBit 0 then 1 else if sp.testBit 1 then 2 else if infs then 4 else 0
  | .hamming => 0
  | .cmpcount => 0

/-- An array's partials and rules for a K-block, as EXPECT digests them and CAPTURE writes them (R381, R410). -/
def EpBlk.image (x : EpBlk) (errs : List BlkErr) : Bytes :=
  let g := gridOf x.op x.bx x.xa x.xb errs
  let rules := x.xa.flatMap fun a => x.xb.map fun b => specRule x.op a b
  (g.flatMap fun v => toLe 12 (reg96 x.op v.1)) ++ (rules.zip g).flatMap fun (r, v) => toLe 1 (r ^^^ v.2 % 256)

/-- A pattern reproduces a fault in an array that forms `errs` wrongly (R383). -/
def EpBlk.reproduces (x : EpBlk) (expect : Bytes) (errs : List BlkErr) : Bool := sha384 (x.image errs) != expect || !(x.records errs).isEmpty
/-- BIT of a failing pattern: the lowest element whose partial differs (R409). -/
def EpBlk.failBit (x : EpBlk) (errs : List BlkErr) : Nat :=
  let vals (e : List BlkErr) : List Int := (gridOf x.op x.bx x.xa x.xb e).map Prod.fst
  match ((vals errs).zip (vals [])).findIdx? fun (u, v) => u != v with
  | some k => k / x.xb.length * 128 + k % x.xb.length
  | none => 0xFFFF

/-- The failures of a PACK test in the order found, of an array that forms `errs` wrongly, by pattern index (R383, R409). -/
def packFails (ps : List Bytes) (errs : List (Nat × BlkErr)) : List TestRes :=
  ps.zipIdx.filterMap fun (e, i) =>
    let x := patternBlk e
    if x.reproduces (patternExpect e) (errsAt errs i) then some { result := 1, bit := x.failBit (errsAt errs i), addr := i } else none
/-- What CAPTURE writes: the partials and rules of the first failing pattern (R410). -/
def packCapture (ps : List Bytes) (errs : List (Nat × BlkErr)) : Bytes :=
  match packFails ps errs with
  | [] => []
  | r :: _ => (patternBlk (lget [] ps r.addr)).image (errsAt errs r.addr)

/-! ## Targeted self-tests (R371) -/

/-- TEST and TEST_FAIL of a targeted test of array `phys` of site `s`: the LOGIC part, then the PACK part when a pack is installed (R371, R378, R409). -/
def Bist.targeted (B : Bist) (s phys : Nat) (r : TestEnd) : Nat × Bytes :=
  let ps := if B.packSt = 2 then B.patterns else []
  let run := r.packRun.getD ps.length
  let fails := packFails (ps.take run) r.packErrs
  let late := decide (run < ps.length)
  let put (x : TestRes) (test code n : Nat) : Bytes := resultBytes { x with block := 1, site := s, unitNo := phys, test := test, result := code, nfail := min 255 n }
  if r.interrupted then (3, [])
  else if r.logic.result ≠ 0 then (1, put r.logic 1 (if r.logic.result = 4 then 4 else 1) (max 1 r.logic.nfail))
  else match fails with
    | x :: _ => (1, put x 2 (if late then 4 else 1) fails.length)
    | [] => if late then (1, put r.logic 2 4 0) else (2, [])

/-- TARGETED_SELF_TEST_END (R371, R372 step 10, R382, R412): the test of physical array `phys` ends, once a slice that opened before it has ended and no
pack is being loaded; the record is written once no test of it is left. -/
def execTargetedSelfTestEnd (site phys : Nat) (res : TestEnd) (s : State) : Host.Outcome State Fault Refusal :=
  s.run fun w =>
    let slice := w.d.bist.slots.any fun (_, S) => S.st == 2 && bits S.cmd 7 0 == 1 && bits S.cmd 12 8 == site && bits S.cmd 23 16 == phys
    if !(w.d.die site).test.testBit phys || slice || w.d.bist.packSt = 1 then w
    else
      let mine (e : Evid) : Bool := e.site == site && ((e.waitPhys && e.phys == phys) || (e.waitSub && e.sub == phys))
      match w.d.evids.find? mine with
      | none => w
      | some e =>
        let (test, fail) := w.d.bist.targeted site phys res
        let e' : Evid := if e.waitPhys && e.phys = phys then { e with waitPhys := false, test := test, fail := fail }
          else { e with waitSub := false, subTest := test, subFail := fail }
        let w := w.dev fun d => { d with evids := d.evids.map fun x => if x = e then e' else x }
        let w := w.modDie site fun D => { D with
          test := if w.d.evids.any mine then D.test else (D.test ||| 2 ^ phys) ^^^ 2 ^ phys
          spareOn := D.spareOn && (phys != 8 || (w.d.logicalOf site 8).isSome) }
        if e'.waitPhys || e'.waitSub then w
        else (w.dev fun d => { d with evids := d.evids.erase e' }).writeEvid e'

/-! ## Slice commands (R404 to R406, R413) -/

/-- The fields of `BIST_SLICE_CMD` (R404). -/
def scBlock (v : Nat) : Nat := bits v 7 0
def scSite (v : Nat) : Nat := bits v 12 8
def scUnit (v : Nat) : Nat := bits v 23 16
def scTest (v : Nat) : Nat := bits v 31 24
def scRepair (v : Nat) : Bool := v.testBit 32
def scCapture (v : Nat) : Bool := v.testBit 33
def scNotify (v : Nat) : Bool := v.testBit 34
def scMargin (v : Nat) : Bool := v.testBit 35
def scLogmax (v : Nat) : Nat := bits v 63 48

/-- The pairs of block and test of R406. -/
def sliceTests : List (Nat × Nat) :=
  [(1, 1), (1, 2), (2, 1), (3, 1), (4, 4), (5, 4), (6, 1), (6, 3), (7, 4), (8, 6), (8, 7), (8, 8), (9, 9), (9, 10), (10, 11), (11, 12),
    (12, 13), (13, 14)]

/-- Islands of site `s` (R342). -/
def Dev.islands (d : Dev) (s : Nat) : Nat := match d.siteKind s with
  | 0 => 5
  | 3 => 6
  | _ => 13

/-- The block of a command exists on this variant (R405, R406). -/
def Dev.blockExists (d : Dev) (v : Nat) : Bool :=
  let s := scSite v
  let u := scUnit v
  match scBlock v with
  | 1 => d.isCompute s && decide (u ≤ 8)
  | 2 => d.isCompute s && decide (u ≤ 1)
  | 3 => d.isCompute s && u == 0
  | 4 => d.isCompute s && (decide (u < 128) || u == 0xFF)
  | 5 => d.isLink s && u == 0
  | 6 => d.isLink s && decide (u ≤ 4)
  | 7 => d.isStacked s && (decide (u < 8) || u == 0xFF)
  | 8 => decide (u < d.numPorts) && lget 25 d.linkSites (u / 3) == s
  | 9 => decide (u < d.numPorts) && lget 25 d.linkSites (u / 3) == s
  | 10 => decide (u < 40)
  | 11 => decide (s < 25 ∧ u < d.islands s)
  | _ => decide (s < 25) && u == 0

/-- Port that a crypto engine of a link die serves. -/
def Dev.cryptoPort (d : Dev) (s u : Nat) : Nat := 3 * (d.linkSites.findIdx? (· == s)).getD 0 + u - 1

/-- The conditions of R406 that are refused and not awaited. A PACK test needs a pack, installed or held below a load (R382). -/
def Dev.sliceCondition (d : Dev) (v : Nat) : Bool :=
  let s := scSite v
  let u := scUnit v
  match scBlock v with
  | 1 => scTest v == 1 || d.bist.packSt == 2 || (d.bist.packSt == 1 && !d.bist.pack.isEmpty)
  | 4 => (d.sitePol s).isNone
  | 6 => !(decide (1 ≤ u ∧ u ≤ 3)) || !(d.port (d.cryptoPort s u)).enable
  | 7 => (d.die s).stack == 1 && (d.sitePol s).isNone
  | 8 => !(d.port u).enable
  | 9 => !(d.port u).enable && decide (tget 0 d.power.optTemp u < 600)
  | 10 => d.allEmpty
  | _ => true

/-- REFUSE of a command (R404, R405, R413): 0 none, 1 LC_STATE, 2 NO_BLOCK, 3 CONDITION, 4 FEATURE, 5 RESERVED. -/
def Dev.sliceRefuse (d : Dev) (v : Nat) : Nat :=
  let lc := d.sec.lc
  if lc = 4 then 1
  else if (scCapture v && lc == 1) || (scMargin v && (lc == 1 || lc == 2)) then 4
  else if bits v 47 36 ≠ 0 || bits v 15 13 ≠ 0 || !sliceTests.contains (scBlock v, scTest v) || (scBlock v == 10 && scSite v != 0) then 5
  else if !d.blockExists v then 2
  else if !d.sliceCondition v then 3
  else 0

/-- Two commands name one block (R412). -/
def sameBlock (a b : Nat) : Bool :=
  scBlock a == scBlock b && scSite a == scSite b &&
    (scUnit a == scUnit b || ((scBlock a == 4 || scBlock a == 7) && (scUnit a == 0xFF || scUnit b == 0xFF)))

def Dev.slot (d : Dev) (n : Nat) : Slot := tget {} d.bist.slots n
def W.modSlot (w : W) (n : Nat) (f : Slot → Slot) : W := w.modBist fun B => { B with slots := tmod {} B.slots n f }

/-- A write of `BIST_SLICE_CMD[n]` (R405). -/
def W.sliceCmd (w : W) (n v : Nat) : W :=
  let S := w.d.slot n
  if S.st = 2 then w
  else if S.st = 1 then
    if scBlock v = 0 then w.modSlot n fun S => { S with st := 3, result := 3 } else w
  else
    let r := w.d.sliceRefuse v
    let ord := w.d.bist.slots.foldl (fun a x => max a x.2.ord) 0 + 1
    w.modSlot n fun S =>
      if r = 0 then { st := 1, cmd := v, log := S.log, logAt := S.log, freq := w.d.bist.marginF, ord := ord } else { st := 3, refuse := r, log := S.log }

/-- BIST_SLICE_CMD (R405). -/
def execBistSliceCmd (fn n v : Nat) (s : State) : Host.Outcome State Fault Refusal :=
  s.run fun w => if n ≥ 16 then w else w.pfWrite fn (bistOff (64 * n)) fun w _ => w.sliceCmd n (v % 2 ^ 64)

/-- SLICE_CANCEL (R405): BLOCK 0. -/
def execSliceCancel (fn n : Nat) (s : State) : Host.Outcome State Fault Refusal :=
  s.run fun w => if n ≥ 16 then w else w.pfWrite fn (bistOff (64 * n)) fun w _ => w.sliceCmd n 0

/-- The maximum grants of the islands under test leave every other island its minimum: in each polder's share, and in the pool (R408). -/
def Dev.testsFit (d : Dev) : Bool :=
  let free := d.computeSites.filter fun s => (d.sitePol s).isNone
  decide (reserve d.variant + sumOf (d.computeSites.map d.floorOf) + d.testExtra free ≤ d.power.cap) &&
    d.shares.all fun (p, share) => decide (sumOf ((d.polSites p).map d.floorOf) + d.testExtra (d.polSites p) ≤ share)

/-- A waiting slice can start (R382, R406, R408, R412): no earlier slice on its block, no targeted test of its array, no pack load, the polders it
holds between jobs, and power for its island. -/
def Dev.sliceReady (d : Dev) (n : Nat) : Bool :=
  let S := d.slot n
  S.st == 1 &&
    !(d.bist.slots.any fun (m, T) => m != n && (T.st == 2 || (T.st == 1 && decide (T.ord < S.ord))) && sameBlock T.cmd S.cmd) &&
    !(scBlock S.cmd == 1 && (d.die (scSite S.cmd)).test.testBit (scUnit S.cmd)) &&
    !(scBlock S.cmd == 1 && scTest S.cmd == 2 && d.bist.packSt == 1) &&
    ((d.sliceHolds S.cmd).all fun p => (d.pol p).job.isNone) &&
    ({ d with bist := { d.bist with slots := tset d.bist.slots n { S with st := 2 } } } : Dev).testsFit

/-- SLICE_START (R405 step 3, R408): the block is isolated and its island set to the test point with its maximum grant. -/
def execSliceStart (n : Nat) (s : State) : Host.Outcome State Fault Refusal :=
  s.run fun w =>
    if w.d.running && w.d.sliceReady n then
      let w := w.modSlot n fun S => { S with st := 2 }
      let c := (w.d.slot n).cmd
      let w := if scBlock c = 1 && scUnit c = 8 then w.modDie (scSite c) fun D => { D with spareOn := true } else w
      w.each w.d.testedIslands fun w (key, f) => w.modPower fun P =>
        { P with isl := tmod {} P.isl key fun I => ({ I with grant := ((islKind (key % 16)).map maxGrant).getD I.grant } : Isl).aim f }
    else w

/-! ## The end of a slice (R405 to R411, R414) -/

/-- The block of command `v` is re-initialised (R407). -/
def W.sliceReinit (w : W) (v : Nat) : W :=
  let s := scSite v
  let u := scUnit v
  match scBlock v with
  | 1 => w.modDie s fun D => { D with arrays := tset D.arrays u {}, spareOn := D.spareOn && (u != 8 || (w.d.logicalOf s 8).isSome) }
  | 2 =>
    let w := match w.d.sitePol s with
      | some p => w.each (w.d.tableLoads p) fun w r => (w.dropReads fun f => f == ReadFor.descData r).completeSt r stABORTED_RESET
      | none => w
    let w := w.modDie s fun D => { D with counts := [], sums := D.sums.filter (·.1 / 8 != u), flags := D.flags.filter fun x => x.1 != 8 + u && x.1 != 10 }
    w.each [fnBank s u 0, fnBank s u 1, smBank s 0, smBank s 1] fun w n => w.modBank n fun _ => w.d.bankReset n
  | 3 => w.modDie s fun D => { D with tokens := [] }
  | 4 =>
    if u = 0xFF then w.zero (spBase s) spSize
    else w.each (List.range 4096) fun w i => w.zero (spBase s + 16384 * i + 128 * u) 128
  | 5 => w.zero (landBase ((w.d.linkSites.findIdx? (· == s)).getD 0)) 0x2000000
  | 6 =>
    if u = 0 then w.each (List.range 16) fun w p => w.modPol p fun P =>
      { P with coll := { P.coll with landings := [], sends := [], steps := [], credits := [], begun := [], failed := [] } }
    else w
  | 7 => w.setStack s 1
  | _ => w

/-- Spare groups of a memory granule (R414): which store and bank, and the granule in it. -/
def granuleOf (r : Repair) : (Nat × Nat × Nat × Nat) × Nat :=
  match r.kind with
  | 3 => ((3, r.site, bits r.addr 13 7, 0), r.addr / 128)
  | 4 => ((4, r.site, 0, 0), r.addr / 128)
  | _ => ((5, r.site, (Config.dramRow r.addr).1, bits r.addr 12 8), (Config.dramRow r.addr).2)
/-- Spares of a group. -/
def sparesOf (kind : Nat) : Nat := if kind = 4 then 64 else 16

/-- Repairs with one entry for each granule, in order. -/
def distinctRepairs : List Repair → List Repair
  | [] => []
  | r :: l => r :: (distinctRepairs l).filter fun x => granuleOf x != granuleOf r

/-- The repairs of a list fit the spares. -/
def repairsFit (l : List Repair) : Bool :=
  let gs := (distinctRepairs (l.filter fun r => decide (3 ≤ r.kind ∧ r.kind ≤ 5))).map granuleOf
  gs.all fun g => decide ((gs.filter fun h => h.1 == g.1).length ≤ sparesOf g.1.1)

/-- An entry of R415. -/
def repairOf (e : Nat) : Repair := { kind := bits e 3 0, site := bits e 12 8, addr := bits e 63 16 }
/-- Memory repairs that the fuses in force make. -/
def Dev.fuseMem (d : Dev) : List Repair :=
  (((List.range 32).map (fuseEntry d.aon.shadow.repair)).filter fun e => e.testBit 7).map repairOf

/-- Granules that a slice's failures would repair. -/
def sliceGranules (v : Nat) (fails : List TestRes) : List Repair :=
  distinctRepairs (fails.map fun r => { kind := scBlock v - (if scBlock v = 7 then 2 else 1), site := scSite v, addr := r.addr })

/-- The slice of slot `n` ends (R405 steps 5 and 6, R407 to R411, R414): its results are those of the test, the first one deciding whether the repeat
march of a repair passed; `st` is INTERRUPTED or BUDGET where the test did not complete. -/
def W.sliceEnd (w : W) (n st : Nat) (results : List TestRes) (capture : Bytes) : W :=
  let S := w.d.slot n
  let v := S.cmd
  let fails := results.filter (·.result ≠ 0)
  let gran := sliceGranules v fails
  let fixes := st = 0 && scRepair v && (scBlock v == 4 || scBlock v == 5 || scBlock v == 7) && (results.headD {}).result == 2 &&
    repairsFit (w.d.fuseMem ++ w.d.bist.soft ++ gran)
  let result := if st ≠ 0 then st else if fails.isEmpty then 0 else if fixes then 2 else 1
  let nf := max ((results.headD {}).nfail) fails.length
  let put (r : TestRes) (code : Nat) : TestRes :=
    { r with block := scBlock v, site := scSite v, unitNo := if scUnit v = 0xFF then r.unitNo else scUnit v, test := scTest v, result := code
             nfail := min 255 nf }
  let head := match fails with
    | r :: _ => put r (if result = 0 then 1 else result)
    | [] => put (results.headD {}) result
  let log := fails.map (fun r => put r (if fixes then 2 else 1)) ++ (if fixes then gran.map fun g =>
    put ((fails.find? fun r => granuleOf { g with addr := r.addr } == granuleOf g).getD {}) 2 else [])
  let shown := if S.logAt = 0 then [] else log.take (scLogmax v)
  let w := w.sliceReinit v
  let w := w.modSlot n fun S => { S with st := 3, result := result, nlog := shown.length, res := le (resultBytes head) }
  let w := if fixes then w.modBist fun B => { B with soft := distinctRepairs (B.soft ++ gran) } else w
  let w := if shown.isEmpty then w else w.emit (.hostWrite S.logAt (shown.flatMap resultBytes))
  let w := if S.logAt ≠ 0 && scCapture v && scBlock v == 1 && scTest v == 2 && !capture.isEmpty then
      w.emit (.hostWrite (S.logAt + 16 * shown.length) capture) else w
  let status := if result = 3 then stINTERRUPTED else if result = 0 ∨ result = 2 then stOK else stSELFTEST_FAIL
  if status = stOK && !scNotify v then w
  else w.event 16 status (scTest v) 5 (scSite v) (n + result * 2 ^ 8 + shown.length * 2 ^ 16 + u32 nf * 2 ^ 32)

/-- The slice of slot `n` is an array's PACK test. -/
def Dev.packSlice (d : Dev) (n : Nat) : Bool := scBlock (d.slot n).cmd == 1 && scTest (d.slot n).cmd == 2
/-- What the test of slot `n` found once `run` patterns have run: a PACK test's failures are those of its patterns (R383), another's are `results`. -/
def Dev.sliceFound (d : Dev) (n run : Nat) (results : List TestRes) (errs : List (Nat × BlkErr)) : List TestRes :=
  if d.packSlice n then packFails (d.bist.patterns.take run) errs else results
def Dev.sliceCapture (d : Dev) (n run : Nat) (errs : List (Nat × BlkErr)) : Bytes :=
  if d.packSlice n then packCapture (d.bist.patterns.take run) errs else []

/-- Level 1 of R356 has moved the island of slot `n` off its test point (R408). -/
def Dev.offPoint (d : Dev) (n : Nat) : Bool :=
  match d.slotIsland (d.slot n) with
  | some (key, f) => (tget {} d.power.isl key).target != f && (tget {} d.power.isl key).raise.isNone
  | none => false

/-- SLICE_COMPLETE (R405 step 4): the test completes, or level 1 of R356 has moved its island off the test point, now or earlier in the slice
(`moved`) (R408). -/
def execSliceComplete (n : Nat) (results : List TestRes) (errs : List (Nat × BlkErr)) (moved : Bool) (s : State) : Host.Outcome State Fault Refusal :=
  s.run fun w =>
    let run := w.d.bist.patterns.length
    if (w.d.slot n).st = 2 then
      (w.sliceEnd n (if moved || w.d.offPoint n then 3 else 0) (w.d.sliceFound n run results errs) (w.d.sliceCapture n run errs)).settle
    else w

/-- SLICE_BUDGET (R405): the slice is stopped at its budget, with what it has found until then. -/
def execSliceBudget (n : Nat) (results : List TestRes) (errs : List (Nat × BlkErr)) (run : Nat) (s : State) : Host.Outcome State Fault Refusal :=
  s.run fun w =>
    if (w.d.slot n).st = 2 then (w.sliceEnd n 4 (w.d.sliceFound n run results errs) (w.d.sliceCapture n run errs)).settle else w

/-- Slices that a reset of polder `p` reaches: running on its dies, or holding it between jobs (R408). -/
def Dev.slicesOf (d : Dev) (p : Nat) : List Nat :=
  (d.bist.slots.filter fun (_, S) =>
    S.st == 2 && ((d.sliceHolds S.cmd).contains p ||
      (decide (1 ≤ scBlock S.cmd ∧ scBlock S.cmd ≤ 4) && (d.pol p).hasSite (scSite S.cmd)))).map Prod.fst

/-! ## Pattern packs (R381, R382) -/

/-- The public key of the firmware image's PACK_KEY stage (R381, R392). -/
def W.packKey (w : W) : Bytes :=
  match (stagesOf (w.read storeBase 0x200)).find? (·.1 == 6) with
  | some (_, o, _) => w.read (storeBase + o) 96
  | none => []

/-- The HEADER check. -/
def packHeaderOk (b : Bytes) (len : Nat) : Bool :=
  fld b 0 4 == 0x4B435054 && fld b 4 2 == 2 && fld b 6 2 == 0 && fld b 8 4 != 0 && decide (1 ≤ fld b 0xC 4 ∧ fld b 0xC 4 ≤ 65535) &&
    fld b 0x10 4 == len && isZero b 0x14 0x2C

/-- The length of a pattern entry that R67 accepts and whose lengths agree (R379, R381). -/
def patternLen (e : Bytes) : Option Nat :=
  let op := fld e 0 1
  match fmtOf (fld e 1 1), fmtOf (fld e 2 1) with
  | some fa, some fb =>
    let mt := fld e 4 1 + 1
    let nt := fld e 5 1 + 1
    let kb := fld e 6 2
    let out := if op = 6 ∨ op = 7 then 0x21 else 0
    let a := mt * packedLen fa.w kb
    let as_ := if fa.scaled then mt else 0
    let b := nt * packedLen fb.w kb
    let bs := if fb.scaled then nt else 0
    let area := a + as_ + b + bs
    let used := 64 + area + 48
    let len := 64 * ceilDiv used 64
    if 1 ≤ op && op ≤ 7 && fld e 3 1 ≤ 3 && mt ≤ 128 && nt ≤ 128 && pairOk op fa fb out false && (fld e 3 1 != 0) == (fa.gs || fb.gs) &&
        kb == kBlock (arrOpOf op) fa fb && fld e 8 4 == a && fld e 0xC 4 == as_ && fld e 0x10 4 == b && fld e 0x14 4 == bs && fld e 0x18 4 == len &&
        isZero e 0x1C 0x24 && isZero e used (len - used) then some len
    else none
  | _, _ => none

/-- `n` entries fill `b` exactly. -/
def patternsOk : Nat → Bytes → Bool
  | 0, b => b.isEmpty
  | n + 1, b => match patternLen b with
    | some k => decide (k ≤ b.length) && patternsOk n (b.drop k)
    | none => false

/-- RESULT of a pack (R382). -/
def W.packResult (w : W) (b : Bytes) : Nat :=
  let len := w.d.bist.packLen
  if !packHeaderOk b len then 1
  else if !ecdsaVerify w.packKey (b.drop (len - 96)) (b.take (len - 96)) then 2
  else if fld b 8 4 < w.d.bist.packVer then 3
  else if !patternsOk (fld b 0xC 4) ((b.take (len - 96)).drop 0x40) then 6
  else 0

/-- A self-test uses the pack: a PACK slice, or a targeted test while a pack is installed (R371, R382). -/
def Dev.packInUse (d : Dev) : Bool :=
  (d.bist.slots.any fun (_, S) => S.st == 2 && scBlock S.cmd == 1 && scTest S.cmd == 2) ||
    (d.bist.packSt == 2 && d.computeSites.any fun s => (d.die s).test != 0)

/-- A write of LEN to `BIST_PACK_CMD` (R382). A length no pack can have fails at once. -/
def W.packCmd (w : W) (v : Nat) : W :=
  let len := v % 2 ^ 32
  if w.d.bist.packSt = 1 || w.d.packInUse then w.modBist fun B => { B with packResult := 5 }
  else if len < 0xA0 || len > 0x400000 then w.modBist fun B => { B with packResult := 1 }
  else
    let (t, w) := w.hostRead w.d.bist.packAddr len .pack
    w.modBist fun B => { B with packSt := 1, packLen := len, packTag := t }

/-- BIST_PACK_CMD (R382). -/
def execBistPackCmd (fn v : Nat) (s : State) : Host.Outcome State Fault Refusal :=
  s.run fun w => w.pfWrite fn (bistOff 0x1010) fun w _ => w.packCmd v

/-- PACK_LOAD_COMPLETE (R382): the installed pack is replaced only when every check passes. -/
def execPackLoadComplete (s : State) : Host.Outcome State Fault Refusal :=
  s.run fun w =>
    let B := w.d.bist
    if B.packSt ≠ 1 then w
    else match (w.d.hread B.packTag).bind (·.res) with
      | none => w
      | some res =>
        let r := match res with
          | .ok b => w.packResult b
          | .err _ => 4
        let w := w.dropRead B.packTag
        match r, res with
        | 0, .ok b => w.modBist fun B => { B with packSt := 2, packResult := 0, pack := b, packVer := fld b 8 4 }
        | _, _ => w.modBist fun B => { B with packSt := if B.pack.isEmpty then 0 else 2, packResult := r }

/-! ## The repair list (R415) -/

/-- An entry is acceptable: its kind, and its site and address (R415). -/
def Dev.repairOk (d : Dev) (e : Nat) : Bool :=
  let r := repairOf e
  bits e 15 13 == 0 && bits e 6 4 == 0 &&
    match r.kind with
    | 1 => d.isCompute r.site && decide (r.addr ≤ 8)
    | 2 => d.isCompute r.site && r.addr == 0
    | 3 => d.isCompute r.site && decide (spBase r.site ≤ r.addr ∧ r.addr < spBase r.site + spSize)
    | 4 => d.isLink r.site && decide (r.addr < 0x2000000)
    | 5 => d.isStacked r.site && decide (stackBase r.site ≤ r.addr ∧ r.addr < stackBase r.site + stackSize)
    | _ => false

/-- The entries of a list. -/
def listEntries (b : Bytes) : List Nat := (List.range (fld b 6 2)).map fun i => fld b (16 + 8 * i) 8

/-- RESULT of a list (R415). -/
def W.repairResult (w : W) (b : Bytes) : Nat :=
  let es := listEntries b
  if !(fld b 0 4 == 0x52504552 && fld b 4 2 == 2 && decide (fld b 6 2 ≤ 4096) && fld b 8 4 == 0 && b.length == 16 + 8 * fld b 6 2 &&
      fld b 0xC 4 == crc32c (b.take 12 ++ b.drop 16)) then 1
  else if es.any fun e => !w.d.repairOk e || e.testBit 7 then 2
  else if !repairsFit (w.d.fuseMem ++ es.map repairOf) then 3
  else 0

/-- ARRAY_OUT and DIE_OUT of a list add to the quarantine state (R16, R375, R415). -/
def W.applyRepairs (w : W) (l : List Repair) : W :=
  w.each l fun w r => match r.kind with
    | 1 => w.arrayOut r.site r.addr
    | 2 => w.modDie r.site fun D => { D with withdrawn := true }
    | _ => w

/-- A write of LEN to `BIST_REPAIR_CMD` (R415). A length no list can have fails at once. -/
def W.repairCmd (w : W) (v : Nat) : W :=
  let len := v % 2 ^ 32
  if w.d.bist.repSt = 1 || !w.d.running || !w.d.allEmpty then w.modBist fun B => { B with repResult := 5 }
  else if len < 16 || len > 16 + 8 * 4096 then w.modBist fun B => { B with repResult := 1 }
  else
    let (t, w) := w.hostRead w.d.bist.repAddr len .repairList
    w.modBist fun B => { B with repPrev := B.repSt, repSt := 1, repLen := len, repTag := t }

/-- BIST_REPAIR_CMD (R415). -/
def execBistRepairCmd (fn v : Nat) (s : State) : Host.Outcome State Fault Refusal :=
  s.run fun w => w.pfWrite fn (bistOff 0x1028) fun w _ => w.repairCmd v

/-- REPAIR_LIST_LOAD_COMPLETE (R415): every entry is checked before any is applied; a failed load changes nothing. -/
def execRepairListLoadComplete (s : State) : Host.Outcome State Fault Refusal :=
  s.run fun w =>
    let B := w.d.bist
    if B.repSt ≠ 1 then w
    else match (w.d.hread B.repTag).bind (·.res) with
      | none => w
      | some res =>
        let r := match res with
          | .ok b => w.repairResult b
          | .err _ => 4
        let w := w.dropRead B.repTag
        match r, res with
        | 0, .ok b =>
          let l := (listEntries b).map repairOf
          let w := w.modBist fun B =>
            { B with repSt := 2, repResult := 0, repCount := l.length, soft := distinctRepairs (l.filter fun r => decide (3 ≤ r.kind)) }
          w.applyRepairs l
        | _, _ => w.modBist fun B => { B with repSt := B.repPrev, repResult := r }

/-! ## Fuse repair (R416) -/

/-- The next unused fuse entry. -/
def fuseNext (repair : Nat) : Option Nat := (List.range 32).find? fun k => fuseEntry repair k = 0

/-- A write of an entry to `BIST_FUSE_CMD` (R416), with the REPAIR fuses as they stand. -/
def W.fuseCmd (w : W) (repair v : Nat) : W :=
  if w.d.bist.fuseBusy then w
  else if !(w.d.sec.lc == 0 || w.d.sec.lc == 3) || !w.d.allEmpty then w.modBist fun B => { B with fuseResult := 1 }
  else match fuseNext repair with
    | none => w.modBist fun B => { B with fuseResult := 2 }
    | some k =>
      if !w.d.repairOk v then w.modBist fun B => { B with fuseResult := 3 }
      else (w.modBist fun B => { B with fuseBusy := true, fuseResult := 0 }).modSec fun S => { S with pulses := S.pulses ++ [.repair k v] }

/-- BIST_FUSE_CMD (R416). -/
def execBistFuseCmd (fn v : Nat) (s : State) : Host.Outcome State Fault Refusal :=
  s.run fun w => w.pfWrite fn (bistOff 0x1030) fun w _ => w.fuseCmd s.fuses.repair (v % 2 ^ 64)

end Sys2Proof.Machine
end

