-- ==== Sys2Proof/Machine/Dma.lean ====
section
/-! DEFINITION. The DMA queues: MOVE and SIGNAL (R138, R140, R149, R151, R154, R171, R178, R181, R317 to R321). -/

namespace Sys2Proof.Machine

/-- How far an access to a list of pieces (address, length) goes, and what stops it. -/
def Dev.reachPieces (d : Dev) (p : Nat) (wr : Bool) : List (Nat × Nat) → Nat × Option Nat
  | [] => (0, none)
  | (a, m) :: l =>
    match d.reach .dma p a m wr with
    | (k, some e) => (k, some e)
    | (_, none) => let (k, e) := Dev.reachPieces d p wr l; (m + k, e)

/-- Number of bytes of the pieces before the first byte that lies in [lo, hi). -/
def cutAt (lo hi : Nat) : List (Nat × Nat) → Option Nat
  | [] => none
  | (a, m) :: l => if hi ≤ a ∨ a + m ≤ lo then (cutAt lo hi l).map (m + ·) else some (lo - a)

/-- The bytes that an error takes with it: a 64-bit word of scratchpad, a tensor block of a stack (R142, R146, R151). -/
def MemFail.hits : MemFail → Nat × Nat
  | .none => (0, 0)
  | .spDouble a => (a / 8 * 8, a / 8 * 8 + 8)
  | .stackUE a => (a / 4096 * 4096, a / 4096 * 4096 + 4096)
  | .codeBad a => (a / 4096 * 4096, a / 4096 * 4096 + 4096)

/-- The pieces of `n` bytes after `skip`. -/
def subPieces : Nat → Nat → List (Nat × Nat) → List (Nat × Nat)
  | _, _, [] => []
  | skip, n, (a, m) :: l =>
    if n = 0 then []
    else if m ≤ skip then subPieces (skip - m) n l
    else
      let k := min n (m - skip)
      (a + skip, k) :: subPieces 0 (n - k) l

def W.readPieces (w : W) (l : List (Nat × Nat)) : Bytes := l.flatMap fun (a, m) => w.readDev a m

/-- Bytes written over pieces. -/
def W.writePieces (w : W) : List (Nat × Nat) → Bytes → W
  | [], _ => w
  | (a, m) :: l, bs => W.writePieces (w.write a (bs.take m)) l (bs.drop m)

/-- One side of a MOVE: its tile, and the chip that it lies on when that is another one (R140, R317). -/
structure End where
  t : Tile
  chip : Option Nat

def W.endOf (w : W) (j : Job) (t : Tile) : End := { t := t, chip := w.tileChip j t }

/-- The runs of bytes of a MOVE in order (R178): each row, then its scale row; addresses as the tiles give them. -/
def moveRuns (j : Job) (s t : Tile) (g n : Nat) : List (Nat × Nat × Nat) :=
  (List.range n).flatMap fun r =>
    (j.rowAddr s r, j.rowAddr t r, s.rowLen) :: (if s.f.scaled then [(j.scaleAddr s r, j.scaleAddr t r, s.scaleLen g)] else [])

/-- What one end of a run can be reached at: its pieces, how many bytes are reached, and the error that stops it. -/
def W.runEnd (w : W) (p : Nat) (j : Job) (t : Tile) (wr : Bool) (a n : Nat) (fail : MemFail) : List (Nat × Nat) × Nat × Option StepErr :=
  let (l, e) := w.pieces p j t wr a n
  let (k, e) := match w.d.reachPieces p wr l with
    | (k, some det) => (k, some ({ status := stADDRESS_FAULT, detail := det } : StepErr))
    | (k, none) => (k, e)
  match MemFail.code fail, cutAt (MemFail.hits fail).1 (MemFail.hits fail).2 l with
  | some (st, det), some c => if c < k ∨ (c = k ∧ e.isNone) then (l, c, some { status := st, detail := det }) else (l, k, e)
  | _, _ => (l, k, e)

/-- Of two ends, the one that stops first, the source before the destination. -/
def firstStop (s d : Nat × Option StepErr) : Nat × Option StepErr :=
  match s.2, d.2 with
  | some e, some f => if s.1 ≤ d.1 then (s.1, some e) else (d.1, some f)
  | some e, none => (s.1, some e)
  | none, some f => (d.1, some f)
  | none, none => (s.1, none)

/-- Runs within the device: the bytes before the first refusal land (R138, R151, R154). -/
def W.moveLocal (w : W) (p : Nat) (j : Job) (s t : Tile) (fail : MemFail) : List (Nat × Nat × Nat) → W × Option StepErr
  | [] => (w, none)
  | (a, b, n) :: l =>
    let (sp, sk, se) := w.runEnd p j s false a n fail
    let (dp, dk, de) := w.runEnd p j t true b n fail
    match firstStop (sk, se) (dk, de) with
    | (k, e) =>
      let w := w.writePieces (subPieces 0 k dp) (w.readPieces (subPieces 0 k sp))
      match e with
      | some e => (w, some e)
      | none => W.moveLocal w p j s t fail l

/-- A run split at the 4 KiB blocks of the remote side: (offset in the run, remote address, length) (R318). -/
def blockSplit : Nat → Nat → Nat → Nat → List (Nat × Nat × Nat)
  | 0, _, _, _ => []
  | k + 1, off, a, n =>
    if n = 0 then []
    else
      let m := min n (4096 - a % 4096)
      (off, a, m) :: blockSplit k (off + m) (a + m) (n - m)

/-- An operation of a DMA queue. -/
def dmaOp (p d q : Nat) (j : Job) (kind : OpKind) (chip addr : Nat) (payload : Bytes) : ROp :=
  { id := 0, issuer := .dma p d q, kind := kind, chip := chip, addr := addr, payload := payload, key := j.key, job := j.number % 2 ^ 32 }

/-- Runs with a remote end (R317, R318): one WRITE for each piece within a remote block, or one READ_REQ for each remote block touched. -/
def W.moveRemote (w : W) (p d q : Nat) (j : Job) (s t : Tile) (toRemote : Bool) (chip : Nat) (fail : MemFail) :
    List (Nat × Nat × Nat) → List Nat → W × List Nat × Option StepErr
  | [], ids => (w, ids, none)
  | (a, b, n) :: l, ids =>
    let (lp, lk, le_) := if toRemote then w.runEnd p j s false a n fail else w.runEnd p j t true b n fail
    let far := if toRemote then b else a
    let (w, ids) := (blockSplit (lk / 4096 + 2) 0 far lk).foldl (fun (x : W × List Nat) (off, g, m) =>
      let part := subPieces off m lp
      let op := if toRemote then { dmaOp p d q j .write chip g (x.1.readPieces part) with src := part }
        else dmaOp p d q j (.read (part.foldl (fun (y : List (Nat × Nat × Nat) × Nat) c => (y.1 ++ [(y.2, c.2, c.1)], y.2 + c.2)) ([], g % 4096)).1) chip g []
      let (id, w) := x.1.issueOp op
      (w, x.2 ++ [id])) (w, ids)
    match le_ with
    | some e => (w, ids, some e)
    | none => W.moveRemote w p d q j s t toRemote chip fail l ids

/-- The report of the failure `fail`, if that is what stopped a transfer (R142, R146, R151). -/
def W.reportOf (w : W) (p : Nat) (fail : MemFail) (e : StepErr) : W :=
  if MemFail.code fail = some (e.status, e.detail) then w.memReport p fail else w

/-- A MOVE that has been issued, over `n` rows. -/
def W.moveBody (w : W) (p d q : Nat) (j : Job) (b : Bytes) (n : Nat) (fail : MemFail) : W :=
  let s := w.endOf j (w.tile j d (fld b 8 2))
  let t := w.endOf j (w.tile j d (fld b 0xA 2))
  let runs := moveRuns j s.t t.t (gsizeOf (fld b 0x10 1 % 4)) n
  let remote (toRemote : Bool) (chip : Nat) : W :=
    let (w, ids, e) := w.moveRemote p d q j s.t t.t toRemote chip fail runs []
    let w := w.modJob p fun j => j.setQueue d q fun Q => { Q with ops := ids }
    (match e with
      | some e => (w.reportOf p fail e).stepFault p d q e.status e.detail
      | none => w).pumpAll
  match s.chip, t.chip with
  | some _, some _ => w.stepFault p d q stADDRESS_FAULT dUNPOPULATED
  | some c, none => remote false c
  | none, some c => remote true c
  | none, none =>
    match w.moveLocal p j s.t t.t fail runs with
    | (w, some e) => (w.reportOf p fail e).stepFault p d q e.status e.detail
    | (w, none) => w

/-- MOVE (R178). -/
def execMove (p d q : Nat) (fx : MemFx) (s : State) : Host.Outcome State Fault Refusal :=
  s.run fun w =>
    (w.issue p d q (fun b => stepKind b == 4 && stepOp b == 1) fun w j b =>
      match w.rowsOf j d b (w.tile j d (fld b 8 2)).rows (fld b 0xC 2 + 1) with
      | .error st => w.stepFault p d q st 0
      | .ok 0 => w.releaseStep p d q
      | .ok n => (w.jobFx p fx).moveBody p d q j b n fx.fail).settle

/-- A SIGNAL or COLL step under the count that it names, which has no rows to give: 0 releases it at once, one above CMAX is COUNT_RANGE, and any other
changes nothing (R96, R171, R178; DEDUCED, entry 18). -/
def W.counted (w : W) (p d q : Nat) (j : Job) (b : Bytes) (f : W → W) : W :=
  match w.rowsOf j d b 1 (fld b 0xC 2 + 1) with
  | .error st => w.stepFault p d q st 0
  | .ok 0 => w.releaseStep p d q
  | .ok _ => f w

/-- DMA SIGNAL (R178, R234, R237, R239, R242, R320): an add to a sluice of this device, or a remote add. -/
def execDmaSignal (p d q : Nat) (s : State) : Host.Outcome State Fault Refusal :=
  s.run fun w =>
    (w.issue p d q (fun b => stepKind b == 4 && stepOp b == 2) fun w j b =>
      w.counted p d q j b fun w =>
      let target := j.arg (fld b 0xF 1 / 16)
      let n := fld b 0x10 8
      if target / 2 ^ 48 = w.d.hub.chip then
        match sluiceAt (target % 2 ^ 48) with
        | none => w.stepFault p d q stADDRESS_FAULT dUNPOPULATED
        | some i => if w.d.granted i j.ctx .signal then w.sluOp i false n else w.stepFault p d q stGRANT_DENIED 0
      else
        let (id, w) := w.issueOp (dmaOp p d q j .add (target / 2 ^ 48 % 2 ^ 13) target (toLe 8 n))
        (w.modJob p fun j => j.setQueue d q fun Q => { Q with ops := [id] }).pumpAll).settle

end Sys2Proof.Machine
end

