-- ==== Sys2Proof/Machine/Chans.lean ====
section
/-! DEFINITION. The bulk data port: channels, their apertures, COPY (R194, R195, R213, R226 to R229, R391, R420). -/

namespace Sys2Proof.Machine

/-! ## Reaching memory for a transfer -/

/-- How many of `n` bytes from `a` a COPY or a channel of polder `p` reaches, and the status and detail that stop it (R138, R143, R151). -/
def Dev.bulkReach (d : Dev) (p a n : Nat) (wr : Bool) (fail : MemFail) : Nat × Option (Nat × Nat) :=
  let (k, e) := d.reach .copy p a n wr
  let plain := (k, e.map fun det => (stADDRESS_FAULT, det))
  match MemFail.code fail, cutAt (MemFail.hits fail).1 (MemFail.hits fail).2 [(a, n)] with
  | some x, some c => if c < k then (c, some x) else plain
  | _, _ => plain

/-- Corrections that a transfer of polder `p` met. -/
def W.bulkFx (w : W) (p : Nat) (fx : MemFx) : W := if p < 16 then w.countFx p fx else w
/-- The report of the failure `fail`, if that is what stopped a transfer with `e` (R142, R146, R151, R157). -/
def W.bulkReport (w : W) (p : Nat) (fail : MemFail) (e : Nat × Nat) : W := if MemFail.code fail = some e then w.memReport p fail else w

/-- A host transfer cut at 4 KiB host boundaries (R228): (offset, host address, length). -/
def hostPieces (addr n : Nat) : List (Nat × Nat × Nat) := blockSplit (n / 4096 + 2) 0 addr n

/-! ## COPY (R213, R228, R229) -/

def cpChan (b : Bytes) : Nat := fld b 8 1
def cpMode (b : Bytes) : Nat := fld b 9 1
def cpLen (b : Bytes) : Nat := fld b 0xC 4
def cpSrc (b : Bytes) : Nat := fld b 0x10 8
def cpDst (b : Bytes) : Nat := fld b 0x18 8

/-- The layout of a COPY descriptor (R213). -/
def copyLayoutOk (b : Bytes) : Bool :=
  decide (cpMode b < 3) && fld b 0xA 2 == 0 && isZero b 0x20 0x20 && cpLen b % 4 == 0 && cpSrc b % 4 == 0 && cpDst b % 4 == 0 &&
    (cpMode b != 2 || cpChan b == 0) && (cpMode b != 1 || cpSrc b == 0) && (cpMode b != 0 || cpDst b == 0)

/-- Why a COPY cannot drive its channel (R228). -/
def Dev.copyRefused (d : Dev) (p : Nat) (b : Bytes) : Option (Nat × Nat) :=
  let C := d.chan (cpChan b)
  if !(d.pol p).hasChan (cpChan b) then some (stCHANNEL_STATE, 1)
  else if C.mode ≠ 2 then some (stCHANNEL_STATE, 2)
  else if C.st = 2 then some (stCHANNEL_STATE, 3)
  else if C.st ≠ 1 then some (stCHANNEL_STATE, 5)
  else if C.ptr + cpLen b > C.limit then some (stCHANNEL_LIMIT, 0)
  else none

/-- A COPY on channel `c`, and whether it waits behind another one. -/
def Ring.copyOn (R : Ring) (c : Nat) : Option Desc :=
  R.desc.bind fun D => if dType D.bytes = 4 && cpMode D.bytes ≠ 2 && cpChan D.bytes = c && D.tag.isSome then some D else none
/-- The rings whose COPY on channel `c` satisfies `f`. -/
def Dev.copies (d : Dev) (c : Nat) (f : Desc → Bool) : List Nat := (d.rings.filter fun (_, R) => ((R.copyOn c).map f).getD false).map Prod.fst
/-- The COPY on channel `c` that was taken first among those that wait. -/
def Dev.nextCopy (d : Dev) (c : Nat) : Option Nat :=
  let key (r : Nat) : Nat := (((d.ring r).desc.bind (·.tag))).getD 0
  (d.copies c (·.queued)).foldl (fun best r => match best with
    | some m => if key r < key m then some r else best
    | none => some r) none

/-- A COPY begins: refused, or its host reads are issued (R228). -/
def W.copyBegin (w : W) (r : Nat) : W :=
  match (w.d.ring r).desc with
  | none => w
  | some D =>
    let w := w.modRing r fun R => { R with desc := R.desc.map fun D => { D with queued := false } }
    match w.d.copyRefused ((w.d.ringPol r).getD 16) D.bytes with
    | some (st, det) => w.completeSt r st det
    | none =>
      if cpMode D.bytes = 0 then w.each (hostPieces (cpSrc D.bytes) (cpLen D.bytes)) fun w (_, a, n) => (w.hostRead a n (.descData r)).2
      else w

/-- COPYs on channel `c` begin one at a time, in the order in which they were taken (R228). -/
def W.startCopies (c : Nat) : Nat → W → W
  | 0, w => w
  | k + 1, w =>
    if !(w.d.copies c fun D => !D.queued).isEmpty then w
    else match w.d.nextCopy c with
      | none => w
      | some r => W.startCopies c k (w.copyBegin r)

def W.runCopies (w : W) (c : Nat) : W := W.startCopies c ((w.d.copies c (·.queued)).length + 1) w

/-- COPY (R213, R228): LEN = 0 completes at once; a mode 0 or 1 transfer takes its place on its channel. -/
def execCopy (r : Nat) (s : State) : Host.Outcome State Fault Refusal :=
  s.run fun w => w.takeFor r (fun b => dType b == 4) copyLayoutOk fun w b =>
    if cpLen b = 0 then w.completeSt r stOK
    else if cpMode b = 2 then w
    else if !(w.d.pol ((w.d.ringPol r).getD 16)).hasChan (cpChan b) then w.completeSt r stCHANNEL_STATE 1
    else
      let t := w.d.hub.readTag
      let w := w.modHub fun h => { h with readTag := t + 1 }
      (w.modRing r fun R => { R with desc := R.desc.map fun D => { D with tag := some t, queued := true } }).runCopies (cpChan b)

/-- The data that has arrived for ring `r`'s descriptor, in order, and the error that ends it. -/
def arrivedData : List HRead → Bytes × Option Nat
  | [] => ([], none)
  | x :: l => match x.res with
    | some (.ok bs) => let (a, e) := arrivedData l; (bs ++ a, e)
    | some (.err det) => ([], some det)
    | none => ([], none)
def Dev.descReads (d : Dev) (r : Nat) : List HRead := d.hub.reads.filter fun x => x.purpose == .descData r

/-- Bytes that move before an error: whole 64-byte units (R213, R228). -/
def wholeUnits (n : Nat) (e : Option (Nat × Nat)) : Nat := if e.isSome then n / 64 * 64 else n

/-- Data moves within the device in ascending order, in 64-byte units (R213): a unit sees what the units before it wrote, and a unit of check codes the
codes of what they wrote. -/
def W.copyUp (w : W) (dst src n : Nat) : W :=
  match region src with
  | .stack _ _ | .sp _ _ =>
    if src < dst ∧ dst < src + n then
      w.each (List.range (ceilDiv n 64)) fun w i => w.copyMem (dst + 64 * i) (src + 64 * i) (min 64 (n - 64 * i))
    else w.copyMem dst src n
  | .code _ _ =>
    w.each (List.range (ceilDiv n 64)) fun w i => w.write (dst + 64 * i) (w.readDev (src + 64 * i) (min 64 (n - 64 * i)))
  | _ => w.write dst (w.readDev src n)

/-- A COPY moves at most `lim` of its bytes: how many it moves, and the status and detail that stop it. -/
def W.copyMove (w : W) (r : Nat) (b : Bytes) (lim : Nat) (fail : MemFail) : W × Nat × Option (Nat × Nat) :=
  let p := (w.d.ringPol r).getD 16
  let c := cpChan b
  let ptr := (w.d.chan c).ptr
  match cpMode b with
  | 0 =>
    let (data, err) := arrivedData (w.d.descReads r)
    let data := data.take lim
    let (k, e) := w.d.bulkReach p ptr data.length true fail
    let n := wholeUnits k e
    let w := (w.write ptr (data.take n)).modChan c fun C => { C with ptr := C.ptr + n }
    (w, n, match e with
      | some x => some x
      | none => err.map fun det => (stHOST_READ_FAULT, det))
  | 1 =>
    let (k, e) := w.d.bulkReach p ptr (min lim (cpLen b)) false fail
    let n := wholeUnits k e
    let data := w.readDev ptr n
    let w := w.each (hostPieces (cpDst b) n) fun w (o, a, m) => w.emit (.hostWrite a (slice data o m))
    (w.modChan c fun C => { C with ptr := C.ptr + n }, n, e)
  | _ =>
    let (sk, se) := w.d.bulkReach p (cpSrc b) (min lim (cpLen b)) false fail
    let (dk, de) := w.d.bulkReach p (cpDst b) (min lim (cpLen b)) true fail
    let (k, e) := if se.isSome ∧ (de.isNone ∨ sk ≤ dk) then (sk, se) else (dk, de)
    let n := wholeUnits k e
    (w.copyUp (cpDst b) (cpSrc b) n, n, e)

/-- The corrections and retries that a COPY which is cut short has met until then: numbers that no command gives, and so free values (entry 5), counted
at the memory that it reads or merges into (R221). -/
def W.cutFx (w : W) (b : Bytes) : MemFx × W :=
  let a := if cpMode b = 2 then cpSrc b else (w.d.chan (cpChan b)).ptr
  let (k, w) := w.fresh
  match region a with
  | .sp s _ => ({ sp := [(s, Config.freeNat k)] }, w)
  | .stack s _ =>
    let (m, w) := w.fresh
    ({ dram := [(s, Config.freeNat k)], retry := Config.freeNat m }, w)
  | _ => ({}, w)

/-- A COPY in progress is cut short (R228, R424): it has moved a number of 64-byte units that only timing decides, a free value (entry 5), of the data
that has arrived; it completes with `st` unless an error ended it first. -/
def W.copyCut (w : W) (r st det : Nat) (record : Bool := true) : W :=
  match (w.d.ring r).desc with
  | none => w
  | some D =>
    let (k, w) := w.fresh
    let lim := 64 * (Config.freeNat k % (cpLen D.bytes / 64 + 1))
    let (fx, w) := if D.queued then ({}, w) else w.cutFx D.bytes
    let w := w.bulkFx ((w.d.ringPol r).getD 16) fx
    let (w, n, e) := if D.queued then (w, 0, none) else w.copyMove r D.bytes lim .none
    let (st, det) := match e with
      | some (a, x) => if n < lim && a ≠ stHOST_READ_FAULT then (a, x) else (st, det)
      | none => (st, det)
    let w := w.dropReads fun f => f == .descData r
    if record then w.complete r { status := st, detail := det, check := fxSummary fx, info := n } else w

/-- COPY_COMPLETE (R219, R220, R228): the data of a COPY in progress has moved as far as it can. -/
def execCopyComplete (r : Nat) (fx : MemFx) (s : State) : Host.Outcome State Fault Refusal :=
  s.run fun w =>
    match (w.d.ring r).desc with
    | none => w
    | some D =>
      if dType D.bytes ≠ 4 || D.queued || !(w.d.descReads r).all (·.res.isSome) then w
      else
        let p := (w.d.ringPol r).getD 16
        let (w, n, e) := (w.bulkFx p fx).copyMove r D.bytes (cpLen D.bytes) fx.fail
        let (st, det) := e.getD (stOK, 0)
        let w := ((w.bulkReport p fx.fail (st, det)).dropReads fun f => f == .descData r).complete r { status := st, detail := det, check := fxSummary fx, info := n }
        (if cpMode D.bytes = 2 then w else w.runCopies (cpChan D.bytes)).settle

/-! ## Channel control (R226, R228, R446) -/

/-- The range from PTR to LIMIT is memory that the channel may reach (R143, R226). -/
def Dev.chanRangeOk (d : Dev) (p : Nat) (C : Chan) : Bool :=
  C.ptr == C.limit || (d.reachAll .copy p C.ptr (C.limit - C.ptr) false).isNone

/-- Channel `c` may be enabled (R195, R226). -/
def Dev.chanEnableOk (d : Dev) (c : Nat) : Bool :=
  let C := d.chan c
  match d.chanPol c with
  | none => false
  | some p => decide (C.ptr ≤ C.limit) && d.chanRangeOk p C

/-- MODE after a write of `v`; 3 leaves it unchanged (R7, R226). -/
def Chan.newMode (C : Chan) (v : Nat) : Nat := if v % 4 = 3 then C.mode else v % 4

/-- Channel `c` is disabled, and COPYs on it end (R228). -/
def W.chanStop (w : W) (c : Nat) : W :=
  let w := w.each (w.d.copies c fun D => !D.queued) fun w r => w.copyCut r stCHANNEL_STATE 5
  (w.modChan c fun C => { C with st := 0 }).runCopies c

/-- A write of `v` to PCI_CH_CTRL[c] (R226, R435). -/
def W.chanCtrl (w : W) (c v : Nat) (ign : W → W) : W :=
  let C := w.d.chan c
  if C.st = 0 then
    let w := w.modChan c fun C => { C with mode := C.newMode v }
    if !v.testBit 31 then w
    else if w.d.chanEnableOk c then w.modChan c fun C => { C with st := 1, drop := 0 }
    else ign w
  else if v.testBit 31 then (if C.newMode v = C.mode then w else ign w)
  else w.chanStop c

/-- A write to PCI_CH_PTR[c] or PCI_CH_LIMIT[c], while the channel is disabled (R226). -/
def W.chanAddr (w : W) (c : Nat) (f : Chan → Chan) (ign : W → W) : W := if (w.d.chan c).st = 0 then w.modChan c f else ign w
/-- Address bits [47:2] (R446). -/
def chanAddrBits (v : Nat) : Nat := v % 2 ^ 48 / 4 * 4

/-- CHANNEL_ENABLE (R226): `v` with its ENABLE set. -/
def execChannelEnable (fn c v : Nat) (s : State) : Host.Outcome State Fault Refusal :=
  s.run fun w => if c ≥ 256 then w
    else w.regWrite fn (chanOff fn c 0x10) (w.d.reachesPfD fn (w.d.chanPol c)) fun w ign => w.chanCtrl c (setBits v 31 31 1) ign

/-- CHANNEL_DISABLE (R226, R228): MODE as it stands, with ENABLE clear. -/
def execChannelDisable (fn c : Nat) (s : State) : Host.Outcome State Fault Refusal :=
  s.run fun w => if c ≥ 256 then w
    else w.regWrite fn (chanOff fn c 0x10) (w.d.reachesPfD fn (w.d.chanPol c)) fun w ign => w.chanCtrl c (w.d.chan c).mode ign

/-! ## Apertures (R194, R195, R227, R228, R391, R420) -/

/-- The channel behind aperture `ap` of function `fn`. -/
def Dev.apChan (d : Dev) (fn ap : Nat) : Option Nat :=
  if fn = 0 then (if ap < 256 then some ap else none)
  else
    let P := d.pol (vfPol fn)
    if ap < 16 ∧ ap < P.chCount ∧ P.st ≠ 0 then some (P.chBase + ap) else none

/-- A bulk channel stops, and says so on its polder's event ring (R227, R469). -/
def W.chanFault (w : W) (c st det : Nat) : W :=
  let ptr := (w.d.chan c).ptr
  (w.modChan c fun C => { C with st := 2, status := st, detail := det }).event ((w.d.chanPol c).getD 16) st det 3 c ptr

def W.chanDrop (w : W) (c : Nat) : W := w.modChan c fun C => { C with drop := sat64 (C.drop + 1) }

/-- A host write to the aperture of channel `c` (R227). -/
def W.push (w : W) (c : Nat) (data : Bytes) (partBE : Bool) (fx : MemFx) : W :=
  let C := w.d.chan c
  if data.isEmpty then w
  else if C.st ≠ 1 || C.mode ≠ 0 then w.chanDrop c
  else if partBE then w.chanFault c stCHANNEL_STATE 4
  else if C.ptr + data.length > C.limit then w.chanFault c stCHANNEL_LIMIT 0
  else
    let p := (w.d.chanPol c).getD 16
    let w := w.bulkFx p fx
    match (w.d.bulkReach p C.ptr data.length true fx.fail).2 with
    | some (st, det) => (w.bulkReport p fx.fail (st, det)).chanFault c st det
    | none => (w.write C.ptr data).modChan c fun C => { C with ptr := C.ptr + data.length }

/-- A host write to aperture 0 of the PF while the boot ROM runs: it lands in the firmware store (R391). -/
def W.romPush (w : W) (data : Bytes) (partBE : Bool) : W :=
  let C := w.d.chan 0
  let stop (st det : Nat) : W := w.modChan 0 fun C => { C with st := 2, status := st, detail := det }
  if data.isEmpty then w
  else if C.st ≠ 1 then w.chanDrop 0
  else if partBE then stop stCHANNEL_STATE 4
  else if C.ptr + data.length > C.limit then stop stCHANNEL_LIMIT 0
  else (w.write (storeBase + C.ptr) data).modChan 0 fun C => { C with ptr := C.ptr + data.length }

/-- HOST_WRITE_APERTURE (R195, R227, R391, R420). -/
def execHostWriteAperture (fn ap : Nat) (data : Bytes) (partBE : Bool) (fx : MemFx) (s : State) : Host.Outcome State Fault Refusal :=
  s.run fun w =>
    if !w.d.hostReach fn then w
    else if !w.d.running then (if fn = 0 ∧ ap = 0 then w.romPush data partBE else w)
    else match w.d.apChan fn ap with
      | none => w
      | some c => (w.push c data partBE fx).settle

/-- A host read of `len` bytes from the aperture of channel `c` (R227, R228). -/
def W.pull (w : W) (c len : Nat) (fx : MemFx) : W :=
  let C := w.d.chan c
  if C.mode ≠ 1 then w.emit (.completion (some (List.replicate len 0xFF)))
  else if C.st ≠ 1 then w.emit (.completion none)
  else if C.ptr + len > C.limit then (w.chanFault c stCHANNEL_LIMIT 0).emit (.completion none)
  else
    let p := (w.d.chanPol c).getD 16
    let w := w.bulkFx p fx
    match (w.d.bulkReach p C.ptr len false fx.fail).2 with
    | some (st, det) => ((w.bulkReport p fx.fail (st, det)).chanFault c st det).emit (.completion none)
    | none => (w.emit (.completion (some (w.readDev C.ptr len)))).modChan c fun C => { C with ptr := C.ptr + len }

/-- HOST_READ_APERTURE (R195, R227, R228, R420). -/
def execHostReadAperture (fn ap len : Nat) (fx : MemFx) (s : State) : Host.Outcome State Fault Refusal :=
  s.run fun w =>
    if !w.d.hostReach fn then w
    else
      let ones := w.emit (.completion (some (List.replicate len 0xFF)))
      if !w.d.running then ones
      else match w.d.apChan fn ap with
        | none => ones
        | some c => (w.pull c len fx).settle

end Sys2Proof.Machine
end

