-- ==== Sys2Proof/Machine/Coll.lean ====
section
/-! DEFINITION. Collectives: the table, the segments that a member sends, receives and sums, landing slots and their credits (R326 to R336, R54). -/

namespace Sys2Proof.Machine

/-! ## The collective table (R326, R328, R329) -/

/-- A collective entry with its member list: chip and polder by rank. -/
structure CEnt where
  raw : Bytes
  op : Nat
  fmt : Nat
  outFmt : Nat
  nslot : Nat
  n : Nat
  root : Nat
  seg : Nat
  nseg : Nat
  engine : Nat
  landOff : Nat
  members : List (Nat × Nat)
  /-- This member's rank. -/
  me : Nat

/-- Entry `c` of polder `p`. -/
def W.cent (w : W) (p c : Nat) : CEnt :=
  let e := w.collEntry p c
  let ms := w.collMembers e
  { raw := e, op := fld e 0 1 % 16, fmt := fld e 1 1 % 64, outFmt := fld e 2 1 % 64, nslot := fld e 3 1 % 16, n := bits (fld e 4 2) 11 0 + 1
    root := bits (fld e 6 2) 11 0, seg := fld e 8 4, nseg := fld e 0xC 2, engine := fld e 0xE 1, landOff := fld e 0x10 4, members := ms
    me := (ms.findIdx? (· == (w.d.hub.chip, p))).getD 0 }

/-- ALL_REDUCE and REDUCE_SCATTER sum (R328). -/
def CEnt.reduces (e : CEnt) : Bool := e.op == 1 || e.op == 2
/-- Contribution area and receive area, bytes (R332). -/
def CEnt.contribArea (e : CEnt) : Nat := if e.reduces then e.nslot * e.n * e.seg else 0
def CEnt.recvSlot (e : CEnt) : Nat := if e.op = 3 then e.n * e.seg else e.seg
/-- Configuration signature (R334). -/
def W.collSig (w : W) (e : CEnt) : Nat := crc32c (e.raw.take 0xE ++ slice e.raw 0x20 2 ++ w.read (fld e.raw 0x18 8) (4 * e.n))

/-- An element format that an entry may name (R328): 1 where the code is reserved, 2 where the subset excludes it. -/
def collFmtBad (op fmt : Nat) : Nat :=
  match fmtOf fmt with
  | none => 1
  | some f => if op = 1 ∨ op = 2 then (if fmt ≤ 2 then 0 else 2) else if f.scaled then 2 else 0

/-- The first ERR of R326 that an entry meets: 1 LAYOUT, 2 RESERVED, 3 MEMBERS, 4 LANDING; 0 for none (DEDUCED, entry 20). -/
def W.centErr (w : W) (p : Nat) (e : CEnt) : Nat :=
  let P := w.d.pol p
  let b := e.raw
  let list := w.read (fld b 0x18 8) (4 * e.n)
  let layout := decide (1 ≤ e.nslot) && decide (2 ≤ e.n) && (e.op != 5 || decide (e.root < e.n)) && e.seg % 64 == 0 && decide (e.seg ≤ 0x1000000) &&
    (e.op != 4 || e.seg % (64 * e.n) == 0) && decide (1 ≤ e.nseg) && decide (e.engine < w.d.linkSites.length) && e.landOff % 4096 == 0 &&
    (match region (fld b 0x18 8) with
      | .stack _ _ => (w.d.reachAll .dma p (fld b 0x18 8) (4 * e.n) false).isNone
      | .sp _ _ => (w.d.reachAll .dma p (fld b 0x18 8) (4 * e.n) false).isNone
      | _ => false) &&
    collFmtBad e.op e.fmt != 2 && collFmtBad e.op e.outFmt != 2 && (e.reduces || e.fmt == e.outFmt)
  let reserved := decide (1 ≤ e.op ∧ e.op ≤ 5) && fld b 0 1 / 16 == 0 && fld b 1 1 / 64 == 0 && fld b 2 1 / 64 == 0 && fld b 3 1 / 16 == 0 &&
    fld b 5 1 / 16 == 0 && fld b 7 1 / 16 == 0 && (e.op == 5 || e.root == 0) && fld b 0xF 1 == 0 && isZero b 0x14 4 && bits (fld b 0x20 2) 14 10 == 0 &&
    isZero b 0x22 0x1E && collFmtBad e.op e.fmt != 1 && collFmtBad e.op e.outFmt != 1
  let listRsv := (List.range e.n).all fun i => let x := fld list (4 * i) 4; bits x 15 13 == 0 && x / 2 ^ 20 == 0
  let members := e.members.eraseDups.length == e.n && (e.members.filter (· == (w.d.hub.chip, p))).length == 1
  let landing := decide (e.landOff + e.contribArea + e.nslot * e.recvSlot ≤ P.landSize * 0x10000)
  if !layout then 1 else if !(reserved && listRsv) then 2 else if !members then 3 else if !landing then 4 else 0

/-- A write of `v` to `POL_COLL[p]` (R326). -/
def W.polColl (w : W) (p v : Nat) (ign : W → W) : W :=
  if (w.d.runningJob p).isSome || (w.d.pol p).job.isSome then ign w
  else
    let base := bits v 47 0
    let n := bits v 59 48 + 1
    let w := w.modPol p fun P => { P with coll := { P.coll with valid := false, ranges := [], count := n - 1, base := base } }
    if !v.testBit 63 then w
    else
      let placed := base % 64 == 0 && (match region base with
        | .stack _ _ => (w.d.reachAll .dma p base (64 * n) false).isNone
        | .sp _ _ => (w.d.reachAll .dma p base (64 * n) false).isNone
        | _ => false)
      let errs := if placed then (List.range n).map fun c => w.centErr p (w.cent p c) else [1]
      match (errs.filter (· != 0)).foldl (fun (m : Option Nat) x => some (match m with
        | some y => min x y
        | none => x)) none with
      | some e => w.modPol p fun P => { P with coll := { P.coll with err := e } }
      | none =>
        let lists := (List.range n).map fun c => let e := w.cent p c; (fld e.raw 0x18 8, 4 * e.n)
        w.modPol p fun P => { P with coll := { P.coll with valid := true, err := 0, ranges := (base, 64 * n) :: lists } }

/-! ## Landing slots and credits (R332) -/

/-- The area in which frames of a phase land: 0 contribution, 1 receive. -/
def CEnt.areaOf (e : CEnt) (phase : Nat) : Nat := if e.reduces && phase == 0 then 0 else 1
def CEnt.slotOf (e : CEnt) (area seg : Nat) : Nat := (if area = 0 then seg / e.n else seg) % e.nslot
/-- Address in landing SRAM of what rank `r` sends for a segment. -/
def Dev.landAt (d : Dev) (p : Nat) (e : CEnt) (seg phase r : Nat) : Nat :=
  let base := landBase e.engine + (d.pol p).landOff * 0x10000 + e.landOff
  if e.areaOf phase = 0 then base + (e.slotOf 0 seg * e.n + r) * e.seg
  else base + e.contribArea + e.slotOf 1 seg * e.recvSlot + (if e.op = 3 then r * e.seg else if e.op = 4 then r * (e.seg / e.n) else 0)
/-- Bytes that one rank sends for a segment. -/
def CEnt.blockLen (e : CEnt) : Nat := if e.op = 4 then e.seg / e.n else e.seg
/-- Ranks that send into this member's area for a segment, and their phase. -/
def CEnt.senders (e : CEnt) (area seg : Nat) : List Nat :=
  if area = 0 then List.range e.n
  else match e.op with
    | 1 => [seg % e.n]
    | 2 => [seg % e.n]
    | 5 => [e.root]
    | _ => List.range e.n
/-- Phase of what lands in the receive area. -/
def CEnt.recvPhase (e : CEnt) : Nat := if e.reduces then 1 else 0
/-- This member receives a result for a segment (R330). -/
def CEnt.receives (e : CEnt) (seg : Nat) : Bool := e.op != 2 || seg % e.n == e.me

def W.modColl (w : W) (p : Nat) (f : PolColl → PolColl) : W := w.modPol p fun P => { P with coll := f P.coll }

/-- Two segments use one slot of an area of one member: contributions, and the results of REDUCE_SCATTER, go to their segment's owner alone. -/
def CEnt.sameSlot (e : CEnt) (area a b : Nat) : Bool :=
  e.slotOf area a == e.slotOf area b && ((area == 1 && e.op != 2) || a % e.n == b % e.n)

/-- Segments that this member began before `seg` in the slot of an area: those before the last time that it began `seg`. -/
def usesBefore (e : CEnt) (area seg : Nat) (segs : List Nat) : Nat :=
  match segs.reverse.dropWhile (· != seg) with
  | [] => 0
  | _ :: l => (l.filter fun s => e.sameSlot area s seg).length

/-- The slot for `seg` at rank `t` is free: every segment that used it before has been credited (R332). -/
def Dev.mayLand (d : Dev) (p c : Nat) (e : CEnt) (area t seg : Nat) : Bool :=
  let K := (d.pol p).coll
  let mine := (K.begun.filter (·.1 == c)).map Prod.snd
  let got := K.credits.filter fun x => x.1 == c && x.2.1 == area && x.2.2.1 == t && e.sameSlot area x.2.2.2 seg
  decide (usesBefore e area seg mine ≤ got.length)

/-- Ranks that send into an area, for whatever segment. -/
def CEnt.feeders (e : CEnt) (area : Nat) : List Nat :=
  if area = 1 ∧ e.op = 2 then [e.me] else if e.op = 5 then [e.root] else List.range e.n

/-- A slot of an area is freed: every member that sends into the area has a credit (R332). -/
def W.creditAll (w : W) (p c : Nat) (e : CEnt) (area seg : Nat) : W :=
  w.each (e.feeders area) fun w t =>
    let (chip, q) := lget (0, 0) e.members t
    if chip = w.d.hub.chip then w.modColl q fun K => { K with credits := K.credits ++ [(c, area, e.me, seg)] }
    else w.issueCtl p c chip q 9 (toLe 8 (c + seg * 2 ^ 16 + e.me * 2 ^ 32 + area * 2 ^ 44)) (collKey e.raw)

/-! ## Landing (R331, R333, R336) -/

/-- A whole segment has landed and passed its digest; its flags join the job's summary (R336). -/
def W.landed (w : W) (p c seg phase r flags : Nat) : W :=
  let keep (L : Landing) : Bool := !(L.c == c && L.seg == seg && L.phase == phase && L.rank == r)
  let w := w.modColl p fun K => { K with landings := K.landings.filter keep ++ [{ c := c, seg := seg, phase := phase, rank := r, ok := true }] }
  if phase = 1 then w.modJob p fun j => { j with flags := j.flags ||| flags } else w

def Dev.hasLanded (d : Dev) (p c seg phase r : Nat) : Bool :=
  (d.pol p).coll.landings.any fun L => L.c == c && L.seg == seg && L.phase == phase && L.rank == r && L.ok

/-- A transfer to a member of this device crosses the mesh: its bytes land whole. -/
def W.landLocal (w : W) (q c seg phase r : Nat) (bs : Bytes) (flags : Nat) : W :=
  (w.write (w.d.landAt q (w.cent q c) seg phase r) bs).landed q c seg phase r flags

/-- The frames of a transfer (R302, R304, R333): up to 4,096 bytes each, the last with the digest and INFO. -/
def collFrames (p chip q c seg phase me key job : Nat) (keyed : Bool) (info : Nat) (src : Option Nat) (bs : Bytes) : List ROp :=
  let n := max 1 (ceilDiv bs.length 4096)
  (List.range n).map fun k =>
    { id := 0, issuer := .coll p c seg, kind := .coll c seg phase k, chip := chip, dstPol := q,
      addr := c + seg * 2 ^ 16 + me * 2 ^ 32 + phase * 2 ^ 44 + k * 2 ^ 48, payload := slice bs (4096 * k) 4096,
      key := if keyed then some key else none, job := job, last := k + 1 == n,
      trailer := if k + 1 = n then toLe 8 (crc64 bs) ++ toLe 8 info else []
      src := match src with
        | some a => [(a + 4096 * k, min 4096 (bs.length - 4096 * k))]
        | none => [] }

/-- INFO of the last frame (R304). -/
def W.collInfo (w : W) (e : CEnt) (flags : Nat) : Nat := flags % 256 + w.collSig e * 2 ^ 32

/-- A transfer begins: over the mesh to a member of this device, else as frames. -/
def W.startSend (w : W) (p : Nat) (x : CollSend) : W :=
  let e := w.cent p x.c
  let (chip, q) := lget (0, 0) e.members x.rank
  let w := w.modColl p fun K =>
    { K with sends := if chip = w.d.hub.chip then K.sends.erase x else K.sends.map fun y => if y = x then { y with started := true } else y }
  if chip = w.d.hub.chip then w.landLocal q x.c x.seg x.phase e.me x.bytes x.info
  else
    w.each (collFrames p chip q x.c x.seg x.phase e.me (bits (fld e.raw 0x20 2) 9 0) (w.d.jobNumber p) (collKey e.raw).isSome (w.collInfo e x.info) x.src x.bytes)
      fun w o => (w.issueOp o).2

/-- The transfer may begin: the slot at the receiver is free, and a receiver on this device runs a job. -/
def W.maySendColl (w : W) (p : Nat) (x : CollSend) : Bool :=
  let e := w.cent p x.c
  let (chip, q) := lget (0, 0) e.members x.rank
  !x.started && w.d.mayLand p x.c e (e.areaOf x.phase) x.rank x.seg &&
    (chip != w.d.hub.chip || ((w.d.runningJob q).isSome && (w.d.pol q).coll.valid))

/-- Transfers that may begin do. -/
def W.collStart (p : Nat) : Nat → W → W
  | 0, w => w
  | k + 1, w =>
    match (w.d.pol p).coll.sends.find? (w.maySendColl p) with
    | some x => W.collStart p k (w.startSend p x)
    | none => w

/-! ## Steps (R330, R331) -/

/-- The transfer of an unacknowledged operation has ended: nothing of it is left to send or to be acknowledged. -/
def Dev.collQuiet (d : Dev) (p c seg : Nat) : Bool :=
  !((d.pol p).coll.sends.any fun x => x.c == c && x.seg == seg) && !(d.fabric.ops.any fun o => o.issuer == .coll p c seg)

/-- A COLL step whose result has landed takes it to DST and frees the receive slot (R331, R332). -/
def W.collTake (w : W) (p : Nat) (S : CollStep) : W :=
  let e := w.cent p S.c
  let mark (w : W) : W := w.modColl p fun K => { K with steps := K.steps.map fun T => if T = S then { T with waiting := false } else T }
  if !S.waiting then w
  else if !e.receives S.seg then mark w
  else if (e.senders 1 S.seg).all fun r => w.d.hasLanded p S.c S.seg e.recvPhase r then
    let bs := w.read (w.d.landAt p e S.seg e.recvPhase 0) e.recvSlot
    match w.putBytes p S.dst bs with
    | (w, some er) => (w.stepFault p S.ldie S.q er.status er.detail).modColl p fun K => { K with steps := K.steps.erase S }
    | (w, none) =>
      let w := (mark w).modColl p fun K => { K with landings := K.landings.filter fun L => !(L.c == S.c && L.seg == S.seg && L.phase == e.recvPhase) }
      w.creditAll p S.c e 1 S.seg
  else w

/-- A COLL step whose result stands in DST and whose frames are all acknowledged is ready to be released (R331). -/
def W.collDone (w : W) (p : Nat) : W :=
  w.each ((w.d.pol p).coll.steps.filter fun S => !S.waiting && w.d.collQuiet p S.c S.seg) fun w S =>
    (w.modColl p fun K => { K with steps := K.steps.erase S }).modJob p fun j => j.setQueue S.ldie S.q fun Q => { Q with coll := false }

/-- What polder `p`'s collectives can do now, they do. -/
def W.collPump (w : W) (p : Nat) : W :=
  let go (w : W) : W :=
    let w := W.collStart p ((w.d.pol p).coll.sends.length + 1) w
    w.each (w.d.pol p).coll.steps fun w S => w.collTake p S
  ((go (go w)).pumpAll).collDone p

/-- The collectives of every polder with a running job. -/
def W.collAll (w : W) : W :=
  let go (w : W) : W := w.each (List.range 16) fun w p => if (w.d.pol p).coll.valid && (w.d.runningJob p).isSome then w.collPump p else w
  go (go w)

/-- A descriptor of a COLL step as R330 asks: the format, whole rows without gaps, and the size. -/
def collTileOk (t : Tile) (fmt size : Nat) : Bool :=
  t.fmt == fmt && !t.paged && !t.f.scaled && t.stride == t.rowLen && t.rows * t.rowLen == size

/-- COLL (R330, R331). -/
def execColl (p d q : Nat) (fx : MemFx) (s : State) : Host.Outcome State Fault Refusal :=
  s.run fun w =>
    (w.issue p d q (fun b => stepKind b == 4 && stepOp b == 3) fun w j b =>
      let c := fld b 0x10 2
      let seg := fld b 0x12 2
      let K := (w.d.pol p).coll
      let e := w.cent p c
      let src := w.tile j d (fld b 8 2)
      let dst := w.tile j d (fld b 0xA 2)
      w.counted p d q j b fun w =>
      if !K.valid || c > K.count || seg ≥ e.nseg || !collTileOk src e.fmt e.seg || !collTileOk dst e.outFmt e.recvSlot then
        w.stepFault p d q stINDEX_RANGE 0
      else match K.failed.find? (·.1 == c) with
        | some (_, st, det, chip) => w.stepFault p d q st det (if st = stCONTRIBUTION_BAD then chip else 0)
        | none =>
          if (w.endOf j src).chip.isSome || (w.endOf j dst).chip.isSome then w.stepFault p d q stADDRESS_FAULT dUNPOPULATED
          else w.withFx p d q fx fun w =>
            let reads := e.op != 5 || e.me == e.root
            match if reads then w.readTile p j src (j.tileAddr src % 2 ^ 48) e.seg else .ok [] with
            | .error er => w.stepFault p d q er.status er.detail
            | .ok bs =>
              let one (t off n : Nat) : CollSend :=
                { c := c, seg := seg, phase := 0, rank := t, bytes := slice bs off n, src := some (j.tileAddr src % 2 ^ 48 + off), info := 0 }
              let sends := match e.op with
                | 1 => [one (seg % e.n) 0 e.seg]
                | 2 => [one (seg % e.n) 0 e.seg]
                | 4 => (List.range e.n).map fun t => one t (t * e.blockLen) e.blockLen
                | 5 => if e.me = e.root then (List.range e.n).map fun t => one t 0 e.seg else []
                | _ => (List.range e.n).map fun t => one t 0 e.seg
              let step : CollStep := { c := c, seg := seg, ldie := d, q := q, pos := (j.queue d q).pos, dst := j.tileAddr dst % 2 ^ 48, waiting := true }
              ((w.modColl p fun K => { K with steps := K.steps ++ [step], sends := K.sends ++ sends, begun := K.begun ++ [(c, seg)] }).modJob p fun j =>
                j.setQueue d q fun Q => { Q with coll := true }).collAll).settle

/-! ## The sum (R54, R331) -/

/-- The sum of one element's contributions in rank order: special values first (R46 rules 1 to 3), then WAF additions, then R48. -/
def sumEl (ftz : Bool) (f : Fmt) (out : Nat) (codes : List Nat) : CF :=
  let xs := codes.map (widenCode f ftz)
  let vs := xs.map fun x => decodeF fmtFP32 x.1
  let rf := flagsOf xs
  let pos := vs.any fun v => v.isInf && !v.sign
  let neg := vs.any fun v => v.isInf && v.sign
  if vs.any FV.isNan then let (c, fl) := convertOut out ftz false .nan; (c, rf ||| fl)
  else if pos && neg then let (c, fl) := convertOut out ftz false .nan; (c, rf ||| fl ||| fInvalid)
  else if pos || neg then let (c, fl) := convertOut out ftz false (.inf neg); (c, rf ||| fl)
  else
    let (acc, fl) := vs.foldl (fun (a : FV × Nat) v => match v with
      | .num sg m ex => let (r, f1) := wafAdd a.1 (if sg then -(m : Int) else (m : Int)) ex; (r, a.2 ||| f1)
      | _ => a) (FV.num false 0 0, 0)
    let (c, f2) := convertOut out ftz false acc.toXR
    (c, rf ||| fl ||| f2)

/-- Lists of one length read across. -/
def across (n : Nat) (ls : List (List Nat)) : List (List Nat) :=
  match n with
  | 0 => []
  | k + 1 => (ls.map fun l => l.headD 0) :: across k (ls.map (·.drop 1))

/-- The result of summing the contributions: its bytes, of the segment's size, and its flags. Bytes of the segment beyond the last sum, which the spec does
not state, are free (entry 21). -/
def W.sumSegment (w : W) (p seg : Nat) (e : CEnt) (ftz : Bool) : W × Bytes × Nat :=
  let f := fmtD e.fmt
  let wo := (fmtD e.outFmt).w
  let n := min (8 * e.seg / f.w) (8 * e.seg / wo)
  let ins := (List.range e.n).map fun r => unpack f.w n (w.read (w.d.landAt p e seg 0 r) e.seg)
  let outs := (across n ins).map (sumEl ftz f e.outFmt)
  let bs := pack wo (outs.map Prod.fst)
  if bs.length < e.seg then
    let (k, w) := w.fresh
    (w, bs ++ toLe (e.seg - bs.length) (Config.freeNat k), flagsOf outs)
  else (w, bs, flagsOf outs)

/-- SEGMENT_REDUCE (R331, R332, R336): every contribution has landed, this member owns the segment, and the receive slot is free. -/
def execSegmentReduce (p c seg : Nat) (s : State) : Host.Outcome State Fault Refusal :=
  s.run fun w =>
    match w.d.runningJob p with
    | none => w
    | some j =>
      let K := (w.d.pol p).coll
      let e := w.cent p c
      if K.valid && decide (c ≤ K.count) && e.reduces && seg % e.n == e.me && ((List.range e.n).all fun r => w.d.hasLanded p c seg 0 r) &&
          w.d.mayLand p c e 1 e.me seg then
        let (w, bs, fl) := w.sumSegment p seg e (j.ftzOf 3)
        let w := w.modColl p fun K => { K with landings := K.landings.filter fun L => !(L.c == c && L.seg == seg && L.phase == 0) }
        let w := w.creditAll p c e 0 seg
        let one (t : Nat) : CollSend := { c := c, seg := seg, phase := 1, rank := t, bytes := bs, info := fl }
        let dests := if e.op = 1 then List.range e.n else [e.me]
        ((w.modColl p fun K => { K with sends := K.sends ++ dests.map one }).collAll).settle
      else w

/-- What a failed digest or configuration check does at every member (R333, R334). -/
def W.collBad (w : W) (p c detail chip : Nat) : W :=
  (w.collFail p c stCONTRIBUTION_BAD detail chip).collAbortAll p c stCONTRIBUTION_BAD chip detail

end Sys2Proof.Machine
end

