-- ==== Sys2Proof/Machine/Rings.lean ====
section
/-! DEFINITION. Rings from enable to drain, doorbells, the reading of entries, host reads, and the descriptors that move no job: NOP, WAIT, SIGNAL, SET, KEY_INSTALL
(R193, R197 to R212, R216, R232, R402). -/

namespace Sys2Proof.Machine

/-! ## Enable and disable (R198 to R200, R430, R444, R445) -/

/-- RING_CTRL's ENABLE as it reads (R200). -/
def Ring.enabled (R : Ring) : Bool := R.st == 1 || (R.st == 3 && R.cause != 1)

/-- An enable of ring `r` is accepted (R199, R430). -/
def Dev.ringEnableOk (d : Dev) (r : Nat) : Bool :=
  let R := d.ring r
  let p? := d.ringPol r
  let C := d.ring R.cq
  decide (6 ≤ R.log2 ∧ R.log2 ≤ 16 ∧ R.kind ≤ 4) && R.base % 4096 == 0 &&
    (match p? with
      | none => R.kind == 4
      | some p => (d.pol p).hasCtx R.owner) &&
    (R.kind != 0 || (C.st == 1 && C.kind == 1 && C.owner == R.owner && d.ringPol R.cq == p?)) &&
    (R.hostFills || !R.irqEn || decide (R.vector < vecCount (d.ringFn r)))

/-- The ring starts (R197, R232, R451): the version of the function that enables it is locked. -/
def W.ringStart (w : W) (fn r : Nat) : W :=
  let w := w.modRing r fun R =>
    { R with st := 1, cause := 0, head := 0, tail := 0, seq := 0, dbDrop := 0, batch := [], desc := none, reserved := 0, since := 0 }
  w.modHub fun h => { h with ifSel := tmod (0x20, false) h.ifSel fn fun x => (x.1, true) }

/-- A ring stops taking entries: what was read and not taken is dropped, and a warm-up for its JOB is cancelled, its seal with it, since that JOB is not to
start (R190, R204). -/
def W.ringLeaves (w : W) (r st cause : Nat) : W :=
  let w := (w.leaveActive r st cause).dropReads fun f => match f with
    | .entries r' _ _ => r' == r
    | _ => false
  match w.d.ringPol r with
  | some p =>
    let w := if ((w.d.pol p).warm.map (·.ring)) = some r then w.cancelWarm p false else w
    if (w.d.pol p).waitRo.isEmpty then w else w.modPol p fun P => { P with waitRo := P.waitRo.filter (·.1 != r) }
  | none => w

/-- A COMPLETE ring is still the CQ of a SUBMIT ring that may write a record (R200). -/
def Dev.cqBusy (d : Dev) (r : Nat) : Bool := d.rings.any fun (_, R) => R.kind == 0 && R.cq == r && (R.enabled || R.st == 2)

/-- A write of ENABLE = 0 to a ring (R200). -/
def W.ringStop (w : W) (r : Nat) (ign : W → W) : W :=
  let R := w.d.ring r
  if R.st ≠ 1 && R.st ≠ 3 then w
  else if R.kind = 1 && w.d.cqBusy r then ign (w.modRing r fun R => { R with cause := 1 })
  else
    let w := w.ringLeaves r 2 R.cause
    if R.waits then w.completeSt r stCANCELLED else w

/-- A write of `v` to RING_CTRL[r] (R198 to R200, R435, R444): fields first, then the enable; a clear of ENABLE is only that. A reserved KIND keeps the previous
one, and an enable in the same write is refused (R7, R199). -/
def W.ringCtrl (w : W) (fn r v : Nat) (ign : W → W) : W :=
  let R := w.d.ring r
  let bad := bits v 2 0 > 4
  let kind := if bad then R.kind else bits v 2 0
  let cq := if kind = 0 then bits v 28 16 else 0
  let same := kind == R.kind && cq == R.cq && bits v 11 8 == R.log2
  if !v.testBit 31 then
    if R.st = 0 then w.modRing r fun R => { R with kind := kind, cq := cq, log2 := bits v 11 8 }
    else if R.st = 2 then (if same then w else ign w)
    else w.ringStop r ign
  else if R.enabled then (if same then w else ign w)
  else if R.st = 2 then ign w
  else
    let w' := if R.st = 0 then w.modRing r fun R => { R with kind := kind, cq := cq, log2 := bits v 11 8 } else w
    if w'.d.ringEnableOk r && !bad then
      let w' := w'.ringStart fn r
      if R.st = 0 || same then w' else ign w'
    else ign (w'.modRing r fun R => { R with st := 3, cause := 1 })

/-- RING_ENABLE (R200): `v` with its ENABLE set. -/
def execRingEnable (fn r v : Nat) (s : State) : Host.Outcome State Fault Refusal :=
  s.run fun w => if r ≥ 8192 then w
    else w.regWrite fn (ringOff fn r 0x10) (w.d.reachesPfD fn (w.d.ringPol r)) fun w ign => w.ringCtrl fn r (setBits v 31 31 1) ign

/-- RING_DISABLE (R200): the fields as they stand, with ENABLE clear. -/
def execRingDisable (fn r : Nat) (s : State) : Host.Outcome State Fault Refusal :=
  s.run fun w => if r ≥ 8192 then w
    else w.regWrite fn (ringOff fn r 0x10) (w.d.reachesPfD fn (w.d.ringPol r)) fun w ign =>
      let R := w.d.ring r
      w.ringCtrl fn r (R.kind + 2 ^ 8 * R.log2 + 2 ^ 16 * R.cq) ign

/-- RING_DRAIN_COMPLETE (R200 step 4). -/
def execRingDrainComplete (r : Nat) (s : State) : Host.Outcome State Fault Refusal :=
  s.run fun w =>
    let R := w.d.ring r
    if R.st = 2 && R.desc.isNone then (w.modRing r fun R => { R with st := 0 }).settle else w

/-- A write to RING_IF_SEL (R232). -/
def W.writeIfSel (w : W) (fn v : Nat) (ign : W → W) : W :=
  let x := tget (0x20, false) w.d.hub.ifSel fn
  if x.2 || !(v = 0x20 || v = 0x21) then ign w else w.modHub fun h => { h with ifSel := tset h.ifSel fn (v, false) }

/-- RING_IF_SEL (R232). -/
def execRingIfSel (fn v : Nat) (s : State) : Host.Outcome State Fault Refusal :=
  s.run fun w => w.regWrite fn (barOff fn 0x880004 0xC2004) true fun w ign => w.writeIfSel fn v ign

/-! ## Doorbells (R195, R201 to R203, R420) -/

/-- Recording an index on an ACTIVE ring (R202, R469). -/
def W.recordIndex (w : W) (r new : Nat) : W :=
  let R := w.d.ring r
  let rec_ := if R.hostFills then R.tail else R.head
  let ahead := sub32 new rec_
  if ahead = 0 ∨ ahead ≥ 0x80000000 then w
  else if R.hostFills then
    if sub32 new R.head > R.size then (w.ringLeaves r 3 2).ringEvent r stDOORBELL_OVERRUN 0 new
    else w.modRing r fun R => { R with tail := new }
  else if sub32 R.tail new > R.size then w.ringEvent r stDOORBELL_OVERRUN 0 new
  else w.modRing r fun R => { R with head := new }

/-- DOORBELL: a write of `size` bytes of value `v` at offset `off` of the BAR2 of function `fn` (R201 to R203). -/
def execDoorbell (fn off size v : Nat) (s : State) : Host.Outcome State Fault Refusal :=
  s.run fun w =>
    let r := off / 64
    if !w.d.hostReach fn || !w.d.running || r ≥ 8192 then w
    else if !w.d.reachesPfD fn (w.d.ringPol r) then w.modHub fun h => { h with dbDropFn := tmod 0 h.dbDropFn fn fun x => sat64 (x + 1) }
    else if size ≠ 8 ∨ off % 64 ≠ 0 ∨ v ≥ 2 ^ 32 then w
    else if (w.d.ring r).st ≠ 1 then w.modRing r fun R => { R with dbDrop := sat64 (R.dbDrop + 1) }
    else (w.recordIndex r v).settle

/-! ## Reading entries and host reads (R193, R204, R206, R246, R469) -/

/-- The next entries of ring `r` may be read: between head and recorded tail, nothing read waits to be taken, the context RESIDENT, the polder ready, a
completion entry free for a SUBMIT ring, the service loop RUNNING for a REQUEST ring. -/
def Dev.mayFetch (d : Dev) (r : Nat) : Bool :=
  let R := d.ring r
  R.hasWork && R.batch.isEmpty && R.desc.isNone && d.running && (d.ctx R.owner).res == 3 &&
    (match d.ringPol r with
      | some p => d.polReady p && (d.pol p).hasCtx R.owner && (R.kind != 2 || (d.pol p).svc.st == 2)
      | none => false) &&
    (R.kind != 0 || decide ((d.ring R.cq).room > 0)) &&
    !(d.hub.reads.any fun x => match x.purpose with
      | .entries r' _ _ => r' == r
      | _ => false)

/-- ENTRY_FETCH (R204, R206): up to 16 entries, not past the end of the ring's memory. -/
def execEntryFetch (r : Nat) (s : State) : Host.Outcome State Fault Refusal :=
  s.run fun w =>
    if !w.d.mayFetch r then w
    else
      let R := w.d.ring r
      let n := min (min 16 (sub32 R.tail R.head)) (R.size - R.head % R.size)
      (w.hostRead (R.entryAddr R.head) (n * entrySize R.kind) (.entries r R.head n)).2

/-- Bytes cut into entries of `k` bytes. -/
def cutEntries (k : Nat) : Nat → Bytes → List Bytes
  | 0, _ => []
  | n + 1, bs => bs.take k :: cutEntries k n (bs.drop k)

/-- A read comes back (R193): entries join their ring's batch or stop it; other data waits for the command that uses it. -/
def W.readBack (w : W) (tag : Nat) (res : ReadRes) : W :=
  match w.d.hread tag with
  | none => w
  | some x =>
    if x.res.isSome then w
    else match x.purpose, res with
      | .entries r _ n, .ok bs =>
        ((w.dropRead tag).modRing r fun R => if R.st = 1 then { R with batch := cutEntries (entrySize R.kind) n bs } else R).settle
      | .entries r first _, .err det =>
        let w := w.dropRead tag
        if (w.d.ring r).st = 1 then ((w.ringLeaves r 3 3).ringEvent r stRING_FAULT det first).settle else w
      | _, _ => w.modHub fun h => { h with reads := h.reads.map fun y => if y.tag = tag then { y with res := some res } else y }

/-- HOST_READ_COMPLETION (R193): all the data, or detail 1 UR, 2 CA, 3 poisoned. -/
def execHostReadCompletion (tag : Nat) (res : ReadRes) (s : State) : Host.Outcome State Fault Refusal :=
  s.run fun w =>
    let fits := match w.d.hread tag, res with
      | some x, .ok bs => bs.length == x.len
      | some _, .err det => decide (1 ≤ det ∧ det ≤ 3)
      | none, _ => false
    if w.d.aon.linkUp && fits then w.readBack tag res else w

/-- HOST_READ_TIMEOUT (R193): detail 4. -/
def execHostReadTimeout (tag : Nat) (s : State) : Host.Outcome State Fault Refusal := s.run fun w => w.readBack tag (.err 4)

/-! ## NOP, WAIT, SIGNAL, SET (R207, R211, R212, R220) -/

/-- NOP, and every descriptor of a reserved TYPE, which is refused (R7, R207, R208). -/
def execNop (r : Nat) (s : State) : Host.Outcome State Fault Refusal :=
  s.run fun w => w.takeFor r (fun b => dType b == 0 || decide (dType b > 7)) (fun b => dType b == 0 && isZero b 8 0x38) fun w _ => w.completeSt r stOK

/-- WAIT (R211, R235, R241). -/
def execSluWait (r : Nat) (s : State) : Host.Outcome State Fault Refusal :=
  s.run fun w => w.takeFor r (fun b => dType b == 2) (fun b => fld b 8 8 / 2 ^ 13 == 0 && isZero b 0x18 0x28) fun w b =>
    let i := waitSluice b
    if !w.d.granted i (w.d.ring r).owner .wait then w.completeSt r stGRANT_DENIED
    else
      let v := (w.d.sluice i).value
      if v ≥ waitThreshold b then w.complete r { info := u32 v }
      else w.modRing r fun R => { R with desc := R.desc.map fun D => { D with waiting := true } }

/-- The layout of a SIGNAL descriptor (R140, R212). -/
def signalLayoutOk (b : Bytes) : Bool := fld b 8 8 / 2 ^ 61 == 0 && decide (fld b 0x18 8 < 2) && isZero b 0x20 0x20
def isSet (b : Bytes) : Bool := (fld b 0x18 1).testBit 0

/-- A SIGNAL descriptor in progress: on a sluice of this device at once, or as a remote operation under the polder's key as it stands (R212, R317, R320, R337). -/
def W.signalDesc (w : W) (r : Nat) (b : Bytes) (set : Bool) : W :=
  let target := fld b 8 8
  let n := fld b 0x10 8
  if target / 2 ^ 48 = w.d.hub.chip then
    match sluiceAt (target % 2 ^ 48) with
    | none => w.completeSt r stADDRESS_FAULT dUNPOPULATED
    | some i =>
      if w.d.granted i (w.d.ring r).owner (if set then .set else .signal) then
        let v := (sluApply (w.d.sluice i) set n).value
        (w.sluOp i set n).complete r { info := u32 v }
      else w.completeSt r stGRANT_DENIED
  else
    let p := (w.d.ringPol r).getD 16
    let key := (w.d.pol p).keyNow
    if (match key with
      | some k => !(w.d.pol p).hasKey k
      | none => false) then w.completeSt r stKEY_SLOT_DENIED
    else
      let (id, w) := w.issueOp { id := 0, issuer := .ring p r, kind := if set then .set else .add, chip := target / 2 ^ 48, addr := target,
                                 payload := toLe 8 n, key := key }
      (w.modRing r fun R => { R with desc := R.desc.map fun D => { D with op := some id } }).pumpAll

/-- SIGNAL (R212, R234). -/
def execSluSignal (r : Nat) (s : State) : Host.Outcome State Fault Refusal :=
  s.run fun w => w.takeFor r (fun b => dType b == 3 && !isSet b) signalLayoutOk fun w b => w.signalDesc r b false

/-- SET: a SIGNAL descriptor with SET = 1 (R212, R234). -/
def execSluSet (r : Nat) (s : State) : Host.Outcome State Fault Refusal :=
  s.run fun w => w.takeFor r (fun b => dType b == 3 && isSet b) signalLayoutOk fun w b => w.signalDesc r b true

/-! ## KEY_INSTALL (R216, R402) -/

def keySlot (b : Bytes) : Nat := fld b 8 2 % 2 ^ 10
def keyOp (b : Bytes) : Nat := fld b 0xA 1
/-- The layout of a KEY_INSTALL descriptor; an erase has no blob. -/
def keyLayoutOk (b : Bytes) : Bool :=
  fld b 8 2 / 2 ^ 10 == 0 && decide (keyOp b ≤ 1) && fld b 0xB 1 == 0 && isZero b 0x18 0x28 && (keyOp b == 0 || (fld b 0xC 4 == 0 && fld b 0x10 8 == 0))

/-- The key that a blob unwraps to on function `fn`, with its session and counter (R402). -/
def Dev.unwrap (d : Dev) (fn slot : Nat) (b : Bytes) : Option (Nat × Nat × Nat) :=
  let ses := fld b 8 4
  let ctr := fld b 0x10 8
  if b.length ≠ 80 || fld b 0 4 ≠ 0x4B4C4257 || fld b 4 2 ≠ 2 || fld b 6 2 ≠ 0 || fld b 0xC 2 ≠ slot || fld b 0xE 2 ≠ 0 || ctr = 0 || !isZero b 0x18 8 then none
  else match d.sec.sessions.find? fun x => x.fn == fn && x.id == ses && x.opened with
    | none => none
    | some x =>
      if ctr ≤ x.counter then none
      else
        let wk := hkdfExpand x.secret (ascii "WZ key wrap") 32
        (gcmOpen wk (toLe 8 ctr ++ toLe 2 slot ++ zeros 2) (b.take 0x20) (slice b 0x20 32) (slice b 0x40 16)).map fun k => (ses, ctr, be k)

/-- A key change takes effect at once, or after the jobs that had started (R216). -/
def W.changeKey (w : W) (r slot : Nat) (key : Option Nat) : W :=
  let p := (w.d.ringPol r).getD 16
  if (w.d.pol p).job.isSome then
    w.modFabric fun F => { F with keyWait := F.keyWait ++ [{ slot := slot, key := key, polder := p, ring := r }] }
  else (w.setKey slot key).completeSt r stOK

/-- KEY_INSTALL with OP install, and with a reserved OP, which is refused (R216, R402): `blob` is what the read of the blob gives. -/
def execKeyInstall (r : Nat) (blob : ReadRes) (s : State) : Host.Outcome State Fault Refusal :=
  s.run fun w => w.takeFor r (fun b => dType b == 7 && keyOp b != 1) keyLayoutOk fun w b =>
    let p := (w.d.ringPol r).getD 16
    let slot := keySlot b
    if !(w.d.pol p).hasKey slot then w.completeSt r stKEY_SLOT_DENIED
    else if fld b 0xC 4 ≠ 80 then w.completeSt r stKEY_BAD
    else
      let w := w.askHost (fld b 0x10 8) 80
      match blob with
      | .err det => w.completeSt r stHOST_READ_FAULT det
      | .ok bs =>
        let fn := w.d.driver p
        match w.d.unwrap fn slot bs with
        | none => w.completeSt r stKEY_BAD
        | some (ses, ctr, key) =>
          (w.modSec fun S => { S with sessions := S.sessions.map fun x => if x.fn = fn ∧ x.id = ses then { x with counter := ctr } else x }).changeKey r slot
            (some key)

/-- KEY_ERASE: KEY_INSTALL with OP erase (R216). -/
def execKeyErase (r : Nat) (s : State) : Host.Outcome State Fault Refusal :=
  s.run fun w => w.takeFor r (fun b => dType b == 7 && keyOp b == 1) keyLayoutOk fun w b =>
    let p := (w.d.ringPol r).getD 16
    if !(w.d.pol p).hasKey (keySlot b) then w.completeSt r stKEY_SLOT_DENIED else w.changeKey r (keySlot b) none

end Sys2Proof.Machine
end

