-- ==== Sys2Proof/Machine/Ctxs.lean ====
section
/-! DEFINITION. Owners of sluices, grants, contexts, virtual functions, the masks of interrupt vectors (R231, R233, R240, R241, R243, R244, R250, R420, R437). -/

namespace Sys2Proof.Machine

/-! ## Sluices and grants -/

/-- A write of `v` to SLU_OWNER[i] (R233): a change of owner is ignored while a WAIT is held on the sluice or for a context outside the polder; SAT is
cleared by writing 1. -/
def W.sluOwner (w : W) (i v : Nat) (ign : W → W) : W :=
  let S := w.d.sluice i
  let valid := v.testBit 31
  let c := bits v 11 0
  if valid = S.valid ∧ c = S.ctx then w.modSluice i fun S => { S with sat := S.sat && !v.testBit 30 }
  else
    let ok := match w.d.sluPol i with
      | some p => (w.d.pol p).hasCtx c && (w.d.waiters i).isEmpty
      | none => false
    if ok then w.modSluice i fun _ => { value := 0, valid := valid, sat := false, ctx := c } else ign w

/-- SLU_OWNER (R233). -/
def execSluOwner (fn i v : Nat) (s : State) : Host.Outcome State Fault Refusal :=
  s.run fun w => if i ≥ 8192 then w
    else w.regWrite fn (sluOff fn (4 * i)) (w.d.reachesPfD fn (w.d.sluPol i)) fun w ign => w.sluOwner i v ign

/-- The fields of a grant entry (R240). -/
def grantFields (v : Nat) : Nat :=
  bits v 12 0 + bits v 28 16 * 2 ^ 16 + bits v 41 32 * 2 ^ 32 + bits v 52 48 * 2 ^ 48 + bits v 63 63 * 2 ^ 63

/-- Function `fn` may write entry `e` as entry `g` (R241): the PF any; a VF only a grant of a sluice of its polder to a context of its polder. -/
def Dev.grantWritable (d : Dev) (fn g e : Nat) : Bool :=
  let p := g / 256
  fn == 0 ||
    (p == vfPol fn && !e.testBit 51 && d.sluOwnerPol (bits e 12 0) == some p && (d.pol p).hasCtx (d.sluice (bits e 12 0)).ctx && (d.pol p).hasCtx (bits e 28 16))

/-- A write of `v` to SLU_GRANT[g] (R240, R241): an entry with WAIT and REMOTE is ignored whole. -/
def W.sluGrant (w : W) (fn g v : Nat) (ign : W → W) : W :=
  let e := grantFields v
  if (e.testBit 48 && e.testBit 51) || !w.d.grantWritable fn g e then ign w else w.dev fun d => { d with grants := tset d.grants g e }

/-- SLU_GRANT (R240, R241). -/
def execSluGrant (fn g v : Nat) (s : State) : Host.Outcome State Fault Refusal :=
  s.run fun w => if g ≥ 4096 then w
    else w.regWrite fn (sluOff fn (0x8000 + 8 * g)) (w.d.reachesPfD fn (some (g / 256))) fun w ign => w.sluGrant fn g v ign

/-! ## Contexts -/

/-- Context `n` may be enabled with its tenant tag (R244, R267). -/
def Dev.ctxEnableOk (d : Dev) (n : Nat) : Bool :=
  match d.ctxPol n with
  | none => false
  | some p =>
    (d.pol p).st == 2 && ((d.pol p).svc.st == 0 || (d.polCtxs p).all fun m => (d.ctx m).tenant == (d.ctx n).tenant)

/-- Context `n` leaves its slot without a save and is DISABLED (R244). -/
def W.ctxOff (w : W) (n : Nat) : W :=
  (w.dropReads fun f => f == .saveRec n).modCtx n fun C =>
    { C with enable := false, res := 0, slot := 0, record := none, act := 0, pend := 0, budget := 0, lastRing := none }

/-- A write of `v` to CTX_CTRL[n] (R243, R244, R435). -/
def W.ctxCtrl (w : W) (fn n v : Nat) (ign : W → W) : W :=
  let C := w.d.ctx n
  let tenant := v % 2 ^ 16
  if C.enable then
    if v.testBit 31 then (if tenant = C.tenant then w else ign w)
    else
      let busy := match w.d.ctxPol n with
        | some p => (w.d.ctxRings p n).any fun r => (w.d.ring r).st != 0
        | none => false
      if busy then ign w else w.ctxOff n
  else
    let w := if tenant = C.tenant then w else if fn = 0 then w.modCtx n fun C => { C with tenant := tenant } else ign w
    if !v.testBit 31 then w
    else if w.d.ctxEnableOk n then
      w.modCtx n fun C => { C with enable := true, res := 1, slot := 0, record := none, act := 0, since := w.d.aon.hub, pend := 0, budget := 0, lastRing := none }
    else ign w

/-- CTX_ENABLE (R243, R244): `v` with its ENABLE set. -/
def execCtxEnable (fn n v : Nat) (s : State) : Host.Outcome State Fault Refusal :=
  s.run fun w => if n ≥ 4096 then w
    else w.regWrite fn (ctxOff fn n 0) (w.d.reachesPfD fn (w.d.ctxPol n)) fun w ign => w.ctxCtrl fn n (setBits v 31 31 1) ign

/-- CTX_DISABLE (R244): the tenant tag as it stands, with ENABLE clear. -/
def execCtxDisable (fn n : Nat) (s : State) : Host.Outcome State Fault Refusal :=
  s.run fun w => if n ≥ 4096 then w
    else w.regWrite fn (ctxOff fn n 0) (w.d.reachesPfD fn (w.d.ctxPol n)) fun w ign => w.ctxCtrl fn n (w.d.ctx n).tenant ign

/-- A context's record cannot be loaded (R250): FAULTED, its rings stop, and the slot is free. -/
def W.ctxFault (w : W) (n det : Nat) : W :=
  match w.d.ctxPol n with
  | none => w
  | some p =>
    let w := w.modCtx n fun C => { C with res := 5 }
    let w := w.each ((w.d.ctxRings p n).filter fun r => (w.d.ring r).st == 1) fun w r => w.ringLeaves r 3 3
    w.event p stHOST_READ_FAULT det 4 n 0

/-- CONTEXT_LOAD_COMPLETE (R250 step 5): the record that was read is checked. Its tag verifies exactly when it is the record that the device wrote last
(R247). -/
def execContextLoadComplete (n : Nat) (s : State) : Host.Outcome State Fault Refusal :=
  s.run fun w =>
    if (w.d.ctx n).res ≠ 2 then w
    else match w.d.hub.reads.find? fun x => x.purpose == .saveRec n with
      | none => w
      | some x => match x.res with
        | none => w
        | some res =>
          let w := w.dropRead x.tag
          match res with
          | .err det => (w.ctxFault n det).settle
          | .ok bs =>
            if (w.d.ctx n).record = some bs then (w.modCtx n fun C => { C with res := 3 }).settle else (w.ctxFault n 3).settle

/-! ## Functions and vectors -/

/-- VF_ENABLE (R194, R420): the host sets the number of enabled VFs; before firmware is RUNNING it is ignored. -/
def execVfEnable (n : Nat) (s : State) : Host.Outcome State Fault Refusal :=
  s.run fun w => if w.d.aon.linkUp && w.d.running && decide (n ≤ 16) then (w.modHub fun h => { h with numVfs := n }).settle else w

/-- A vector is unmasked: a pending message is sent (R231). -/
def W.unmask (w : W) (fn vec : Nat) : W :=
  let sends := (w.d.vec fn vec).pend && !w.d.fnMasked fn
  let w := w.modVec fn vec fun v => { v with masked := false, pend := v.pend && !sends }
  if sends then w.emit (w.d.msixMsg fn vec) else w

/-- MSIX_UNMASK (R231); the table is served at all times (R420). -/
def execMsixUnmask (fn vec : Nat) (s : State) : Host.Outcome State Fault Refusal :=
  s.run fun w => if w.d.hostReach fn && decide (vec < vecCount fn) then w.unmask fn vec else w

end Sys2Proof.Machine
end

