-- ==== Sys2Proof/Machine/FabricIn.lean ====
section
/-! DEFINITION. Frames that arrive: their checks, remote writes, reads, adds and sets at the destination, acknowledgements and refusals at the issuer,
and collective frames (R317 to R325, R332 to R341). -/

namespace Sys2Proof.Machine

/-! ## Check 2 of R322: the tag and the replay window (R340) -/

/-- What R340 says of a number. -/
inductive Fresh where
  | new
  | replay
  | full
  deriving DecidableEq, Repr

/-- A number beside the window of its triple: the window after accepting it, if it is new. -/
def Window.accept (x : Window) (q : Nat) : Option Window :=
  if x.high < q then
    let k := q - x.high
    some { x with high := q, seen := (if k > 4096 then 0 else (x.seen * 2 ^ k) % 2 ^ 4097) ||| 1 }
  else
    let k := x.high - q
    if k > 4096 ∨ x.seen.testBit k then none else some { x with seen := x.seen ||| 2 ^ k }

/-- The number of a frame on port `n` is checked and recorded by its link die. -/
def W.freshen (w : W) (n : Nat) (f : Frame) : W × Fresh :=
  let l := w.d.fabric.windows
  let mine (x : Window) : Bool := x.die == n / 3 && x.slot == f.keyslot && x.chip == f.src && x.port == f.srcPort
  match l.find? mine with
  | some x => match x.accept f.nseq with
    | some y => (w.modFabric fun F => { F with windows := F.windows.map fun z => if mine z then y else z }, .new)
    | none => (w, .replay)
  | none =>
    if (l.filter (·.die == n / 3)).length ≥ 16384 then (w, .full)
    else (w.modFabric fun F => { F with windows := F.windows ++
      [{ die := n / 3, slot := f.keyslot, chip := f.src, port := f.srcPort, high := f.nseq, seen := 1 }] }, .new)

/-- What check 2 leaves of a frame: the plain frame and the key slot that it arrived under, whether it is a replay; or nothing. -/
inductive Auth where
  | ok (f : Frame) (key : Option Nat) (replay : Bool)
  | stop

/-- The polder whose memory, page table or sluice an address names. -/
def Dev.targetPol (d : Dev) (a : Nat) : Option Nat :=
  match region a with
  | .stack s _ => d.sitePol s
  | .sp s _ => d.sitePol s
  | .code s _ => d.sitePol s
  | .pt p _ _ => if (d.pol p).st = 0 then none else some p
  | .slu i _ => d.sluPol i
  | .none => none

/-- The polder that a frame is for: a collective's in its header, an operation's by its address; 16 for none. -/
def Dev.framePolIn (d : Dev) (f : Frame) : Nat :=
  if f.kind = 8 ∨ f.kind = 9 ∨ f.kind = 0x0A then f.dstPol
  else if f.kind = 1 ∨ f.kind = 2 ∨ f.kind = 4 ∨ f.kind = 5 then (d.targetPol (f.addr % 2 ^ 48)).getD 16
  else 16

/-- A frame passes check 2 of R322, or is refused with an unauthenticated NAK KEY; a replayed one is counted (R340). -/
def W.auth (w : W) (n : Nat) (f : Frame) : W × Auth :=
  if !f.enc then (w, .ok f none false)
  else
    let nak (w : W) : W := w.sendCtl (nakFrame (w.d.framePolIn f) f.src f.tag 1 0) none
    match if (w.d.key f.keyslot).valid then w.d.unseal f else none with
    | none => (nak (w.linkCnt n 7), .stop)
    | some g =>
      match w.freshen n f with
      | (w, .new) => (w, .ok g (some f.keyslot) false)
      | (w, .replay) => (w.linkCnt n 5, .ok g (some f.keyslot) true)
      | (w, .full) => (nak w, .stop)

/-- A frame of kind `kind` on port `n`, through checks 1 and 2. -/
def W.inbound (w : W) (n kind : Nat) (f : Frame) (go : W → Frame → Option Nat → Bool → W) : W :=
  if f.kind ≠ kind then w
  else
    let (w, mine) := w.arrive n f
    if !mine then w
    else match w.auth n f with
      | (w, .ok g key replay) => go w g key replay
      | (w, .stop) => w

/-- The frame's CODE is that of its payload (R304). -/
def codeRight (f : Frame) : Bool := f.trailer.take (codeOf f.payload).length == codeOf f.payload
/-- DIGEST and INFO of a LAST frame, after its CODE, which an empty payload has none of (R304). -/
def lastTrailer (f : Frame) : Bytes := f.trailer.drop (codeOf f.payload).length

/-! ## Checks 3 to 6 of R322 -/

/-- Check 3 for an address (R322). -/
def Dev.targetReady (d : Dev) (a : Nat) : Bool := match d.targetPol a with
  | some p => d.polReady p
  | none => true

/-- Check 4 for `n` bytes at a global address (R138, R139, R143): the detail of the refusal. An address of another chip is not populated here. -/
def Dev.addressBad (d : Dev) (g n : Nat) (wr : Bool) : Option Nat :=
  let a := g % 2 ^ 48
  if g / 2 ^ 61 ≠ 0 then some dRESERVED_BITS
  else if g / 2 ^ 48 ≠ d.hub.chip then some dUNPOPULATED
  else d.reachAll .remote ((d.targetPol a).getD 16) a n wr

/-- The frame's key is what an admission asks for. -/
def keyedOk (keyed : Bool) (slot : Nat) (key : Option Nat) : Bool := !keyed || key == some slot

/-- Window `i` admits the range (R323). -/
def Dev.winAdmits (d : Dev) (i chip : Nat) (key : Option Nat) (wr : Bool) (a n : Nat) : Bool :=
  let lo := tget 0 d.fabric.winLo i
  let hi := tget 0 d.fabric.winHi i
  let base := bits lo 47 12 * 4096
  lo.testBit 63 && lo.testBit (if wr then 61 else 62) && keyedOk (lo.testBit 60) (bits lo 59 50) key &&
    (hi.testBit 13 || bits hi 12 0 == chip) && decide (base ≤ a ∧ a + n ≤ base + bits hi 57 32 * 4096)

/-- A range lies within another. -/
def within (a n base len : Nat) : Bool := decide (base ≤ a ∧ a + n ≤ base + len)

/-- The admissions of a running service polder's pair: its record ring, its frame FIFO, and the frames donated to the peer (R288, R323). -/
def Pair.admits (x : Pair) (chip : Nat) (key : Option Nat) (a n : Nat) : Bool :=
  let b := x.entry
  bits (fld b 0x30 2) 12 0 == chip && keyedOk ((fld b 0x32 2).testBit 15) (bits (fld b 0x32 2) 9 0) key &&
    (within a n (bits (fld b 0 8) 47 0) 0x10000 || within a n (bits (fld b 8 8) 47 0) 0x8000 ||
      x.donated.any fun f => within a n (f * 2 ^ 18) 0x40000)

/-- Check 5 (R323). -/
def Dev.windowOk (d : Dev) (p chip : Nat) (key : Option Nat) (wr : Bool) (a n : Nat) : Bool :=
  ((List.range 16).any fun i => d.winAdmits (16 * p + i) chip key wr a n) ||
    (wr && (d.pol p).svc.st == 2 && (d.pol p).svc.pairs.any fun x => x.admits chip key a n)

/-- A refusal is sent under the key of the operation (R337). -/
def W.nakTo (w : W) (p : Nat) (f : Frame) (reason detail : Nat) (key : Option Nat) : W := w.sendCtl (nakFrame p f.src f.tag reason detail) key
def W.ackTo (w : W) (p : Nat) (f : Frame) (tag : Nat) (key : Option Nat) : W := w.sendCtl (ackFrame p f.src tag) key

/-- Verification of CODE before anything lands (R318): the first failure of a frame is answered with CHECK_RETRY, the second with CHECK, which is
counted for the owner. -/
def W.codeGate (w : W) (p : Nat) (f : Frame) (key : Option Nat) (go : W → W) : W :=
  let k := (f.src, f.tag)
  let again := w.d.fabric.checkRetry.contains k
  let w := w.modFabric fun F => { F with checkRetry := F.checkRetry.filter (· != k) }
  if codeRight f then go w
  else if again then (w.polErr p 1 1).nakTo p f 8 0 key
  else (w.modFabric fun F => { F with checkRetry := F.checkRetry ++ [k] }).nakTo p f 7 0 key

/-- The NAK of a failed merge or block read (R303). -/
def fxNak (fail : MemFail) : Option (Nat × Nat) :=
  match MemFail.code fail with
  | none => none
  | some (st, det) => if st = stECC then some (10, det) else some (8, 0)

/-! ## Remote writes and reads (R318, R319) -/

/-- WRITE (R149, R318, R319, R322). -/
def execWrite (n : Nat) (f : Frame) (fx : MemFx) (s : State) : Host.Outcome State Fault Refusal :=
  s.run fun w =>
    (w.inbound n 1 f fun w f key replay =>
      let a := f.addr % 2 ^ 48
      let len := f.payload.length
      let p := (w.d.targetPol a).getD 16
      if len = 0 ∨ a % 4096 + len > 4096 then w.linkCnt n 5
      else if replay then w.ackTo p f f.tag key
      else if !w.d.targetReady a then w.nakTo p f 2 0 key
      else match w.d.addressBad f.addr len true with
        | some det => w.nakTo p f 4 det key
        | none =>
          if !w.d.windowOk p f.src key true a len then w.nakTo p f 5 0 key
          else w.codeGate p f key fun w =>
            let w := w.countFx p fx
            match fxNak fx.fail with
            | some (r, det) => (w.memReport p fx.fail).nakTo p f r det key
            | none => (w.write a f.payload).ackTo p f f.tag key).settle

/-- The block that answers a READ_REQ, with its code (R302, R304). -/
def W.readResp (w : W) (p chip tag addr : Nat) (key : Option Nat) : W :=
  let bs := w.readDev (addr % 2 ^ 48 / 4096 * 4096) 4096
  w.sendCtl { kind := 3, dst := chip, srcPol := srcPolOf p, tag := tag, addr := addr, payload := bs, trailer := codeOf bs } key

/-- READ_REQ (R318, R322): the block is admitted whole. -/
def execReadReq (n : Nat) (f : Frame) (fx : MemFx) (s : State) : Host.Outcome State Fault Refusal :=
  s.run fun w =>
    (w.inbound n 2 f fun w f key _ =>
      let a := f.addr % 2 ^ 48
      let blk := a / 4096 * 4096
      let p := (w.d.targetPol a).getD 16
      if f.payload.length ≠ 0 then w.linkCnt n 5
      else if !w.d.targetReady a then w.nakTo p f 2 0 key
      else match w.d.addressBad (f.addr / 4096 * 4096) 4096 false with
        | some det => w.nakTo p f 4 det key
        | none =>
          if !w.d.windowOk p f.src key false blk 4096 then w.nakTo p f 5 0 key
          else
            let w := w.countFx p fx
            match fxNak fx.fail with
            | some (r, det) => (w.memReport p fx.fail).nakTo p f r det key
            | none =>
              let others := w.d.fabric.served.filter fun x => !(x.1 == f.src && x.2.1 == f.tag)
              let w := w.modFabric fun F => { F with served := others ++ [(f.src, f.tag, f.addr, p, (key.map fun k => k + 1).getD 0)] }
              w.readResp p f.src f.tag f.addr key).settle

/-! ## The issuer's side (R319, R324) -/

/-- Service firmware's note of an acknowledged operation (R289, R291). -/
def Svc.opDone (S : Svc) (id : Nat) : Svc :=
  let drop (l : List Nat) : List Nat := l.filter (· != id)
  { S with
    sends := S.sends.map (fun x => { x with ops := drop x.ops })
    pairs := S.pairs.map (fun x => { x with ops := drop x.ops }) }

/-- An acknowledged operation ends (R319): a step or a transfer has one less to wait for, a descriptor completes. -/
def W.opDone (w : W) (o : ROp) : W :=
  let w := w.dropOp o.id
  match o.issuer with
  | .dma p d q => w.modJob p fun j => j.setQueue d q fun Q => { Q with ops := Q.ops.filter (· != o.id) }
  | .ring _ r => w.completeSt r stOK
  | .service p => w.modPol p fun P => { P with svc := P.svc.opDone o.id }
  | .coll p c seg =>
    let phaseOf (k : OpKind) : Nat := match k with
      | .coll _ _ ph _ => ph
      | _ => 2
    let left (x : CollSend) : Bool :=
      let m := lget (0, 0) (w.cent p c).members x.rank
      w.d.fabric.ops.any fun r => r.issuer == o.issuer && phaseOf r.kind == x.phase && r.chip == m.1 && r.dstPol == m.2
    let l := (w.d.pol p).coll.sends.filter fun x => !(x.started && x.c == c && x.seg == seg && !left x)
    (w.modColl p fun K => { K with sends := l }).collAll

/-- The frame answers an operation that travelled under its key (R337, R338). -/
def ROp.answeredBy (o : ROp) (key : Option Nat) : Bool := o.key.isNone || o.key == key

/-- READ_RESP (R318): the requester keeps the bytes that it named. -/
def execReadResp (n : Nat) (f : Frame) (fx : MemFx) (s : State) : Host.Outcome State Fault Refusal :=
  s.run fun w =>
    (w.inbound n 3 f fun w f key replay =>
      let isRead (o : ROp) : Bool := match o.kind with
        | .read _ => true
        | _ => false
      match w.d.fabric.ops.find? fun o => o.sent && isRead o && o.chip == f.src && o.tag == f.tag && o.answeredBy key with
      | none => w
      | some o =>
        let p := o.issuer.polder
        if replay then w
        else if f.payload.length ≠ 4096 then w.linkCnt n 5
        else if !codeRight f then
          if o.retried then (((w.polErr p 1 1).nakTo p f 8 0 key).opFail o stCHECK_MISMATCH dCODE_MISMATCH).pumpAll
          else (w.modOp o.id fun o => { o with retried := true }).nakTo p f 7 0 key
        else match o.kind with
          | .read pieces =>
            let w := match o.issuer with
              | .dma .. => w.jobFx p fx
              | _ => w.countFx p fx
            match MemFail.code fx.fail with
            | some (st, det) => ((w.memReport p fx.fail).opFail o st det).pumpAll
            | none => ((w.each pieces fun w (off, len, dst) => w.write dst (slice f.payload off len)).opDone o).pumpAll
          | _ => w).settle

/-- ACK (R319). -/
def execAck (n : Nat) (f : Frame) (s : State) : Host.Outcome State Fault Refusal :=
  s.run fun w =>
    (w.inbound n 6 f fun w f key replay =>
      if replay || !codeRight f then w
      else if f.payload.length = 0 ∨ f.payload.length > 1024 ∨ f.payload.length % 4 ≠ 0 then w.linkCnt n 5
      else
        let tags := (List.range (f.payload.length / 4)).map fun i => fld f.payload (4 * i) 4
        (w.each tags fun w t =>
          let isRead (o : ROp) : Bool := match o.kind with
            | .read _ => true
            | _ => false
          match w.d.fabric.ops.find? fun o => o.sent && !isRead o && o.chip == f.src && o.tag == t && o.answeredBy key with
          | some o => w.opDone o
          | none => w).pumpAll).settle

/-- The transfer of a segment is sent once more after NAK DIGEST, its source read again (R333, R384). -/
def W.resendSegment (w : W) (chip cs : Nat) (key : Option Nat) : W :=
  let c := cs % 2 ^ 16
  let seg := cs / 2 ^ 16
  w.each (List.range 16) fun w p =>
    if !(w.d.pol p).coll.valid || (w.d.runningJob p).isNone then w
    else
      let e := w.cent p c
      if (collKey e.raw).isSome && collKey e.raw != key then w
      else
        let mine (x : CollSend) : Bool := x.started && !x.retried && x.c == c && x.seg == seg && (lget (0, 0) e.members x.rank).1 == chip
        if !((w.d.pol p).coll.sends.any mine) then w
        else
          let w := w.modFabric fun F => { F with ops := F.ops.filter fun o => !(o.issuer == .coll p c seg && o.chip == chip) }
          let again (x : CollSend) : CollSend :=
            { x with started := false, retried := true, bytes := match x.src with
                | some a => w.readDev a x.bytes.length
                | none => x.bytes }
          ((w.modColl p fun K => { K with sends := K.sends.map fun x => if mine x then again x else x }).polErr p 5 1).collAll

/-- What a refusal does at the issuer (R324). -/
def W.refused (w : W) (o : ROp) (reason detail : Nat) : W :=
  match reason with
  | 1 => w.opFail o stREMOTE_UNREACHABLE 6
  | 2 => w.opFail o stREMOTE_UNREACHABLE 4
  | 3 => w.modOp o.id fun o => { o with sent := false, waitNak := true }
  | 4 => w.opFail o stADDRESS_FAULT detail
  | 5 => w.opFail o stREMOTE_UNREACHABLE 5
  | 6 => w.opFail o stGRANT_DENIED 0
  | 7 => w.modOp o.id fun o => { o with
      sent := false, retried := true, payload := if o.src.isEmpty then o.payload else o.src.flatMap fun x => w.readDev x.1 x.2 }
  | 8 => w.opFail o stCHECK_MISMATCH dCODE_MISMATCH
  | _ => w.opFail o stECC detail

/-- NAK (R303, R318, R324, R333). A refusal of a keyed operation that is not authenticated under its key is a failure with detail KEY. -/
def execNak (n : Nat) (f : Frame) (s : State) : Host.Outcome State Fault Refusal :=
  s.run fun w =>
    (w.inbound n 7 f fun w f key replay =>
      let tag := fld f.payload 0 4
      let reason := fld f.payload 4 1
      let detail := fld f.payload 5 1
      if replay || !codeRight f then w
      else if f.payload.length ≠ 8 ∨ fld f.payload 6 2 ≠ 0 ∨ reason = 0 ∨ reason > 10 then w.linkCnt n 5
      else if reason = 9 then (w.resendSegment f.src tag key).pumpAll
      else
        let isRead (o : ROp) : Bool := match o.kind with
          | .read _ => true
          | _ => false
        let op := w.d.fabric.ops.find? fun o => o.sent && o.chip == f.src && o.tag == tag && (reason != 7 || !isRead o)
        match op with
        | some o => (if o.answeredBy key then w.refused o reason detail else w.opFail o stREMOTE_UNREACHABLE 6).pumpAll
        | none => if reason = 3 ∧ w.d.fabric.ctls.any (fun o => o.chip == f.src && o.tag == tag && o.answeredBy key) then
            w.modFabric fun F => { F with ctls := F.ctls.map fun o => if o.chip = f.src ∧ o.tag = tag ∧ o.answeredBy key then { o with waitNak := true } else o }
          else match w.d.fabric.served.find? fun x => x.1 == f.src && x.2.1 == tag with
          | none => w
          | some (_, _, addr, p, k) =>
            let w := w.modFabric fun F => { F with served := F.served.filter fun x => !(x.1 == f.src && x.2.1 == tag) }
            if reason = 7 then w.readResp p f.src tag addr (if k = 0 then none else some (k - 1)) else w).settle

/-! ## Remote adds and sets at the destination (R234, R239 to R242, R320) -/

/-- The last TAG of a pair of source chip and source polder is recorded in a table of 16,384 entries, an entry idle for 10 s making room (R320).
Where none is idle, nothing is recorded. -/
def W.noteTag (w : W) (k tag : Nat) : Option W :=
  let T := w.d.fabric.lastTag
  let put (T : Tab (Nat × Nat)) : W := w.modFabric fun F => { F with lastTag := tset T k (tag, w.d.aon.hub) }
  if T.any (·.1 == k) || T.length < 16384 then some (put T)
  else match T.foldl (fun (m : Option (Nat × Nat)) x => match m with
      | some y => if x.2.2 < y.2 then some (x.1, x.2.2) else some y
      | none => some (x.1, x.2.2)) none with
    | some (i, t) => if w.d.aon.hub - t ≥ 10000000000 then some (put (T.filter (·.1 != i))) else none
    | none => none

/-- A remote add or set at its destination. -/
def W.remoteSluice (w : W) (n : Nat) (set : Bool) (f : Frame) (key : Option Nat) (replay : Bool) : W :=
  let a := f.addr % 2 ^ 48
  let p := (w.d.targetPol a).getD 16
  if f.payload.length ≠ 8 then w.linkCnt n 5
  else if replay then w.ackTo p f f.tag key
  else if !w.d.targetReady a then w.nakTo p f 2 0 key
  else if f.addr / 2 ^ 61 ≠ 0 then w.nakTo p f 4 dRESERVED_BITS key
  else if f.addr / 2 ^ 48 ≠ w.d.hub.chip then w.nakTo p f 4 dUNPOPULATED key
  else match sluiceAt a with
    | none => w.nakTo p f 4 dUNPOPULATED key
    | some i =>
      if !w.d.grantedRemote i f.src key (if set then .set else .signal) then
        ((match w.d.sluPol i with
          | some q => w.modPol q fun P => { P with sluDeny := sat64 (P.sluDeny + 1) }
          | none => w).nakTo p f 6 0 key)
      else w.codeGate p f key fun w =>
        let k := f.src * 32 + f.srcPol
        match tfind w.d.fabric.lastTag k with
        | some (t, _) =>
          if t = f.tag then w.ackTo p f f.tag key
          else match w.noteTag k f.tag with
            | some w => (w.sluOp i set (fld f.payload 0 8)).ackTo p f f.tag key
            | none => w
        | none => match w.noteTag k f.tag with
          | some w => (w.sluOp i set (fld f.payload 0 8)).ackTo p f f.tag key
          | none => w

/-- SIGNAL frame: an add (R234). -/
def execFrameSignal (n : Nat) (f : Frame) (s : State) : Host.Outcome State Fault Refusal :=
  s.run fun w => (w.inbound n 4 f fun w f key replay => w.remoteSluice n false f key replay).settle

/-- SET frame (R234). -/
def execFrameSet (n : Nat) (f : Frame) (s : State) : Host.Outcome State Fault Refusal :=
  s.run fun w => (w.inbound n 5 f fun w f key replay => w.remoteSluice n true f key replay).settle

/-! ## Collective frames (R332 to R336, R384) -/

/-- Check 3 for a collective frame: the polder may act and has a job past step 6 (R322). -/
def Dev.collReady (d : Dev) (p : Nat) : Bool := decide (p < 16) && d.polReady p && (d.runningJob p).isSome

/-- Phases that an OP uses (R331, R334; entry 19). -/
def CEnt.phaseOk (e : CEnt) (phase : Nat) : Bool := phase == 0 || e.op == 1

/-- The checks of R334: the entry is named and the frame fits it. -/
def W.collFrameOk (w : W) (p : Nat) (f : Frame) : Bool :=
  let c := f.addr % 2 ^ 16
  let K := (w.d.pol p).coll
  let e := w.cent p c
  K.valid && decide (c ≤ K.count) && decide (bits f.addr 31 16 < e.nseg) && decide (bits f.addr 43 32 < e.n) &&
    decide (bits f.addr 63 48 * 4096 + f.payload.length ≤ e.seg) && e.phaseOk (bits f.addr 44 44) &&
    (!f.last || fld (lastTrailer f) 12 4 == w.collSig e)

/-- A failed check or digest (R333, R334): COLL_ABORT to every member of the own list, itself included. -/
def W.collReject (w : W) (p c detail chip : Nat) : W :=
  let K := (w.d.pol p).coll
  if K.valid && decide (c ≤ K.count) then w.collBad p c detail chip else w.collFail p c stCONTRIBUTION_BAD detail chip

/-- Every frame of a segment has landed: its digest (R333). -/
def W.checkDigest (w : W) (p : Nat) (e : CEnt) (f : Frame) (key : Option Nat) (L : Landing) (t : LandLast) (fail : MemFail) : W :=
  let bs := w.read (w.d.landAt p e L.seg L.phase L.rank) t.bytes
  let keep (M : Landing) : Bool := !(M.c == L.c && M.seg == L.seg && M.phase == L.phase && M.rank == L.rank)
  if crc64 bs = t.digest ∧ fail = .none then ((w.landed p L.c L.seg L.phase L.rank t.flags).ackTo p f t.tag key).collAll
  else if L.retried then (w.hubErr 7 1).collReject p L.c 1 f.src
  else
    let w := (w.polErr p 5 1).modColl p fun K =>
      { K with landings := K.landings.filter keep ++ [{ c := L.c, seg := L.seg, phase := L.phase, rank := L.rank, retried := true }] }
    w.sendCtl (nakFrame p f.src (f.addr % 2 ^ 32) 9 0) key

/-- A checked COLL_DATA frame lands. Its LAST frame is acknowledged once the digest has passed. -/
def W.collLand (w : W) (p : Nat) (f : Frame) (key : Option Nat) (fx : MemFx) : W :=
  let c := f.addr % 2 ^ 16
  let seg := bits f.addr 31 16
  let r := bits f.addr 43 32
  let phase := bits f.addr 44 44
  let num := bits f.addr 63 48
  let e := w.cent p c
  let w := w.polErr p 2 (MemFx.spN fx)
  if w.d.hasLanded p c seg phase r then w.ackTo p f f.tag key
  else
    let mine (L : Landing) : Bool := L.c == c && L.seg == seg && L.phase == phase && L.rank == r
    let old : Landing := ((w.d.pol p).coll.landings.find? mine).getD { c := c, seg := seg, phase := phase, rank := r }
    let last : Option LandLast :=
      if f.last then
        some { num := num, bytes := num * 4096 + f.payload.length, digest := fld (lastTrailer f) 0 8, flags := fld (lastTrailer f) 8 1, tag := f.tag }
      else old.last
    let L : Landing := { old with got := (old.got.filter (· != num)) ++ [num], last := last }
    let w := w.write (w.d.landAt p e seg phase r + num * 4096) f.payload
    let w := w.modColl p fun K => { K with landings := K.landings.filter (fun M => !mine M) ++ [L] }
    let w := if f.last then w else w.ackTo p f f.tag key
    match L.last with
    | some t => if (List.range (t.num + 1)).all fun i => L.got.contains i then w.checkDigest p e f key L t fx.fail else w
    | none => w

/-- COLL_DATA (R331 to R334, R384). -/
def execCollData (n : Nat) (f : Frame) (fx : MemFx) (s : State) : Host.Outcome State Fault Refusal :=
  s.run fun w =>
    (w.inbound n 8 f fun w f key replay =>
      let p := f.dstPol
      let c := f.addr % 2 ^ 16
      if bits f.addr 47 45 ≠ 0 ∨ (lastTrailer f).length ≠ (if f.last then 16 else 0) ∨ (f.last ∧ fld (lastTrailer f) 9 3 ≠ 0) then w.linkCnt n 5
      else if replay then w.ackTo p f f.tag key
      else if !w.d.collReady p then w.nakTo p f 3 0 key
      else w.codeGate p f key fun w =>
        if (w.d.pol p).coll.failed.any fun x => x.1 == c then w
        else if !w.collFrameOk p f then w.collReject p c 2 f.src
        else w.collLand p f key fx).settle

/-- COLL_CREDIT (R302, R332). -/
def execCollCredit (n : Nat) (f : Frame) (s : State) : Host.Outcome State Fault Refusal :=
  s.run fun w =>
    (w.inbound n 9 f fun w f key replay =>
      let v := fld f.payload 0 8
      let p := f.dstPol
      if replay || !codeRight f then w
      else if f.payload.length ≠ 8 ∨ v / 2 ^ 45 ≠ 0 then w.linkCnt n 5
      else if !w.d.collReady p then w.nakTo p f 3 0 key
      else (w.modColl p fun K => { K with credits := K.credits ++ [(v % 2 ^ 16, bits v 44 44, bits v 43 32, bits v 31 16)] }).collAll).settle

/-- COLL_ABORT (R333, R335): the collective's steps that are not released become faulting. -/
def execCollAbort (n : Nat) (f : Frame) (s : State) : Host.Outcome State Fault Refusal :=
  s.run fun w =>
    (w.inbound n 0x0A f fun w f key replay =>
      let v := fld f.payload 0 8
      let p := f.dstPol
      let c := v % 2 ^ 16
      let K := (w.d.pol p).coll
      if replay || !codeRight f then w
      else if f.payload.length ≠ 8 ∨ bits v 47 45 ≠ 0 ∨ v / 2 ^ 56 ≠ 0 then w.linkCnt n 5
      else if !w.d.collReady p then w.nakTo p f 3 0 key
      else if !K.valid || decide (c > K.count) then w
      else if bits v 31 16 = stMEMBER_LOST then w.memberLost p c (bits v 44 32) (bits v 55 48)
      else if bits v 31 16 = stCONTRIBUTION_BAD then w.collFail p c stCONTRIBUTION_BAD (bits v 55 48) (bits v 44 32)
      else w.linkCnt n 5).settle

end Sys2Proof.Machine
end

