-- ==== Sys2Proof/Machine/SvcBlock.lean ====
section
/-! DEFINITION. Service mode: the service block and its checks, start and stop of the loop, the frames donated to pairs (R266 to R270, R288, R289). -/

namespace Sys2Proof.Machine

def W.modSvc (w : W) (p : Nat) (f : Svc → Svc) : W := w.modPol p fun P => { P with svc := f P.svc }

/-! ## The service block (R268) -/

def svRole (b : Bytes) : Nat := fld b 6 1
def svPairs (b : Bytes) : Nat := fld b 7 1
def svStepImg (b : Bytes) : Nat := fld b 8 8
def svPrefillImg (b : Bytes) : Nat := fld b 0x10 8
def svStopsets (b : Bytes) : Nat := fld b 0x18 8
def svDetok (b : Bytes) : Nat := fld b 0x20 8
def svBatch (b : Bytes) : Nat := fld b 0x28 8
def svOutbuf (b : Bytes) : Nat := fld b 0x30 8
def svPstage (b : Bytes) : Nat := fld b 0x38 8
def svVocab (b : Bytes) : Nat := fld b 0x40 4
def svMaxSeq (b : Bytes) : Nat := fld b 0x44 2
def svMaxBkt (b : Bytes) : Nat := fld b 0x46 2
def svMaxCtx (b : Bytes) : Nat := fld b 0x48 4
def svPageTok (b : Bytes) : Nat := fld b 0x4C 2
def svLpp (b : Bytes) : Nat := fld b 0x4E 1
def svPtWin (b : Bytes) : Nat := fld b 0x50 4
def svBuckets (b : Bytes) : Nat := fld b 0x54 2
def svPchunk (b : Bytes) : Nat := fld b 0x56 2
def svNsess (b : Bytes) : Nat := fld b 0x58 2
def svCachePair (b : Bytes) : Nat := fld b 0x5A 1
/-- Arguments 4 to 15 (R278). -/
def svArgs (b : Bytes) : List Nat := (List.range 12).map fun n => fld b (0x60 + 8 * n) 8
/-- KV regions in use: (first local frame, count, logical stack). -/
def svRegions (b : Bytes) : List (Nat × Nat × Nat) :=
  ((List.range 16).map fun i => fld b (0xC0 + 8 * i) 8).filterMap fun e =>
    if bits e 37 19 = 0 then none else some (bits e 18 0, bits e 37 19, bits e 41 38)

/-- A pair entry's fields: reserved bits, and ranges (R288). -/
def pairFieldsOk (e : Bytes) : Bool :=
  [0, 8, 0x18, 0x20].all (fun o => decide (fld e o 8 < 2 ^ 48)) &&
    [0x10, 0x12, 0x14, 0x16, 0x28, 0x2A, 0x2C, 0x2E, 0x30].all (fun o => decide (fld e o 2 < 2 ^ 13)) && bits (fld e 0x32 2) 14 10 == 0 &&
    decide (fld e 0x34 2 ≤ 4096) && isZero e 0x36 0xA

/-- The checks of CAUSE BLOCK on a block and the pair entries that follow it (R268, R269). -/
def svcBlockOk (b pairs : Bytes) : Bool :=
  let role := svRole b
  fld b 0 4 == 0x53435653 && fld b 4 2 == 2 && decide (role < 3) && decide (svPairs b ≤ 16) && crc32c (b.take 0x1FC ++ pairs) == fld b 0x1FC 4 &&
    fld b 0x43 1 == 0 && decide (2 ≤ svVocab b ∧ svVocab b ≤ 1048576) && decide (1 ≤ svMaxSeq b ∧ svMaxSeq b ≤ 4096) &&
    (List.range 11).any (fun i => svMaxBkt b == 2 ^ i && (svBuckets b).testBit i) && decide (1 ≤ svMaxCtx b ∧ svMaxCtx b ≤ 1048576) &&
    decide (1 ≤ svPageTok b) && decide (1 ≤ svLpp b) && fld b 0x4F 1 == 0 && decide (svBuckets b < 2 ^ 11) && decide (1 ≤ svPchunk b ∧ svPchunk b ≤ 32768) &&
    decide (svNsess b ≤ 4096) && (svCachePair b == 0xFF || decide (svCachePair b < svPairs b)) && isZero b 0x5B 5 && isZero b 0x140 0xBC &&
    ((List.range 16).all fun i => decide (fld b (0xC0 + 8 * i) 8 < 2 ^ 42)) && (if role = 2 then svStepImg b == 0 else svStepImg b != 0) &&
    (role == 0 || svPrefillImg b == 0) && (List.range (svPairs b)).all fun i => pairFieldsOk (slice pairs (64 * i) 64)

/-! ## Areas and frames -/

/-- Sites of the polder's logical stacks, bound as for an image with every stacked die (R160, R268). -/
def Dev.logStacks (d : Dev) (p : Nat) : List Nat := (d.jobSites p).filter d.isStacked
/-- Frames of the KV regions, by number: site × 524,288 + local frame (R152, R268). -/
def Dev.kvFrames (d : Dev) (p : Nat) (b : Bytes) : List Nat :=
  (svRegions b).flatMap fun (f, n, i) => (List.range n).map fun k => lget 12 (d.logStacks p) i * 524288 + f + k
/-- Address of a frame. -/
def frameAddr (f : Nat) : Nat := f * 2 ^ 18

/-- Length of the detokenisation table: header, entries, and the blob as far as they reach into it (R284). -/
def W.detokLen (w : W) (b : Bytes) : Nat :=
  let v := svVocab b
  let tab := w.read (svDetok b + 8) (4 * v)
  8 + 4 * v + (List.range v).foldl (fun m i => let e := fld tab (4 * i) 4; max m (bits e 23 0 + bits e 31 24)) 0

/-- The images that a block names. -/
def svImages (b : Bytes) : List Nat := [svStepImg b, svPrefillImg b].filter (· ≠ 0)

/-- Ranges sealed while the loop is not STOPPED (R267): the block, the images, the stop sets, the detokenisation table. -/
def W.svcSealed (w : W) (base : Nat) (b : Bytes) : List (Nat × Nat) :=
  (base, 512 + 64 * svPairs b) :: (svStopsets b, 16384) :: (if svDetok b = 0 then [] else [(svDetok b, w.detokLen b)]) ++
    (svImages b).map fun a => (a, le (w.read (a + 0x10) 4))

/-- Areas that a block names, its images apart. -/
def W.svcAreas (w : W) (base : Nat) (b : Bytes) : List (Nat × Nat) :=
  [(base, 512 + 64 * svPairs b), (svStopsets b, 16384), (svBatch b, 262144), (svOutbuf b, 8192), (svPstage b, 4 * svPchunk b)] ++
    (if svDetok b = 0 then [] else [(svDetok b, w.detokLen b)])

/-- The checks of CAUSE RANGE (R269): areas are memory of the polder, nothing overlaps, frames are valid, and the page table has room. -/
def W.svcRangeOk (w : W) (p base : Nat) (b pairs : Bytes) : Bool :=
  let areas := w.svcAreas base b
  let sites := w.d.logStacks p
  let regions := svRegions b
  let kv := regions.map fun (f, n, i) => (stackBase (lget 12 sites i) + f * 2 ^ 18, n * 2 ^ 18)
  let images := (svImages b).map fun a => (a, le (w.read (a + 0x10) 4))
  let local_ := (List.range (svPairs b)).flatMap fun i => [(fld pairs (64 * i) 8, 0x10000), (fld pairs (64 * i + 8) 8, 0x8000)]
  areas.all (fun (a, n) => w.d.localOk p a n) &&
    regions.all (fun (f, n, i) => decide (i < sites.length ∧ f + n ≤ 392960)) && disjointRanges (areas ++ kv ++ images ++ local_) &&
    decide (svMaxSeq b * svPtWin b ≤ (w.d.pol p).ptEntries) && decide (ceilDiv (svMaxCtx b) (svPageTok b) * svLpp b ≤ svPtWin b)

/-! ## Pairs (R288) -/

def prRing (e : Bytes) : Nat := fld e 0 8
def prFifo (e : Bytes) : Nat := fld e 8 8
def prPeer (e : Bytes) : Nat := fld e 0x30 2
def prKey (e : Bytes) : Option Nat := if (fld e 0x32 2).testBit 15 then some (bits (fld e 0x32 2) 9 0) else none
def prDonate (e : Bytes) : Nat := fld e 0x34 2
/-- Local sluice k: 0 records posted, 1 pages landed, 2 credits returned, 3 frames donated; and the peer's. -/
def prSlu (e : Bytes) (k : Nat) : Nat := fld e (0x10 + 2 * k) 2
def prPeerSlu (e : Bytes) (k : Nat) : Nat := fld e (0x28 + 2 * k) 2

/-- The checks of CAUSE PAIR (R288). -/
def Dev.pairOk (d : Dev) (p : Nat) (e : Bytes) : Bool :=
  d.localOk p (prRing e) 0x10000 && d.localOk p (prFifo e) 0x8000 &&
    (List.range 4).all fun k =>
      let i := prSlu e k
      let S := d.sluice i
      d.sluOwnerPol i == some p && (d.pol p).hasCtx S.ctx && S.value == 0 &&
        d.grantAny p fun g =>
          bits g 12 0 == i && g.testBit 49 && g.testBit 51 && bits g 28 16 == prPeer e &&
            (match prKey e with
              | some s => g.testBit 52 && bits g 41 32 == s
              | none => !g.testBit 52)

/-! ## Remote operations of service firmware -/

/-- A remote operation on a pair. -/
def svcOp (p : Nat) (e : Bytes) (kind : OpKind) (addr : Nat) (payload : Bytes) : ROp :=
  { id := 0, issuer := .service p, kind := kind, chip := prPeer e, addr := prPeer e * 2 ^ 48 + addr, payload := payload, key := prKey e }
/-- A remote add to sluice `i` of the peer. -/
def svcAdd (p : Nat) (e : Bytes) (i n : Nat) : ROp := svcOp p e .add (0x220000000000 + 64 * i) (toLe 8 n)
/-- Remote writes of `bs` from `addr` on, one for each 4 KiB block touched (R318). -/
def svcWrites (p : Nat) (e : Bytes) (addr : Nat) (bs : Bytes) : List ROp :=
  (blockSplit (bs.length / 4096 + 2) 0 addr bs.length).map fun (o, a, n) => svcOp p e .write a (slice bs o n)
/-- Operations are issued in order; their numbers are returned. -/
def W.issueAll (w : W) (l : List ROp) : List Nat × W :=
  l.foldl (fun (x : List Nat × W) o => let (id, w) := x.2.issueOp o; (x.1 ++ [id], w)) ([], w)

/-- An entry that maps a frame of this device (R152, R279, R289). -/
def Dev.frameEntry (d : Dev) (f : Nat) : Nat := f + d.hub.chip * 2 ^ 30 + 2 ^ 46 + 2 ^ 47

def Svc.modPair (S : Svc) (i : Nat) (f : Pair → Pair) : Svc := { S with pairs := lset S.pairs i (f (lget {} S.pairs i)) }
def Svc.pair (S : Svc) (i : Nat) : Pair := lget {} S.pairs i

/-- Frames return to the regions, in ascending region and frame order (R279). -/
def W.freeFrames (w : W) (p : Nat) (fs : List Nat) : W :=
  let S := (w.d.pol p).svc
  if fs.isEmpty then w else w.modSvc p fun S' => { S' with free := (w.d.kvFrames p S.block).filter fun f => S.free.contains f || fs.contains f }

/-- A CACHE part that is short of frames releases stored sessions in ascending order of storing, those being sent apart (R292). -/
def W.cacheRoom (p want : Nat) : Nat → W → W
  | 0, w => w
  | k + 1, w =>
    let S := (w.d.pol p).svc
    if S.free.length ≥ want ∨ svRole S.block ≠ 2 then w
    else match S.sessions.find? fun x => !(S.sends.any fun y => y.session == x.id) with
      | none => w
      | some x => W.cacheRoom p want k ((w.modSvc p fun S => { S with sessions := S.sessions.filter (·.id != x.id) }).freeFrames p x.frames)

/-- Frames that are free and reserved for nobody (R287). -/
def Svc.avail (S : Svc) : Nat := S.free.length - sumOf (S.seqs.map (·.reserved))

/-- Firmware brings the frames donated to pair `i` back to DONATE, as far as frames are free and reserved for no sequence (R287, R289). -/
def W.donate (w : W) (p i : Nat) : W :=
  let e := ((w.d.pol p).svc.pair i).entry
  let want := prDonate e - ((w.d.pol p).svc.pair i).donated.length
  let w := W.cacheRoom p want (w.d.pol p).svc.sessions.length w
  let S := (w.d.pol p).svc
  let X := S.pair i
  let fs := S.free.take (min want S.avail)
  if fs.isEmpty then w
  else
    let at_ := X.donatedN % 4096
    let ents := fs.map fun f => toLe 8 (w.d.frameEntry f)
    let first := ents.take (4096 - at_)
    let rest := ents.drop (4096 - at_)
    let fifo := fld e 0x20 8
    let (ids, w) := w.issueAll (svcWrites p e (fifo + 8 * at_) first.flatten ++ svcWrites p e fifo rest.flatten ++ [svcAdd p e (prPeerSlu e 3) fs.length])
    w.modSvc p fun S =>
      ({ S with free := S.free.drop fs.length } : Svc).modPair i fun X =>
        { X with donated := X.donated ++ fs, donatedN := X.donatedN + fs.length, ops := X.ops ++ ids }

/-- The donation of every pair is restored (R289). -/
def W.donateAll (w : W) (p : Nat) : W := w.each (List.range (w.d.pol p).svc.pairs.length) fun w i => w.donate p i

/-! ## Starting (R266, R267, R269) -/

/-- The service registers of polder `p` are reached (R266). -/
def Dev.svcReached (d : Dev) (p : Nat) : Bool := (d.pol p).service && d.polReady p

/-- The block and its pair entries, where they lie wholly in one stack of the polder. -/
def W.svcRead (w : W) (p : Nat) : Option (Bytes × Bytes) :=
  let a := (w.d.pol p).svc.base
  match region a with
  | .stack _ _ =>
    if !w.d.localOk p a 512 then none
    else
      let b := w.read a 512
      if svPairs b > 16 || !w.d.localOk p a (512 + 64 * svPairs b) then none else some (b, w.read (a + 512) (64 * svPairs b))
  | _ => none

/-- RUN = 1 while STOPPED: the block is read and checked (R269 steps 1 and 2). -/
def W.svcStart (w : W) (p : Nat) : W :=
  let S := (w.d.pol p).svc
  if S.st ≠ 0 then w
  else match w.svcRead p with
    | none => w.modSvc p fun S => { S with cause := 1 }
    | some (b, pairs) =>
      if !svcBlockOk b pairs then w.modSvc p fun S => { S with cause := 1 }
      else
        w.modSvc p fun S =>
          { base := S.base, cause := S.cause, flags := S.flags, st := 1, block := b, ranges := w.svcSealed S.base b,
            pairs := (List.range (svPairs b)).map fun i => { entry := slice pairs (64 * i) 64 } }

/-- The image at `a` holds a slot or passes validation (R159, R183): nothing, or the offset that POL_IMG_FAULT takes. -/
def W.svcImageBad (w : W) (p a : Nat) : Option Nat :=
  if (w.d.pol p).imgs.any fun i => i.addr == a then none else (w.validate p a).map Prod.snd

/-- CAUSE of a start that its block does not refuse (R269), in the table's order. -/
def W.svcRefused (w : W) (p : Nat) : Option Nat :=
  let S := (w.d.pol p).svc
  let pairs := S.pairs.flatMap (·.entry)
  let new := (svImages S.block).filter fun a => !(w.d.pol p).imgs.any fun i => i.addr == a
  let tags := (w.d.polCtxs p).map fun n => (w.d.ctx n).tenant
  if (svImages S.block).any (fun a => (w.svcImageBad p a).isSome) || (w.d.pol p).imgs.length + new.eraseDups.length > 32 then some 2
  else if !w.svcRangeOk p S.base S.block pairs then some 3
  else if !(tags.all fun t => t == tags.headD 0) then some 4
  else if !(S.pairs.all fun x => w.d.pairOk p x.entry) then some 5
  else none

/-- SERVICE_LOOP_RUNNING (R269 steps 3 to 5). -/
def execServiceLoopRunning (p : Nat) (s : State) : Host.Outcome State Fault Refusal :=
  s.run fun w =>
    let S := (w.d.pol p).svc
    if S.st ≠ 1 then w
    else match w.svcRefused p with
      | some c =>
        let bad := (svImages S.block).findSome? fun a => w.svcImageBad p a
        w.modPol p fun P =>
          { P with
            imgFaultValid := P.imgFaultValid || (c == 2 && bad.isSome)
            imgFault := if c = 2 then bad.getD P.imgFault else P.imgFault
            svc := { base := S.base, cause := c, flags := S.flags } }
      | none =>
        let new := ((svImages S.block).filter fun a => !(w.d.pol p).imgs.any fun i => i.addr == a).eraseDups
        let imgs := new.map fun a => ({ addr := a, len := le (w.read (a + 0x10) 4) } : Img)
        let h := (w.d.pol p).home
        let w := (w.zero (ptBase h 0) 0x1000000).zero (ptBase h 1) 0x1000000
        let w := w.modPol p fun P =>
          { P with imgs := P.imgs ++ imgs, svc := { P.svc with st := 2, free := w.d.kvFrames p S.block } }
        (w.donateAll p).pumpAll.settle

/-- RUN_START: a write of POL_SVC_CTRL with RUN = 1 (R266, R269). -/
def execRunStart (fn p : Nat) (s : State) : Host.Outcome State Fault Refusal :=
  s.run fun w => w.polWrite fn p 0x90 false fun w ign => if w.d.svcReached p then w.svcStart p else ign w

/-- RUN = 0 while RUNNING (R270). -/
def W.svcStop (w : W) (p : Nat) : W := if (w.d.pol p).svc.st = 2 then w.modSvc p fun S => { S with st := 3 } else w

/-- RUN_STOP: a write of POL_SVC_CTRL with RUN = 0 (R270). -/
def execRunStop (fn p : Nat) (s : State) : Host.Outcome State Fault Refusal :=
  s.run fun w => w.polWrite fn p 0x90 false fun w ign => if w.d.svcReached p then w.svcStop p else ign w

end Sys2Proof.Machine
end

