-- ==== Sys2Proof/Machine/Service.lean ====
section
/-! DEFINITION. Service mode: request entries, responses, stop rules, the step loop, jobs and sessions (R271 to R287). -/

namespace Sys2Proof.Machine

/-! ## Request entries (R271) -/

def rqOp (e : Bytes) : Nat := fld e 0 1
def rqDetok (e : Bytes) : Bool := (fld e 2 2).testBit 0
def rqKeep (e : Bytes) : Bool := (fld e 2 2).testBit 1
def rqReuse (e : Bytes) : Bool := (fld e 2 2).testBit 2
def rqRemote (e : Bytes) : Bool := (fld e 2 2).testBit 3
def rqRing (e : Bytes) : Nat := fld e 6 2
def rqId (e : Bytes) : Nat := fld e 8 8
def rqSession (e : Bytes) : Nat := fld e 0x10 8
def rqPrompt (e : Bytes) : Nat := fld e 0x18 8
def rqPlen (e : Bytes) : Nat := fld e 0x20 4
def rqMaxNew (e : Bytes) : Nat := fld e 0x24 4
def rqTemp (e : Bytes) : Nat := fld e 0x30 4
def rqTopp (e : Bytes) : Nat := fld e 0x34 4
def rqTopk (e : Bytes) : Nat := fld e 0x38 2
def rqRepN (e : Bytes) : Nat := fld e 0x3A 1
def rqRep (e : Bytes) : Nat := fld e 0x3C 4
def rqStopset (e : Bytes) : Nat := fld e 0x40 1
def rqFlush (e : Bytes) : Nat := fld e 0x41 1
def rqPair (e : Bytes) : Nat := fld e 0x42 1
def rqTextLen (e : Bytes) : Nat := fld e 0x44 4
def rqText (e : Bytes) : Nat := fld e 0x48 8

/-- The entry at the head of REQUEST ring `r` of a loop that runs (R246, R270, R275). -/
def Dev.requestAt (d : Dev) (r : Nat) : Option (Nat × Bytes) :=
  let R := d.ring r
  match d.ringPol r, R.batch with
  | some p, e :: _ =>
    if R.kind == 2 && R.st == 1 && (d.ctx R.owner).res == 3 && (d.pol p).hasCtx R.owner && d.polReady p && d.running && (d.pol p).svc.st == 2
    then some (p, e) else none
  | _, _ => none

/-- The ring that polder `p`'s pass takes its next entry from (R275 step 1): the ring it is at, up to 16 entries; then the others in ascending order
after the ring served last; none once the pass has taken a handoff record (step 2). -/
def Dev.requestTurn (d : Dev) (p : Nat) : Option Nat :=
  let S := (d.pol p).svc
  let waiting := (d.rings.filter fun (r, _) => (d.requestAt r).any (·.1 == p) && !S.passDone.contains r).map Prod.fst
  if S.passPair.isSome then none
  else match S.passRing with
    | none => waiting.head?
    | some r => if S.passCount > 0 && waiting.contains r then some r else (waiting.filter (r < ·) ++ waiting.filter (· ≤ r)).head?

/-- The entry that the loop takes from REQUEST ring `r`, when it is that ring's turn. -/
def Dev.request (d : Dev) (r : Nat) : Option (Nat × Bytes) :=
  (d.requestAt r).bind fun (p, e) => if d.requestTurn p == some r then some (p, e) else none

/-- The pass has taken an entry from ring `r`; after 16 it goes on to the next ring. -/
def Svc.served (S : Svc) (r : Nat) : Svc :=
  if S.passCount > 0 ∧ S.passRing = some r then
    { S with passCount := S.passCount + 1, passDone := if S.passCount + 1 ≥ 16 then r :: S.passDone else S.passDone }
  else { S with passRing := some r, passCount := 1, passDone := (if S.passCount > 0 then S.passRing.toList else []) ++ S.passDone }
/-- The entry at the head of ring `r` stays there: this pass takes nothing more from it (R287). -/
def Svc.leave (S : Svc) (r : Nat) : Svc := { S with passDone := r :: S.passDone }
/-- The pass is over: the next one begins after the ring served last, and at the lowest pair. -/
def Svc.endPass (S : Svc) : Svc := { S with passCount := 0, passDone := [], passPair := none }

/-- The entry at the head of a REQUEST ring is taken (R204, R205, R275). -/
def W.takeEntry (w : W) (r : Nat) : W :=
  let w := match w.d.ringPol r with
    | some p => w.modSvc p fun S => S.served r
    | none => w
  (w.modRing r fun R => { R with head := u32 (R.head + 1), seq := R.seq + 1, batch := R.batch.drop 1 }).shadow r

/-! ## Sequences -/

def Svc.seq (S : Svc) (a : Nat) : Option Sq := S.seqs.find? (·.admission == a)
def W.modSeq (w : W) (p a : Nat) (f : Sq → Sq) : W :=
  w.modSvc p fun S => { S with seqs := S.seqs.map fun q => if q.admission = a then f q else q }

/-- The RESPONSE ring of an entry can be written: ACTIVE, of the same context (R272). -/
def Dev.respRingOk (d : Dev) (r : Nat) (e : Bytes) : Bool :=
  let Q := d.ring (rqRing e)
  decide (rqRing e < 8192) && Q.st == 1 && Q.kind == 3 && Q.owner == (d.ring r).owner && d.ringPol (rqRing e) == d.ringPol r

/-- A response entry (R273, R274, R230). -/
def W.svcRespond (w : W) (rr reqId pos detail status : Nat) (toks : List (Nat × Nat)) (final : Bool) (stop : Nat) : W :=
  let Q := w.d.ring rr
  let words := (toks.map fun (t, n) => toLe 4 (t % 2 ^ 24 + n * 2 ^ 24)).flatten
  let bs := toLe 8 reqId ++ toLe 3 pos ++ toLe 1 detail ++ toLe 2 status ++ toLe 1 (toks.length + 16 * b2n final + 128 * Q.phase Q.tail) ++
    toLe 1 (if final then stop else 0) ++ (words ++ zeros 48).take 48
  let w := (w.emit (.hostWrite (Q.entryAddr Q.tail) bs)).modRing rr fun Q => { Q with tail := u32 (Q.tail + 1), seq := Q.seq + 1, since := Q.since + 1 }
  if final || Q.since + 1 ≥ Q.coal + 1 then w.raiseRing rr else w

/-- The entry that a sequence owes is written, if its ring has room (R274, R287). Where the ring is no longer a RESPONSE ring, nothing can be. -/
def W.emitSeq (w : W) (p a : Nat) : W :=
  match (w.d.pol p).svc.seq a with
  | none => w
  | some q =>
    let rr := rqRing q.entry
    let fin := !q.live
    let due := fin || decide (q.toks.length ≥ 12) || (decide (q.steps ≥ rqFlush q.entry) && !q.toks.isEmpty)
    let drop (w : W) : W := w.modSvc p fun S => { S with seqs := S.seqs.filter (·.admission != a) }
    if !due then w
    else if !w.d.respRingOk q.ring q.entry then (if fin then drop w else w.modSeq p a fun q => { q with toks := [], repPos := q.repPos + q.toks.length, steps := 0 })
    else if (w.d.ring rr).room = 0 then w
    else
      let w := w.svcRespond rr (rqId q.entry) q.repPos q.detail q.status q.toks fin q.stop
      if fin then drop w else w.modSeq p a fun q => { q with toks := [], repPos := q.repPos + q.toks.length, steps := 0 }

/-- Every entry owed is written. -/
def W.emitAll (w : W) (p : Nat) : W := w.each ((w.d.pol p).svc.seqs.map (·.admission)) fun w a => w.emitSeq p a

/-- Page-table entries of a slot's first `n` pages. -/
def windowOf (S : Svc) (slot n : Nat) : List Nat := (List.range n).map fun k => slot * svPtWin S.block + k

/-- A retained session is released (R286): its entries go at the next activation, and its pages to the cache part, or back to the regions. -/
def W.releaseSession (w : W) (p : Nat) (x : Sess) (toCache : Bool) : W :=
  let S := (w.d.pol p).svc
  let w := w.modSvc p fun S =>
    { S with sessions := S.sessions.filter (·.order != x.order), ptZero := S.ptZero ++ windowOf S x.slot x.mapped }
  if toCache && svCachePair S.block ≠ 0xFF then
    w.modSvc p fun S => { S with sends := S.sends ++ [{ pair := svCachePair S.block, kind := 2, key := 0, session := x.id, frames := x.frames, free := true
                                                        ntok := x.tokens }] }
  else w.freeFrames p x.frames

/-- Sessions beyond NSESS are released, the one retained first going first. -/
def W.trimSessions (p : Nat) : Nat → W → W
  | 0, w => w
  | k + 1, w =>
    let S := (w.d.pol p).svc
    if S.sessions.length ≤ svNsess S.block then w
    else match S.sessions with
      | [] => w
      | x :: _ => W.trimSessions p k (w.releaseSession p x true)

/-- Sequence `a` ends with a STOP code, a status and a detail (R258, R285, R286): the tally, its KV, its FINAL response. -/
def W.endSeq (w : W) (p a stop status detail : Nat) : W :=
  match (w.d.pol p).svc.seq a with
  | none => w
  | some q =>
    if !q.live then w
    else
      let e := q.entry
      let S := (w.d.pol p).svc
      let w := w.tally (w.d.ring q.ring).owner (decide (stop < 7))
      let w := w.modSeq p a fun q => { q with phase := .ended, stop := stop, status := status, detail := detail, frames := [], mapped := 0, reserved := 0 }
      let w := w.modSvc p fun S =>
        { S with fetches := S.fetches.filter (·.2 != a), sends := S.sends.filter fun x => !(x.seq == some a && x.ops.isEmpty && x.done == 0) }
      let x : Sess := { id := rqSession e, slot := q.slot, tokens := q.pos, frames := q.frames, mapped := q.mapped, order := S.sessCtr }
      let w :=
        if 1 ≤ stop ∧ stop ≤ 4 ∧ rqKeep e ∧ rqSession e ≠ 0 ∧ svNsess S.block ≠ 0 then
          let w := w.each (S.sessions.filter (·.id == rqSession e)) fun w y => w.releaseSession p y true
          let w := w.modSvc p fun S => { S with sessions := S.sessions ++ [x], sessCtr := S.sessCtr + 1 }
          W.trimSessions p (S.sessions.length + 1) w
        else if stop ≠ 6 ∧ stop ≠ 7 ∧ status ≠ stPAGES_EXHAUSTED ∧ rqReuse e ∧ !rqKeep e ∧ !q.frames.isEmpty then
          w.releaseSession p { x with order := S.sessCtr } true
        else (w.modSvc p fun S => { S with ptZero := S.ptZero ++ windowOf S q.slot q.mapped }).freeFrames p q.frames
      w.emitSeq p a

/-! ## Frames (R279, R287) -/

/-- Frames that handoffs under way will free. -/
def Svc.freeing (S : Svc) : Nat := sumOf ((S.sends.filter (·.free)).map (·.frames.length))

/-- Sessions are released in ascending order of retention until `need` frames are free or on their way, session `keep` excepted (R286, R287). -/
def W.makeRoom (p need : Nat) (keep : Option Nat) : Nat → W → W
  | 0, w => w
  | k + 1, w =>
    let S := (w.d.pol p).svc
    if S.avail + S.freeing ≥ need then w
    else match S.sessions.find? fun x => some x.id != keep with
      | none => w
      | some x => W.makeRoom p need keep k (w.releaseSession p x true)

/-- Frames that hold `t` tokens. -/
def Svc.framesFor (S : Svc) (t : Nat) : Nat := ceilDiv t (svPageTok S.block) * svLpp S.block

/-- Sequence `q` has, or can be given, the frames for `t` tokens. -/
def Svc.canHold (S : Svc) (q : Sq) (t : Nat) : Bool := decide (S.framesFor t - q.frames.length ≤ S.avail + q.reserved)

/-- Sequence `a` is given the frames for `t` tokens, the first free ones (R279). -/
def W.giveFrames (w : W) (p a t : Nat) : W :=
  match (w.d.pol p).svc.seq a with
  | none => w
  | some q =>
    let n := (w.d.pol p).svc.framesFor t - q.frames.length
    (w.modSeq p a fun q => { q with frames := q.frames ++ (w.d.pol p).svc.free.take n, reserved := q.reserved - n }).modSvc p fun S => { S with free := S.free.drop n }

/-! ## Admission (R271, R272, R286, R287) -/

/-- Reserved and unused fields of a START (R271). -/
def startReservedOk (role : Nat) (e : Bytes) : Bool :=
  decide (fld e 2 2 < 16) && fld e 4 2 == 0 && decide (rqRing e < 8192) && decide (rqPlen e < 2 ^ 21) && decide (rqMaxNew e < 2 ^ 21) &&
    decide (rqTopk e < 2 ^ 11) && decide (rqRepN e < 64) && fld e 0x3B 1 == 0 && decide (rqFlush e < 16) && fld e 0x43 1 == 0 && isZero e 0x50 0x30 &&
    (rqDetok e || (rqTextLen e == 0 && rqText e == 0)) && (rqKeep e || rqReuse e || rqSession e == 0) && (role == 1 || rqRemote e || rqPair e == 0) &&
    ((rqPlen e != 0 && !rqRemote e) || rqPrompt e == 0)

/-- Parameters in range (R271, R272). -/
def startParamOk (e : Bytes) : Bool :=
  decide (rqTemp e < 0x7F800000) && decide (0 < rqTopp e ∧ rqTopp e ≤ 0x3F800000) && decide (rqTopk e ≤ 1024) && decide (rqRepN e ≤ 48) &&
    decide (0 < rqRep e ∧ rqRep e < 0x7F800000) && decide (1 ≤ rqFlush e ∧ rqFlush e ≤ 12) && rqPrompt e % 4 == 0

/-- The retained session that a START continues. -/
def Svc.session (S : Svc) (e : Bytes) : Option Sess := if rqReuse e && rqSession e ≠ 0 then S.sessions.find? (·.id == rqSession e) else none

/-- OP and ROLE (R272, R275): detail OP. -/
def startOpOk (b e : Bytes) : Bool :=
  rqOp e == 1 && (match svRole b with
    | 0 => svPrefillImg b != 0 || rqPlen e == 0 || rqReuse e || rqRemote e
    | 1 => !rqRemote e
    | _ => false)

/-- The detail of a refused START, the lowest that applies (R272). -/
def Svc.startBad (S : Svc) (e : Bytes) : Option Nat :=
  let b := S.block
  let have_ := ((S.session e).map (·.tokens)).getD 0
  let usesPair := svRole b == 1 || rqRemote e
  if !startOpOk b e then some 1
  else if !startParamOk e then some 3
  else if have_ + rqPlen e + rqMaxNew e > svMaxCtx b || rqMaxNew e = 0 || (rqPlen e == 0 && !rqReuse e && !rqRemote e) then some 4
  else if usesPair && decide (rqPair e ≥ svPairs b) then some 5
  else if S.live.any fun q => rqId q.entry == rqId e then some 6
  else if rqSession e ≠ 0 && S.live.any fun q => rqSession q.entry == rqSession e then some 7
  else if rqReuse e && (S.session e).isNone && (svCachePair b == 0xFF || rqSession e == 0) then some 8
  else if rqRemote e && S.refused.contains (rqPair e, rqId e) then some 9
  else if rqDetok e && (svDetok b == 0 || rqText e % 4 != 0) then some 10
  else none

/-- Status and detail that refuse a START whose ring can be written (R272). -/
def Dev.startRefused (d : Dev) (p r : Nat) (e : Bytes) : Option (Nat × Nat) :=
  let S := (d.pol p).svc
  if !d.verOk (d.ringFn r) (fld e 1 1) then some (stVERSION_BAD, 0)
  else if rqOp e == 1 && !startReservedOk (svRole S.block) e then some (stRESERVED_NONZERO, 0)
  else (S.startBad e).map fun x => (stREQUEST_BAD, x)

/-- A START is refused (R272): counted, and its FINAL response written. -/
def W.refuseStart (w : W) (p r : Nat) (e : Bytes) (status detail : Nat) : W :=
  let w := (w.takeEntry r).tally (w.d.ring r).owner false
  let w := w.modSvc p fun S => { S with refused := S.refused.filter (· != (rqPair e, rqId e)) }
  w.svcRespond (rqRing e) (rqId e) 0 detail status [] true 7

/-- A sequence slot that is free (R286). -/
def Svc.freeSlot (S : Svc) : Option Nat :=
  (List.range (svMaxSeq S.block)).find? fun s => !(S.live.any (·.slot == s)) && !(S.sessions.any (·.slot == s))

/-- The pages of a SEQ_PAGES record join the sequence that waits for them (R292). -/
def W.joinPages (w : W) (p a : Nat) (x : HeldRec) : W :=
  let w := w.modSeq p a fun q => { q with frames := x.frames, mapped := 0 }
  if x.ended then (w.modSeq p a fun q => { q with repPos := 1 }).endSeq p a x.stop stOK 0
  else w.modSeq p a fun q => { q with phase := .ready, pos := x.ntok, ngen := 1, token := x.token, hist := [x.token], repPos := 1 }

/-- A START is admitted (R272, R275, R286, R292). -/
def W.admitSeq (w : W) (p r : Nat) (e : Bytes) (slot reserve : Nat) : W :=
  let S := (w.d.pol p).svc
  let a := S.admission
  let ses := S.session e
  let (k, w) := w.fresh
  let q : Sq := { slot := slot, entry := e, ring := r, admission := a, reserved := reserve }
  let fetch := rqReuse e && ses.isNone
  let q : Sq := match ses with
    | some x => { q with pos := x.tokens, frames := x.frames, mapped := x.mapped, phase := if rqPlen e = 0 then .ready else .prompt
                         token := Config.freeNat k % 2 ^ 32 }
    | none => { q with phase := if rqRemote e then .remoteKv else if fetch then .fetching else .prompt }
  let w := (w.takeEntry r).modSvc p fun S =>
    { S with admission := a + 1, seqs := S.seqs ++ [q], sessions := match ses with
        | some x => S.sessions.filter (·.order != x.order)
        | none => S.sessions }
  if fetch then
    w.modSvc p fun S =>
      { S with fetchKey := S.fetchKey + 1, fetches := S.fetches ++ [(S.fetchKey, a)]
               sends := S.sends ++ [{ pair := svCachePair S.block, kind := 3, key := S.fetchKey, session := rqSession e }] }
  else if rqRemote e then
    match S.heldRecs.find? fun x => x.pair == rqPair e && x.key == rqId e with
    | some x => (w.modSvc p fun S => { S with heldRecs := S.heldRecs.filter fun y => !(y.pair == x.pair && y.key == x.key) }).joinPages p a x
    | none => w
  else w

/-- Frames that admission reserves (R287): for the prompt and one further block, of those that the device itself provides. -/
def Svc.reserveFor (S : Svc) (e : Bytes) : Nat :=
  let cap := S.framesFor (svMaxCtx S.block)
  let one := svLpp S.block
  match S.session e with
  | some x => min (S.framesFor (x.tokens + rqPlen e) + one) cap - x.frames.length
  | none => if rqRemote e then one else min (S.framesFor (rqPlen e) + one) cap

/-- START, and every entry of a reserved OP, which is refused (R272): the entry is taken and admitted or refused, or stays in its ring (R287). -/
def execStart (r : Nat) (s : State) : Host.Outcome State Fault Refusal :=
  s.run fun w =>
    match w.d.request r with
    | none => w
    | some (p, e) =>
      if rqOp e = 0 || rqOp e = 2 || rqOp e = 3 then w
      else if !w.d.respRingOk r e then
        (((w.takeEntry r).tally (w.d.ring r).owner false).event p stREQUEST_BAD 2 2 r (rqId e)).settle
      else
        let room := decide ((w.d.ring (rqRing e)).room > 0)
        match w.d.startRefused p r e with
        | some (st, det) => if room then (w.refuseStart p r e st det).settle else w.modSvc p fun S => S.leave r
        | none =>
          let S := (w.d.pol p).svc
          let slot := match S.session e with
            | some x => some x.slot
            | none => S.freeSlot
          match slot with
          | none => w.modSvc p fun S => S.leave r
          | some slot =>
            if S.live.length ≥ svMaxSeq S.block then w.modSvc p fun S => S.leave r
            else
              let need := S.reserveFor e
              let w := W.makeRoom p need ((S.session e).map (·.id)) S.sessions.length w
              let S := (w.d.pol p).svc
              if S.avail ≥ need then (w.admitSeq p r e slot need).settle
              else if S.live.isEmpty && S.freeing == 0 && room then (w.refuseStart p r e stPAGES_EXHAUSTED 0).settle
              else w.modSvc p fun S => S.leave r

/-- An entry of CANCEL or SESSION_DROP has no reserved field set, and its VER is supported (R271). -/
def Dev.smallEntryOk (d : Dev) (r : Nat) (e : Bytes) (zero : List (Nat × Nat)) : Bool :=
  d.verOk (d.ringFn r) (fld e 1 1) && decide (rqRing e < 8192) && zero.all (fun (o, n) => isZero e o n) && fld e 2 4 == 0 && isZero e 0x18 0x68

/-- CANCEL (R272): the sequence ends at the next step boundary. -/
def execCancel (r : Nat) (s : State) : Host.Outcome State Fault Refusal :=
  s.run fun w =>
    match w.d.request r with
    | none => w
    | some (p, e) =>
      if rqOp e ≠ 2 then w
      else
        let ok := w.d.smallEntryOk r e [(0x10, 8)] && svRole (w.d.pol p).svc.block != 2
        let w := w.takeEntry r
        (if ok then w.modSvc p fun S => { S with seqs := S.seqs.map fun q => if q.live && rqId q.entry == rqId e then { q with cancel := true } else q }
          else w).settle

/-- SESSION_DROP (R272, R286): a session that no sequence holds is released, and not sent to the cache part. -/
def execSessionDrop (r : Nat) (s : State) : Host.Outcome State Fault Refusal :=
  s.run fun w =>
    match w.d.request r with
    | none => w
    | some (p, e) =>
      if rqOp e ≠ 3 then w
      else
        let ok := w.d.smallEntryOk r e [(8, 8)] && svRole (w.d.pol p).svc.block != 1
        let w := w.takeEntry r
        (if ok then w.each ((w.d.pol p).svc.sessions.filter (·.id == rqSession e)) fun w x => w.releaseSession p x false else w).settle

/-- NOP (R271). -/
def execRequestNop (r : Nat) (s : State) : Host.Outcome State Fault Refusal :=
  s.run fun w =>
    match w.d.request r with
    | none => w
    | some (_, e) => if rqOp e = 0 then (w.takeEntry r).settle else w

/-! ## The step loop (R275 to R279, R287) -/

/-- Sequences that CANCEL reached end (R272, R275 step 3); a handoff that has begun runs to its end. -/
def W.endCancelled (w : W) (p : Nat) : W :=
  let S := (w.d.pol p).svc
  w.each ((S.live.filter fun q => q.cancel && !(S.sends.any fun x => x.seq == some q.admission && !(x.ops.isEmpty && x.done == 0 && !x.lastPosted))).map (·.admission))
    fun w a => w.endSeq p a 4 stOK 0

/-- The sequence waits for frames (R287). -/
def Svc.heldOnFrames (S : Svc) (q : Sq) : Bool := q.phase == .ready && !S.canHold q (q.pos + 1)

/-- Every sequence in flight waits for frames: the newest gives up, until one can run (R287). -/
def W.exhaust (p : Nat) : Nat → W → W
  | 0, w => w
  | k + 1, w =>
    let S := (w.d.pol p).svc
    if S.live.isEmpty || S.freeing ≠ 0 || !S.sessions.isEmpty || !S.live.all S.heldOnFrames then w
    else
      let a := S.live.foldl (fun m q => max m q.admission) 0
      W.exhaust p k (w.endSeq p a 8 stPAGES_EXHAUSTED 0)

/-- The next token of `q` is sure to bring an entry (R274, R287). -/
def Svc.emissionDue (S : Svc) (q : Sq) : Bool :=
  decide (q.toks.length + 1 ≥ 12 ∨ q.steps + 1 ≥ rqFlush q.entry ∨ q.ngen + 1 ≥ rqMaxNew q.entry ∨ q.pos + 2 ≥ svMaxCtx S.block)

/-- The sequences that a decode job takes (R276, R287), frames given, and the response entries claimed by them. -/
def W.pickDecode (p : Nat) : List Nat → W → List Nat → List Nat → W × List Nat
  | [], w, rows, _ => (w, rows)
  | a :: l, w, rows, claims =>
    let S := (w.d.pol p).svc
    match S.seq a with
    | none => W.pickDecode p l w rows claims
    | some q =>
      if rows.length ≥ svMaxBkt S.block then (w, rows)
      else
        let rr := rqRing q.entry
        let due := S.emissionDue q
        let room := !due || decide ((w.d.ring rr).room > (claims.filter (· == rr)).length) || !w.d.respRingOk q.ring q.entry
        let w := if S.canHold q (q.pos + 1) then w else W.makeRoom p (S.framesFor (q.pos + 1) - q.frames.length - q.reserved) none S.sessions.length w
        if room && (w.d.pol p).svc.canHold q (q.pos + 1) then
          W.pickDecode p l (w.giveFrames p a (q.pos + 1)) (rows ++ [a]) (if due then rr :: claims else claims)
        else W.pickDecode p l w rows claims

/-- A row of the batch table (R277). Entries of HIST before the first generated token name no token. -/
def Sq.row (q : Sq) (b : Bytes) (token : Nat) : Bytes :=
  let e := q.entry
  toLe 2 q.slot ++ toLe 1 (b2n (rqTemp e != 0)) ++ toLe 1 (rqStopset e) ++ toLe 4 q.pos ++ toLe 4 token ++ toLe 4 q.ngen ++ toLe 4 (q.slot * svPtWin b) ++
    toLe 2 (if rqTopk e = 0 then 1024 else rqTopk e) ++ toLe 2 (rqRepN e) ++ slice e 0x28 8 ++ toLe 4 (rqTemp e) ++ toLe 4 (rqTopp e) ++ toLe 4 (rqRep e) ++
    zeros 20 ++ ((q.hist.take 48 ++ List.replicate 48 0xFFFFFFFF).take 48).flatMap (toLe 4)
/-- A padding row. -/
def padRow : Bytes := toLe 2 0xFFFF ++ zeros 254

/-- The page-table entries that the sequences `rows` need and do not have (R279). -/
def Dev.newEntries (d : Dev) (p : Nat) (rows : List Nat) : List (Nat × Nat) :=
  let S := (d.pol p).svc
  rows.flatMap fun a => match S.seq a with
    | none => []
    | some q => ((q.frames.zipIdx).drop q.mapped).map fun (f, i) => (q.slot * svPtWin S.block + i, d.frameEntry f)

/-- The page-table bank that is not active takes the changes and becomes active (R279); nothing where it is not free to take them. Its TAG is a free
value: the spec gives none. -/
def W.updatePt (w : W) (p : Nat) (rows : List Nat) : Option W :=
  let news := w.d.newEntries p rows
  if news.isEmpty then some w
  else
    let P := w.d.pol p
    let act := w.d.ptActive p
    let b := 1 - act
    let B := w.d.bank (ptBank p b)
    if B.st ≠ 1 ∧ B.st ≠ 3 then none
    else
      let changes := (P.svc.ptZero.map fun i => (i, 0)) ++ news
      let w := w.each changes fun w (i, e) => w.write (ptBase P.home b + 8 * i) (toLe 8 e)
      let (k, w) := w.fresh
      let w := (w.modBank (ptBank p b) fun B => { B with st := 3, tag := Config.freeNat k % 2 ^ 16 }).exchange (ptBank p b) (ptBank p act)
      let w := w.modSvc p fun S => { S with ptDelta := S.ptDelta ++ changes, ptZero := [] }
      some (w.each rows fun w a => w.modSeq p a fun q => { q with mapped := q.frames.length })

/-- The service job is launched (R278): its image, its first two arguments, its batch rows. -/
def W.launch (w : W) (p img a0 a1 : Nat) (rows : List Bytes) (J : SvcJob) : W :=
  let P := w.d.pol p
  let b := P.svc.block
  let w := w.write (svBatch b) rows.flatten
  let w := w.modPol p fun P => { P with jobs := P.jobs + 1, svc := { P.svc with job := some J, lastPrefill := J.prefill } }
  w.jobStep2 p { ring := none, ctx := (w.d.polCtxs p).headD P.ctxBase, img := img, len := 0, args := [a0, a1, svBatch b, 0] ++ svArgs b, stage := .validating
                 t0 := w.d.aon.hub, number := P.jobs + 1, key := P.keyNow }

/-- The sequence that prefill serves next: the lowest admission number with prompt tokens outstanding (R275). -/
def Svc.nextPrompt (S : Svc) : Option Sq :=
  (S.live.filter (·.phase == .prompt)).foldl (fun m q => match m with
    | some x => if q.admission < x.admission then some q else m
    | none => some q) none

/-- A prefill job for sequence `q` (R275, R277, R278): `prompt` is what the host's memory holds of its next tokens. -/
def W.prefill (w : W) (p img : Nat) (q : Sq) (prompt : ReadRes) : W :=
  let S := (w.d.pol p).svc
  let b := S.block
  let n := min (svPchunk b) (rqPlen q.entry - q.promptDone)
  let whole := q.promptDone + n == rqPlen q.entry
  let asked := w.askHost (rqPrompt q.entry + 4 * q.promptDone) (4 * n)
  match prompt with
  | .err det => asked.endSeq p q.admission 8 stHOST_READ_FAULT det
  | .ok bs =>
    if bs.length ≠ 4 * n || !S.canHold q (q.pos + n) then w
    else match (asked.giveFrames p q.admission (q.pos + n)).updatePt p [q.admission] with
      | none => w
      | some w => (w.write (svPstage b) bs).launch p img n (b2n whole) [q.row b n] { prefill := true, rows := [q.admission], chunk := n, complete := whole }

/-- The sequences whose prompt is complete, from the one after the last of the previous decode job on (R276). -/
def Svc.decodeOrder (S : Svc) : List Nat :=
  let ready := (S.live.filter (·.phase == .ready)).map (·.admission)
  match S.lastAdm with
  | some a => ready.filter (a < ·) ++ ready.filter (· ≤ a)
  | none => ready

/-- A decode job (R276 to R278). -/
def W.decode (w : W) (p : Nat) : W :=
  let S := (w.d.pol p).svc
  let b := S.block
  match W.pickDecode p S.decodeOrder w [] [] with
  | (_, []) => w
  | (w', rows) =>
    match w'.updatePt p rows with
    | none => w
    | some w =>
      let n := rows.length
      let B := ((List.range 11).map (2 ^ ·)).find? (fun B => (svBuckets b).testBit B.log2 && decide (n ≤ B)) |>.getD (svMaxBkt b)
      let bs := rows.filterMap fun a => ((w.d.pol p).svc.seq a).map fun q => q.row b q.token
      let w := w.modSvc p fun S => { S with lastAdm := rows.getLast?.or S.lastAdm }
      w.launch p (svStepImg b) B n (bs ++ List.replicate (B - n) padRow) { prefill := false, rows := rows }

/-- SERVICE_LOOP_PASS (R275 steps 3 and 4): cancelled sequences end, donations are made up (R289), and at most one job is launched; a sequence is READY
where a decode job would take it, with its frames and its response entry (R276, R287). -/
def execServiceLoopPass (p : Nat) (prompt : ReadRes) (s : State) : Host.Outcome State Fault Refusal :=
  s.run fun w =>
    let S := (w.d.pol p).svc
    if S.st ≠ 2 || S.job.isSome || !w.d.polReady p || !w.d.running then w
    else
      let w := W.exhaust p (S.seqs.length + 1) (((w.modSvc p Svc.endPass).endCancelled p).emitAll p)
      let w := w.donateAll p
      let S := (w.d.pol p).svc
      let decodable := !(W.pickDecode p S.decodeOrder w [] []).2.isEmpty
      (if !w.d.jobFree p then w
        else match svRole S.block, S.nextPrompt with
          | 1, some q => w.prefill p (svStepImg S.block) q prompt
          | 0, some q => if svPrefillImg S.block ≠ 0 && !(S.lastPrefill && decodable) then w.prefill p (svPrefillImg S.block) q prompt else w.decode p
          | 0, none => w.decode p
          | _, _ => w).pumpAll.settle

/-! ## Completion (R274, R280, R284, R285) -/

/-- A token's text (R284): what is written to the request's buffer. -/
def W.tokenText (w : W) (p : Nat) (q : Sq) (token : Nat) : Bytes :=
  let b := (w.d.pol p).svc.block
  let t := svDetok b
  if !rqDetok q.entry || token ≥ svVocab b then []
  else
    let e := le (w.read (t + 8 + 4 * token) 4)
    w.read (t + 8 + 4 * svVocab b + bits e 23 0) (bits e 31 24)

/-- A token joins its sequence (R285): its text, its place among the unreported ones, and the STOP code that it brings, 0 for none. -/
def W.addToken (w : W) (p a token code : Nat) : W × Nat :=
  match (w.d.pol p).svc.seq a with
  | none => (w, 0)
  | some q =>
    let w := w.modSeq p a fun q => { q with steps := q.steps + 1 }
    if code = 5 then (w, 5)
    else
      let text := w.tokenText p q token
      let fits := !q.textFull && decide (q.textUsed + text.length ≤ rqTextLen q.entry)
      let w := if fits && !text.isEmpty then w.emit (.hostWrite (rqText q.entry + q.textUsed) text) else w
      let n := if fits then text.length else 0
      let w := w.modSeq p a fun q =>
        { q with ngen := q.ngen + 1, token := token, hist := (token :: q.hist).take 48, toks := q.toks ++ [(token, n)]
                 textUsed := q.textUsed + n, textFull := q.textFull || !fits }
      let stop := if code = 1 then 1 else if q.ngen + 1 ≥ rqMaxNew q.entry then 2 else if q.pos + 1 ≥ svMaxCtx (w.d.pol p).svc.block then 3
        else if q.cancel then 4 else 0
      (w, stop)

/-- What a sequence does with the token of its job (R280, R285, R291): it goes on, ends, or is handed off. -/
def W.afterToken (w : W) (p a token code : Nat) : W :=
  let (w, stop) := w.addToken p a token code
  let b := (w.d.pol p).svc.block
  match (w.d.pol p).svc.seq a with
  | none => w
  | some q =>
    if svRole b = 1 then
      let ended := stop ≠ 0
      (w.modSeq p a fun q => { q with phase := .handoff, stop := if ended then stop else 6 }).modSvc p fun S =>
        { S with sends := S.sends ++ [{ pair := rqPair q.entry, kind := 1, key := rqId q.entry, session := 0, seq := some a
                                        frames := if ended then [] else q.frames, free := true, ntok := q.pos, token := if stop = 5 then 0 else token
                                        ended := ended, stop := stop }] }
    else if stop ≠ 0 then w.endSeq p a stop stOK 0
    else (w.modSeq p a fun q => { q with phase := .ready }).emitSeq p a

/-- SERVICE_JOB_COMPLETE (R275 step 5, R280). -/
def execServiceJobComplete (p : Nat) (s : State) : Host.Outcome State Fault Refusal :=
  s.run fun w =>
    let S := (w.d.pol p).svc
    match S.job, S.job.bind (·.status) with
    | some J, some st =>
      if S.st ≠ 2 && S.st ≠ 3 then w
      else
        let out := w.read (svOutbuf S.block) (8 * J.rows.length)
        let w := w.modSvc p fun S => { S with job := none }
        (if st ≠ stOK then w.each J.rows fun w a => w.endSeq p a 8 st J.detail
          else if J.prefill then
            w.each J.rows fun w a =>
              let w := w.modSeq p a fun q => { q with promptDone := q.promptDone + J.chunk, pos := q.pos + J.chunk }
              if J.complete then w.afterToken p a (fld out 0 4) (fld out 4 4) else w
          else
            w.each J.rows.zipIdx fun w (a, i) =>
              (w.modSeq p a fun q => { q with pos := q.pos + 1 }).afterToken p a (fld out (8 * i) 4) (fld out (8 * i + 4) 4)).pumpAll.settle
    | _, _ => w

/-! ## The stop (R270) -/

/-- Service firmware forgets everything but its registers; its operations that are not delivered are dropped. -/
def W.svcClear (w : W) (p : Nat) : W :=
  let S := (w.d.pol p).svc
  (w.dropOps fun i => i == .service p).modPol p fun P => { P with svc := { base := S.base, cause := S.cause, flags := S.flags } }

/-- SERVICE_LOOP_STOPPED (R270): once the running job has ended, every sequence ends CANCELLED; when every FINAL response is written, everything is
released and STATE is STOPPED. -/
def execServiceLoopStopped (p : Nat) (s : State) : Host.Outcome State Fault Refusal :=
  s.run fun w =>
    let S := (w.d.pol p).svc
    if S.st ≠ 3 || S.job.isSome then w
    else
      let w := (w.each (S.live.map (·.admission)) fun w a => w.endSeq p a 4 stOK 0).emitAll p
      if !(w.d.pol p).svc.seqs.isEmpty then w.settle
      else
        let imgs := svImages S.block
        ((w.modPol p fun P => { P with imgs := P.imgs.filter fun i => !imgs.contains i.addr }).svcClear p).settle

end Sys2Proof.Machine
end

