-- ==== Sys2Proof/Machine/Handoff.lean ====
section
/-! DEFINITION. Service mode: page handoff, records sent and taken, the retries of what was not delivered (R289 to R292). -/

namespace Sys2Proof.Machine

/-! ## The sender (R289 to R291) -/

/-- Pages of the record in progress of a handoff: at most 504 (R290). -/
def Send.pages (x : Send) : List Nat := ((x.frames.drop x.done).take 504)

/-- The record of a handoff whose pages, the last `n` of those done, are named by its entries (R290). -/
def Send.record (x : Send) (X : Pair) : Bytes :=
  let last := decide (x.done ≥ x.frames.length)
  toLe 1 x.kind ++ toLe 1 (b2n (!last) + 2 * b2n x.ended) ++ toLe 2 x.ents.length ++ toLe 2 0 ++ toLe 1 (if x.ended then x.stop else 0) ++ toLe 1 0 ++
    toLe 8 x.key ++ toLe 8 x.session ++ toLe 4 (if last then x.ntok else 0) ++ toLe 4 (if x.kind = 1 then x.token % 2 ^ 24 else 0) ++ toLe 8 X.pages ++
    toLe 4 (X.posted % 2 ^ 32) ++ zeros 20 ++ x.ents.flatMap (toLe 8)

def W.modSend (w : W) (p k : Nat) (f : Send → Send) : W :=
  w.modSvc p fun S => { S with sends := match S.sends[k]? with
    | some x => lset S.sends k (f x)
    | none => S.sends }

/-- Steps 1 and 2 of R291: the pages of the record go into donated frames, and NPAGE is added to PEER_PG; they wait for enough frames (R287, R289). -/
def W.sendPages (w : W) (p k : Nat) (x : Send) : W :=
  let S := (w.d.pol p).svc
  let X := S.pair x.pair
  let e := X.entry
  let pages := x.pages
  let n := pages.length
  if (w.d.sluice (prSlu e 3)).value < X.fifo + n then w
  else
    let ents := (List.range n).map fun i => le (w.read (prFifo e + 8 * ((X.fifo + i) % 4096)) 8)
    let writes := (pages.zip ents).flatMap fun (f, g) => svcWrites p e (frameAddr (bits g 29 0)) (w.read (frameAddr f) 0x40000)
    let (ids, w) := w.issueAll (writes ++ [svcAdd p e (prPeerSlu e 1) n])
    (w.modSvc p fun S => S.modPair x.pair fun X => { X with fifo := X.fifo + n, pages := X.pages + n }).modSend p k fun x =>
      { x with done := x.done + n, ents := ents, pagesOut := true, ops := ids }

/-- Steps 3 and 4 of R291: the record is written, and 1 is added to PEER_RX; it waits for a credit (R289). -/
def W.sendRecord (w : W) (p k : Nat) (x : Send) : W :=
  let X := (w.d.pol p).svc.pair x.pair
  let e := X.entry
  if X.posted ≥ (w.d.sluice (prSlu e 2)).value + 16 then w
  else
    let (ids, w) := w.issueAll (svcWrites p e (fld e 0x18 8 + X.posted % 16 * 4096) (x.record X) ++ [svcAdd p e (prPeerSlu e 0) 1])
    (w.modSvc p fun S => S.modPair x.pair fun X => { X with posted := X.posted + 1 }).modSend p k fun x =>
      { x with ops := ids, pagesOut := false, lastPosted := decide (x.done ≥ x.frames.length) }

/-- Step 5 of R291: the local pages are free, and a PROMPT part's sequence ends. -/
def W.sendDone (w : W) (p k : Nat) (x : Send) : W :=
  let w := w.modSvc p fun S => { S with sends := S.sends.eraseIdx k }
  match x.seq with
  | none => if x.free then w.freeFrames p x.frames else w
  | some a => match (w.d.pol p).svc.seq a with
    | some q => w.endSeq p a q.stop stOK 0
    | none => w.freeFrames p x.frames

/-- HANDOFF_SEND (R291): the next steps of handoff number `sq` among those that wait, which must be the first of its pair and have nothing unacknowledged. -/
def execHandoffSend (p sq : Nat) (s : State) : Host.Outcome State Fault Refusal :=
  s.run fun w =>
    let S := (w.d.pol p).svc
    match S.sends[sq]? with
    | none => w
    | some x =>
      if S.st ≠ 2 || !x.ops.isEmpty || !w.d.polReady p || !w.d.running || (S.sends.take sq).any fun y => y.pair == x.pair then w
      else (if x.pagesOut then w.sendRecord p sq x else if x.lastPosted then w.sendDone p sq x else w.sendPages p sq x).pumpAll.settle

/-- The operations `ids` that could not be delivered are sent again (R289, R291). -/
def W.retry (w : W) (ids : List Nat) : W :=
  (w.modFabric fun F => { F with ops := F.ops.map fun o => if ids.contains o.id then { o with waitNak := false } else o }).pumpAll.settle

/-- DONATION_RETRY (R289): donations and credits of a pair that could not be delivered, and what a pair lacks for want of free frames. -/
def execDonationRetry (p pair : Nat) (s : State) : Host.Outcome State Fault Refusal :=
  s.run fun w =>
    let ids := ((w.d.pol p).svc.pair pair).ops
    let S := (w.d.pol p).svc
    (if S.st = 2 ∧ pair < S.pairs.length ∧ w.d.polReady p ∧ w.d.running then w.donate p pair else w).retry ids

/-- REMOTE_RETRY (R291): operations of a pair's handoffs. -/
def execRemoteRetry (p pair : Nat) (s : State) : Host.Outcome State Fault Refusal :=
  s.run fun w => w.retry ((((w.d.pol p).svc.sends.filter (·.pair == pair)).map (·.ops)).flatten)

/-! ## The receiver (R290, R292) -/

def rcKind (b : Bytes) : Nat := fld b 0 1
def rcMore (b : Bytes) : Bool := (fld b 1 1).testBit 0
def rcEnded (b : Bytes) : Bool := (fld b 1 1).testBit 1
def rcPages (b : Bytes) : Nat := fld b 2 2
def rcKey (b : Bytes) : Nat := fld b 8 8
def rcSession (b : Bytes) : Nat := fld b 0x10 8
def rcNtok (b : Bytes) : Nat := fld b 0x18 4
def rcToken (b : Bytes) : Nat := fld b 0x1C 4
def rcEnt (b : Bytes) (i : Nat) : Nat := fld b (0x40 + 8 * i) 8

/-- A record of pair `i` and its pages have come (R292 step 1). -/
def W.recordCame (w : W) (p i : Nat) : Bool :=
  let S := (w.d.pol p).svc
  let X := S.pair i
  let e := X.entry
  decide (i < S.pairs.length) && decide (X.taken < (w.d.sluice (prSlu e 0)).value) &&
    decide (le (w.read (prRing e + X.taken % 16 * 4096 + 0x20) 8) ≤ (w.d.sluice (prSlu e 1)).value)

/-- The record that polder `p` takes from pair `i` next: a pass takes pairs in ascending index (R275 step 2). -/
def W.nextRecord (w : W) (p i : Nat) : Option Bytes :=
  let S := (w.d.pol p).svc
  let X := S.pair i
  let from_ := S.passPair.getD 0
  if S.st ≠ 2 || !w.d.polReady p || !w.d.running || !w.recordCame p i || i < from_ || ((List.range i).any fun j => from_ ≤ j && w.recordCame p j) then none
  else some (w.read (prRing X.entry + X.taken % 16 * 4096) 4096)

/-- Reserved fields of a record (R290). -/
def recordFieldsOk (b : Bytes) : Bool :=
  decide (fld b 1 1 < 4) && decide (rcPages b ≤ 504) && fld b 4 2 == 0 && fld b 7 1 == 0 && decide (rcNtok b < 2 ^ 21) && decide (rcToken b < 2 ^ 24) && isZero b 0x2C 20

/-- The kinds that a part of a role takes (R292). -/
def roleTakes (role kind : Nat) : Bool :=
  match kind with
  | 1 => role == 0
  | 2 => role == 0 || role == 2
  | 3 => role == 2
  | 4 => role == 0
  | _ => false

/-- The frame that entry `g` names, if it is one that this side donated and no record has used (R292 step 2). -/
def Dev.donatedFrame (d : Dev) (X : Pair) (g : Nat) : Option Nat :=
  if g.testBit 46 && bits g 55 48 == 0 && bits g 45 43 == 0 && bits g 42 30 == d.hub.chip && X.donated.contains (bits g 29 0) then some (bits g 29 0) else none

/-- The request that a refused record matches ends (R292 step 3). -/
def W.recordRefused (w : W) (p i : Nat) (b : Bytes) : W :=
  let S := (w.d.pol p).svc
  if rcKind b = 1 then
    match S.live.find? fun q => q.phase == .remoteKv && rqPair q.entry == i && rqId q.entry == rcKey b with
    | some q => w.endSeq p q.admission 7 stREQUEST_BAD 9
    | none => w.modSvc p fun S => { S with refused := S.refused ++ [(i, rcKey b)] }
  else match S.fetches.find? (·.1 == rcKey b) with
    | some (_, a) => w.endSeq p a 7 stREQUEST_BAD 9
    | none => w

/-- A record of pair `i` is taken (R292): checked; refused, or, with the frames of all the records of its KEY, given to `f` at the last of them; and the credit
goes back and the donation is restored. After a refused record with MORE set the rest of its KEY's records join nothing: their frames return. -/
def W.takeRecord (w : W) (p i : Nat) (want : Nat → Bool) (f : W → Bytes → List Nat → W) : W :=
  match w.nextRecord p i with
  | none => w
  | some b =>
    if !want (rcKind b) then w
    else
      let X := (w.d.pol p).svc.pair i
      let named := (List.range (min (rcPages b) 504)).map fun k => w.d.donatedFrame X (rcEnt b k)
      let valid := (named.filterMap id).eraseDups
      let ok := recordFieldsOk b && valid.length == rcPages b && fld b 0x28 4 == X.taken % 2 ^ 32 && roleTakes (svRole (w.d.pol p).svc.block) (rcKind b)
      let w := w.modSvc p fun S =>
        ({ S with passPair := some i } : Svc).modPair i fun X => { X with taken := X.taken + 1, donated := X.donated.filter fun x => !valid.contains x }
      let more := if rcMore b then some (rcKey b) else none
      let w :=
        if !ok then
          let part := if X.partKey = some (rcKey b) then X.partFrames else []
          let w := w.modSvc p fun S => S.modPair i fun X =>
            { X with badKey := more, partKey := if X.partKey = some (rcKey b) then none else X.partKey, partFrames := if X.partKey = some (rcKey b) then [] else X.partFrames }
          (((w.freeFrames p (part ++ valid)).modPol p fun P => { P with sluDeny := sat64 (P.sluDeny + 1) })).recordRefused p i b
        else if X.badKey = some (rcKey b) then (w.modSvc p fun S => S.modPair i fun X => { X with badKey := more }).freeFrames p valid
        else
          let w := w.modSvc p fun S => S.modPair i fun X => { X with badKey := none }
          let mine := X.partKey = some (rcKey b)
          let w := if mine then w else w.freeFrames p X.partFrames
          let all := (if mine then X.partFrames else []) ++ valid
          if rcMore b then w.modSvc p fun S => S.modPair i fun X => { X with partKey := some (rcKey b), partFrames := all }
          else f (w.modSvc p fun S => S.modPair i fun X => { X with partKey := none, partFrames := [] }) b all
      let (ids, w) := w.issueAll [svcAdd p X.entry (prPeerSlu X.entry 2) 1]
      ((w.modSvc p fun S => S.modPair i fun X => { X with ops := X.ops ++ ids }).donate p i).pumpAll.settle

/-- SEQ_PAGES, and records of a reserved KIND, which are refused (R292). -/
def execSeqPages (p pair : Nat) (s : State) : Host.Outcome State Fault Refusal :=
  s.run fun w => w.takeRecord p pair (fun k => k < 2 || k > 4) fun w b fs =>
    let x : HeldRec := { pair := pair, key := rcKey b, ended := rcEnded b, stop := fld b 6 1, ntok := rcNtok b, token := rcToken b, frames := fs }
    match (w.d.pol p).svc.live.find? fun q => q.phase == .remoteKv && rqPair q.entry == pair && rqId q.entry == rcKey b with
    | some q => w.joinPages p q.admission x
    | none => w.modSvc p fun S => { S with heldRecs := S.heldRecs ++ [x] }

/-- SESSION_PAGES (R292): a CACHE part stores the session in place of an earlier copy; a GENERATE part's FETCH is answered, and its MAXCTX check counts the
retained tokens now that they are known (R272, R286). -/
def execSessionPages (p pair : Nat) (s : State) : Host.Outcome State Fault Refusal :=
  s.run fun w => w.takeRecord p pair (· == 2) fun w b fs =>
    let S := (w.d.pol p).svc
    if svRole S.block = 2 then
      let w := w.each (S.sessions.filter (·.id == rcSession b)) fun w x =>
        (w.modSvc p fun S => { S with sessions := S.sessions.filter (·.order != x.order) }).freeFrames p x.frames
      w.modSvc p fun S =>
        { S with sessions := S.sessions ++ [{ id := rcSession b, slot := svMaxSeq S.block, tokens := rcNtok b, frames := fs, order := S.sessCtr }]
                 sessCtr := S.sessCtr + 1 }
    else match S.fetches.find? (·.1 == rcKey b) with
      | none => w.freeFrames p fs
      | some (_, a) =>
        let (k, w) := w.fresh
        let w := (w.modSvc p fun S => { S with fetches := S.fetches.filter (·.2 != a) }).modSeq p a fun q =>
          { q with frames := fs, mapped := 0, pos := rcNtok b, token := Config.freeNat k % 2 ^ 32, phase := if rqPlen q.entry = 0 then .ready else .prompt }
        match (w.d.pol p).svc.seq a with
        | some q => if rcNtok b + rqPlen q.entry + rqMaxNew q.entry > svMaxCtx S.block then w.endSeq p a 7 stREQUEST_BAD 4 else w
        | none => w

/-- FETCH (R292): the session's pages go back under the same KEY, or MISS. -/
def execFetch (p pair : Nat) (s : State) : Host.Outcome State Fault Refusal :=
  s.run fun w => w.takeRecord p pair (· == 3) fun w b fs =>
    let w := w.freeFrames p fs
    w.modSvc p fun S =>
      { S with sends := S.sends ++ [match S.sessions.find? (·.id == rcSession b) with
          | some x => { pair := pair, kind := 2, key := rcKey b, session := x.id, frames := x.frames, ntok := x.tokens }
          | none => { pair := pair, kind := 4, key := rcKey b, session := rcSession b }] }

/-- MISS (R292): the waiting START is refused with SESSION_GONE. -/
def execMiss (p pair : Nat) (s : State) : Host.Outcome State Fault Refusal :=
  s.run fun w => w.takeRecord p pair (· == 4) fun w b fs =>
    let w := w.freeFrames p fs
    match (w.d.pol p).svc.fetches.find? (·.1 == rcKey b) with
    | some (_, a) => w.endSeq p a 7 stREQUEST_BAD 8
    | none => w

end Sys2Proof.Machine
end

