-- ==== Sys2Proof/Machine/Polders.lean ====
section
/-! DEFINITION. Polder formation and dissolution (R260 to R265, R327, R401), stack scrubs and the stack patrol (R147, R155, R156). -/

namespace Sys2Proof.Machine

/-- Two ranges of identifiers meet; an empty one meets nothing. -/
def meets (b1 n1 b2 n2 : Nat) : Bool := decide (n1 ≠ 0 ∧ n2 ≠ 0 ∧ b1 < b2 + n2 ∧ b2 < b1 + n1)

/-- The ranges and bitmaps of two polders overlap (R261, R327). -/
def Pol.overlaps (P Q : Pol) : Bool :=
  meets P.ctxBase P.ctxCount Q.ctxBase Q.ctxCount || meets P.chBase P.chCount Q.chBase Q.chCount ||
    meets P.keyBase P.keyCount Q.keyBase Q.keyCount || P.ringGrp &&& Q.ringGrp != 0 || P.sluGrp &&& Q.sluGrp != 0 ||
    meets P.landOff P.landSize Q.landOff Q.landSize

/-- The identifier spaces of R11 and R448, the slots and the page-table size of R261. -/
def Pol.withinLimits (P : Pol) (otherSlots : Nat) : Bool :=
  (P.ctxCount == 0 || decide (P.ctxBase + P.ctxCount ≤ 4096)) && (P.keyCount == 0 || decide (P.keyBase + P.keyCount ≤ 1024)) &&
    (P.chCount == 0 || decide (P.chBase ≠ 0 ∧ P.chBase + P.chCount ≤ 256)) && decide (P.slots ≠ 0 ∧ otherSlots + P.slots ≤ 512) &&
    decide (4096 ≤ P.ptEntries ∧ P.ptEntries ≤ 2097152 ∧ P.ptEntries = 2 ^ P.ptEntries.log2) && decide (P.landOff + P.landSize ≤ 512)

/-- A slice is waiting or running on a die or stack of the bitmap (R412). -/
def Dev.slicesOn (d : Dev) (dies : Nat) : Bool :=
  d.bist.slots.any fun (_, S) =>
    let b := bits S.cmd 7 0
    (S.st == 1 || S.st == 2) && dies.testBit (bits S.cmd 12 8) && ((1 ≤ b && b ≤ 4) || b == 7 || (11 ≤ b && b ≤ 13))

/-- CAUSE of a refused formation, in the order of R261's list, then landing ranges and slices (R262, R327, R412; DEDUCED, entry 17). -/
def Dev.formRefused (d : Dev) (p : Nat) : Option Nat :=
  let P := d.pol p
  let others := d.formed.filter (· ≠ p)
  if (List.range 25).any fun s => P.hasSite s && (!d.isCompute s || (d.die s).withdrawn || others.any fun q => (d.pol q).hasSite s) then some 1
  else if (d.stackSites.filter P.hasSite).isEmpty then some 2
  else if others.any fun q => P.overlaps (d.pol q) then some 3
  else if !P.withinLimits (sumOf (others.map fun q => (d.pol q).slots)) then some 4
  else if !(d.power.openMode && d.power.openReg) && others.any fun q => P.ports &&& (d.pol q).ports != 0 then some 5
  else if d.slicesOn P.dies then some 6
  else none

/-- R263 step 3, shared by formation and resets (R423 step 5): on-die scrub, landing range, keys, images and banks; stacks to SCRUBBING. -/
def W.rebuild (w : W) (p : Nat) : W :=
  let w := w.setPolSt p 1
  let w := w.modPol p fun P =>
    { P with home := w.d.homeOf p, imgs := [], tenant := none, tblCtx := [], job := none, warm := none, waitRo := [], curCtx := none, curRing := none, coll := {} }
  let w := w.each (w.d.polSites p) fun w s => w.scrubDie s
  let w := ((w.resetBanks p).scrubLanding p).resetPt p
  let w := w.modFabric fun F => { F with keyWait := F.keyWait.filter (·.polder != p) }
  let w := w.eraseKeys ((List.range 1024).filter (w.d.pol p).hasKey)
  w.each (w.d.polStacks p) fun w s => w.setStack s 2

/-- POL_CTRL with ENABLE = 1 on an EMPTY polder (R263, R435): SERVICE first, then the checks. -/
def W.polEnable (w : W) (p v : Nat) (ign : W → W) : W :=
  let P := w.d.pol p
  if P.st ≠ 0 then (if v.testBit 30 = P.service then w else ign w)
  else
    let w := w.modPol p fun P => { P with service := v.testBit 30 }
    match w.d.formRefused p with
    | some c => ign (w.modPol p fun P => { P with cause := c })
    | none =>
      let w := w.modPol p fun P =>
        { P with enable := true, formGen := u32 (P.formGen + 1), capture := false, imgFaultValid := false, imgFault := 0, jobFaultValid := false
                 jobFault := 0, errCnt := List.replicate 8 0, evictBlocked := 0, starved := 0, starving := false, sluDeny := 0, jobs := 0
                 svc := { base := P.svc.base }, resetting := false, slotIds := w.d.ownSlots P.slots }
      let w := w.modPower fun R => { R with polCnt := R.polCnt.filter fun x => x.1 / 4 != p, lastJob := R.lastJob.filter fun x => x.1 != p
                                            firstUse := R.firstUse.filter fun x => x.1 != p }
      let w := w.dev fun d => { d with ctxs := tmapi (fun n C => if (d.pol p).hasCtx n then { C with ok := 0, err := 0 } else C) d.ctxs }
      w.rebuild p

/-- POL_CTRL with ENABLE = 0 (R264): refused with BUSY while a context is enabled or a reset of the polder runs, ignored while FORMING or
DISSOLVING (DEDUCED, entry 17); SERVICE can be written on an EMPTY polder. -/
def W.polDisable (w : W) (p v : Nat) (ign : W → W) : W :=
  let P := w.d.pol p
  if P.st = 0 then w.modPol p fun P => { P with service := v.testBit 30 }
  else if P.st = 1 && P.resetting then ign (w.modPol p fun P => { P with cause := 6 })
  else if P.st ≠ 2 then ign w
  else if !(w.d.polCtxs p).isEmpty then ign (w.modPol p fun P => { P with cause := 6 })
  else
    let w := (w.endJob p { status := stABORTED_RESET } false).cancelWarm p false
    let w := w.eraseKeys ((List.range 1024).filter (w.d.pol p).hasKey)
    let w := w.modPol p fun P => { P with enable := false, imgs := [], waitRo := [], coll := {}, capture := false, svc := { base := P.svc.base } }
    let w := w.each (w.d.polStacks p) fun w s => w.setStack s 1
    let w := w.dev fun d =>
      { d with
        sluices := d.sluices.filter fun x => !(d.pol p).hasSluice x.1
        grants := d.grants.filter fun x => !(decide (256 * p ≤ x.1 ∧ x.1 < 256 * p + 256)) }
    w.setPolSt p 3

/-- DISSOLVE_COMPLETE (R264 step 4): the allotments are released. -/
def execDissolveComplete (p : Nat) (s : State) : Host.Outcome State Fault Refusal :=
  s.run fun w =>
    if (w.d.pol p).st = 3 then
      (((w.modBank (ptBank p 0) fun _ => {}).modBank (ptBank p 1) fun _ => {}).modPol p fun P => { P with slotIds := [] }).setPolSt p 0
    else w

/-- STACK_SCRUB_COMPLETE (R156, R427): data zero, codes with them, the corrected-error counts reset, CLEAN. -/
def execStackScrubComplete (site : Nat) (s : State) : Host.Outcome State Fault Refusal :=
  s.run fun w =>
    if (w.d.die site).stack = 2 then
      let w := ((w.zero (stackBase site) stackSize).setStack site 3).modDie site fun D => { D with stackEcc := 0 }
      w.modSec fun S =>
        let left := S.rebuildSites.filter (· != site)
        { S with rebuildSites := left, rebuildInt := S.rebuildInt && !left.isEmpty }
    else w

/-- POLDER_READY (R263 steps 4 to 6): every stack is CLEAN and attestation shows the layout. -/
def execPolderReady (p : Nat) (s : State) : Host.Outcome State Fault Refusal :=
  s.run fun w =>
    if (w.d.pol p).st = 1 && w.d.allClean p then ((w.setPolSt p 2).modPol p fun P => { P with resetting := false }).settle else w

/-- PATROL_READ of a block of the populated range (R147): corrections are counted; a finding goes to the owning polder as an event, and changes nothing. -/
def execPatrolRead (site block : Nat) (fx : MemFx) (s : State) : Host.Outcome State Fault Refusal :=
  s.run fun w =>
    match w.d.sitePol site with
    | none => w
    | some p =>
      if (w.d.die site).stack ≠ 3 || block ≥ stackSize / 4096 then w
      else
        let w := w.countFx p fx
        match MemFail.code fx.fail with
        | none => w
        | some (st, _) => (w.polErr p 4 1).event p st dPATROL 5 site (stackBase site + 4096 * block)

end Sys2Proof.Machine
end

