-- ==== Sys2Proof/Machine/Reset.lean ====
section
/-! DEFINITION. Power, the four kinds of reset, and thermal trips (R342, R359, R360, R417 to R429). -/

namespace Sys2Proof.Machine

/-! ## The start (R417, R391) -/

/-- Everything the boot ROM waits for holds but the end of a trip (R417 steps 1 to 6). -/
def Aon.powered (A : Aon) : Bool := A.rail33 && A.rail12 && A.coreOk && A.refclk && !A.perst

/-- The link trains, and the boot ROM starts unless a trip holds it (R360, R417 step 7). -/
def W.tryBoot (w : W) (f : Fuses) : W :=
  if !w.d.aon.powered then w
  else
    let w := w.modAon fun A => { A with linkUp := true }
    if w.d.aon.tripHold || w.d.sec.boot ≠ 0 then w else w.bootRom f

/-! ## Fuses that a reset interrupts (R390) -/

/-- A pulse that a reset interrupts: free value `k` says how much of it was blown. A REPAIR entry's bits are blown in ascending order, VALID last. -/
def FusePulse.cut (f : Fuses) (k : Nat) : FusePulse → Fuses
  | .repair i v =>
    let order := (bitsSet v 64).filter (· ≠ 7) ++ [7]
    { f with repair := f.repair ||| ((order.take (k % (order.length + 1))).foldl (fun m b => m ||| 2 ^ b) 0) <<< (64 * i) }
  | p => p.apply f (k % 2 == 1)

/-- The fuses after a reset: the pulse in progress leaves its fuse either unblown or blown (R390). -/
def State.cutFuses (s : State) : Fuses :=
  match s.dev.sec.pulses with
  | [] => s.fuses
  | p :: _ => p.cut s.fuses (Config.freeNat s.dev.freeCtr)

/-- A command that resets the device or takes its power, when `c` holds: `f` is given the fuses as the reset leaves them. -/
def State.runReset (s : State) (c : Bool) (f : Fuses → W → W) : Host.Outcome State Fault Refusal :=
  if c then .next { s.commit (f s.cutFuses s.w.fresh.2) with fuses := s.cutFuses } else s.run id

/-! ## The warm device reset (R421, R426 to R428) -/

/-- Temperatures, which no reset changes, and the responses that follow from them (R359). -/
def Therm.kept (T : Therm) : Therm :=
  { logic := T.logic, dram := T.dram, logicLimit := decide (T.logic ≥ 840), dramLevel := levelOf T.dram 736 760 720 0
    level := levelOf T.logic 800 840 784 0 }
/-- What a warm device reset leaves of a die: its quarantine state, a withdrawal that waited for the job's end taking effect (R16, R375). -/
def Die.kept (D : Die) (stack : Nat) : Die :=
  { lmap := D.lmap, withdrawn := D.withdrawn || D.withdraw != 0, quar := D.quar, chkq := D.chkq, stack := stack, spareOn := D.spareServes }

/-- Stacks of polders that are FORMING (R427). -/
def Dev.formingStacks (d : Dev) : List Nat := ((List.range 16).filter fun p => (d.pol p).st == 1).flatMap d.polStacks

/-- The device after everything but the always-on domain and what R421 keeps has been reset. -/
def Dev.warm (d : Dev) : Dev :=
  let int := d.formingStacks
  let sites := if int.isEmpty then d.sec.rebuildSites else d.stackSites.filter fun s => int.contains s || d.sec.rebuildSites.contains s
  let changes := d.formed.length + (d.stackSites.filter fun s => (d.die s).stack != 1).length
  { variant := d.variant, aon := { d.aon with linkUp := false }
    sec := { layoutGen := u32 (d.sec.layoutGen + changes), rebuildInt := d.sec.rebuildInt || !int.isEmpty, rebuildSites := sites }
    hub := { evidSeq := d.hub.evidSeq, readTag := d.hub.readTag }
    pols := tmapi (fun _ P => ({ formGen := P.formGen } : Pol)) d.pols
    dies := tmapi (fun s D => D.kept (if d.isStacked s then 1 else 0)) d.dies
    fabric := { ports := tmapi (fun _ P => ({ hot := P.hot, latched := P.latched } : Port)) d.fabric.ports }
    power := { cap := maxCap d.variant, therm := tmapi (fun _ T => T.kept) d.power.therm, optTemp := d.power.optTemp }
    bist := { soft := d.bist.soft, packVer := d.bist.packVer }
    sealEpoch := d.sealEpoch + 1, freeCtr := d.freeCtr, out := d.out }

/-- The COPYs in progress have moved some of their data (R428). -/
def W.cutCopies (w : W) (rings : List Nat) (record : Bool) : W :=
  w.each rings fun w r => if ((w.d.ring r).desc.map fun D => dType D.bytes == 4).getD false then w.copyCut r stABORTED_RESET 0 record else w

/-- A warm device reset (R426): GOODBYE on every UP port unless the link dies have lost power, and everything that R421 does not keep is reset. -/
def W.warmReset (w : W) (goodbye : Bool) : W :=
  let w := w.cutCopies (w.d.rings.map Prod.fst) false
  ((if goodbye then w.goodbyes else w).dev Dev.warm)

/-! ## Supplies, clock and PERST# (R342, R417, R418) -/

/-- The device without power, its pins as they stand (R418). -/
def Dev.cold (d : Dev) (up : Bool) (f : Fuses) : Dev :=
  { variant := d.variant
    aon := { rail33 := up, rail12 := d.aon.rail12, refclk := d.aon.refclk, perst := d.aon.perst, sensed := up, shadow := if up then f else {} }
    power := { cap := maxCap d.variant, therm := tmapi (fun _ T => T.kept) d.power.therm, optTemp := d.power.optTemp }
    fabric := { ports := tmapi (fun _ P => ({ hot := P.hot, latched := P.latched } : Port)) d.fabric.ports }
    sealEpoch := d.sealEpoch + 1, freeCtr := d.freeCtr, out := d.out }

/-- POWER_3V3_RISE (R417 steps 1 and 2, R421): a cold power-on; the fuses are sensed into the fuse shadow. -/
def execPower3v3Rise (s : State) : Host.Outcome State Fault Refusal :=
  s.run fun w => if w.d.aon.rail33 then w else (w.zero 0 (2 ^ 52)).dev fun d => d.cold true s.fuses

/-- POWER_12V_RISE (R417 step 3). -/
def execPower12vRise (s : State) : Host.Outcome State Fault Refusal := s.run fun w => w.modAon fun A => { A with rail12 := true }

/-- CORE_OK (R417 step 4): the regulators are in regulation; after a hub trip they stay off (R360). -/
def execCoreOk (s : State) : Host.Outcome State Fault Refusal :=
  s.run fun w =>
    if w.d.aon.rail33 && w.d.aon.rail12 && !w.d.aon.hubTrip then (w.modAon fun A => { A with coreOk := true }).tryBoot s.fuses else w

/-- REFCLK_STABLE (R342, R417 step 5). -/
def execRefclkStable (s : State) : Host.Outcome State Fault Refusal :=
  s.run fun w => (w.modAon fun A => { A with refclk := true }).tryBoot s.fuses

/-- REFCLK_LOSS (R342): the hub counter stops; with 12 V present the link goes down, which is a warm device reset. -/
def execRefclkLoss (s : State) : Host.Outcome State Fault Refusal :=
  s.runReset s.dev.aon.refclk fun _ w =>
    let w := if w.d.aon.rail33 && w.d.aon.rail12 then w.warmReset true else w
    w.modAon fun A => { A with refclk := false }

/-- PERST_DEASSERT (R417 steps 6 and 7): acted on once CORE_OK is asserted. -/
def execPerstDeassert (s : State) : Host.Outcome State Fault Refusal :=
  s.run fun w => (w.modAon fun A => { A with perst := false }).tryBoot s.fuses

/-- PERST_ASSERT (R418): with both rails valid, a warm device reset that holds while PERST# stays asserted. -/
def execPerstAssert (s : State) : Host.Outcome State Fault Refusal :=
  s.runReset (!s.dev.aon.perst) fun _ w =>
    let w := if w.d.aon.rail33 && w.d.aon.rail12 then w.warmReset true else w
    w.modAon fun A => { A with perst := true }

/-- POWER_12V_LOSS (R418): the regulators shut down, CORE_OK is deasserted and the link lost; the always-on domain keeps its state. -/
def execPower12vLoss (s : State) : Host.Outcome State Fault Refusal :=
  s.runReset s.dev.aon.rail12 fun _ w =>
    let w := if w.d.aon.rail33 then w.warmReset false else w
    w.modAon fun A => { A with rail12 := false, coreOk := false, tripHold := A.tripHold && !A.hubTrip, hubTrip := false }

/-- POWER_3V3_LOSS (R418): everything stops. -/
def execPower3v3Loss (s : State) : Host.Outcome State Fault Refusal :=
  s.runReset s.dev.aon.rail33 fun f w => (w.zero 0 (2 ^ 52)).dev fun d => d.cold false f

/-! ## Resets over PCI Express (R419, R426) -/

/-- A warm device reset that the link brings, after which the boot ROM starts again. -/
def State.linkReset (s : State) : Host.Outcome State Fault Refusal :=
  s.runReset s.dev.aon.linkUp fun f w => (w.warmReset true).tryBoot f

/-- HOT_RESET (R419). -/
def execHotReset (s : State) : Host.Outcome State Fault Refusal := s.linkReset

/-- LINK_DOWN (R419). -/
def execLinkDown (s : State) : Host.Outcome State Fault Refusal := s.linkReset

/-- FLR_PF (R419): a function-level reset of the PF. -/
def execFlrPf (s : State) : Host.Outcome State Fault Refusal := s.linkReset

/-! ## Thermal trips (R359, R360) -/

/-- The device has such a sensor. -/
def Dev.hasSensor (d : Dev) : Sensor → Bool
  | .computeDie s => d.isCompute s
  | .linkDie s => d.isLink s
  | .hubDie => true
  | .dramDie s => d.isStacked s
  | .optic n => decide (n < d.numPorts)

/-- THERMAL_THRESHOLD (R359): a sensor's reading and its response; a trip's hold ends once every sensor is below its threshold (R360). -/
def execThermalThreshold (k : Sensor) (temp : Int) (s : State) : Host.Outcome State Fault Refusal :=
  s.run fun w =>
    if !w.d.aon.rail33 || !w.d.hasSensor k then w
    else
      let w := w.sensor k temp
      if w.d.aon.tripHold && !w.d.aon.hubTrip && w.d.allCool then (w.modAon fun A => { A with tripHold := false }).tryBoot s.fuses else w

/-- CAUSE and SITE of `PWR_TRIP`, and the temperature of a trip (R359, R360); an optical engine has none. -/
def sensorTrip : Sensor → Option (Nat × Nat × Int)
  | .computeDie s => some (1, s, 880)
  | .linkDie s => some (1, s, 880)
  | .hubDie => some (3, 12, 880)
  | .dramDie s => some (2, s, 800)
  | .optic _ => none

/-- THERMAL_TRIP (R360, R458): power is removed, `PWR_TRIP` records it, THERMTRIP# goes low, and a warm device reset holds; after a hub trip only the
always-on domain has power, and the link is lost. -/
def execThermalTrip (k : Sensor) (s : State) : Host.Outcome State Fault Refusal :=
  s.runReset (s.dev.aon.rail33 && s.dev.aon.rail12 && s.dev.hasSensor k && (sensorTrip k).isSome) fun f w =>
    match sensorTrip k with
    | none => w
    | some (cause, site, temp) =>
      let w := ((w.sensor k temp).warmReset false).modAon fun A =>
        { A with tripHold := true, tripValid := true, tripCause := cause, tripSite := site, thermtrip := true
                 hubTrip := A.hubTrip || cause == 3, coreOk := A.coreOk && cause != 3 }
      w.tryBoot f

/-! ## Polder reset and VF function-level reset (R421 to R425, R427 to R429) -/

/-- Service mode stops at once (R425): with `record`, each sequence in flight receives its FINAL response. -/
def W.svcReset (w : W) (p : Nat) (record : Bool) : W :=
  let w := if record then (w.each ((w.d.pol p).svc.live.map (·.admission)) fun w a => w.endSeq p a 8 stABORTED_RESET 0).emitAll p else w
  w.svcClear p

/-- Rings of polder `p` that have been used. -/
def Dev.polRings (d : Dev) (p : Nat) : List Nat := (d.rings.map Prod.fst).filter (d.pol p).hasRing

/-- The descriptors in progress on polder `p`'s rings end (R424, R428). -/
def W.endDescs (w : W) (p : Nat) (record : Bool) : W :=
  let w := w.cutCopies (w.d.polRings p) record
  let w := w.dropOps fun i => match i with
    | .ring q _ => q == p
    | _ => false
  w.each (w.d.polRings p) fun w r =>
    let w := w.dropReads fun f => f == ReadFor.descData r
    if record then w.completeSt r stABORTED_RESET
    else w.modRing r fun R => { R with desc := none, reserved := 0 }

/-- Steps 2 to 5 of R423. With `record` a polder reset; without it the function-level reset of the polder's VF, which writes and counts nothing. -/
def W.resetPolder (w : W) (p : Nat) (record : Bool) : W :=
  let forming := (w.d.pol p).st == 1
  let w := (w.abortColls p).interruptEpisodes p
  let w := match (w.d.pol p).job with
    | some j => w.endJob p (w.d.jobCompl j stABORTED_RESET 0) record
    | none => w
  let w := ((w.cancelWarm p false).endDescs p record).svcReset p record
  let w := w.each (w.d.polRings p) fun w r => if !record || (w.d.ring r).hostFills then w.ringLeaves r 0 (w.d.ring r).cause else w
  let w := w.dev fun d =>
    { d with
      sluices := tmapi (fun i S => if (d.pol p).hasSluice i then { S with value := 0, sat := false } else S) d.sluices
      chans := tmapi (fun c C => if (d.pol p).hasChan c then { C with st := 0 } else C) d.chans
      ctxs := tmapi (fun n C => if (d.pol p).hasCtx n && C.res ≠ 0 then { C with res := 1, slot := 0, record := none, budget := 0, act := 0, pend := 0 } else C)
        d.ctxs }
  let w := w.dropReads fun f => match f with
    | .saveRec n => (w.d.pol p).hasCtx n
    | _ => false
  let w := w.each (w.d.slicesOf p) fun w n => w.sliceEnd n 3 [] []
  let w := if forming then
      (w.each (w.d.polStacks p) fun w s => w.setStack s 1).modSec fun S =>
        { S with rebuildInt := true, rebuildSites := w.d.stackSites.filter fun s => S.rebuildSites.contains s || (w.d.polStacks p).contains s }
    else w
  (w.rebuild p).modPol p fun P => { P with resetting := true }

/-- A write of `v` to `POL_RESET[p]` (R422). -/
def W.polResetWrite (w : W) (p v : Nat) (ign : W → W) : W :=
  let P := w.d.pol p
  if !v.testBit 31 then w
  else if P.st = 0 || P.st = 3 then ign w
  else if P.st = 1 && P.resetting then w
  else w.resetPolder p true

/-- POL_RESET (R422, R423). -/
def execPolReset (fn p v : Nat) (s : State) : Host.Outcome State Fault Refusal :=
  s.run fun w => w.polWrite fn p 8 true fun w ign => w.polResetWrite p (v ||| 2 ^ 31) ign

/-- FLR_VF (R421, R423): the function's own state, and its polder if it is FORMING or READY. -/
def execFlrVf (k : Nat) (s : State) : Host.Outcome State Fault Refusal :=
  s.run fun w =>
    if k = 0 || !w.d.hostReach k || !w.d.running then w
    else
      let w := w.modHub fun h =>
        { h with vecs := h.vecs.filter fun x => x.1 / 2048 != k
                 ifSel := h.ifSel.filter fun x => x.1 != k
                 pci := h.pci.filter fun x => x.1 != k
                 dbDropFn := h.dbDropFn.filter fun x => x.1 != k }
      let w := w.modSec fun S => { S with spdm := S.spdm.filter fun x => x.1 != k, sessions := S.sessions.filter fun x => x.fn != k }
      let p := vfPol k
      if (w.d.pol p).st = 1 || (w.d.pol p).st = 2 then (w.resetPolder p false).settle else w

end Sys2Proof.Machine
end

