-- ==== Sys2Proof/Machine/Regs.lean ====
section
/-! DEFINITION. The register map (R432 to R452): which register stands at an offset, who reaches it, what it reads as and what a write of it does. -/

namespace Sys2Proof.Machine

/-! ## Which register (R438, R439, R447, R452) -/

/-- A register of the map, by instance. -/
inductive Reg where
  | hubId
  | hubCounts
  | hubSites
  | hubChipNum
  | hubEventRing
  | hubErrStatus
  | hubErrAddr
  | evidBase
  | evidCtrl
  | evidHead
  | hubErrCnt (k : Nat)
  | chPtr (c : Nat)
  | chLimit (c : Nat)
  | chCtrl (c : Nat)
  | chStatus (c : Nat)
  | chDrop (c : Nat)
  | ringBaseLo (r : Nat)
  | ringBaseHi (r : Nat)
  | ringShadowLo (r : Nat)
  | ringShadowHi (r : Nat)
  | ringCtrl (r : Nat)
  | ringStatus (r : Nat)
  | ringOwner (r : Nat)
  | ringIrq (r : Nat)
  | ringHead (r : Nat)
  | ringTail (r : Nat)
  | ringDbDrop (r : Nat)
  | ringIfVer
  | ringIfSel
  | dbDropFn (k : Nat)
  | sluOwner (i : Nat)
  | sluGrant (g : Nat)
  | sluValue (i : Nat)
  | sluDeny (p : Nat)
  | ctxCtrl (n : Nat)
  | ctxSlice (n : Nat)
  | ctxState (n : Nat)
  | tallyOk (n : Nat)
  | tallyErr (n : Nat)
  | saveBase (p : Nat)
  | evictBlocked (p : Nat)
  | starved (p : Nat)
  /-- The polder record's register at offset `x` of polder `p` (R447). -/
  | pol (p x : Nat)
  | pwrCap
  | pwrInfo
  | pwrMode
  | pwrTrip
  | pwrThermStatus
  | pwrDevCnt (k : Nat)
  | pwrShare (p : Nat)
  | pwrGrant (p : Nat)
  | pwrTemp (s : Nat)
  | pwrOptTemp (n : Nat)
  | pwrPolCnt (i : Nat)
  | clkPolLim (i : Nat)
  | clkFreq (i : Nat)
  /-- The SEC register at offset `x` (R396). -/
  | sec (x : Nat)
  | sliceCmd (n : Nat)
  | sliceLog (n : Nat)
  | sliceStatus (n : Nat)
  | sliceRes (i : Nat)
  /-- The BIST set-up register at offset `x` (R382, R413, R415, R416). -/
  | bist (x : Nat)
  | lnkTopo
  | lnkTorusPorts
  | lnkE2e
  | portCtrl (n : Nat)
  | portStatus (n : Nat)
  | lnkPeer (n : Nat)
  | lnkRoute (i : Nat)
  | winLo (w : Nat)
  | winHi (w : Nat)
  | lnkCnt (i : Nat)
  | spEcc (s : Nat)
  | stackEcc (s : Nat)
  | stackState (s : Nat)
  | bankState (n : Nat)
  | arrayMap (s : Nat)
  | arrayState (s : Nat)
  deriving DecidableEq, Repr

/-- Registers of the polder record (R447): offset, and 64 bits wide or not. -/
def polRegs : List (Nat × Bool) :=
  [(0x00, false), (0x04, false), (0x08, false), (0x0C, false), (0x10, false), (0x18, true), (0x20, false), (0x24, false), (0x28, false), (0x2C, false),
    (0x30, false), (0x34, false), (0x38, false), (0x3C, false), (0x40, true), (0x48, true), (0x50, true), (0x58, true), (0x60, false), (0x64, false),
    (0x68, true), (0x70, false), (0x74, false), (0x78, false), (0x7C, false), (0x80, true), (0x88, true), (0x90, false), (0x94, false),
    (0x100, true), (0x108, true), (0x110, true), (0x118, true), (0x120, true), (0x128, true), (0x130, true), (0x138, true)]
/-- SEC registers that are 64 bits wide, and the others (R439). -/
def secRegs : List (Nat × Bool) :=
  [(0x00, false), (0x04, false), (0x08, false), (0x0C, false), (0x10, false), (0x14, false), (0x18, true), (0x20, true), (0x28, true)]
def bistRegs : List (Nat × Bool) :=
  [(0x1000, false), (0x1008, true), (0x1010, false), (0x1014, false), (0x1018, false), (0x1020, true), (0x1028, false), (0x102C, false), (0x1030, true),
    (0x1038, false)]

/-- A register 64 bits wide (R439, R447). -/
def Reg.wide : Reg → Bool
  | .hubSites => true
  | .evidBase => true
  | .hubErrCnt _ => true
  | .chPtr _ => true
  | .chLimit _ => true
  | .chDrop _ => true
  | .ringDbDrop _ => true
  | .dbDropFn _ => true
  | .sluGrant _ => true
  | .sluValue _ => true
  | .sluDeny _ => true
  | .tallyOk _ => true
  | .tallyErr _ => true
  | .saveBase _ => true
  | .evictBlocked _ => true
  | .starved _ => true
  | .pol _ x => polRegs.contains (x, true)
  | .pwrInfo => true
  | .pwrDevCnt _ => true
  | .pwrPolCnt _ => true
  | .sec x => secRegs.contains (x, true)
  | .sliceCmd _ => true
  | .sliceLog _ => true
  | .sliceRes _ => true
  | .bist x => bistRegs.contains (x, true)
  | .lnkTopo => true
  | .lnkE2e => true
  | .winLo _ => true
  | .winHi _ => true
  | .lnkCnt _ => true
  | .spEcc _ => true
  | .stackEcc _ => true
  | _ => false

/-- `f i` if `o` is `base + stride × i` with `i < n`. -/
def regRow (o base stride n : Nat) (f : Nat → Reg) : Option Reg :=
  if base ≤ o ∧ (o - base) % stride = 0 ∧ (o - base) / stride < n then some (f ((o - base) / stride)) else none

/-- The first register found. -/
def firstReg : List (Option Reg) → Option Reg
  | [] => none
  | some r :: _ => some r
  | none :: l => firstReg l

def hubRegAt (o : Nat) : Option Reg :=
  match o with
  | 0x00 => some .hubId
  | 0x08 => some .hubCounts
  | 0x10 => some .hubSites
  | 0x18 => some .hubChipNum
  | 0x20 => some .hubEventRing
  | 0x28 => some .hubErrStatus
  | 0x2C => some .hubErrAddr
  | 0x40 => some .evidBase
  | 0x48 => some .evidCtrl
  | 0x50 => some .evidHead
  | _ => regRow o 0x100 8 8 .hubErrCnt

def chRegAt (o : Nat) : Option Reg :=
  let c := o / 32
  if c ≥ 256 then none
  else match o % 32 with
    | 0x00 => some (.chPtr c)
    | 0x08 => some (.chLimit c)
    | 0x10 => some (.chCtrl c)
    | 0x14 => some (.chStatus c)
    | 0x18 => some (.chDrop c)
    | _ => none

def ringRegAt (o : Nat) : Option Reg :=
  if o < 0x80000 then
    let r := o / 64
    match o % 64 with
    | 0x00 => some (.ringBaseLo r)
    | 0x04 => some (.ringBaseHi r)
    | 0x08 => some (.ringShadowLo r)
    | 0x0C => some (.ringShadowHi r)
    | 0x10 => some (.ringCtrl r)
    | 0x14 => some (.ringStatus r)
    | 0x18 => some (.ringOwner r)
    | 0x1C => some (.ringIrq r)
    | 0x20 => some (.ringHead r)
    | 0x24 => some (.ringTail r)
    | 0x30 => some (.ringDbDrop r)
    | _ => none
  else if o = 0x80000 then some .ringIfVer
  else if o = 0x80004 then some .ringIfSel
  else regRow o 0x80100 8 17 .dbDropFn

def ctxRegAt (o : Nat) : Option Reg :=
  if o < 0x20000 then
    let n := o / 32
    match o % 32 with
    | 0x00 => some (.ctxCtrl n)
    | 0x04 => some (.ctxSlice n)
    | 0x08 => some (.ctxState n)
    | 0x10 => some (.tallyOk n)
    | 0x18 => some (.tallyErr n)
    | _ => none
  else firstReg [regRow o 0x20000 8 16 .saveBase, regRow o 0x20080 8 16 .evictBlocked, regRow o 0x20100 8 16 .starved]

def polRegAt (o : Nat) : Option Reg :=
  let p := o / 0x1000
  let x := o % 0x1000
  if p < 16 && polRegs.any (·.1 == x) then some (.pol p x) else none

def pwrRegAt (o : Nat) : Option Reg :=
  match o with
  | 0x00 => some .pwrCap
  | 0x08 => some .pwrInfo
  | 0x10 => some .pwrMode
  | 0x14 => some .pwrTrip
  | 0x18 => some .pwrThermStatus
  | _ => firstReg [regRow o 0x20 8 4 .pwrDevCnt, regRow o 0x100 4 16 .pwrShare, regRow o 0x140 4 16 .pwrGrant, regRow o 0x200 4 25 .pwrTemp,
      regRow o 0x300 4 36 .pwrOptTemp, regRow o 0x400 8 64 .pwrPolCnt]

def bistRegAt (o : Nat) : Option Reg :=
  if o < 0x400 then
    let n := o / 64
    match o % 64 with
    | 0x00 => some (.sliceCmd n)
    | 0x08 => some (.sliceLog n)
    | 0x10 => some (.sliceStatus n)
    | 0x18 => some (.sliceRes (2 * n))
    | 0x20 => some (.sliceRes (2 * n + 1))
    | _ => none
  else if bistRegs.any (·.1 == o) then some (.bist o) else none

def lnkRegAt (o : Nat) : Option Reg :=
  match o with
  | 0x00 => some .lnkTopo
  | 0x08 => some .lnkTorusPorts
  | 0x10 => some .lnkE2e
  | _ => firstReg [regRow o 0x100 4 36 .portCtrl, regRow o 0x200 4 36 .portStatus, regRow o 0x300 4 36 .lnkPeer, regRow o 0x1000 4 2048 .lnkRoute,
      regRow o 0x4000 8 256 .winLo, regRow o 0x4800 8 256 .winHi, regRow o 0x8000 8 288 .lnkCnt]

/-- The register whose first byte stands at offset `o` of the PF's BAR0 (R438, R439). -/
def regAtPf (o : Nat) : Option Reg :=
  let x := o % 0x400000
  match o / 0x400000 with
  | 0 => hubRegAt x
  | 1 => chRegAt x
  | 2 => ringRegAt x
  | 3 => firstReg [regRow x 0 4 8192 .sluOwner, regRow x 0x8000 8 4096 .sluGrant, regRow x 0x10000 8 8192 .sluValue, regRow x 0x20000 8 16 .sluDeny]
  | 4 => ctxRegAt x
  | 5 => polRegAt x
  | 6 => pwrRegAt x
  | 7 => firstReg [regRow x 0 4 64 .clkPolLim, regRow x 0x1000 4 400 .clkFreq]
  | 8 => if secRegs.any (·.1 == x) then some (.sec x) else none
  | 9 => bistRegAt x
  | 10 => lnkRegAt x
  | 11 => firstReg [regRow x 0 8 25 .spEcc, regRow x 0x100 8 25 .stackEcc, regRow x 0x200 4 25 .stackState]
  | 12 => regRow x 0 4 182 .bankState
  | 13 => firstReg [regRow x 0 4 25 .arrayMap, regRow x 0x100 4 25 .arrayState]
  | _ => none

/-- The PF offset that offset `o` of the view of VF `k` stands for (R452). -/
def vfOff (k o : Nat) : Option Nat :=
  let p := vfPol k
  if o < 0x80000 then some (0x800000 + o)
  else if o < 0xA0000 then some (0x1000000 + (o - 0x80000))
  else if o < 0xC0000 then some (0xC00000 + (o - 0xA0000))
  else if o < 0xC2000 then some (0x400000 + (o - 0xC0000))
  else if o = 0xC2000 ∨ o = 0xC2004 then some (0x880000 + (o - 0xC2000))
  else if o = 0xC2008 then some (0x880100 + 8 * k)
  else if 0xC3000 ≤ o ∧ o < 0xC4000 then some (0x3000000 + (o - 0xC3000))
  else if 0xC4000 ≤ o ∧ o < 0xC5000 then some (0x1400000 + 0x1000 * p + (o - 0xC4000))
  else if o = 0xC5000 then some (0x1020000 + 8 * p)
  else if o = 0xC5008 then some (0x1020080 + 8 * p)
  else if o = 0xC5010 then some (0x1020100 + 8 * p)
  else if o = 0xC5018 then some (0xC20000 + 8 * p)
  else none

/-- The register at offset `o` of the BAR0 of function `fn`. -/
def regAt (fn o : Nat) : Option Reg := if fn = 0 then regAtPf o else (vfOff fn o).bind regAtPf

/-! ## Who reaches it (R195, R420, R437) -/

/-- The paths of R437. -/
inductive Path where
  | pf
  /-- PF and the function that drives the polder that owns the instance. -/
  | pfD (owner : Option Nat)
  /-- The driving function of a polder alone. -/
  | drv (p : Nat)
  | own
  deriving DecidableEq, Repr

/-- Polder that a bank of R450 belongs to. -/
def Dev.bankPol (d : Dev) (n : Nat) : Option Nat :=
  if n < 100 then d.sitePol (n / 4) else if n < 150 then d.sitePol ((n - 100) / 2) else some ((n - 150) / 2)

/-- Path and owner of a register (R439, R447). -/
def Dev.regPath (d : Dev) : Reg → Path
  | .chPtr c => .pfD (d.chanPol c)
  | .chLimit c => .pfD (d.chanPol c)
  | .chCtrl c => .pfD (d.chanPol c)
  | .chStatus c => .pfD (d.chanPol c)
  | .chDrop c => .pfD (d.chanPol c)
  | .ringBaseLo r => .pfD (d.ringPol r)
  | .ringBaseHi r => .pfD (d.ringPol r)
  | .ringShadowLo r => .pfD (d.ringPol r)
  | .ringShadowHi r => .pfD (d.ringPol r)
  | .ringCtrl r => .pfD (d.ringPol r)
  | .ringStatus r => .pfD (d.ringPol r)
  | .ringOwner r => .pfD (d.ringPol r)
  | .ringIrq r => .pfD (d.ringPol r)
  | .ringHead r => .pfD (d.ringPol r)
  | .ringTail r => .pfD (d.ringPol r)
  | .ringDbDrop r => .pfD (d.ringPol r)
  | .ringIfVer => .own
  | .ringIfSel => .own
  | .dbDropFn k => if k = 0 then .pf else .pfD (some (k - 1))
  | .sluOwner i => .pfD (d.sluPol i)
  | .sluGrant g => .pfD (some (g / 256))
  | .sluValue i => .pfD (d.sluPol i)
  | .sluDeny p => .pfD (some p)
  | .ctxCtrl n => .pfD (d.ctxPol n)
  | .ctxSlice n => .pfD (d.ctxPol n)
  | .ctxState n => .pfD (d.ctxPol n)
  | .tallyOk n => .pfD (d.ctxPol n)
  | .tallyErr n => .pfD (d.ctxPol n)
  | .saveBase p => .drv p
  | .evictBlocked p => .pfD (some p)
  | .starved p => .pfD (some p)
  | .pol p x =>
    if [0x60, 0x64, 0x68, 0x74, 0x78, 0x88, 0x90, 0x94].contains x then .drv p
    else if x = 0x04 ∨ x = 0x08 ∨ x = 0x70 ∨ x = 0x7C ∨ x ≥ 0x80 then .pfD (some p)
    else .pf
  | .bankState n => .pfD (d.bankPol n)
  | _ => .pf

/-- Function `fn` may write a register of this path. -/
def Dev.pathWrite (d : Dev) (fn : Nat) : Path → Bool
  | .pf => fn == 0
  | .pfD p => d.reachesPfD fn p
  | .drv p => d.driver p == fn
  | .own => true

/-- Function `fn` sees the register: through a VF an instance of another polder reads as zero (R195, R452). -/
def Dev.pathRead (d : Dev) (fn : Nat) : Path → Bool
  | .pfD p => d.reachesPfD fn p
  | _ => true

/-- Registers that are served before firmware is RUNNING (R420, R439). -/
def Reg.early : Reg → Bool
  | .hubId => true
  | .hubCounts => true
  | .hubSites => true
  | .hubErrStatus => true
  | .hubErrAddr => true
  | .sec _ => true
  | .chPtr c => c == 0
  | .chStatus c => c == 0
  | _ => false

/-! ## What it reads as -/

def polFieldRead (d : Dev) (p x : Nat) : Nat :=
  let P := d.pol p
  match x with
  | 0x00 => b2n P.enable * 2 ^ 31 + b2n P.service * 2 ^ 30
  | 0x04 => P.st * 2 ^ 28 + P.cause * 2 ^ 24 + P.home
  | 0x0C => P.slots
  | 0x10 => P.dies
  | 0x18 => P.ports
  | 0x20 => P.chBase
  | 0x24 => P.chCount
  | 0x28 => P.ctxBase
  | 0x2C => P.ctxCount
  | 0x30 => P.keyBase
  | 0x34 => P.keyCount
  | 0x38 => P.ptEntries
  | 0x3C => P.landSize * 2 ^ 16 + P.landOff
  | 0x40 => P.ringGrp % 2 ^ 64
  | 0x48 => P.ringGrp / 2 ^ 64
  | 0x50 => P.sluGrp % 2 ^ 64
  | 0x58 => P.sluGrp / 2 ^ 64
  | 0x60 => P.eventRing
  | 0x64 => P.wdog
  | 0x68 => b2n P.coll.valid * 2 ^ 63 + P.coll.err * 2 ^ 60 + P.coll.count * 2 ^ 48 + P.coll.base
  | 0x70 => b2n P.coll.lostValid * 2 ^ 31 + P.coll.lostChip
  | 0x74 => b2n P.fabKeyed * 2 ^ 31 + P.fabSlot
  | 0x78 => b2n P.capture * 2 ^ 31
  | 0x7C => b2n P.imgFaultValid * 2 ^ 31 + P.imgFault
  | 0x80 => b2n P.jobFaultValid * 2 ^ 63 + P.jobFault
  | 0x88 => if d.svcReached p then P.svc.base else 0
  | 0x90 => if d.svcReached p then b2n (P.svc.st == 1 || P.svc.st == 2) * 2 ^ 31 else 0
  | 0x94 => if d.svcReached p then P.svc.st * 2 ^ 28 + P.svc.cause * 2 ^ 24 + P.svc.flags * 2 ^ 16 + P.svc.live.length else 0
  | _ => if x ≥ 0x100 then lget 0 P.errCnt ((x - 0x100) / 8) else 0

def secRead (d : Dev) (f : Fuses) (x : Nat) : Nat :=
  let S := d.sec
  match x with
  | 0x00 => S.lc * 2 ^ 29 + b2n (portOpen S.lc) * 2 ^ 28 + S.svnImage * 2 ^ 8 + svnCount f.svn
  | 0x04 => S.boot * 2 ^ 28 + S.attempts * 2 ^ 16 + S.result
  | 0x14 => b2n S.busy * 2 ^ 31 + S.cmdResult
  | 0x18 => S.tokenAddr
  | 0x20 => S.nonce % 2 ^ 64
  | 0x28 => S.nonce / 2 ^ 64 % 2 ^ 64
  | _ => 0

def bistRead (d : Dev) (f : Fuses) (x : Nat) : Nat :=
  let B := d.bist
  match x with
  | 0x1000 => B.marginF * 2 ^ 16 + B.marginV
  | 0x1008 => B.packAddr
  | 0x1014 => B.packSt * 2 ^ 30 + B.packResult * 2 ^ 24
  | 0x1018 => B.packVer
  | 0x1020 => B.repAddr
  | 0x102C => B.repSt * 2 ^ 30 + B.repResult * 2 ^ 24 + B.repCount
  | 0x1038 => b2n B.fuseBusy * 2 ^ 31 + fuseUsed f.repair * 2 ^ 8 + B.fuseResult
  | _ => 0

/-- A bank's register (R450); the page-table banks of an EMPTY polder read 0. -/
def bankRead (d : Dev) (n : Nat) : Nat :=
  if n ≥ 150 && (d.pol ((n - 150) / 2)).st == 0 then 0
  else
    let B := d.bank n
    B.st * 2 ^ 29 + b2n B.locked * 2 ^ 28 + (if n < 100 then B.flavour * 2 ^ 27 else 0) + B.tag

/-- What a register reads as; WO fields read zero. `f` are the fuses as they stand. -/
def Dev.readReg (d : Dev) (f : Fuses) (fn : Nat) : Reg → Nat
  | .hubId => 0x02B00000 + d.variant * 2 ^ 8
  | .hubCounts =>
    d.computeSites.length * 2 ^ 27 + d.stackSites.length * 2 ^ 22 + d.linkSites.length * 2 ^ 17 + d.numPorts * 2 ^ 11 + d.stackSites.length * 2 ^ 6
  | .hubSites => fillOf d.variant
  | .hubChipNum => d.hub.chip
  | .hubEventRing => d.hub.eventRing
  | .hubErrStatus => b2n d.hub.ignored * 2 + b2n d.hub.unsup
  | .hubErrAddr => d.hub.errFn * 2 ^ 27 + b2n d.hub.errWrite * 2 ^ 26 + d.hub.errOff
  | .evidBase => d.hub.evidBase
  | .evidCtrl => b2n d.hub.evidEnable * 2 ^ 31 + d.hub.evidLog2
  | .evidHead => d.hub.evidHead
  | .hubErrCnt k => lget 0 d.hub.errCnt k
  | .chPtr c => (d.chan c).ptr
  | .chLimit c => (d.chan c).limit
  | .chCtrl c => b2n ((d.chan c).st != 0) * 2 ^ 31 + (d.chan c).mode
  | .chStatus c => (d.chan c).st * 2 ^ 30 + (d.chan c).status * 2 ^ 8 + (d.chan c).detail
  | .chDrop c => (d.chan c).drop
  | .ringBaseLo r => (d.ring r).base % 2 ^ 32
  | .ringBaseHi r => (d.ring r).base / 2 ^ 32
  | .ringShadowLo r => (d.ring r).shadow % 2 ^ 32
  | .ringShadowHi r => (d.ring r).shadow / 2 ^ 32
  | .ringCtrl r => let R := d.ring r; b2n R.enabled * 2 ^ 31 + R.cq * 2 ^ 16 + R.log2 * 2 ^ 8 + R.kind
  | .ringStatus r => (d.ring r).st * 2 ^ 30 + (d.ring r).cause * 2 ^ 28
  | .ringOwner r => (d.ring r).owner
  | .ringIrq r => let R := d.ring r; R.coal * 2 ^ 16 + b2n R.irqEn * 2 ^ 15 + R.vector
  | .ringHead r => (d.ring r).head
  | .ringTail r => (d.ring r).tail
  | .ringDbDrop r => (d.ring r).dbDrop
  | .ringIfVer => 3
  | .ringIfSel => d.ifSel fn
  | .dbDropFn k => tget 0 d.hub.dbDropFn k
  | .sluOwner i => let S := d.sluice i; b2n S.valid * 2 ^ 31 + b2n S.sat * 2 ^ 30 + S.ctx
  | .sluGrant g => d.grant g
  | .sluValue i => (d.sluice i).value
  | .sluDeny p => (d.pol p).sluDeny
  | .ctxCtrl n => b2n (d.ctx n).enable * 2 ^ 31 + (d.ctx n).tenant
  | .ctxSlice n => (d.ctx n).slice
  | .ctxState n => (d.ctx n).res * 2 ^ 29 + (d.ctx n).act * 2 ^ 26 + (d.ctx n).slot
  | .tallyOk n => (d.ctx n).ok
  | .tallyErr n => (d.ctx n).err
  | .saveBase p => (d.pol p).saveBase
  | .evictBlocked p => (d.pol p).evictBlocked
  | .starved p => (d.pol p).starved
  | .pol p x => polFieldRead d p x
  | .pwrCap => d.power.cap
  | .pwrInfo => reserve d.variant * 2 ^ 32 + minCap d.variant * 2 ^ 16 + maxCap d.variant
  | .pwrMode => b2n d.power.openReg * 2 ^ 31
  | .pwrTrip => b2n d.aon.tripValid * 2 ^ 31 + d.aon.tripCause * 2 ^ 28 + d.aon.tripSite
  | .pwrThermStatus => d.power.thermStatus
  | .pwrDevCnt k => lget 0 d.power.devCnt k
  | .pwrShare p => d.power.weightOf p
  | .pwrGrant p => let (sh, g, _) := tget (0, 0, 0) d.power.pgrant p; g * 2 ^ 16 + sh
  | .pwrTemp s => let T := tget {} d.power.therm s; wrap 16 T.dram * 2 ^ 16 + wrap 16 T.logic
  | .pwrOptTemp n => wrap 16 (tget 0 d.power.optTemp n)
  | .pwrPolCnt i => tget 0 d.power.polCnt i
  | .clkPolLim i => d.power.ceil (i / 4) (i % 4) * 2 ^ 16 + d.power.floor (i / 4) (i % 4)
  | .clkFreq i => let I := tget {} d.power.isl i; I.grant * 2 ^ 16 + I.target
  | .sec x => secRead d f x
  | .sliceCmd _ => 0
  | .sliceLog n => (d.slot n).log
  | .sliceStatus n => let S := d.slot n; S.st * 2 ^ 29 + S.refuse * 2 ^ 24 + S.result * 2 ^ 16 + S.nlog
  | .sliceRes i => (d.slot (i / 2)).res / 2 ^ (64 * (i % 2)) % 2 ^ 64
  | .bist x => bistRead d f x
  | .lnkTopo => d.fabric.topo
  | .lnkTorusPorts => d.fabric.torusPorts
  | .lnkE2e =>
    let F := d.fabric
    F.optmo * 2 ^ 32 + F.vid * 2 ^ 20 + F.pcpCtrl * 2 ^ 16 + F.pcpBulk * 2 ^ 12 + F.limit * 2 ^ 8 + F.rto
  | .portCtrl n => let P := d.port n; b2n P.enable * 2 ^ 31 + b2n P.phy * 2 ^ 30 + P.mode * 2 ^ 28 + P.lport * 2 ^ 24 + P.transit * 2 ^ 21
  | .portStatus n =>
    let P := d.port n
    P.st * 2 ^ 29 + b2n P.cfgErr * 2 ^ 28 + P.cause * 2 ^ 24 + b2n P.hvalid * 2 ^ 23 + P.peerPort * 2 ^ 13 + P.peerChip
  | .lnkPeer n => let P := d.port n; b2n P.expValid * 2 ^ 31 + P.expPort * 2 ^ 13 + P.expChip
  | .lnkRoute i => tget 0 d.fabric.route i
  | .winLo w => tget 0 d.fabric.winLo w
  | .winHi w => tget 0 d.fabric.winHi w
  | .lnkCnt i => tget 0 d.fabric.cnt i
  | .spEcc s => (d.die s).spEcc
  | .stackEcc s => (d.die s).stackEcc
  | .stackState s => (match d.sitePol s with
      | some p => if d.isStacked s then 2 ^ 15 + p * 2 ^ 8 else 0
      | none => 0) + (d.die s).stack
  | .bankState n => bankRead d n
  | .arrayMap s => if d.isCompute s then (d.die s).lmap else 0
  | .arrayState s => let D := d.die s; b2n D.withdrawn * 2 ^ 31 + D.quar * 2 ^ 18 + D.chkq * 2 ^ 9 + D.test

/-- What function `fn` reads in register `r` (R195, R420, R437). -/
def State.regValue (s : State) (fn : Nat) (r : Reg) : Nat :=
  let d := s.dev
  if (d.running || r.early) && d.pathRead fn (d.regPath r) then d.readReg s.fuses fn r else 0

/-- Offset of a function's MSI-X table, and of its PBA (R438, R452). -/
def msixBase (fn : Nat) : Nat := if fn = 0 then 0x3C00000 else 0xF0000
def pbaBase (fn : Nat) : Nat := if fn = 0 then 0x3E00000 else 0xF8000
/-- The 4 bytes at `x` of a vector's table entry (R194, R231). -/
def Vec.word (V : Vec) (x : Nat) : Nat :=
  match x with
  | 0 => V.addr % 2 ^ 32
  | 4 => V.addr / 2 ^ 32
  | 8 => V.data
  | _ => b2n V.masked
/-- 4 bytes of the PBA: the pending bits of 32 vectors, the first in bit 0. -/
def Dev.pbaWord (d : Dev) (fn k : Nat) : Nat := ((List.range 32).map fun i => b2n (d.vec fn (32 * k + i)).pend * 2 ^ i).sum

/-- The 4 bytes at `o` of the BAR0 of function `fn`: the MSI-X table and the PBA at all times (R420), a register or its half, zero elsewhere (R432, R433). -/
def State.barWord (s : State) (fn o : Nat) : Nat :=
  let t := o - msixBase fn
  let b := o - pbaBase fn
  if msixBase fn ≤ o ∧ t < 16 * vecCount fn then (s.dev.vec fn (t / 16)).word (t % 16)
  else if pbaBase fn ≤ o ∧ b < vecCount fn / 8 then s.dev.pbaWord fn (b / 4)
  else match regAt fn o with
    | some r => s.regValue fn r % 2 ^ 32
    | none => match (if o % 8 = 4 then regAt fn (o - 4) else none) with
      | some r => if r.wide then s.regValue fn r / 2 ^ 32 else 0
      | none => 0
/-- What a read of `size` bytes at offset `off` of BAR0 returns: all ones where the access is not supported (R10, R432). It changes nothing but what
UNSUPPORTED_READ says. -/
def State.barRead (s : State) (fn off size : Nat) : Nat :=
  if (size ≠ 4 ∧ size ≠ 8) ∨ off % size ≠ 0 then 2 ^ (8 * size) - 1
  else s.barWord fn off + (if size = 8 then s.barWord fn (off + 4) * 2 ^ 32 else 0)

/-- What a read of `size` bytes at offset `off` of BAR2 returns (R195, R201): the bytes of the slot's image, the recorded index in its first four; zero through a VF
whose polder does not own the ring (R195's registers; DEDUCED, entry 61). -/
def State.slotRead (s : State) (fn off size : Nat) : Nat :=
  let r := off / 64
  let R := s.dev.ring r
  let rec_ := if s.dev.running && s.dev.reachesPfD fn (s.dev.ringPol r) then (if R.hostFills then R.tail else R.head) else 0
  rec_ / 2 ^ (8 * (off % 64)) % 2 ^ (8 * size)

/-! ## What a write does -/

/-- A register whose fields are all RO (R437). -/
def Reg.ro : Reg → Bool
  | .hubId => true
  | .hubCounts => true
  | .hubSites => true
  | .hubErrAddr => true
  | .hubErrCnt _ => true
  | .chStatus _ => true
  | .chDrop _ => true
  | .ringStatus _ => true
  | .ringHead _ => true
  | .ringTail _ => true
  | .ringDbDrop _ => true
  | .ringIfVer => true
  | .dbDropFn _ => true
  | .sluValue _ => true
  | .sluDeny _ => true
  | .ctxState _ => true
  | .tallyOk _ => true
  | .tallyErr _ => true
  | .evictBlocked _ => true
  | .starved _ => true
  | .pol _ x => x == 0x04 || decide (x ≥ 0x100)
  | .pwrInfo => true
  | .pwrDevCnt _ => true
  | .pwrGrant _ => true
  | .pwrTemp _ => true
  | .pwrOptTemp _ => true
  | .pwrPolCnt _ => true
  | .clkFreq _ => true
  | .sec x => x == 0x00 || x == 0x04 || x == 0x14 || x == 0x20 || x == 0x28
  | .sliceStatus _ => true
  | .sliceRes _ => true
  | .bist x => x == 0x1014 || x == 0x1018 || x == 0x102C || x == 0x1038
  | .lnkCnt _ => true
  | .spEcc _ => true
  | .stackEcc _ => true
  | .stackState _ => true
  | .bankState _ => true
  | .arrayMap _ => true
  | .arrayState _ => true
  | _ => false

/-- A 64-bit WO register, which acts only on an 8-byte write (R432). -/
def Reg.wo64 : Reg → Bool
  | .sliceCmd _ => true
  | .bist x => x == 0x1030
  | _ => false

/-- A 64-bit register with an RW1C bit: the half that is not written has no effect. -/
def Reg.w1c64 : Reg → Bool
  | .pol _ x => x == 0x80
  | _ => false

/-- A context of polder `p` is SAVING, LOADING or SAVED with a record (R247). -/
def Dev.saveBusy (d : Dev) (p : Nat) : Bool :=
  d.ctxs.any fun (n, C) => (d.pol p).hasCtx n && (C.res == 4 || C.res == 2 || (C.res == 1 && C.record.isSome))

/-- A write to a resource field of polder `p`, while it is EMPTY (R260, R448). -/
def W.polRes (w : W) (p : Nat) (f : Pol → Pol) (ign : W → W) : W := if (w.d.pol p).st = 0 then w.modPol p f else ign w

/-- A write of `v` to `POL_SVC_BASE` (R266). -/
def W.svcBase (w : W) (p v : Nat) (ign : W → W) : W :=
  if w.d.svcReached p && (w.d.pol p).svc.st == 0 && v % 4096 == 0 then w.modPol p fun P => { P with svc := { P.svc with base := v % 2 ^ 48 } } else ign w

/-- A write of `v` to the polder register at `x` (R447, R448). -/
def W.writePol (w : W) (p x v : Nat) (ign : W → W) : W :=
  match x with
  | 0x00 => if v.testBit 31 then w.polEnable p v ign else w.polDisable p v ign
  | 0x08 => w.polResetWrite p v ign
  | 0x0C => w.polRes p (fun P => { P with slots := v % 2 ^ 10 }) ign
  | 0x10 => w.polRes p (fun P => { P with dies := v % 2 ^ 25 }) ign
  | 0x18 => w.polRes p (fun P => { P with ports := v % 2 ^ 36 }) ign
  | 0x20 => w.polRes p (fun P => { P with chBase := v % 2 ^ 8 }) ign
  | 0x24 => w.polRes p (fun P => { P with chCount := v % 2 ^ 9 }) ign
  | 0x28 => w.polRes p (fun P => { P with ctxBase := v % 2 ^ 12 }) ign
  | 0x2C => w.polRes p (fun P => { P with ctxCount := v % 2 ^ 13 }) ign
  | 0x30 => w.polRes p (fun P => { P with keyBase := v % 2 ^ 10 }) ign
  | 0x34 => w.polRes p (fun P => { P with keyCount := v % 2 ^ 11 }) ign
  | 0x38 => w.polRes p (fun P => { P with ptEntries := v % 2 ^ 22 }) ign
  | 0x3C => w.polRes p (fun P => { P with landOff := v % 2 ^ 16, landSize := v / 2 ^ 16 % 2 ^ 16 }) ign
  | 0x40 => w.polRes p (fun P => { P with ringGrp := setBits P.ringGrp 63 0 v }) ign
  | 0x48 => w.polRes p (fun P => { P with ringGrp := setBits P.ringGrp 127 64 v }) ign
  | 0x50 => w.polRes p (fun P => { P with sluGrp := setBits P.sluGrp 63 0 v }) ign
  | 0x58 => w.polRes p (fun P => { P with sluGrp := setBits P.sluGrp 127 64 v }) ign
  | 0x60 => w.modPol p fun P => { P with eventRing := b2n (v.testBit 31) * 2 ^ 31 + v % 2 ^ 13 }
  | 0x64 =>
    let l := v % 2 ^ 20
    if 1 ≤ l ∧ l ≤ 600000 then w.modPol p fun P => { P with wdog := l } else ign w
  | 0x68 => w.polColl p v ign
  | 0x70 => if v.testBit 31 then w.modPol p fun P => { P with coll := { P.coll with lostValid := false } } else w
  | 0x74 => w.modPol p fun P => { P with fabKeyed := v.testBit 31, fabSlot := v % 2 ^ 10 }
  | 0x78 => w.modPol p fun P => { P with capture := v.testBit 31 }
  | 0x7C => if v.testBit 31 then w.modPol p fun P => { P with imgFaultValid := false } else w
  | 0x80 => if v.testBit 63 then w.modPol p fun P => { P with jobFaultValid := false } else w
  | 0x88 => w.svcBase p v ign
  | 0x90 => if !w.d.svcReached p then ign w else if v.testBit 31 then w.svcStart p else w.svcStop p
  | 0x94 =>
    if !w.d.svcReached p then ign w
    else w.modPol p fun P => { P with svc := { P.svc with flags := P.svc.flags ^^^ (P.svc.flags &&& bits v 23 16) } }
  | _ => w

/-- A command register of the security processor while BUSY is set (R396). -/
def W.unlessBusy (w : W) (ign f : W → W) : W := if w.d.sec.busy then ign w else f w

/-- A write of `v` to the SEC register at `x` (R391, R393 to R396). DEBUG and RETURN carry a token, and are commands of their own. -/
def W.writeSec (w : W) (f : Fuses) (x v : Nat) (ign : W → W) : W :=
  match x with
  | 0x08 => w.secBootCmd v ign
  | 0x0C => w.unlessBusy ign fun w => w.secSvn v (svnCount f.svn)
  | 0x10 => match bits v 31 28 with
    | 1 => w.unlessBusy ign W.lcSecure
    | 4 => w.unlessBusy ign W.lcRetire
    | _ => w
  | 0x18 => if v % 64 = 0 then w.modSec fun S => { S with tokenAddr := v % 2 ^ 64 } else ign w
  | _ => w

/-- A write of `v` to `BIST_MARGIN` (R413). -/
def W.writeMargin (w : W) (v : Nat) (ign : W → W) : W :=
  let f := bits v 31 16
  let o := sext 16 v
  if f % 25 = 0 ∧ 500 ≤ f ∧ f ≤ 1800 ∧ -100 ≤ o ∧ o ≤ 50 then w.modBist fun B => { B with marginF := f, marginV := v % 2 ^ 16 } else ign w

/-- A write of `v` to the BIST set-up register at `x` (R382, R413, R415, R416). -/
def W.writeBist (w : W) (f : Fuses) (x v : Nat) (ign : W → W) : W :=
  match x with
  | 0x1000 => w.writeMargin v ign
  | 0x1008 => if v % 4096 = 0 then w.modBist fun B => { B with packAddr := v % 2 ^ 64 } else ign w
  | 0x1010 => w.packCmd v
  | 0x1020 => if v % 4096 = 0 then w.modBist fun B => { B with repAddr := v % 2 ^ 64 } else ign w
  | 0x1028 => w.repairCmd v
  | 0x1030 => w.fuseCmd f.repair v
  | _ => w

/-- No port is ENABLEd (R309). -/
def Dev.portsOff (d : Dev) : Bool := d.fabric.ports.all fun x => !x.2.enable

/-- A write of `v` to `LNK_E2E` (R308). -/
def W.writeE2e (w : W) (v : Nat) (ign : W → W) : W :=
  let t := bits v 47 32
  let l := bits v 11 8
  let r := bits v 7 0
  if t < 10 ∨ l = 0 ∨ r = 0 then ign w
  else w.modFabric fun F => { F with optmo := t, vid := bits v 31 20, pcpCtrl := bits v 18 16, pcpBulk := bits v 14 12, limit := l, rto := r }

/-- A write of `v` to `LNK_TOPO` (R309): a reserved MODE keeps the previous one (R7). -/
def W.writeTopo (w : W) (v : Nat) (ign : W → W) : W :=
  if !w.d.portsOff then ign w
  else w.modFabric fun F =>
    let mode := if bits v 63 62 < 2 then bits v 63 62 else bits F.topo 63 62
    { F with topo := mode * 2 ^ 62 + bits v 42 16 * 2 ^ 16 + v % 2 ^ 13 }

/-- The bits of a route word, `LNK_WIN_LO` and `LNK_WIN_HI` that are not reserved (R310, R323). -/
def routeBits (v : Nat) : Nat := v &&& 0x8F8F8F8F
def winLoBits (v : Nat) : Nat := v &&& 0xFFFCFFFFFFFFF000
def winHiBits (v : Nat) : Nat := v &&& 0x03FFFFFF00003FFF

/-- A write of `v` to `HUB_EVID_CTRL` (R377, R435). -/
def W.writeEvidCtrl (w : W) (v : Nat) (ign : W → W) : W :=
  let h := w.d.hub
  let l := v % 16
  if l > 8 then ign w
  else if h.evidEnable then
    (if !v.testBit 31 then w.modHub fun h => { h with evidEnable := false } else if l = h.evidLog2 then w else ign w)
  else w.modHub fun h => { h with evidEnable := v.testBit 31, evidLog2 := l }

/-- A field of ring `r` that is writable only while it is DISABLED (R444). -/
def W.ringField (w : W) (r : Nat) (f : Ring → Ring) (ign : W → W) : W := if (w.d.ring r).st = 0 then w.modRing r f else ign w

/-- A write of `v` to `RING_IRQ[r]` (R230, R444). -/
def W.writeIrq (w : W) (r v : Nat) (ign : W → W) : W :=
  let vec := bits v 10 0
  if (w.d.ring r).enabled && decide (vec ≥ vecCount (w.d.ringFn r)) then ign w
  else w.modRing r fun R => { R with vector := vec, irqEn := v.testBit 15, coal := bits v 31 16 }

/-- A write of `v`, all of it, to a register that function `fn` may write. -/
def W.writeReg (w : W) (f : Fuses) (fn : Nat) (reg : Reg) (v : Nat) (ign : W → W) : W :=
  match reg with
  | .hubChipNum => if w.d.allEmpty && w.d.portsOff then w.modHub fun h => { h with chip := v % 2 ^ 13 } else ign w
  | .hubEventRing => w.modHub fun h => { h with eventRing := b2n (v.testBit 31) * 2 ^ 31 + v % 2 ^ 13 }
  | .hubErrStatus => w.modHub fun h => { h with ignored := h.ignored && !v.testBit 1, unsup := h.unsup && !v.testBit 0 }
  | .evidBase => if v % 0x8000 = 0 then w.modHub fun h => { h with evidBase := v % 2 ^ 64 } else ign w
  | .evidCtrl => w.writeEvidCtrl v ign
  | .evidHead => w.modHub fun h => { h with evidHead := v % 2 ^ 32 }
  | .chPtr c => w.chanAddr c (fun C => { C with ptr := chanAddrBits v }) ign
  | .chLimit c => w.chanAddr c (fun C => { C with limit := chanAddrBits v }) ign
  | .chCtrl c => w.chanCtrl c v ign
  | .ringBaseLo r => w.ringField r (fun R => { R with base := setBits R.base 31 0 v }) ign
  | .ringBaseHi r => w.ringField r (fun R => { R with base := setBits R.base 63 32 v }) ign
  | .ringShadowLo r => w.ringField r (fun R => { R with shadow := setBits R.shadow 31 0 (v / 8 * 8) }) ign
  | .ringShadowHi r => w.ringField r (fun R => { R with shadow := setBits R.shadow 63 32 v }) ign
  | .ringCtrl r => w.ringCtrl fn r v ign
  | .ringOwner r => w.ringField r (fun R => { R with owner := v % 2 ^ 12 }) ign
  | .ringIrq r => w.writeIrq r v ign
  | .ringIfSel => w.writeIfSel fn v ign
  | .sluOwner i => w.sluOwner i v ign
  | .sluGrant g => w.sluGrant fn g v ign
  | .ctxCtrl n => w.ctxCtrl fn n v ign
  | .ctxSlice n => w.modCtx n fun C => { C with slice := v % 2 ^ 32 }
  | .saveBase p => if v % 4096 ≠ 0 || w.d.saveBusy p then ign w else w.modPol p fun P => { P with saveBase := v % 2 ^ 64 }
  | .pol p x => w.writePol p x v ign
  | .pwrCap =>
    let c := v % 2 ^ 16
    if minCap w.d.variant ≤ c ∧ c ≤ maxCap w.d.variant then w.modPower fun P => { P with cap := c } else ign w
  | .pwrMode => w.pwrMode v ign
  | .pwrTrip => w.pwrTrip v
  | .pwrThermStatus => w.modPower fun P => { P with thermStatus := P.thermStatus ^^^ (P.thermStatus &&& bits v 6 0) }
  | .pwrShare p => if v % 256 = 0 then ign w else w.modPower fun P => { P with weight := tset P.weight p (v % 256) }
  | .clkPolLim i => w.clkPolLim i v ign
  | .sec x => w.writeSec f x v ign
  | .sliceCmd n => w.sliceCmd n v
  | .sliceLog n => if v % 64 = 0 then w.modSlot n fun S => { S with log := v % 2 ^ 64 } else ign w
  | .bist x => w.writeBist f x v ign
  | .lnkTopo => w.writeTopo v ign
  | .lnkTorusPorts => if w.d.portsOff then w.modFabric fun F => { F with torusPorts := v % 2 ^ 24 } else ign w
  | .lnkE2e => w.writeE2e v ign
  | .portCtrl n => if v.testBit 31 then w.portEnable n v ign else w.portDisable n v
  | .portStatus n => if v.testBit 28 then w.modPort n fun P => { P with cfgErr := false } else w
  | .lnkPeer n => w.modPort n fun P => { P with expValid := v.testBit 31, expPort := bits v 18 13, expChip := v % 2 ^ 13 }
  | .lnkRoute i => w.modFabric fun F => { F with route := tset F.route i (routeBits v) }
  | .winLo n => w.modFabric fun F => { F with winLo := tset F.winLo n (winLoBits v) }
  | .winHi n => w.modFabric fun F => { F with winHi := tset F.winHi n (winHiBits v) }
  | _ => w

/-- A write of `v` to a register, judged by path, state and access (R420, R437). -/
def W.toReg (w : W) (f : Fuses) (fn : Nat) (reg : Reg) (v : Nat) (ign : W → W) : W :=
  if !(w.d.running || reg.early) || !w.d.pathWrite fn (w.d.regPath reg) || reg.ro then ign w else w.writeReg f fn reg v ign

/-- A 4-byte write to the half of a 64-bit register that begins at byte `h` (R432). -/
def W.toHalf (w : W) (f : Fuses) (fn off : Nat) (reg : Reg) (h v : Nat) (ign : W → W) : W :=
  if reg.wo64 then w.unsup fn off true
  else
    let old := if reg.w1c64 then 0 else w.d.readReg f fn reg
    w.toReg f fn reg (setBits old (8 * h + 31) (8 * h) v) ign

/-- The 4 bytes at `at_`, part of an access at `off` (R432, R433). -/
def W.toWord (w : W) (f : Fuses) (fn off at_ v : Nat) : W :=
  let ign (w : W) : W := w.ignored fn off
  match regAt fn at_ with
  | some reg => if reg.wide then w.toHalf f fn off reg 0 v ign else w.toReg f fn reg v ign
  | none => match (if at_ % 8 = 4 then regAt fn (at_ - 4) else none) with
    | some reg => if reg.wide then w.toHalf f fn off reg 4 v ign else w
    | none => w

/-- A write to an entry of a function's MSI-X table: 4 bytes at `x` of entry `vec` (R194, R231). -/
def W.msixWord (w : W) (fn vec x v : Nat) : W :=
  let set (f : Vec → Vec) : W := w.modVec fn vec f
  match x with
  | 0 => set fun V => { V with addr := setBits V.addr 31 0 v }
  | 4 => set fun V => { V with addr := setBits V.addr 63 32 v }
  | 8 => set fun V => { V with data := v % 2 ^ 32 }
  | _ => if v.testBit 0 then set fun V => { V with masked := true }
    else if (w.d.vec fn vec).masked then w.unmask fn vec else w

/-- An aligned write of 4 or 8 bytes to BAR0. -/
def W.barWrite (w : W) (f : Fuses) (fn off size v : Nat) : W :=
  let t := off - msixBase fn
  if msixBase fn ≤ off ∧ t < 16 * vecCount fn then
    let w := w.msixWord fn (t / 16) (t % 16) (v % 2 ^ 32)
    if size = 8 then w.msixWord fn (t / 16) (t % 16 + 4) (v / 2 ^ 32 % 2 ^ 32) else w
  else if size = 4 then w.toWord f fn off off (v % 2 ^ 32)
  else match regAt fn off with
    | some reg =>
      if reg.wide then w.toReg f fn reg (v % 2 ^ 64) fun w => w.ignored fn off
      else (w.toWord f fn off off (v % 2 ^ 32)).toWord f fn off (off + 4) (v / 2 ^ 32 % 2 ^ 32)
    | none => w.toWord f fn off (off + 4) (v / 2 ^ 32 % 2 ^ 32)

/-- REGISTER_WRITE (R10, R420, R432 to R437): a write of `size` bytes at offset `off` of the BAR0 of function `fn`. -/
def execRegisterWrite (fn off size v : Nat) (s : State) : Host.Outcome State Fault Refusal :=
  s.run fun w =>
    if !w.d.hostReach fn then w
    else if (size ≠ 4 ∧ size ≠ 8) ∨ off % size ≠ 0 then w.unsup fn off true
    else (w.barWrite s.fuses fn off size v).settle

/-- UNSUPPORTED_READ (R10): a read of another size, or a misaligned one, returns all ones. -/
def execUnsupportedRead (fn off size : Nat) (s : State) : Host.Outcome State Fault Refusal :=
  s.run fun w =>
    if !w.d.hostReach fn || ((size == 4 || size == 8) && off % size == 0) then w
    else (w.unsup fn off false).emit (.completion (some (List.replicate size 0xFF)))

/-! ## Registers with a row of their own -/

/-- SEC_BOOT_CMD (R391). -/
def execSecBootCmd (fn v : Nat) (s : State) : Host.Outcome State Fault Refusal :=
  s.run fun w => w.pfWrite fn 0x2000008 (fun w ign => w.secBootCmd (v % 2 ^ 32) ign) true

/-- SEC_SVN_CMD (R393). -/
def execSecSvnCmd (fn v : Nat) (s : State) : Host.Outcome State Fault Refusal :=
  s.run fun w => w.pfWrite fn 0x200000C (fun w ign => w.unlessBusy ign fun w => w.secSvn v (svnCount s.fuses.svn)) true

/-- LC_SECURE (R394). -/
def execLcSecure (fn : Nat) (s : State) : Host.Outcome State Fault Refusal :=
  s.run fun w => w.pfWrite fn 0x2000010 (fun w ign => w.unlessBusy ign W.lcSecure) true

/-- LC_DEBUG (R394, R395): `tok` is what the read of the token buffer returns. -/
def execLcDebug (fn : Nat) (tok : ReadRes) (s : State) : Host.Outcome State Fault Refusal :=
  s.run fun w => w.pfWrite fn 0x2000010 (fun w ign => w.unlessBusy ign fun w => w.lcDebug tok) true

/-- LC_RETURN (R394, R395). -/
def execLcReturn (fn : Nat) (tok : ReadRes) (s : State) : Host.Outcome State Fault Refusal :=
  s.run fun w => w.pfWrite fn 0x2000010 (fun w ign => w.unlessBusy ign fun w => w.lcReturn tok) true

/-- LC_RETIRE (R394). -/
def execLcRetire (fn : Nat) (s : State) : Host.Outcome State Fault Refusal :=
  s.run fun w => w.pfWrite fn 0x2000010 (fun w ign => w.unlessBusy ign W.lcRetire) true

/-- POL_ENABLE (R263): `v` with its ENABLE set. -/
def execPolEnable (fn p v : Nat) (s : State) : Host.Outcome State Fault Refusal :=
  s.run fun w => w.polPfWrite fn p 0 fun w ign => w.polEnable p (v % 2 ^ 31 + 2 ^ 31) ign

/-- POL_DISABLE (R264): SERVICE as it stands, with ENABLE clear. -/
def execPolDisable (fn p : Nat) (s : State) : Host.Outcome State Fault Refusal :=
  s.run fun w => w.polPfWrite fn p 0 fun w ign => w.polDisable p (b2n (w.d.pol p).service * 2 ^ 30) ign

/-- PORT_ENABLE (R295): `v` with its ENABLE set. -/
def execPortEnable (fn n v : Nat) (s : State) : Host.Outcome State Fault Refusal :=
  s.run fun w => if n ≥ 36 then w else w.pfWrite fn (0x2800100 + 4 * n) fun w ign => w.portEnable n (v % 2 ^ 31 + 2 ^ 31) ign

/-- PORT_DISABLE (R295): the fields as they stand, with ENABLE clear. -/
def execPortDisable (fn n : Nat) (s : State) : Host.Outcome State Fault Refusal :=
  s.run fun w => if n ≥ 36 then w
    else w.pfWrite fn (0x2800100 + 4 * n) fun w _ => w.portDisable n (w.d.readReg s.fuses fn (.portCtrl n) % 2 ^ 31)

/-- POL_COLL (R326). -/
def execPolColl (fn p v : Nat) (s : State) : Host.Outcome State Fault Refusal :=
  s.run fun w => w.polWrite fn p 0x68 false fun w ign => w.polColl p (v % 2 ^ 64) ign

/-- CLK_POL_LIM (R354). -/
def execClkPolLim (fn i v : Nat) (s : State) : Host.Outcome State Fault Refusal :=
  s.run fun w => if i ≥ 64 then w else w.pfWrite fn (0x1C00000 + 4 * i) fun w ign => w.clkPolLim i v ign

/-- PWR_MODE (R350). -/
def execPwrMode (fn v : Nat) (s : State) : Host.Outcome State Fault Refusal :=
  s.run fun w => w.pfWrite fn 0x1800010 fun w ign => w.pwrMode v ign

/-- PWR_TRIP (R360, R458). -/
def execPwrTrip (fn v : Nat) (s : State) : Host.Outcome State Fault Refusal :=
  s.run fun w => w.pfWrite fn 0x1800014 fun w _ => w.pwrTrip v

end Sys2Proof.Machine
end

