-- ==== Sys2Proof/Machine/Sample.lean ====
section
/-! DEFINITION. The SAMPLE step (R281 to R283). -/

namespace Sys2Proof.Machine

/-- The generator of R283: 24 bits. -/
def genU (seed ngen : Nat) : Nat :=
  let m := 2 ^ 64
  let z := (seed + (ngen + 1) * 0x9E3779B97F4A7C15) % m
  let z := ((z ^^^ (z >>> 30)) * 0xBF58476D1CE4E5B9) % m
  let z := ((z ^^^ (z >>> 27)) * 0x94D049BB133111EB) % m
  let z := z ^^^ (z >>> 31)
  z >>> 40

/-- A row of the batch table as SAMPLE takes it (R277). -/
structure BRow where
  slot : Nat
  mode : Nat
  stopset : Nat
  ngen : Nat
  topk : Nat
  repN : Nat
  seed : Nat
  temp : Nat
  topp : Nat
  rep : Nat
  hist : List Nat

def bRowOf (b : Bytes) : BRow :=
  { slot := fld b 0 2, mode := fld b 2 1, stopset := fld b 3 1, ngen := fld b 0xC 4, topk := fld b 0x14 2 % 2 ^ 11, repN := fld b 0x16 1 % 64
    seed := fld b 0x18 8, temp := fld b 0x20 4, topp := fld b 0x24 4, rep := fld b 0x28 4
    hist := (List.range 48).map fun i => fld b (0x40 + 4 * i) 4 }

/-- The penalty, once for each distinct token of the window (R282). -/
def penalise (ftz : Bool) (rep : Nat) (ts : List Nat) (xs : List Nat) : List Nat × Nat :=
  ts.eraseDups.foldl (fun (a : List Nat × Nat) t =>
    if t ≥ a.1.length then a
    else
      let x := lget 0 a.1 t
      let (y, f) := if relHolds 4 (decodeF fmtFP32 x) (.num false 0 0) then fDiv ftz x rep else fMul ftz x rep
      (lset a.1 t y, a.2 ||| f)) (xs, 0)

/-- The running sums of the candidates' exponentials, the last first (R282). -/
def runSums (T : Nat → FV → XR) (ftz : Bool) (m : Nat) (zs : List Nat) : List Nat × Nat :=
  zs.foldl (fun (a : List Nat × Nat) z =>
    let (d, f1) := fSub ftz z m
    let (e, f2) := sfu32 T ftz .exp d
    let (s, f3) := fAdd ftz (a.1.headD 0) e
    (s :: a.1, a.2 ||| f1 ||| f2 ||| f3)) ([], 0)

/-- The parameters of a row on which a token may depend (R283): all but its slot and what it stops on. -/
def BRow.params (r : BRow) : List Nat := [r.mode, r.ngen, r.topk, r.repN, r.seed, r.temp, r.topp, r.rep] ++ r.hist.take r.repN

/-- The token of one row's logits, its stop code 5 where a logit is NaN, and the flags (R282). Where R282 states no value (no sum reaches the cut, as when
1 / TEMP makes a score infinite, or a penalty makes a NaN) it is `free`. -/
def sampleRow (T : Nat → FV → XR) (ftz : Bool) (r : BRow) (free : Nat) (xs : List Nat) : Nat × Nat × Nat :=
  let val (c : Nat) : FV := decodeF fmtFP32 c
  if xs.any fun x => (val x).isNan then (0xFFFFFFFF, 5, 0)
  else
    let (xs, f0) := penalise ftz r.rep (r.hist.take r.repN) xs
    match xs.findIdx? (· == pInf32) with
    | some j => (j, 0, f0)
    | none =>
      let best (l : List Nat) (k : Nat) : List (FV × Nat) := topK false k (l.zipIdx.map fun (x, i) => (val x, i))
      if r.mode = 0 ∨ r.temp = 0 then
        if xs.any fun x => (val x).isNan then (free, 0, f0) else (((best xs 1).map Prod.snd).headD 0, 0, f0)
      else
        let (it, f1) := sfu32 T ftz .rcp r.temp
        let zs := xs.map fun x => fMul ftz x it
        let c := (best (zs.map Prod.fst) r.topk).map Prod.snd
        let zc := c.map fun i => (lget (0, 0) zs i).1
        if zs.all fun z => z.1 == nInf32 then (c.headD 0, 0, f0 ||| f1 ||| flagsOf zs) else
        let (ss, f2) := runSums T ftz (zc.headD 0) zc
        let sums := ss.reverse
        let (cut, f3) := fMul ftz r.topp (ss.headD 0)
        let fl := f0 ||| f1 ||| flagsOf zs ||| f2 ||| f3
        match sums.findIdx? fun s => relHolds 5 (val s) (val cut) with
        | none => (free, 0, fl)
        | some i =>
          let (t, f4) := fin32 ftz false ((FV.num false (genU r.seed r.ngen) (-24)).mul (val (lget 0 sums i)))
          let pick := ((sums.take (i + 1)).findIdx? fun s => relHolds 4 (val s) (val t)).getD i
          (lget 0 c pick, 0, fl ||| f4)

/-- SAMPLE on a step's region: SRC0 the logits, SRC1 the batch rows, SRC2 the stop sets (R281). -/
def VC.sample (c : VC) : VOut :=
  c.byRow fun r => do
    let xs ← c.floats c.st.src0 r
    let raw ← c.codes c.st.src1 r
    let row := bRowOf (raw.map (BitVec.ofNat 8))
    let put (tok stop fl : Nat) : Except StepErr (List (Nat × Bytes) × Nat) := .ok ([c.put c.st.dst r [tok, stop]], fl)
    if row.slot = 0xFFFF then put 0xFFFFFFFF 0 0
    else
      let (tok, stop, fl) := sampleRow c.T c.ftz row
        (Config.sampleToken ([b2n c.j.compat, b2n c.ftz] ++ row.params) (xs.map Prod.fst) % 2 ^ 32) (xs.map Prod.fst)
      let fl := fl ||| flagsOf xs
      if stop = 0 && c.st.x.testBit 0 then
        let t := c.tile c.st.src2
        let set ← c.w.rowCodes c.p c.j t row.stopset
        put tok (b2n (set.contains tok)) fl
      else put tok stop fl

/-- SAMPLE (R281, R282). -/
def execSample (p d e : Nat) (fx : MemFx) (s : State) : Host.Outcome State Fault Refusal :=
  s.run fun w => w.vecStep p d e fx (fun b => stepOp b == 0x88) VC.sample

end Sys2Proof.Machine
end

