-- ==== Sys2Proof/Machine/Spdm.lean ====
section
/-! DEFINITION. The SPDM responder of each function's DOE mailbox, and IDE key management (R398). The layouts of the messages are the
SPDM standard's, which the spec names and does not repeat (PRESUMED, entry 10); transcripts, nonces and signatures are free values. -/

namespace Sys2Proof.Machine

/-- Function `fn` has a responder now: it exists and firmware is RUNNING. -/
def Dev.doeOk (d : Dev) (fn : Nat) : Bool := d.running && d.fnOk fn
def Dev.spdm (d : Dev) (fn : Nat) : Spdm := tget {} d.sec.spdm fn
def W.modSpdm (w : W) (fn : Nat) (f : Spdm → Spdm) : W := w.modSec fun S => { S with spdm := tmod {} S.spdm fn f }

/-- A response: version, code and two parameters, then its body. -/
def W.respond (w : W) (fn code p1 p2 : Nat) (body : Bytes) : W :=
  let v := (w.d.spdm fn).ver
  w.emit (.doe fn (toLe 1 (if v = 0 then 0x10 else v) ++ toLe 1 code ++ toLe 1 p1 ++ toLe 1 p2 ++ body))
/-- ERROR: 1 invalid request, 4 unexpected request, 6 decryption, 10 session limit, 65 version mismatch. -/
def W.spdmError (w : W) (fn code : Nat) : W := w.respond fn 0x7F code 0 []

/-- A request of function `fn` that needs the negotiation to have reached `phase`. -/
def W.spdmReq (w : W) (fn phase : Nat) (f : W → W) : W :=
  if !w.d.doeOk fn then w
  else if (w.d.spdm fn).phase < phase then w.spdmError fn 4
  else f w

/-- The open session `id` of function `fn`. -/
def Dev.openSession (d : Dev) (fn id : Nat) : Option Session := d.sec.sessions.find? fun x => x.fn == fn && x.id == id && x.opened

/-- A request that may come inside a session: a session that is not open is refused. -/
def W.inSession (w : W) (fn : Nat) (ses : Option Nat) (f : W → W) : W :=
  match ses with
  | none => f w
  | some id => if (w.d.openSession fn id).isSome then f w else w.spdmError fn 6

/-- A 32-byte random number. -/
def W.random32 (w : W) : Bytes × W :=
  let (a, w) := w.fresh
  let (b, w) := w.fresh
  (toLe 16 (Config.random a % 2 ^ 128) ++ toLe 16 (Config.random b % 2 ^ 128), w)
/-- A signature by the alias key over a message's digest. -/
def W.sign (w : W) (msg : Bytes) : Bytes × W :=
  let (k, w) := w.fresh
  ((Config.ecdsaSign k w.d.sec.aliasKey (sha384 msg) ++ zeros 96).take 96, w)

/-- GET_VERSION: SPDM 1.2 and 1.3. -/
def execGetVersion (fn : Nat) (s : State) : Host.Outcome State Fault Refusal :=
  s.run fun w => w.spdmReq fn 0 fun w =>
    (w.modSpdm fn fun _ => { phase := 1 }).respond fn 0x04 0 0 (toLe 1 0 ++ toLe 1 2 ++ toLe 2 0x1200 ++ toLe 2 0x1300)

/-- GET_CAPABILITIES: CTExponent 14; certificates, challenge, measurements with signature, encryption, MAC, key exchange, heartbeat, key update. -/
def execGetCapabilities (fn ver : Nat) (s : State) : Host.Outcome State Fault Refusal :=
  s.run fun w => w.spdmReq fn 1 fun w =>
    if ver = 0x12 ∨ ver = 0x13 then
      (w.modSpdm fn fun _ => { phase := 2, ver := ver }).respond fn 0x61 0 0
        (toLe 1 0 ++ toLe 1 14 ++ toLe 2 0 ++ toLe 4 0x000062F6 ++ toLe 4 4096 ++ toLe 4 4096)
    else w.spdmError fn 65

/-- NEGOTIATE_ALGORITHMS: ECDSA P-384, SHA-384, secp384r1, AES-256-GCM, where the requester offers them. -/
def execNegotiateAlgorithms (fn : Nat) (alg : Algs) (s : State) : Host.Outcome State Fault Refusal :=
  s.run fun w => w.spdmReq fn 2 fun w =>
    if alg.ecdsaP384 && alg.sha384 then
      (w.modSpdm fn fun S => { S with phase := 3 }).respond fn 0x63 2 0
        (toLe 2 48 ++ toLe 1 1 ++ toLe 1 0 ++ toLe 4 2 ++ toLe 4 0x80 ++ toLe 4 2 ++ zeros 12 ++ toLe 1 0 ++ toLe 1 0 ++ toLe 2 0 ++
          (toLe 1 2 ++ toLe 1 0x20 ++ toLe 2 (if alg.secp384r1 then 0x10 else 0)) ++
          (toLe 1 3 ++ toLe 1 0x20 ++ toLe 2 (if alg.aes256gcm then 2 else 0)))
    else w.spdmError fn 1

/-- GET_DIGESTS: slot 0 alone. -/
def execGetDigests (fn : Nat) (ses : Option Nat) (s : State) : Host.Outcome State Fault Refusal :=
  s.run fun w => w.spdmReq fn 3 fun w => w.inSession fn ses fun w => w.respond fn 0x01 0 1 (sha384 w.d.sec.chain)

/-- GET_CERTIFICATE: a portion of the slot 0 chain. -/
def execGetCertificate (fn : Nat) (ses : Option Nat) (slot off len : Nat) (s : State) : Host.Outcome State Fault Refusal :=
  s.run fun w => w.spdmReq fn 3 fun w => w.inSession fn ses fun w =>
    let c := w.d.sec.chain
    if slot ≠ 0 ∨ off ≥ c.length then w.spdmError fn 1
    else
      let part := slice c off (min len 4088)
      w.respond fn 0x02 0 0 (toLe 2 part.length ++ toLe 2 (c.length - off - part.length) ++ part)

/-- CHALLENGE. -/
def execChallenge (fn : Nat) (ses : Option Nat) (slot : Nat) (nonce : Bytes) (s : State) : Host.Outcome State Fault Refusal :=
  s.run fun w => w.spdmReq fn 3 fun w => w.inSession fn ses fun w =>
    if slot ≠ 0 then w.spdmError fn 1
    else
      let (r, w) := w.random32
      let body := sha384 w.d.sec.chain ++ r ++ toLe 2 0
      let (sg, w) := w.sign (nonce ++ body)
      w.respond fn 0x03 0 1 (body ++ sg)

/-- A measurement block: index, specification, sizes, DMTF type and value. -/
def measBlock (idx type : Nat) (v : Bytes) : Bytes :=
  toLe 1 idx ++ toLe 1 1 ++ toLe 2 (v.length + 3) ++ toLe 1 type ++ toLe 2 v.length ++ v

/-- The measurement blocks of function `fn` (R398), the report drawn at free value `k`. -/
def Dev.measurements (d : Dev) (fn : Nat) (nonce : Bytes) (k : Nat) : List (Nat × Bytes) :=
  let S := d.sec
  [(0x01, measBlock 0x01 0x00 Config.romDigest), (0x02, measBlock 0x02 0x01 S.imageDigest)] ++
    ((List.range S.stageDigs.length).map fun i => (0x10 + i, measBlock (0x10 + i) 0x01 (lget [] S.stageDigs i))) ++
    [(0x30, measBlock 0x30 0x83 (toLe 1 (svnCount d.aon.shadow.svn) ++ toLe 1 S.svnImage ++ toLe 1 S.keyIdx ++ toLe 1 S.lc ++
        toLe 1 (b2n (S.lc == 2)) ++ zeros 11)),
     (0x40, measBlock 0x40 0x84 (d.report fn nonce k))]

/-- GET_MEASUREMENTS (R398, R399): the number of blocks, all of them, or one; a response with the report is signed. -/
def execGetMeasurements (fn : Nat) (ses : Option Nat) (idx : Nat) (sign : Bool) (nonce : Bytes) (s : State) :
    Host.Outcome State Fault Refusal :=
  s.run fun w => w.spdmReq fn 3 fun w => w.inSession fn ses fun w =>
    let (k, w) := w.fresh
    let all := w.d.measurements fn nonce k
    let some_ := if idx = 0xFF then all else all.filter (·.1 == idx)
    if idx ≠ 0 && some_.isEmpty then w.spdmError fn 1
    else
      let rec_ := if idx = 0 then [] else some_.flatMap Prod.snd
      let (r, w) := w.random32
      let body := toLe 1 (if idx = 0 then 0 else some_.length) ++ toLe 3 rec_.length ++ rec_ ++ r ++ toLe 2 0
      if sign || (idx ≠ 0 && some_.any (·.1 == 0x40)) then
        let (sg, w) := w.sign (nonce ++ body)
        w.respond fn 0x60 (if idx = 0 then all.length else 0) 0 (body ++ sg)
      else w.respond fn 0x60 (if idx = 0 then all.length else 0) 0 body

/-- KEY_EXCHANGE: a session begins; a function holds at most two (R398). -/
def execKeyExchange (fn slot reqId : Nat) (peer : Bytes) (s : State) : Host.Outcome State Fault Refusal :=
  s.run fun w => w.spdmReq fn 3 fun w =>
    if slot ≠ 0 then w.spdmError fn 1
    else if (w.d.sec.sessions.filter (·.fn == fn)).length ≥ 2 then w.spdmError fn 10
    else
      let rsp := w.d.sec.sesCtr % 2 ^ 16
      let (k, w) := w.fresh
      let (r, w) := w.random32
      let w := w.modSec fun S =>
        { S with sesCtr := S.sesCtr + 1
                 sessions := S.sessions ++ [{ fn := fn, id := reqId % 2 ^ 16 + 2 ^ 16 * rsp, secret := Config.exportSecret k peer }] }
      let body := toLe 2 rsp ++ toLe 2 0 ++ r ++ (Config.dhePublic k ++ zeros 96).take 96 ++ toLe 2 0
      let (sg, w) := w.sign (peer ++ body)
      w.respond fn 0x64 0 0 (body ++ sg ++ (Config.verifyData k ++ zeros 48).take 48)

/-- A change of session `id` of function `fn`. -/
def W.modSession (w : W) (fn id : Nat) (f : Session → Session) : W :=
  w.modSec fun S => { S with sessions := S.sessions.map fun x => if x.fn = fn ∧ x.id = id then f x else x }

/-- FINISH: the session opens when its verification data is right; otherwise it ends. -/
def execFinish (fn ses : Nat) (verifies : Bool) (s : State) : Host.Outcome State Fault Refusal :=
  s.run fun w => w.spdmReq fn 3 fun w =>
    match w.d.sec.sessions.find? fun x => x.fn == fn && x.id == ses && !x.opened with
    | none => w.spdmError fn 4
    | some _ =>
      if verifies then (w.modSession fn ses fun x => { x with opened := true }).respond fn 0x65 0 0 []
      else (w.modSec fun S => { S with sessions := S.sessions.filter fun x => !(x.fn == fn && x.id == ses) }).spdmError fn 6

/-- KEY_UPDATE: operations 1 UpdateKey, 2 UpdateAllKeys, 3 VerifyNewKey. -/
def execKeyUpdate (fn ses op : Nat) (s : State) : Host.Outcome State Fault Refusal :=
  s.run fun w => w.spdmReq fn 3 fun w => w.inSession fn (some ses) fun w =>
    if op = 1 ∨ op = 2 then (w.modSession fn ses fun x => { x with epoch := x.epoch + 1 }).respond fn 0x69 op 0 []
    else if op = 3 then w.respond fn 0x69 op 0 []
    else w.spdmError fn 1

/-- HEARTBEAT. -/
def execHeartbeat (fn ses : Nat) (s : State) : Host.Outcome State Fault Refusal :=
  s.run fun w => w.spdmReq fn 3 fun w => w.inSession fn (some ses) fun w => w.respond fn 0x68 0 0 []

/-- END_SESSION: the session and its counter record end (R402); keys that it installed stay (R398). -/
def execEndSession (fn ses : Nat) (s : State) : Host.Outcome State Fault Refusal :=
  s.run fun w => w.spdmReq fn 3 fun w => w.inSession fn (some ses) fun w =>
    (w.modSec fun S => { S with sessions := S.sessions.filter fun x => !(x.fn == fn && x.id == ses) }).respond fn 0x6C 0 0 []

/-- IDE_KM, over the PF's DOE alone, inside a session (R191, R398): streams 0 to 4. -/
def execIdeKm (fn ses : Nat) (msg : IdeMsg) (s : State) : Host.Outcome State Fault Refusal :=
  s.run fun w => w.spdmReq fn 3 fun w => w.inSession fn (some ses) fun w =>
    if fn ≠ 0 then w.spdmError fn 1
    else
      let rest (n : Nat) := w.d.sec.ide.filter fun x => x.1 != n
      let held (n : Nat) := w.d.sec.ide.find? fun x => x.1 == n
      match msg with
      | .query => w.respond fn 0x7E 1 0 (toLe 1 4)
      | .keyProg n k =>
        if n ≤ 4 then (w.modSec fun S => { S with ide := (n, k, false) :: rest n }).respond fn 0x7E 3 0 (toLe 1 n)
        else w.respond fn 0x7E 3 1 (toLe 1 n)
      | .setGo n => match held n with
        | some (_, k, _) => (w.modSec fun S => { S with ide := (n, k, true) :: rest n }).respond fn 0x7E 6 0 (toLe 1 n)
        | none => w.spdmError fn 1
      | .setStop n => match held n with
        | some (_, k, _) => (w.modSec fun S => { S with ide := (n, k, false) :: rest n }).respond fn 0x7E 6 0 (toLe 1 n)
        | none => w.spdmError fn 1

end Sys2Proof.Machine
end

