-- ==== Sys2Proof/Machine/Dispatch.lean ====
section
/-! DEFINITION. The meaning of every command: one arm for each row of the operation table. -/

namespace Sys2Proof.Machine

/-- What a command does to everything but the queue. -/
def exec (i : Instr) (s : State) : Host.Outcome State Fault Refusal :=
  match i with
  | .power3v3Rise => Sys2Proof.Machine.execPower3v3Rise s
  | .power12vRise => Sys2Proof.Machine.execPower12vRise s
  | .coreOk => Sys2Proof.Machine.execCoreOk s
  | .refclkStable => Sys2Proof.Machine.execRefclkStable s
  | .refclkLoss => Sys2Proof.Machine.execRefclkLoss s
  | .perstDeassert => Sys2Proof.Machine.execPerstDeassert s
  | .perstAssert => Sys2Proof.Machine.execPerstAssert s
  | .power12vLoss => Sys2Proof.Machine.execPower12vLoss s
  | .power3v3Loss => Sys2Proof.Machine.execPower3v3Loss s
  | .hotReset => Sys2Proof.Machine.execHotReset s
  | .linkDown => Sys2Proof.Machine.execLinkDown s
  | .flrPf => Sys2Proof.Machine.execFlrPf s
  | .flrVf k => Sys2Proof.Machine.execFlrVf k s
  | .polReset fn p v => Sys2Proof.Machine.execPolReset fn p v s
  | .secBootCmd fn v => Sys2Proof.Machine.execSecBootCmd fn v s
  | .firmwareVerifyDone => Sys2Proof.Machine.execFirmwareVerifyDone s
  | .hubFirmwareRunning => Sys2Proof.Machine.execHubFirmwareRunning s
  | .secSvnCmd fn v => Sys2Proof.Machine.execSecSvnCmd fn v s
  | .fuseProgramComplete ok => Sys2Proof.Machine.execFuseProgramComplete ok s
  | .lcSecure fn => Sys2Proof.Machine.execLcSecure fn s
  | .lcDebug fn tok => Sys2Proof.Machine.execLcDebug fn tok s
  | .lcReturn fn tok => Sys2Proof.Machine.execLcReturn fn tok s
  | .lcRetire fn => Sys2Proof.Machine.execLcRetire fn s
  | .getVersion fn => Sys2Proof.Machine.execGetVersion fn s
  | .getCapabilities fn ver => Sys2Proof.Machine.execGetCapabilities fn ver s
  | .negotiateAlgorithms fn alg => Sys2Proof.Machine.execNegotiateAlgorithms fn alg s
  | .getDigests fn ses => Sys2Proof.Machine.execGetDigests fn ses s
  | .getCertificate fn ses slot off len => Sys2Proof.Machine.execGetCertificate fn ses slot off len s
  | .challenge fn ses slot nonce => Sys2Proof.Machine.execChallenge fn ses slot nonce s
  | .getMeasurements fn ses idx sign nonce => Sys2Proof.Machine.execGetMeasurements fn ses idx sign nonce s
  | .keyExchange fn slot reqId peer => Sys2Proof.Machine.execKeyExchange fn slot reqId peer s
  | .finish fn ses verifies => Sys2Proof.Machine.execFinish fn ses verifies s
  | .keyUpdate fn ses op => Sys2Proof.Machine.execKeyUpdate fn ses op s
  | .heartbeat fn ses => Sys2Proof.Machine.execHeartbeat fn ses s
  | .endSession fn ses => Sys2Proof.Machine.execEndSession fn ses s
  | .ideKm fn ses msg => Sys2Proof.Machine.execIdeKm fn ses msg s
  | .doorbell fn off size v => Sys2Proof.Machine.execDoorbell fn off size v s
  | .entryFetch r => Sys2Proof.Machine.execEntryFetch r s
  | .hostReadCompletion tag res => Sys2Proof.Machine.execHostReadCompletion tag res s
  | .hostReadTimeout tag => Sys2Proof.Machine.execHostReadTimeout tag s
  | .ringEnable fn r v => Sys2Proof.Machine.execRingEnable fn r v s
  | .ringDisable fn r => Sys2Proof.Machine.execRingDisable fn r s
  | .ringDrainComplete r => Sys2Proof.Machine.execRingDrainComplete r s
  | .ringIfSel fn v => Sys2Proof.Machine.execRingIfSel fn v s
  | .nop r => Sys2Proof.Machine.execNop r s
  | .job r args => Sys2Proof.Machine.execJob r args s
  | .imageValidationDone p fx => Sys2Proof.Machine.execImageValidationDone p fx s
  | .sluWait r => Sys2Proof.Machine.execSluWait r s
  | .sluSignal r => Sys2Proof.Machine.execSluSignal r s
  | .sluSet r => Sys2Proof.Machine.execSluSet r s
  | .copy r => Sys2Proof.Machine.execCopy r s
  | .copyComplete r fx => Sys2Proof.Machine.execCopyComplete r fx s
  | .msixUnmask fn vec => Sys2Proof.Machine.execMsixUnmask fn vec s
  | .tableLoad r => Sys2Proof.Machine.execTableLoad r s
  | .tableLoadComplete r fx => Sys2Proof.Machine.execTableLoadComplete r fx s
  | .tableActivate r => Sys2Proof.Machine.execTableActivate r s
  | .keyInstall r blob => Sys2Proof.Machine.execKeyInstall r blob s
  | .keyErase r => Sys2Proof.Machine.execKeyErase r s
  | .channelEnable fn c v => Sys2Proof.Machine.execChannelEnable fn c v s
  | .channelDisable fn c => Sys2Proof.Machine.execChannelDisable fn c s
  | .hostWriteAperture fn ap data partBE fx => Sys2Proof.Machine.execHostWriteAperture fn ap data partBE fx s
  | .hostReadAperture fn ap len fx => Sys2Proof.Machine.execHostReadAperture fn ap len fx s
  | .vfEnable n => Sys2Proof.Machine.execVfEnable n s
  | .sluOwner fn j v => Sys2Proof.Machine.execSluOwner fn j v s
  | .sluGrant fn g v => Sys2Proof.Machine.execSluGrant fn g v s
  | .ctxEnable fn n v => Sys2Proof.Machine.execCtxEnable fn n v s
  | .ctxDisable fn n => Sys2Proof.Machine.execCtxDisable fn n s
  | .contextLoadComplete n => Sys2Proof.Machine.execContextLoadComplete n s
  | .warmupStart p args fx => Sys2Proof.Machine.execWarmupStart p args fx s
  | .warmupComplete p fx => Sys2Proof.Machine.execWarmupComplete p fx s
  | .segmentBarrier p => Sys2Proof.Machine.execSegmentBarrier p s
  | .jobFaultEnd p => Sys2Proof.Machine.execJobFaultEnd p s
  | .watchdogExpiry p => Sys2Proof.Machine.execWatchdogExpiry p s
  | .stepRelease p d q n => Sys2Proof.Machine.execStepRelease p d q n s
  | .nopStep p d q => Sys2Proof.Machine.execNopStep p d q s
  | .activate p d e => Sys2Proof.Machine.execActivate p d e s
  | .activateSmoothing p d => Sys2Proof.Machine.execActivateSmoothing p d s
  | .bankDrainComplete n => Sys2Proof.Machine.execBankDrainComplete n s
  | .matmul p d q fx ck => Sys2Proof.Machine.execMatmul p d q fx ck s
  | .distL2sq p d q fx ck => Sys2Proof.Machine.execDistL2sq p d q fx ck s
  | .distL1 p d q fx ck => Sys2Proof.Machine.execDistL1 p d q fx ck s
  | .maxplus p d q fx ck => Sys2Proof.Machine.execMaxplus p d q fx ck s
  | .minplus p d q fx ck => Sys2Proof.Machine.execMinplus p d q fx ck s
  | .hamming p d q fx ck => Sys2Proof.Machine.execHamming p d q fx ck s
  | .cmpcount p d q fx ck => Sys2Proof.Machine.execCmpcount p d q fx ck s
  | .repeatComplete site errs => Sys2Proof.Machine.execRepeatComplete site errs s
  | .substituteReady site => Sys2Proof.Machine.execSubstituteReady site s
  | .substituteComplete site errs rest => Sys2Proof.Machine.execSubstituteComplete site errs rest s
  | .targetedSelfTestEnd site phys res => Sys2Proof.Machine.execTargetedSelfTestEnd site phys res s
  | .fadd p d e fx => Sys2Proof.Machine.execFadd p d e fx s
  | .fsub p d e fx => Sys2Proof.Machine.execFsub p d e fx s
  | .fmul p d e fx => Sys2Proof.Machine.execFmul p d e fx s
  | .fma p d e fx => Sys2Proof.Machine.execFma p d e fx s
  | .fmin p d e fx => Sys2Proof.Machine.execFmin p d e fx s
  | .fmax p d e fx => Sys2Proof.Machine.execFmax p d e fx s
  | .clamp p d e fx => Sys2Proof.Machine.execClamp p d e fx s
  | .fabs p d e fx => Sys2Proof.Machine.execFabs p d e fx s
  | .fneg p d e fx => Sys2Proof.Machine.execFneg p d e fx s
  | .cmpEq p d e fx => Sys2Proof.Machine.execCmpEq p d e fx s
  | .cmpNe p d e fx => Sys2Proof.Machine.execCmpNe p d e fx s
  | .cmpLt p d e fx => Sys2Proof.Machine.execCmpLt p d e fx s
  | .cmpLe p d e fx => Sys2Proof.Machine.execCmpLe p d e fx s
  | .cmpGt p d e fx => Sys2Proof.Machine.execCmpGt p d e fx s
  | .cmpGe p d e fx => Sys2Proof.Machine.execCmpGe p d e fx s
  | .sel p d e fx => Sys2Proof.Machine.execSel p d e fx s
  | .cvt p d e fx => Sys2Proof.Machine.execCvt p d e fx s
  | .iadd p d e fx => Sys2Proof.Machine.execIadd p d e fx s
  | .isub p d e fx => Sys2Proof.Machine.execIsub p d e fx s
  | .imin p d e fx => Sys2Proof.Machine.execImin p d e fx s
  | .imax p d e fx => Sys2Proof.Machine.execImax p d e fx s
  | .bitAnd p d e fx => Sys2Proof.Machine.execBitAnd p d e fx s
  | .bitOr p d e fx => Sys2Proof.Machine.execBitOr p d e fx s
  | .bitXor p d e fx => Sys2Proof.Machine.execBitXor p d e fx s
  | .shl p d e fx => Sys2Proof.Machine.execShl p d e fx s
  | .shr p d e fx => Sys2Proof.Machine.execShr p d e fx s
  | .exp2 p d e fx => Sys2Proof.Machine.execExp2 p d e fx s
  | .exp p d e fx => Sys2Proof.Machine.execExp p d e fx s
  | .log2 p d e fx => Sys2Proof.Machine.execLog2 p d e fx s
  | .ln p d e fx => Sys2Proof.Machine.execLn p d e fx s
  | .rcp p d e fx => Sys2Proof.Machine.execRcp p d e fx s
  | .rsqrt p d e fx => Sys2Proof.Machine.execRsqrt p d e fx s
  | .sqrt p d e fx => Sys2Proof.Machine.execSqrt p d e fx s
  | .tanh p d e fx => Sys2Proof.Machine.execTanh p d e fx s
  | .erf p d e fx => Sys2Proof.Machine.execErf p d e fx s
  | .sigmoid p d e fx => Sys2Proof.Machine.execSigmoid p d e fx s
  | .silu p d e fx => Sys2Proof.Machine.execSilu p d e fx s
  | .softplus p d e fx => Sys2Proof.Machine.execSoftplus p d e fx s
  | .geluErf p d e fx => Sys2Proof.Machine.execGeluErf p d e fx s
  | .geluTanh p d e fx => Sys2Proof.Machine.execGeluTanh p d e fx s
  | .sin p d e fx => Sys2Proof.Machine.execSin p d e fx s
  | .cos p d e fx => Sys2Proof.Machine.execCos p d e fx s
  | .usern p d e fx => Sys2Proof.Machine.execUsern p d e fx s
  | .rmax p d e fx => Sys2Proof.Machine.execRmax p d e fx s
  | .rmin p d e fx => Sys2Proof.Machine.execRmin p d e fx s
  | .rsum p d e fx => Sys2Proof.Machine.execRsum p d e fx s
  | .rssq p d e fx => Sys2Proof.Machine.execRssq p d e fx s
  | .normRms p d e fx => Sys2Proof.Machine.execNormRms p d e fx s
  | .normLayer p d e fx => Sys2Proof.Machine.execNormLayer p d e fx s
  | .softmax p d e fx => Sys2Proof.Machine.execSoftmax p d e fx s
  | .rope p d e fx => Sys2Proof.Machine.execRope p d e fx s
  | .gather p d e fx => Sys2Proof.Machine.execGather p d e fx s
  | .scatter p d e fx => Sys2Proof.Machine.execScatter p d e fx s
  | .scatterAdd p d e fx => Sys2Proof.Machine.execScatterAdd p d e fx s
  | .topk p d e fx => Sys2Proof.Machine.execTopk p d e fx s
  | .quant p d e fx => Sys2Proof.Machine.execQuant p d e fx s
  | .dequant p d e fx => Sys2Proof.Machine.execDequant p d e fx s
  | .compress p d e fx => Sys2Proof.Machine.execCompress p d e fx s
  | .expand p d e fx => Sys2Proof.Machine.execExpand p d e fx s
  | .cntLoad p d e fx => Sys2Proof.Machine.execCntLoad p d e fx s
  | .cntStore p d e fx => Sys2Proof.Machine.execCntStore p d e fx s
  | .smax p d e fx => Sys2Proof.Machine.execSmax p d e fx s
  | .smin p d e fx => Sys2Proof.Machine.execSmin p d e fx s
  | .ssum p d e fx => Sys2Proof.Machine.execSsum p d e fx s
  | .snz p d e fx => Sys2Proof.Machine.execSnz p d e fx s
  | .sfirst p d e fx => Sys2Proof.Machine.execSfirst p d e fx s
  | .scnt p d e fx => Sys2Proof.Machine.execScnt p d e fx s
  | .sample p d e fx => Sys2Proof.Machine.execSample p d e fx s
  | .transform p d fx => Sys2Proof.Machine.execTransform p d fx s
  | .move p d q fx => Sys2Proof.Machine.execMove p d q fx s
  | .dmaSignal p d q => Sys2Proof.Machine.execDmaSignal p d q s
  | .coll p d q fx => Sys2Proof.Machine.execColl p d q fx s
  | .segmentReduce p c seg => Sys2Proof.Machine.execSegmentReduce p c seg s
  | .patrolRead site block fx => Sys2Proof.Machine.execPatrolRead site block fx s
  | .stackScrubComplete site => Sys2Proof.Machine.execStackScrubComplete site s
  | .polEnable fn p v => Sys2Proof.Machine.execPolEnable fn p v s
  | .polDisable fn p => Sys2Proof.Machine.execPolDisable fn p s
  | .polderReady p => Sys2Proof.Machine.execPolderReady p s
  | .dissolveComplete p => Sys2Proof.Machine.execDissolveComplete p s
  | .portEnable fn n v => Sys2Proof.Machine.execPortEnable fn n v s
  | .portDisable fn n => Sys2Proof.Machine.execPortDisable fn n s
  | .pcsLock n => Sys2Proof.Machine.execPcsLock n s
  | .pcsLoss n => Sys2Proof.Machine.execPcsLoss n s
  | .silenceTimeout n => Sys2Proof.Machine.execSilenceTimeout n s
  | .replayLimit n => Sys2Proof.Machine.execReplayLimit n s
  | .llAckTimer n => Sys2Proof.Machine.execLlAckTimer n s
  | .helloTimer n => Sys2Proof.Machine.execHelloTimer n s
  | .write n f fx => Sys2Proof.Machine.execWrite n f fx s
  | .readReq n f fx => Sys2Proof.Machine.execReadReq n f fx s
  | .readResp n f fx => Sys2Proof.Machine.execReadResp n f fx s
  | .frameSignal n f => Sys2Proof.Machine.execFrameSignal n f s
  | .frameSet n f => Sys2Proof.Machine.execFrameSet n f s
  | .ack n f => Sys2Proof.Machine.execAck n f s
  | .nak n f => Sys2Proof.Machine.execNak n f s
  | .collData n f fx => Sys2Proof.Machine.execCollData n f fx s
  | .collCredit n f => Sys2Proof.Machine.execCollCredit n f s
  | .collAbort n f => Sys2Proof.Machine.execCollAbort n f s
  | .hello n f => Sys2Proof.Machine.execHello n f s
  | .llAck n f => Sys2Proof.Machine.execLlAck n f s
  | .goodbye n f => Sys2Proof.Machine.execGoodbye n f s
  | .pfcFrame n prio pause => Sys2Proof.Machine.execPfcFrame n prio pause s
  | .retransmissionTimeout lp chip tc => Sys2Proof.Machine.execRetransmissionTimeout lp chip tc s
  | .connectionFailed lp chip tc => Sys2Proof.Machine.execConnectionFailed lp chip tc s
  | .operationTimeout op => Sys2Proof.Machine.execOperationTimeout op s
  | .nakWaitResend op => Sys2Proof.Machine.execNakWaitResend op s
  | .fibreLatchRelease site => Sys2Proof.Machine.execFibreLatchRelease site s
  | .fibreLatchEngage site => Sys2Proof.Machine.execFibreLatchEngage site s
  | .polColl fn p v => Sys2Proof.Machine.execPolColl fn p v s
  | .arbiterPeriod draws => Sys2Proof.Machine.execArbiterPeriod draws s
  | .railVoltageReached site => Sys2Proof.Machine.execRailVoltageReached site s
  | .droopClocking site isl => Sys2Proof.Machine.execDroopClocking site isl s
  | .clkPolLim fn j v => Sys2Proof.Machine.execClkPolLim fn j v s
  | .pwrMode fn v => Sys2Proof.Machine.execPwrMode fn v s
  | .inputLimiter us => Sys2Proof.Machine.execInputLimiter us s
  | .thermalThreshold k temp => Sys2Proof.Machine.execThermalThreshold k temp s
  | .thermalTrip k => Sys2Proof.Machine.execThermalTrip k s
  | .pwrTrip fn v => Sys2Proof.Machine.execPwrTrip fn v s
  | .runStart fn p => Sys2Proof.Machine.execRunStart fn p s
  | .serviceLoopRunning p => Sys2Proof.Machine.execServiceLoopRunning p s
  | .runStop fn p => Sys2Proof.Machine.execRunStop fn p s
  | .serviceLoopStopped p => Sys2Proof.Machine.execServiceLoopStopped p s
  | .serviceLoopPass p prompt => Sys2Proof.Machine.execServiceLoopPass p prompt s
  | .start r => Sys2Proof.Machine.execStart r s
  | .cancel r => Sys2Proof.Machine.execCancel r s
  | .sessionDrop r => Sys2Proof.Machine.execSessionDrop r s
  | .requestNop r => Sys2Proof.Machine.execRequestNop r s
  | .serviceJobComplete p => Sys2Proof.Machine.execServiceJobComplete p s
  | .handoffSend p sq => Sys2Proof.Machine.execHandoffSend p sq s
  | .seqPages p pair => Sys2Proof.Machine.execSeqPages p pair s
  | .sessionPages p pair => Sys2Proof.Machine.execSessionPages p pair s
  | .fetch p pair => Sys2Proof.Machine.execFetch p pair s
  | .miss p pair => Sys2Proof.Machine.execMiss p pair s
  | .donationRetry p pair => Sys2Proof.Machine.execDonationRetry p pair s
  | .remoteRetry p pair => Sys2Proof.Machine.execRemoteRetry p pair s
  | .bistSliceCmd fn n v => Sys2Proof.Machine.execBistSliceCmd fn n v s
  | .sliceCancel fn n => Sys2Proof.Machine.execSliceCancel fn n s
  | .sliceStart n => Sys2Proof.Machine.execSliceStart n s
  | .sliceComplete n results errs moved => Sys2Proof.Machine.execSliceComplete n results errs moved s
  | .sliceBudget n results errs run => Sys2Proof.Machine.execSliceBudget n results errs run s
  | .bistPackCmd fn v => Sys2Proof.Machine.execBistPackCmd fn v s
  | .packLoadComplete => Sys2Proof.Machine.execPackLoadComplete s
  | .bistRepairCmd fn v => Sys2Proof.Machine.execBistRepairCmd fn v s
  | .repairListLoadComplete => Sys2Proof.Machine.execRepairListLoadComplete s
  | .bistFuseCmd fn v => Sys2Proof.Machine.execBistFuseCmd fn v s
  | .registerWrite fn off size v => Sys2Proof.Machine.execRegisterWrite fn off size v s
  | .frameDiscard n f => Sys2Proof.Machine.execFrameDiscard n f s
  | .unsupportedRead fn off size => Sys2Proof.Machine.execUnsupportedRead fn off size s

end Sys2Proof.Machine
end

