-- ==== Sys2Proof/Machine/Tick.lean ====
section
/-! DEFINITION. What passing time does: the hub counter (R11, R342). -/

namespace Sys2Proof.Machine

/-- The hub counter runs, in the always-on domain: that has power, and the reference clock is stable (R342). -/
def Dev.hubRuns (d : Dev) : Bool := d.aon.rail33 && d.aon.refclk

/-- One nanosecond. -/
def State.tick (s : State) : State :=
  if s.dev.hubRuns then
    { s with dev := { s.dev with aon := { s.dev.aon with hub := (s.dev.aon.hub + 1) % 2 ^ 64 } } }
  else s

end Sys2Proof.Machine
end

