-- ==== Sys2Proof/Safety.lean ====
section
/-! DEFINITION. What counts as a sound state of the device, and the frames that claims use. -/

namespace Sys2Proof.Machine

/-- The memories are in canonical form. -/
def State.memOk (s : State) : Prop := s.mem.wf = true

/-- No fuse of `a` is cleared in `b`, and the values made at manufacture are the same (R390). -/
def Fuses.le (a b : Fuses) : Prop :=
  a.uds = b.uds ∧ a.ts = b.ts ∧ a.signerDig = b.signerDig ∧ a.signerRev = b.signerRev ∧ a.serviceDig = b.serviceDig ∧
    (∀ i, a.svn.testBit i = true → b.svn.testBit i = true) ∧ (a.secured = true → b.secured = true) ∧
    (a.returned = true → b.returned = true) ∧ (a.retired = true → b.retired = true) ∧
    (∀ i, a.repair.testBit i = true → b.repair.testBit i = true)

/-- `b` is `a` after events may have been posted (R222) and the context scheduler has done its work (R245 to R250): EVENT rings advance, contexts are
loaded, saved and counted, reads of save records are issued, messages are sent, and nothing else changes. -/
structure Dev.Posted (a b : Dev) : Prop where
  rest : b = { a with rings := b.rings, ctxs := b.ctxs, pols := b.pols, hub := b.hub, out := b.out }
  rings : ∀ r, b.ring r = { a.ring r with tail := (b.ring r).tail, seq := (b.ring r).seq, since := (b.ring r).since }
  others : ∀ r, (a.ring r).kind ≠ 4 → b.ring r = a.ring r
  ctxs : ∀ n, b.ctx n =
    { a.ctx n with
      res := (b.ctx n).res, slot := (b.ctx n).slot, gen := (b.ctx n).gen, record := (b.ctx n).record, act := (b.ctx n).act
      since := (b.ctx n).since, pend := (b.ctx n).pend }
  pols : ∀ p, b.pol p =
    { a.pol p with
      evictBlocked := (b.pol p).evictBlocked, starving := (b.pol p).starving, starved := (b.pol p).starved, tblCtx := (b.pol p).tblCtx }
  hub : b.hub =
    { a.hub with lost := b.hub.lost, vecs := b.hub.vecs, reads := b.hub.reads, readTag := b.hub.readTag, pendCtr := b.hub.pendCtr }

/-- `t` is `s` with device `d` and memories `m`, but for what posting events and scheduling contexts change. -/
def State.Becomes (s : State) (d : Dev) (m : Mem) (t : State) : Prop :=
  t.pending = s.pending ∧ t.fuses = s.fuses ∧ t.mem = m ∧ d.Posted t.dev

/-! ## What a command does -/

/-- The command `c` at `s` leaves the device `d` and the memories `m`, but for what posting events and scheduling contexts change. -/
def Does (c : Instr) (s : State) (d : Dev) (m : Mem) : Prop := ∃ t, exec c s = .next t ∧ s.Becomes d m t

/-- The command `c` at `s` leaves exactly the device `d` and the memories `m`. -/
def Goes (c : Instr) (s : State) (d : Dev) (m : Mem) : Prop := exec c s = .next { s with dev := d, mem := m }

/-- The command `c` at `s` does the work `w`, after which only events are posted and contexts scheduled. -/
def Runs (c : Instr) (s : State) (w : W) : Prop := Does c s w.d (s.mem.applyAll w.ops)
/-- The command `c` at `s` does exactly the work `w`. -/
def Exactly (c : Instr) (s : State) (w : W) : Prop := exec c s = .next (s.commit w)
/-- Function `fn` reaches a register of what `p?` owns: the link is up, the function is enabled, firmware is RUNNING, and the path is "PF, D" (R195, R437). -/
def Reaches (s : State) (fn : Nat) (p? : Option Nat) : Prop :=
  s.dev.hostReach fn = true ∧ s.dev.running = true ∧ s.dev.reachesPfD fn p? = true
/-- An access at offset `off` of function `fn` is ignored, and says so (R437). -/
def refusedAt (s : State) (fn off : Nat) : W :=
  s.w.modHub fun h => { h with ignored := true, errFn := fn, errWrite := true, errOff := off }

/-! ## Descriptors -/

/-- The entry `e` at the head of SUBMIT ring `r` can be taken, its completions going to a COMPLETE ring. -/
structure Takes (s : State) (r : Nat) (e : Bytes) : Prop where
  able : s.dev.takeable r = some e
  cq : (s.dev.ring (s.dev.ring r).cq).kind = 1

/-- R204, R205, R209, R217, R220, R230: `d` is `b` after ring `r` has taken the entry `e`, its new head is written to its shadow, and the entry has completed with `c`: its
record stands in the next entry of its COMPLETE ring, unless it is QUIET and OK; the ring is free for its next entry. -/
structure Completes (b d : Dev) (r : Nat) (e : Bytes) (c : Compl) : Prop where
  ring : d.ring r = { b.ring r with head := u32 ((b.ring r).head + 1), seq := (b.ring r).seq + 1, batch := (b.ring r).batch.tail, desc := none }
  shadow : .hostWrite (b.ring r).shadow (toLe 4 (u32 ((b.ring r).head + 1)) ++ toLe 4 0) ∈ d.out
  record : ¬ (dQuiet e = true ∧ c.status = stOK) →
    .hostWrite ((b.ring (b.ring r).cq).entryAddr (b.ring (b.ring r).cq).tail)
      (recordBytes r (b.ring r).size { bytes := e, seq := (b.ring r).seq } ((b.ring (b.ring r).cq).phase (b.ring (b.ring r).cq).tail) c) ∈ d.out ∧
    (d.ring (b.ring r).cq).tail = u32 ((b.ring (b.ring r).cq).tail + 1)
  quiet : dQuiet e = true → c.status = stOK → d.ring (b.ring r).cq = b.ring (b.ring r).cq
  cq : d.ring (b.ring r).cq =
    { b.ring (b.ring r).cq with tail := (d.ring (b.ring r).cq).tail, since := (d.ring (b.ring r).cq).since }
  others : ∀ i, i ≠ r → i ≠ (b.ring r).cq → d.ring i = b.ring i
  kept : b.out <:+ d.out
  rest : d = { b with rings := d.rings, hub := { b.hub with vecs := d.hub.vecs }, out := d.out }

/-- The same for a descriptor `D` of ring `r` that was in progress. -/
structure Finishes (b d : Dev) (r : Nat) (D : Desc) (c : Compl) : Prop where
  ring : d.ring r = { b.ring r with desc := none }
  record : ¬ (dQuiet D.bytes = true ∧ c.status = stOK) →
    .hostWrite ((b.ring (b.ring r).cq).entryAddr (b.ring (b.ring r).cq).tail)
      (recordBytes r (b.ring r).size D ((b.ring (b.ring r).cq).phase (b.ring (b.ring r).cq).tail) c) ∈ d.out ∧
    (d.ring (b.ring r).cq).tail = u32 ((b.ring (b.ring r).cq).tail + 1)
  cq : d.ring (b.ring r).cq = { b.ring (b.ring r).cq with
    tail := (d.ring (b.ring r).cq).tail, since := (d.ring (b.ring r).cq).since, reserved := (b.ring (b.ring r).cq).reserved - 1 }
  others : ∀ i, i ≠ r → i ≠ (b.ring r).cq → d.ring i = b.ring i
  kept : b.out <:+ d.out
  rest : d = { b with rings := d.rings, hub := { b.hub with vecs := d.hub.vecs }, out := d.out }

/-- The command `cmd` takes the entry `e` of ring `r`, does what makes the device `b` and the memories `m` of it, and completes it with `c`. -/
def Ends (cmd : Instr) (s : State) (b : Dev) (m : Mem) (r : Nat) (e : Bytes) (c : Compl) : Prop :=
  ∃ d t, exec cmd s = .next t ∧ Completes b d r e c ∧ s.Becomes d m t

/-- Ring `r` has descriptor `D` in progress, and its completions go to a COMPLETE ring. -/
structure Busy (s : State) (r : Nat) (D : Desc) : Prop where
  desc : (s.dev.ring r).desc = some D
  kind : (s.dev.ring r).kind = 0
  cq : (s.dev.ring (s.dev.ring r).cq).kind = 1

/-- R187, R217, R219, R258: the job `j` of polder `p` has ended with a completion of which `ok` holds: its image is released if it asks for that, the descriptor of its
ring has completed, and its context has counted it. -/
def EndsJob (s t : State) (p : Nat) (j : Job) (ok : Compl → Prop) : Prop :=
  (t.dev.pol p).job = none ∧
  (t.dev.pol p).imgs = (if j.release then (s.dev.pol p).imgs.filter (·.addr != j.img) else (s.dev.pol p).imgs) ∧
  ∀ (r : Nat) (D : Desc), j.ring = some r → Busy s r D → dType D.bytes = 1 →
    let Q := s.dev.ring (s.dev.ring r).cq
    (t.dev.ring r).desc = none ∧ ∃ c, ok c ∧
      (dQuiet D.bytes = true ∧ c.status = stOK ∨
        ∃ i, .hostWrite (Q.entryAddr i) (recordBytes r (s.dev.ring r).size D (Q.phase i) c) ∈ t.dev.out) ∧
      (t.dev.ctx j.ctx).ok = (if c.status = stOK then sat64 ((s.dev.ctx j.ctx).ok + 1) else (s.dev.ctx j.ctx).ok) ∧
      (t.dev.ctx j.ctx).err = (if c.status = stOK then (s.dev.ctx j.ctx).err else sat64 ((s.dev.ctx j.ctx).err + 1))

/-- The entry `e` of ring `r` passes steps 1 and 2 of R208. -/
def Passes (s : State) (r : Nat) (e : Bytes) (layout : Bool) : Prop :=
  s.dev.verOk (s.dev.ringFn r) (dVer e) = true ∧ headOk e = true ∧ layout = true

/-! ## Steps of a running job -/

/-- A step of queue `q` of logical die `d` that has been issued (R61, R170, R172): its wait tokens are taken, and its queue is busy or, of an array,
stands at the next pass. -/
def State.taken (s : State) (p d q : Nat) (j : Job) (b : Bytes) : W :=
  (s.w.modDie (j.site d) fun D => { D with tokens := takeTokens D.tokens ((j.queue d q).needs (stepWaits b)) }).modJob p fun j =>
    j.setQueue d q fun Q => Q.issue q

/-- The same step once its operands are read: the corrections that this met are counted (R142, R146, R151, R221). -/
def State.issued (s : State) (p d q : Nat) (j : Job) (b : Bytes) (fx : MemFx) : W := (s.taken p d q j b).jobFx p fx

/-- `j` is polder `p`'s running job, the step `b` stands at the head of queue `q` of its logical die `d` and has every token it waits for, and
reading its operands meets no error that it cannot recover from. -/
structure State.Ready (s : State) (p d q : Nat) (j : Job) (b : Bytes) (fx : MemFx) : Prop where
  mem : s.memOk
  head : s.w.headStep p d q = some (j, b)
  waits : tokensReady (s.dev.die (j.site d)).tokens ((j.queue d q).needs (stepWaits b)) = true
  fine : fx.fail = .none

/-- The rows that a step is carried out on (R96): those of its region, or the count that it names, which its maximum allows. -/
def State.rowsAre (s : State) (j : Job) (d : Nat) (b : Bytes) (rows max n : Nat) : Prop :=
  match stepCount b with
  | none => n = rows
  | some c => n = tget 0 (s.dev.die (j.site d)).counts c ∧ n ≤ max

/-- Rows and columns of a vector step's region (R82): of its descriptor, or one element for a descriptor that is absent or IMM. -/
def State.regionOf (s : State) (j : Job) (d i : Nat) : Nat × Nat :=
  if i ≥ 0xFFFE then (1, 1) else ((s.w.tile j d i).rows, (s.w.tile j d i).cols)

/-- What vector engine `e` sees of a step on `n` rows of `cols` columns. -/
def State.vecView (s : State) (p d e : Nat) (j : Job) (b : Bytes) (fx : MemFx) (n cols : Nat) : VC :=
  { w := s.issued p d (8 + e) j b fx, p := p, j := j, d := d, e := e, st := vstepOf b, ftz := j.ftzOf 1, rows := n, cols := cols }

/-- A VECTOR step of engine `e` that is ready, on `n` rows of the region of descriptor `reg`, its direct operands in the die's own scratchpad
(R143). -/
structure State.VecReady (s : State) (p d e : Nat) (j : Job) (b : Bytes) (fx : MemFx) (reg n : Nat) : Prop where
  ready : s.Ready p d (8 + e) j b fx
  kind : stepKind b = 2
  engine : e < 2
  rows : s.rowsAre j d b (s.regionOf j d reg).1 (vstepOf b).cmax n
  some : 0 < n
  own : s.w.ownTiles j d [(vstepOf b).src0, (vstepOf b).src1, (vstepOf b).src2, (vstepOf b).dst, (vstepOf b).dst2] = true

/-- Every byte of these writes lies where the polder may write (R140, R143, R159). -/
def Dev.mayWrite (d : Dev) (p : Nat) (l : List (Nat × Bytes)) : Prop :=
  ∀ x ∈ l, d.reach .dma p (localPart x.1) x.2.length true = (x.2.length, none)

/-- What these writes do to memory: a global address of the own chip is served locally (R140). -/
def writeOps (l : List (Nat × Bytes)) : List MemOp := l.map fun x => .write (localPart x.1) x.2

/-- `t` is `s` after a step of queue `q` has been issued and carried out: the bytes `writes` stand in memory and no other byte has changed, the
engine has raised the flags `fl` (R52), `more` has been done to the device, and nothing else is different. -/
structure State.StepDone (s t : State) (p d q : Nat) (j : Job) (b : Bytes) (fx : MemFx) (writes : List (Nat × Bytes)) (fl : Nat)
    (more : W → W) : Prop where
  pending : t.pending = s.pending
  fuses : t.fuses = s.fuses
  mem : t.mem = s.mem.applyAll (writeOps writes)
  others : ∀ a, (∀ x ∈ writes, a < localPart x.1 ∨ localPart x.1 + x.2.length ≤ a) → t.mem.byte a = s.mem.byte a
  dev : t.dev = (more ((s.issued p d q j b fx).raiseFlags p d q fl)).d

/-- `t` is `s` after the step at the head of queue `q` has been issued and has faulted at once (R186): nothing is written, the fault is listed, no
token is released, and the queue goes on as if the step had not faulted. -/
structure State.StepFaulted (s t : State) (p d q : Nat) (j : Job) (b : Bytes) (status detail : Nat) : Prop where
  pending : t.pending = s.pending
  fuses : t.fuses = s.fuses
  mem : t.mem = s.mem
  dev : t.dev = ((s.taken p d q j b).stepFault p d q status detail).d
  fault : (t.dev.pol p).job.map (·.faults) =
    some (j.faults ++ [{ die := d, queue := q, pos := (j.queue d q).pos, status := status, detail := detail }])

/-- What no vector or transform step changes: everything but memory that its polder may write, the polder's job and error counters, and tokens, counts,
summary words, engine flags and correction counters of dies. Where its reading meets a memory error, the error is reported too, on an EVENT ring. -/
structure State.StepFrame (s t : State) (p : Nat) (fx : MemFx) : Prop where
  pending : t.pending = s.pending
  fuses : t.fuses = s.fuses
  dev : ({ s.dev with dies := t.dev.dies, pols := t.dev.pols } : Dev).Posted t.dev
  fine : fx.fail = .none → t.dev = { s.dev with dies := t.dev.dies, pols := t.dev.pols }
  others : ∀ i, i ≠ p → t.dev.pol i = s.dev.pol i
  pol : t.dev.pol p = { s.dev.pol p with job := (t.dev.pol p).job, errCnt := (t.dev.pol p).errCnt }
  dies : ∀ i, t.dev.die i =
    { s.dev.die i with
      tokens := (t.dev.die i).tokens, counts := (t.dev.die i).counts, sums := (t.dev.die i).sums, flags := (t.dev.die i).flags
      spEcc := (t.dev.die i).spEcc, stackEcc := (t.dev.die i).stackEcc }
  mem : s.memOk → ∀ a, (∃ det, s.dev.access .dma p a true = .error det) → t.mem.byte a = s.mem.byte a

/-! ## Resets -/

/-- What a warm device reset leaves (R421, R426): everything but what the rule keeps stands at its reset value; stacks are DIRTY; the quarantine state of arrays
and dies, the evidence sequence number, the formation generations and the hub counter are kept; the sealing key is drawn afresh. -/
structure State.WarmReset (s t : State) : Prop where
  pending : t.pending = s.pending
  fuses : t.fuses = s.cutFuses
  burnt : s.fuses.le t.fuses
  rings : t.dev.rings = []
  sluices : t.dev.sluices = []
  grants : t.dev.grants = []
  ctxs : t.dev.ctxs = []
  banks : t.dev.banks = []
  evids : t.dev.evids = []
  chans : ∀ c, c ≠ 0 → t.dev.chan c = {}
  pols : ∀ p, t.dev.pol p = { formGen := (s.dev.pol p).formGen }
  hub : t.dev.hub = { evidSeq := s.dev.hub.evidSeq, readTag := s.dev.hub.readTag }
  dirty : ∀ i, s.dev.isStacked i = true → (t.dev.die i).stack = 1
  work : ∀ i, (t.dev.die i).arrays = [] ∧ (t.dev.die i).tokens = [] ∧ (t.dev.die i).counts = [] ∧ (t.dev.die i).sums = [] ∧
    (t.dev.die i).episodes = []
  quar : ∀ i n, (s.dev.die i).quar.testBit n = true → (t.dev.die i).quar.testBit n = true
  gone : ∀ i, (s.dev.die i).withdrawn = true → (t.dev.die i).withdrawn = true
  fabric : t.dev.fabric = { ports := t.dev.fabric.ports }
  soft : t.dev.bist = { soft := s.dev.bist.soft, packVer := s.dev.bist.packVer }
  sealed : t.dev.sealEpoch = s.dev.sealEpoch + 1
  counter : t.dev.aon.hub = s.dev.aon.hub
  rebuilt : s.dev.sec.rebuildInt = true → t.dev.sec.rebuildInt = true

/-- The boot ROM has started (R391, R417): the fuse shadow is what the fuses hold; the life-cycle state is theirs; a RETIRED device halts, any other waits for an
image with channel 0 ready to take it and the firmware store zero. -/
structure State.Booted (t : State) : Prop where
  link : t.dev.aon.linkUp = true
  shadow : t.dev.aon.shadow = t.fuses ∧ t.dev.aon.sensed = true
  lc : t.dev.sec.lc = lcOf t.fuses
  halted : t.fuses.retired = true → t.dev.sec.boot = 4
  waits : t.fuses.retired = false → t.dev.sec.boot = 1 ∧ t.dev.chan 0 = { ptr := 0, limit := storeSize, mode := 0, st := 1 } ∧
    ∀ a, storeBase ≤ a → a < storeBase + storeSize → t.mem.byte a = 0

end Sys2Proof.Machine
end

