-- ==== Sys2Proof/Certificates/Slice0/Obligations.lean ====
section
/-! DEFINITION. The statements about the device. Each names the rules of the manual that it formalises; helper definitions that several statements
share stand before them. -/

open Sys2Proof Sys2Proof.Machine

namespace Sys2Proof.Claims

/-! ## Vector steps -/

/-- A command of a vector engine: polder, logical die, engine, what the memories do. -/
abbrev VecCmd := Nat → Nat → Nat → MemFx → Instr

/-- The command `mk` carries out a ready step that `want` accepts on the region of the descriptor `region`: `body` gives its writes and flags,
`more` what it changes besides memory. -/
def VecRuns (mk : VecCmd) (want : Bytes → Bool) (region : VStep → Nat) (body : VC → VOut) (more : VC → W → W) : Prop :=
  ∀ (s : State) (p d e n : Nat) (j : Job) (b : Bytes) (fx : MemFx),
    s.VecReady p d e j b fx (region (vstepOf b)) n → want b = true →
    let c := s.vecView p d e j b fx n (s.regionOf j d (region (vstepOf b))).2
    (body c).err = none → s.dev.mayWrite p (body c).writes →
    ∃ t, exec (mk p d e fx) s = .next t ∧ s.StepDone t p d (8 + e) j b fx (body c).writes (body c).flags (more c)

/-- The writes of a result whose rows are `res`, tile by tile (R81): row tiles of `tr` rows in ascending order, in each the column tiles of `tc`
columns in ascending order, and in each of these its rows. -/
def elTiles (c : VC) (res : Nat → List CF) : List (Nat × Bytes) :=
  let t := c.tile c.st.dst
  (chunksOf c.st.tr (ceilDiv c.rows c.st.tr) (List.range c.rows)).flatMap fun tile => (List.range (ceilDiv c.cols c.st.tc)).flatMap fun k =>
    tile.map fun r => (c.j.rowAddr t r + k * c.st.tc * t.f.w / 8, pack t.f.w ((((res r).drop (k * c.st.tc)).take c.st.tc).map Prod.fst))

/-- The same for rows that are written as `writes` says, each row's bytes cut at the column tiles (R81). -/
def cutTiles (c : VC) (writes : Nat → List (Nat × Bytes)) : List (Nat × Bytes) :=
  (chunksOf c.st.tr (ceilDiv c.rows c.st.tr) (List.range c.rows)).flatMap fun tile =>
    colTiles (c.st.tc * (c.tile c.st.dst).f.w) (tile.map writes)

/-- Integer sources of a step (R87), IMM included. -/
def intSource (c : VC) (i r : Nat) : Except StepErr (List Int) :=
  if i = 0xFFFE then .ok (List.replicate c.cols (sext 32 c.st.imm)) else (c.codes i r).map fun l => l.map (intCode (c.tile i).f)

/-- The command `mk` carries out a ready step with opcode `op` whose row `r` of the result is `row c r xs`, where `xs` are the rows `r` of its
first `m` sources as `get` reads them, each as wide as the region or of one column (R82). -/
def RowsRun {α : Type} (mk : VecCmd) (want : Bytes → Bool) (m : Nat) (get : VC → Nat → Nat → Except StepErr (List α))
    (row : VC → List (List α) → List CF) : Prop :=
  ∀ (s : State) (p d e n : Nat) (j : Job) (b : Bytes) (fx : MemFx) (xs : Nat → Nat → List α),
    s.VecReady p d e j b fx (vstepOf b).src0 n → want b = true →
    let c := s.vecView p d e j b fx n (s.regionOf j d (vstepOf b).src0).2
    let srcs := [(vstepOf b).src0, (vstepOf b).src1, (vstepOf b).src2].take m
    let res := fun r => row c (srcs.map fun i => xs i r)
    (∀ i ∈ srcs, i = 0xFFFE ∨ (c.tile i).cols = 1 ∨ (c.tile i).cols = c.cols) →
    (∀ i ∈ srcs, ∀ r < n, get c i r = .ok (xs i r)) → s.dev.mayWrite p (elTiles c res) →
    ∃ t, exec (mk p d e fx) s = .next t ∧ s.StepDone t p d (8 + e) j b fx (elTiles c res) (flagsOf ((List.range n).flatMap res)) id

/-- A row of a float element-wise step (R86, R88): column by column, `g` of the widened sources, converted to the output format. -/
def floatRow (g : Bool → List Nat → CF) (out : Nat → Bool → Bool → CF → CF) (c : VC) (xs : List (List CF)) : List CF :=
  (List.range c.cols).map fun k =>
    let a := xs.map fun l => lget (0, 0) l k
    out c.st.outFmt c.ftz c.st.e4nan ((g c.ftz (a.map Prod.fst)).1, (g c.ftz (a.map Prod.fst)).2 ||| flagsOf a)

/-- A row of an integer element-wise step (R87): `g` of the two sources, saturated to the output format. -/
def intRow (g : Int → Int → Int × Nat) (c : VC) (xs : List (List Int)) : List CF :=
  match xs with
  | [a, b] => List.zipWith (fun x y => narrow c.st.outFmt (g x y)) a b
  | _ => []

/-- A row of a special function (R107 to R110): `g` of the widened source, its exact result rounded once to the output format. -/
def funcRow (g : VC → FV → XR × Nat) (c : VC) (xs : List CF) : List CF :=
  xs.map fun x =>
    let y := g c (decodeF fmtFP32 x.1)
    let z := convertOut c.st.outFmt c.ftz c.st.e4nan y.1
    (z.1, x.2 ||| y.2 ||| z.2)

def opIs (op : Nat) (b : Bytes) : Bool := stepOp b == op
/-- CMP with relation `rel`, SUMMARY of kind `k`, and a step told from another by bit `i` of X. -/
def relIs (rel : Nat) (b : Bytes) : Bool := stepOp b == 0x0A && stepX b % 8 == rel
def sumIs (k : Nat) (b : Bytes) : Bool := stepOp b == 0x80 && stepX b % 8 == k
def opFlag (op i : Nat) (set : Bool) (b : Bytes) : Bool := stepOp b == op && (stepX b).testBit i == set
/-- A float step with opcode `op` and `m` sources. -/
def EwRuns (mk : VecCmd) (op m : Nat) (g : Bool → List Nat → CF) : Prop := RowsRun mk (opIs op) m VC.floats (floatRow g outCode)
/-- A comparison: opcode 0x0A with its relation in X [2:0]; its U8 result is written as it is. -/
def CmpRuns (mk : VecCmd) (rel : Nat) : Prop :=
  RowsRun mk (relIs rel) 2 VC.floats (floatRow (bin (fCmp rel)) fun _ _ _ x => x)
/-- An integer step. -/
def IwRuns (mk : VecCmd) (op : Nat) (g : Int → Int → Int × Nat) : Prop := RowsRun mk (opIs op) 2 intSource (intRow g)
/-- A special function of the active bank's tables. -/
def SfuRuns (mk : VecCmd) (op : Nat) (fn : Fn) : Prop :=
  ∀ (s : State) (p d e n : Nat) (j : Job) (b : Bytes) (fx : MemFx) (xs : Nat → List CF),
    s.VecReady p d e j b fx (vstepOf b).src0 n → opIs op b = true →
    let c := s.vecView p d e j b fx n (s.regionOf j d (vstepOf b).src0).2
    let res := fun r => funcRow (fun c => sfu c.T fn) c (xs r)
    let writes := cutTiles c fun r => [c.put (vstepOf b).dst r ((res r).map Prod.fst)]
    (∀ r < n, c.floats (vstepOf b).src0 r = .ok (xs r)) → s.dev.mayWrite p writes →
    ∃ t, exec (mk p d e fx) s = .next t ∧ s.StepDone t p d (8 + e) j b fx writes (flagsOf ((List.range n).flatMap res)) id

/-- A row reduction (R89): the source's row under its mask, reduced left to right, converted to the output format. -/
def RedRuns (mk : VecCmd) (op : Nat) (k : Red) : Prop :=
  ∀ (s : State) (p d e n : Nat) (j : Job) (b : Bytes) (fx : MemFx) (xs : Nat → List CF) (ms : Nat → List Bool),
    s.VecReady p d e j b fx (vstepOf b).src0 n → opIs op b = true →
    let c := s.vecView p d e j b fx n (s.regionOf j d (vstepOf b).src0).2
    let res := fun r =>
      let kept := (((xs r).zip (ms r)).filter Prod.snd).map Prod.fst
      let y := reduceRow k c.ftz (kept.map Prod.fst)
      outCode c.st.outFmt c.ftz c.st.e4nan (y.1, y.2 ||| flagsOf kept)
    let writes := cutTiles c fun r => [c.put (vstepOf b).dst r [(res r).1]]
    (∀ r < n, c.floats (vstepOf b).src0 r = .ok (xs r) ∧ c.mask (vstepOf b).src1 r = .ok (ms r)) → s.dev.mayWrite p writes →
    ∃ t, exec (mk p d e fx) s = .next t ∧ s.StepDone t p d (8 + e) j b fx writes (flagsOf ((List.range n).map res)) id

/-- A summary word (R101, R102) of kind `k`: `g` of all elements of the region in row-major order, which go to word P [2:0] of the engine with
its sequence number raised and VALID set; no byte of memory changes. -/
def SumRuns (mk : VecCmd) (k fmt : Nat) (g : Bool → List Nat → CF) : Prop :=
  ∀ (s : State) (p d e n : Nat) (j : Job) (b : Bytes) (fx : MemFx) (xs : Nat → List CF),
    s.VecReady p d e j b fx (vstepOf b).src0 n → sumIs k b = true →
    let c := s.vecView p d e j b fx n (s.regionOf j d (vstepOf b).src0).2
    let all := (List.range n).flatMap xs
    let y := g c.ftz (all.map Prod.fst)
    (∀ r < n, c.floats (vstepOf b).src0 r = .ok (xs r)) →
    ∃ t, exec (mk p d e fx) s = .next t ∧ s.StepDone t p d (8 + e) j b fx [] (y.2 ||| flagsOf all) (c.setSummary fmt y.1) ∧
      t.dev.die (j.site d) = { (s.issued p d (8 + e) j b fx).d.die (j.site d) with
        flags := (t.dev.die (j.site d)).flags
        sums := tmod {} (s.dev.die (j.site d)).sums (8 * e + (vstepOf b).p % 8) fun S =>
          { seq := (S.seq + 1) % 65536, valid := true, value := y.1 % 2 ^ 32, fmt := fmt } }

/-- Every command of a vector engine but USERn, with the steps that it carries out (R176). -/
def vecCmds : List (VecCmd × (Bytes → Bool)) :=
  [
    (Instr.fadd, opIs 0x01), (Instr.fsub, opIs 0x02), (Instr.fmul, opIs 0x03), (Instr.fma, opIs 0x04), (Instr.fmin, opIs 0x05), (Instr.fmax, opIs 0x06), (Instr.clamp, opIs 0x07),
    (Instr.fabs, opIs 0x08), (Instr.fneg, opIs 0x09), (Instr.sel, opIs 0x0B), (Instr.cvt, opIs 0x0C), (Instr.iadd, opIs 0x10), (Instr.isub, opIs 0x11), (Instr.imin, opIs 0x12),
    (Instr.imax, opIs 0x13), (Instr.bitAnd, opIs 0x14), (Instr.bitOr, opIs 0x15), (Instr.bitXor, opIs 0x16), (Instr.shl, opIs 0x17), (Instr.shr, opIs 0x18),
    (Instr.exp2, opIs 0x20), (Instr.exp, opIs 0x21), (Instr.log2, opIs 0x22), (Instr.ln, opIs 0x23), (Instr.rcp, opIs 0x24), (Instr.rsqrt, opIs 0x25), (Instr.sqrt, opIs 0x26),
    (Instr.tanh, opIs 0x27), (Instr.erf, opIs 0x28), (Instr.sigmoid, opIs 0x29), (Instr.silu, opIs 0x2A), (Instr.softplus, opIs 0x2B), (Instr.geluErf, opIs 0x2C),
    (Instr.geluTanh, opIs 0x2D), (Instr.sin, opIs 0x2E), (Instr.cos, opIs 0x2F), (Instr.rmax, opIs 0x40), (Instr.rmin, opIs 0x41), (Instr.rsum, opIs 0x42), (Instr.rssq, opIs 0x43),
    (Instr.softmax, opIs 0x50), (Instr.rope, opIs 0x58), (Instr.gather, opIs 0x60), (Instr.topk, opIs 0x68), (Instr.quant, opIs 0x70), (Instr.dequant, opIs 0x71),
    (Instr.compress, opIs 0x78), (Instr.expand, opIs 0x79), (Instr.cntLoad, opIs 0x7A), (Instr.cntStore, opIs 0x7B), (Instr.sample, opIs 0x88)] ++
  [
    (Instr.cmpEq, relIs 0), (Instr.cmpNe, relIs 1), (Instr.cmpLt, relIs 2), (Instr.cmpLe, relIs 3), (Instr.cmpGt, relIs 4), (Instr.cmpGe, relIs 5), (Instr.smax, sumIs 0),
    (Instr.smin, sumIs 1), (Instr.ssum, sumIs 2), (Instr.snz, sumIs 3), (Instr.sfirst, sumIs 4), (Instr.scnt, sumIs 5), (Instr.normRms, opFlag 0x48 0 false),
    (Instr.normLayer, opFlag 0x48 0 true), (Instr.scatter, opFlag 0x61 1 false), (Instr.scatterAdd, opFlag 0x61 1 true)]

end Sys2Proof.Claims

open Sys2Proof.Claims

/-- R86: the float element-wise commands, each under its opcode of R176. -/
def Obligations.ElementwiseFloat : Prop :=
  EwRuns .fadd 0x01 2 (bin fAdd) ∧ EwRuns .fsub 0x02 2 (bin fSub) ∧ EwRuns .fmul 0x03 2 (bin fMul) ∧ EwRuns .fma 0x04 3 (tern fFma) ∧
  EwRuns .fmin 0x05 2 (bin fMin) ∧ EwRuns .fmax 0x06 2 (bin fMax) ∧ EwRuns .clamp 0x07 3 (tern fClamp) ∧ EwRuns .fabs 0x08 1 (una fAbs) ∧
  EwRuns .fneg 0x09 1 (una fNeg) ∧ CmpRuns .cmpEq 0 ∧ CmpRuns .cmpNe 1 ∧ CmpRuns .cmpLt 2 ∧ CmpRuns .cmpLe 3 ∧ CmpRuns .cmpGt 4 ∧
  CmpRuns .cmpGe 5 ∧ EwRuns .sel 0x0B 3 (tern fSel) ∧ EwRuns .cvt 0x0C 1 (una fCvt)

/-- R87: the integer element-wise commands. -/
def Obligations.ElementwiseInteger : Prop :=
  IwRuns .iadd 0x10 iAdd ∧ IwRuns .isub 0x11 iSub ∧ IwRuns .imin 0x12 iMin ∧ IwRuns .imax 0x13 iMax ∧ IwRuns .bitAnd 0x14 (iBits (· &&& ·)) ∧
  IwRuns .bitOr 0x15 (iBits (· ||| ·)) ∧ IwRuns .bitXor 0x16 (iBits (· ^^^ ·)) ∧ IwRuns .shl 0x17 iShl ∧ IwRuns .shr 0x18 iShr

/-- R109: the built-in special functions; a result is rounded once to the output format. A step computes element by element what the image's
table set of its bank's flavour gives, so whatever rule that set keeps (`TableRules`), the step keeps. -/
def Obligations.SpecialFunctions : Prop :=
  SfuRuns .exp2 0x20 .exp2 ∧ SfuRuns .exp 0x21 .exp ∧ SfuRuns .log2 0x22 .log2 ∧ SfuRuns .ln 0x23 .ln ∧ SfuRuns .rcp 0x24 .rcp ∧
  SfuRuns .rsqrt 0x25 .rsqrt ∧ SfuRuns .sqrt 0x26 .sqrt ∧ SfuRuns .tanh 0x27 .tanh ∧ SfuRuns .erf 0x28 .erf ∧ SfuRuns .sigmoid 0x29 .sigmoid ∧
  SfuRuns .silu 0x2A .silu ∧ SfuRuns .softplus 0x2B .softplus ∧ SfuRuns .geluErf 0x2C .geluErf ∧ SfuRuns .geluTanh 0x2D .geluTanh ∧
  SfuRuns .sin 0x2E .sin ∧ SfuRuns .cos 0x2F .cos ∧
  ∀ (c : VC) (fn : Fn) (xs : List CF), funcRow (fun c => sfu c.T fn) c xs =
    xs.map (sfuEl (sfu (tabVal c.w.d.sec.tables c.bank.flavour) fn) c.st.outFmt c.ftz c.st.e4nan)

/-- R89: the row reductions. -/
def Obligations.RowReductions : Prop :=
  RedRuns .rmax 0x40 .max ∧ RedRuns .rmin 0x41 .min ∧ RedRuns .rsum 0x42 .sum ∧ RedRuns .rssq 0x43 .ssq

/-- R101, R102: the summary words, and SCNT from the count slot in P [12:8]. -/
def Obligations.SummaryWords : Prop :=
  SumRuns .smax 0 0x00 (reduceRow .max) ∧ SumRuns .smin 1 0x00 (reduceRow .min) ∧ SumRuns .ssum 2 0x00 (reduceRow .sum) ∧
  SumRuns .snz 3 0x21 snzOf ∧ SumRuns .sfirst 4 0x21 sfirstOf ∧
  VecRuns .scnt (sumIs 5) (·.src0) (fun _ => {}) fun c =>
    c.setSummary 0x21 (tget 0 (c.w.d.die (c.j.site c.d)).counts (bits c.st.p 12 8))

/-- R90, R93, R94, R116, R130 to R136, R281 to R283: the steps whose rows are independent. -/
def Obligations.RowFunctions : Prop :=
  VecRuns .normRms (opFlag 0x48 0 false) (·.src0) (VC.norm false) (fun _ => id) ∧
  VecRuns .normLayer (opFlag 0x48 0 true) (·.src0) (VC.norm true) (fun _ => id) ∧
  VecRuns .softmax (opIs 0x50) (·.src0) VC.softmax (fun _ => id) ∧ VecRuns .rope (opIs 0x58) (·.src0) VC.rope (fun _ => id) ∧
  VecRuns .topk (opIs 0x68) (·.src0) VC.topk (fun _ => id) ∧ VecRuns .quant (opIs 0x70) (·.src0) VC.quant (fun _ => id) ∧
  VecRuns .dequant (opIs 0x71) (·.src0) VC.dequant (fun _ => id) ∧
  VecRuns .sample (opIs 0x88) (·.src0) VC.sample (fun _ => id)

/-- R91, R92, R97 to R99: the steps that move rows and elements, and the count slots that COMPRESS and CNT_LOAD write. -/
def Obligations.MovementAndCounts : Prop :=
  VecRuns .gather (opIs 0x60) (·.dst)
    (fun c => if c.st.x.testBit 0 then c.gatherEl
      else c.moveRows (c.tile c.st.src0).rows fun r i => (c.rawRow (c.tile c.st.src0) i).map (c.putRaw (c.tile c.st.dst) r)) (fun _ => id) ∧
  VecRuns .scatter (opFlag 0x61 1 false) (·.src0)
    (fun c => if c.st.x.testBit 0 then c.scatterEl (fun _ _ v => (v, 0))
      else c.moveRows (c.tile c.st.dst).rows fun r i => (c.rawRow (c.tile c.st.src0) r).map (c.putRaw (c.tile c.st.dst) i)) (fun _ => id) ∧
  VecRuns .scatterAdd (opFlag 0x61 1 true) (·.src0)
    (fun c => if c.st.x.testBit 0 then c.scatterEl fAdd else c.scatterAddRows) (fun _ => id) ∧
  VecRuns .expand (opIs 0x79) (·.src0)
    (fun c => c.moveRows (c.tile c.st.dst).rows fun r i => (c.rawRow (c.tile c.st.src0) r).map (c.putRaw (c.tile c.st.dst) i)) (fun _ => id) ∧
  VecRuns .cntStore (opIs 0x7B) (·.dst)
    (fun c => { writes := [c.put c.st.dst 0 [tget 0 (c.w.d.die (c.j.site c.d)).counts (c.st.p % 32)]] }) (fun _ => id) ∧
  VecRuns .compress (opIs 0x78) (·.src0) VC.compress
    (fun c w => match c.activeRows with
      | .ok l => c.setCount (c.st.p % 32) l.length w
      | .error _ => w) ∧
  VecRuns .cntLoad (opIs 0x7A) (·.src0)
    (fun c => match c.codes c.st.src0 0 with
      | .ok _ => {}
      | .error er => { err := some er })
    (fun c w => match c.codes c.st.src0 0 with
      | .ok l => c.setCount (c.st.p % 32) (lget 0 l 0) w
      | .error _ => w)

/-- R116, R127: USERn evaluates user slot 11 + n of the bank that is active on its engine; with that slot empty the step faults. -/
def Obligations.UserFunctions : Prop :=
  ∀ (s : State) (p d e n : Nat) (j : Job) (b : Bytes) (fx : MemFx),
    s.VecReady p d e j b fx (vstepOf b).src0 n → 0x30 ≤ stepOp b → stepOp b ≤ 0x34 →
    let bank := s.dev.bank (s.dev.fnActive (j.site d) e)
    let slot := 11 + (stepOp b - 0x30)
    let c := s.vecView p d e j b fx n (s.regionOf j d (vstepOf b).src0).2
    (∀ xs : Nat → List CF, bank.user.any (·.1 == slot) = true →
      let res := fun r => funcRow (fun _ => (userSlot (tget [] bank.user slot)).eval) c (xs r)
      let writes := cutTiles c fun r => [c.put (vstepOf b).dst r ((res r).map Prod.fst)]
      (∀ r < n, c.floats (vstepOf b).src0 r = .ok (xs r)) → s.dev.mayWrite p writes →
      ∃ t, exec (.usern p d e fx) s = .next t ∧ s.StepDone t p d (8 + e) j b fx writes (flagsOf ((List.range n).flatMap res)) id) ∧
    (bank.user.any (·.1 == slot) = false →
      ∃ t, exec (.usern p d e fx) s = .next t ∧ s.StepFaulted t p d (8 + e) j b stTABLE_SLOT_EMPTY 0)

/-- R96: a step that names a count slot holding more than its CMAX faults with COUNT_RANGE and writes nothing; with zero it releases at once, writes
nothing, and its signal tokens are incremented. -/
def Obligations.CountedSteps : Prop :=
  ∀ x ∈ vecCmds, ∀ (s : State) (p d e c : Nat) (j : Job) (b : Bytes) (fx : MemFx),
    s.w.headStep p d (8 + e) = some (j, b) → tokensReady (s.dev.die (j.site d)).tokens ((j.queue d (8 + e)).needs (stepWaits b)) = true →
    stepKind b = 2 → e < 2 → x.2 b = true → stepCount b = some c →
    let v := tget 0 (s.dev.die (j.site d)).counts c
    ((vstepOf b).cmax < v → ∃ t, exec (x.1 p d e fx) s = .next t ∧ s.StepFaulted t p d (8 + e) j b stCOUNT_RANGE 0) ∧
    (v = 0 → ∃ t, exec (x.1 p d e fx) s = .next t ∧ t.mem = s.mem ∧ t.fuses = s.fuses ∧ t.pending = s.pending ∧
      t.dev = ((s.taken p d (8 + e) j b).releaseStep p d (8 + e)).d ∧
      (t.dev.die (j.site d)).tokens = addTokens (takeTokens (s.dev.die (j.site d)).tokens ((j.queue d (8 + e)).needs (stepWaits b))) (stepSignals b))

/-- R143, R159: no vector or transform step, whatever becomes of it, writes a byte that its polder may not write (a sealed range, another polder's
memory, a system area, a window), and none changes anything but its job, its dies' tokens, counts, summary words, flags and correction counters,
except that a memory error of its reading is reported (entry 48). -/
def Obligations.StepsStayInside : Prop :=
  (∀ x ∈ vecCmds, ∀ (p d e : Nat) (fx : MemFx) (s t : State), exec (x.1 p d e fx) s = .next t → s.StepFrame t p fx) ∧
  (∀ (p d e : Nat) (fx : MemFx) (s t : State), exec (.usern p d e fx) s = .next t → s.StepFrame t p fx) ∧
  (∀ (p d : Nat) (fx : MemFx) (s t : State), exec (.transform p d fx) s = .next t → s.StepFrame t p fx)

/-! ## The transform unit and the arrays -/

/-- R103 to R106, R177: a TRANSFORM step smooths, rotates and quantises each of its rows, and writes codes and, for a block format, scales. -/
def Obligations.TransformSteps : Prop :=
  ∀ (s : State) (p d n : Nat) (j : Job) (b : Bytes) (fx : MemFx) (xs : Nat → List Nat),
    let u := fld b 0x18 4
    let src := s.w.tile j d (fld b 8 2)
    let dst := s.w.tile j d (fld b 0xA 2)
    let bank := s.dev.smActive (j.site d)
    s.Ready p d 10 j b fx → stepKind b = 3 → s.rowsAre j d b src.rows (fld b 0xC 2 + 1) n → 0 < n →
    s.w.ownTiles j d [fld b 8 2, fld b 0xA 2] = true →
    (∀ r < n, (s.issued p d 10 j b fx).rowCodes p j src (if src.rows = 1 then 0 else r) = .ok (xs r)) →
    let res := fun r => transformRow (j.ftzOf 2) (u.testBit 24) (fmtD (bits u 23 18))
      (if u.testBit 14 then some fun k => tget bank.dflt bank.vals (bits u 13 0 + k) else none) (gsizeOf (bits u 16 15)) (u.testBit 17)
      (lfsrSigns src.cols (fld b 0x10 8)) ((xs r).map (widenCode src.f (j.ftzOf 2)))
    let writes := (chunksOf 64 (ceilDiv n 64) (List.range n)).flatMap fun tile => colTiles (64 * dst.f.w) (tile.map fun r =>
      (j.rowAddr dst r, pack dst.f.w (res r).1) ::
        (if (res r).2.1.isEmpty then [] else [(j.scaleAddr dst r, (res r).2.1.map (BitVec.ofNat 8 ·))]))
    s.dev.mayWrite p writes →
    ∃ t, exec (.transform p d fx) s = .next t ∧
      s.StepDone t p d 10 j b fx writes ((List.range n).foldl (fun f r => f ||| (res r).2.2) 0) id

namespace Sys2Proof.Claims

/-- A command of a logical array. -/
abbrev ArrCmd := Nat → Nat → Nat → MemFx → List ArrErr → Instr

/-- The seven array commands with the operations that they compute (R58). -/
def arrCmds : List (ArrCmd × ArrOp) :=
  [(Instr.matmul, .matmul), (Instr.distL2sq, .distL2sq), (Instr.distL1, .distL1), (Instr.maxplus, .maxplus), (Instr.minplus, .minplus),
   (Instr.hamming, .hamming), (Instr.cmpcount, .cmpcount)]

/-- An ARRAY step of operation `op` that is ready on logical array `q`, its tile `mt` by `nt` and its operands `ra` and `rb` read. -/
structure PassReady (s : State) (op : ArrOp) (p d q : Nat) (j : Job) (b : Bytes) (fx : MemFx) (mt nt : Nat) (ra rb : List OpRow) : Prop where
  ready : s.Ready p d q j b fx
  kind : stepKind b = 1
  code : stepOp b = op.code
  array : q < 8
  rows : 0 < mt
  cols : 0 < nt
  dims : (s.issued p d q j b fx).passDims j d (s.dev.array (j.site d) (s.dev.physOf (j.site d) q)) b (passOf b) = .ok (mt, nt)
  reads : (s.issued p d q j b fx).passOperands p j d (passOf b) (s.dev.array (j.site d) (s.dev.physOf (j.site d) q)) mt nt = .ok (ra, rb)

end Sys2Proof.Claims

/-- R43, R60, R61, R64 to R66, R74, R75: a pass in which the arrays form nothing wrongly meets no mismatch; it leaves its array with the accumulators and
the stationary set of `passCompute`, raises its flags, writes at the last pass of a tile the rows of the result, and is in flight until it releases. -/
def Obligations.ArrayPasses : Prop :=
  ∀ x ∈ arrCmds, ∀ (s : State) (p d q mt nt : Nat) (j : Job) (b : Bytes) (fx : MemFx) (ra rb : List OpRow),
    PassReady s x.2 p d q j b fx mt nt ra rb →
    let site := j.site d
    let phys := s.dev.physOf site q
    let P := passOf b
    let A := s.dev.array site phys
    let r := passCompute x.2 (s.w.tile j d P.a).f (s.w.tile j d P.b).f (j.ftzOf 0) P mt nt A ra rb
    let writes := r.rows.zipIdx.map fun (c, i) => (j.rowAddr (s.w.tile j d P.res) i, pack (s.w.tile j d P.res).f.w c)
    let flight : Flight :=
      { pos := (j.queue d q).pos, bank := P.bank, mt := mt, nt := nt, before := A, flags := tget 0 (s.dev.die site).flags q }
    s.dev.mayWrite p writes →
    ∃ t, exec (x.1 p d q fx []) s = .next t ∧ t.pending = s.pending ∧ t.fuses = s.fuses ∧
      t.mem = s.mem.applyAll (writeOps writes) ∧
      (∀ a, (∀ y ∈ writes, a < localPart y.1 ∨ localPart y.1 + y.2.length ≤ a) → t.mem.byte a = s.mem.byte a) ∧
      t.dev = ((((s.issued p d q j b fx).modJob p fun j => j.setQueue d q fun Q => { Q with flights := Q.flights ++ [flight] }).modDie site
        fun D => { D with arrays := tset D.arrays phys r.arr }).raiseFlags p d q r.flags).d ∧
      (P.last = false → t.mem = s.mem)

/-- R78, R79, R367: where what the arrays form makes a checker's sum differ from the grid's, the pass is held with its tokens, its array and its queue's flags are
those that it found, and a check episode opens for each K-block that mismatches, with its records (what the arrays form wrongly is the command's: entry 32). -/
def Obligations.MismatchHoldsThePass : Prop :=
  ∀ x ∈ arrCmds, ∀ (s : State) (p d q mt nt : Nat) (j : Job) (b : Bytes) (fx : MemFx) (ra rb : List OpRow) (ck : List ArrErr),
    PassReady s x.2 p d q j b fx mt nt ra rb → (∀ e ∈ ck, e.back = 0) →
    let site := j.site d
    let phys := s.dev.physOf site q
    let P := passOf b
    let A := s.dev.array site phys
    let fa := (s.w.tile j d P.a).f
    let fb := (s.w.tile j d P.b).f
    let errs := ck.map fun e => (e.j, e.err)
    let recs := passChecks x.2 fa fb (j.ftzOf 0) P ra rb errs
    let r := passCompute x.2 fa fb (j.ftzOf 0) P mt nt A ra rb errs
    let writes := r.rows.zipIdx.map fun (c, i) => (j.rowAddr (s.w.tile j d P.res) i, pack (s.w.tile j d P.res).f.w c)
    let flight : Flight :=
      { pos := (j.queue d q).pos, bank := P.bank, mt := mt, nt := nt, held := true, errs := errs, before := A, flags := tget 0 (s.dev.die site).flags q }
    recs ≠ [] → s.dev.mayWrite p writes →
    ∃ t, exec (x.1 p d q fx ck) s = .next t ∧ t.pending = s.pending ∧ t.fuses = s.fuses ∧ t.mem = s.mem.applyAll (writeOps writes) ∧
      t.dev = { s.dev with pols := t.dev.pols, dies := t.dev.dies, hub := { s.dev.hub with errCnt := t.dev.hub.errCnt } } ∧
      (t.dev.die site).episodes = (s.dev.die site).episodes ++ recs.map (fun (k, l) =>
        { polder := p, ldie := d, logical := q, phys := phys, pos := (j.queue d q).pos, j := k, recs := l, errs := errsAt errs k
          capture := (s.dev.pol p).capture }) ∧
      t.dev.array site phys = A ∧ tget 0 (t.dev.die site).flags q = tget 0 (s.dev.die site).flags q ∧
      (t.dev.die site).tokens = takeTokens (s.dev.die site).tokens ((j.queue d q).needs (stepWaits b)) ∧
      (t.dev.pol p).job.map (fun k => (k.queue d q).flights) = some ((j.queue d q).flights ++ [flight])

namespace Sys2Proof.Claims

/-- The row `r` of an operand is `r1` over its first `m` K-blocks of `kb` elements, and `r2` over the rest. -/
structure SplitRow (kb m : Nat) (r r1 r2 : OpRow) : Prop where
  codes : r.codes = r1.codes ++ r2.codes
  blocks : r1.codes.length = kb * m
  scales : r.scales = r1.scales ++ r2.scales
  covered : r1.scales.length = kb * m / 16 ∨ r.scales = []

/-- The rows `rs` are split row by row. -/
def SplitRows (kb m : Nat) (rs r1s r2s : List OpRow) : Prop :=
  rs.length = r1s.length ∧ rs.length = r2s.length ∧
    ∀ (i : Nat) (r r1 r2 : OpRow), rs[i]? = some r → r1s[i]? = some r1 → r2s[i]? = some r2 → SplitRow kb m r r1 r2

end Sys2Proof.Claims

/-- R43, R60: the K-blocks of a tile are taken in ascending order, so a tile computed in two passes over two parts of its K range has the rows that one pass
over all of it gives, and the two passes together raise the same flags. -/
def Obligations.TilesOverTwoPasses : Prop :=
  ∀ (op : ArrOp) (fa fb : Fmt) (ftz : Bool) (P : Pass) (mt nt m : Nat) (A : ArrayS) (ra ra1 ra2 rb rb1 rb2 : List OpRow),
    SplitRows (kBlock op fa fb) m ra ra1 ra2 → SplitRows (kBlock op fa fb) m rb rb1 rb2 → rb.length = nt →
    let whole := passCompute op fa fb ftz { P with first := true, last := true } mt nt A ra rb
    let one := passCompute op fa fb ftz { P with first := true, last := false } mt nt A ra1 rb1
    let two := passCompute op fa fb ftz { P with first := false, last := true } mt nt one.arr ra2 rb2
    two.rows = whole.rows ∧ one.flags ||| two.flags = whole.flags

/-- R46 rule 1: once a NaN element has met its counterpart in any K-block of any pass of a floating operation, the element of the result is NaN, whatever
the rest of the accumulation brings and the grid forms, and the arithmetic raises no flag of its own. -/
def Obligations.NanDecides : Prop :=
  ∀ (op : ArrOp) (bx : Bool) (acc : AccEl) (a b : List Blk) (dl : Nat → Int) (i k : Nat) (x y : Blk) (u v : FV),
    op ≠ .hamming → op ≠ .cmpcount → a[i]? = some x → b[i]? = some y → x.vals[k]? = some u → y.vals[k]? = some v →
    (u = .nan ∧ x.special = true ∨ v = .nan ∧ y.special = true) → (accPass op bx acc a b dl).decide op = (.nan, 0)

/-! ## Power and resets -/

/-- R342, R417, R418: a rail that rises is recorded, a cold power-on starting from nothing; CORE_OK, a stable reference clock and the deassertion of PERST# are each
recorded, and whichever comes last starts the link and the boot ROM; the loss of 3.3 V leaves nothing but the fuses. -/
def Obligations.PowerUp : Prop :=
  (∀ s : State, s.dev.aon.rail33 = false →
    ∃ t, exec .power3v3Rise s = .next t ∧ t.pending = s.pending ∧ t.fuses = s.fuses ∧
      t.dev.aon = { rail33 := true, rail12 := s.dev.aon.rail12, refclk := s.dev.aon.refclk, perst := s.dev.aon.perst, sensed := true, shadow := s.fuses } ∧
      t.dev = { variant := s.dev.variant, aon := t.dev.aon, power := t.dev.power, fabric := { ports := t.dev.fabric.ports }
                sealEpoch := s.dev.sealEpoch + 1, freeCtr := s.dev.freeCtr, out := s.dev.out } ∧
      (∀ a, a < 2 ^ 52 → t.mem.byte a = 0)) ∧
  (∀ s : State, exec .power12vRise s = .next { s with dev := { s.dev with aon := { s.dev.aon with rail12 := true } } }) ∧
  (∀ s : State, s.dev.aon.rail33 = true →
    ∃ t, exec .power3v3Loss s = .next t ∧ t.pending = s.pending ∧ t.fuses = s.cutFuses ∧ s.fuses.le t.fuses ∧
      t.dev.aon = { rail12 := s.dev.aon.rail12, refclk := s.dev.aon.refclk, perst := s.dev.aon.perst } ∧
      t.dev = { variant := s.dev.variant, aon := t.dev.aon, power := t.dev.power, fabric := { ports := t.dev.fabric.ports }
                sealEpoch := s.dev.sealEpoch + 1, freeCtr := s.dev.freeCtr + 1, out := s.dev.out } ∧
      (∀ a, a < 2 ^ 52 → t.mem.byte a = 0)) ∧
  (∀ s : State, s.dev.aon.rail33 = true → s.dev.aon.rail12 = true → s.dev.aon.hubTrip = false →
    (∃ t, exec .coreOk s = .next t ∧ t.pending = s.pending ∧ t.fuses = s.fuses ∧ t.dev.aon.coreOk = true ∧
      ((s.dev.aon.refclk = true → s.dev.aon.perst = false → s.dev.aon.tripHold = false → s.dev.sec.boot = 0 → t.Booted) ∧
       (s.dev.aon.refclk = false ∨ s.dev.aon.perst = true → t = { s with dev := { s.dev with aon := { s.dev.aon with coreOk := true } } }))) ∧
    (∃ t, exec .refclkStable s = .next t ∧ t.pending = s.pending ∧ t.fuses = s.fuses ∧ t.dev.aon.refclk = true ∧
      ((s.dev.aon.coreOk = true → s.dev.aon.perst = false → s.dev.aon.tripHold = false → s.dev.sec.boot = 0 → t.Booted) ∧
       (s.dev.aon.coreOk = false ∨ s.dev.aon.perst = true → t = { s with dev := { s.dev with aon := { s.dev.aon with refclk := true } } }))) ∧
    (∃ t, exec .perstDeassert s = .next t ∧ t.pending = s.pending ∧ t.fuses = s.fuses ∧ t.dev.aon.perst = false ∧
      ((s.dev.aon.coreOk = true → s.dev.aon.refclk = true → s.dev.aon.tripHold = false → s.dev.sec.boot = 0 → t.Booted) ∧
       (s.dev.aon.coreOk = false ∨ s.dev.aon.refclk = false → t = { s with dev := { s.dev with aon := { s.dev.aon with perst := false } } }))))

/-- R342, R418, R419, R421, R426: the assertion of PERST#, the loss of 12 V and the loss of the reference clock reset the device and hold it there, the link down and the
boot ROM not started; a hot reset, the loss of the link and a function-level reset of the PF reset it, and the boot ROM starts again. -/
def Obligations.DeviceResets : Prop :=
  (∀ s : State, s.dev.aon.rail33 = true → s.dev.aon.rail12 = true →
    (s.dev.aon.perst = false → ∃ t, exec .perstAssert s = .next t ∧ s.WarmReset t ∧ t.dev.sec.boot = 0 ∧
      t.dev.aon = { s.dev.aon with linkUp := false, perst := true }) ∧
    (s.dev.aon.refclk = true → ∃ t, exec .refclkLoss s = .next t ∧ s.WarmReset t ∧ t.dev.sec.boot = 0 ∧
      t.dev.aon = { s.dev.aon with linkUp := false, refclk := false }) ∧
    (∃ t, exec .power12vLoss s = .next t ∧ s.WarmReset t ∧ t.dev.sec.boot = 0 ∧
      t.dev.aon = { s.dev.aon with
        linkUp := false, rail12 := false, coreOk := false, tripHold := s.dev.aon.tripHold && !s.dev.aon.hubTrip, hubTrip := false })) ∧
  (∀ c ∈ [Instr.hotReset, Instr.linkDown, Instr.flrPf], ∀ s : State,
    s.dev.aon.linkUp = true → s.dev.aon.powered = true → s.dev.aon.tripHold = false →
    ∃ t, exec c s = .next t ∧ s.WarmReset t ∧ t.Booted)

/-- R360, R458: a sensor that reaches its trip temperature resets the device and holds it before the boot ROM, records its cause and site, and drives
THERMTRIP# low; a hub trip also takes the power away. -/
def Obligations.ThermalTrips : Prop :=
  ∀ (s : State) (k : Sensor) (cause site : Nat) (temp : Int), s.dev.aon.rail33 = true → s.dev.aon.rail12 = true → s.dev.hasSensor k = true →
    sensorTrip k = some (cause, site, temp) →
    ∃ t, exec (.thermalTrip k) s = .next t ∧ s.WarmReset t ∧ t.dev.sec.boot = 0 ∧ t.dev.aon.tripHold = true ∧ t.dev.aon.tripValid = true ∧
      t.dev.aon.tripCause = cause ∧ t.dev.aon.tripSite = site ∧ t.dev.aon.thermtrip = true ∧
      (cause = 3 → t.dev.aon.hubTrip = true ∧ t.dev.aon.coreOk = false ∧ t.dev.aon.linkUp = false)

/-! ## Every command -/

namespace Sys2Proof.Claims

/-- The commands that can change a fuse: the end of a pulse, and the resets that can interrupt one (R390). -/
def burns : Instr → Bool
  | .fuseProgramComplete _ => true
  | .refclkLoss => true
  | .perstAssert => true
  | .power12vLoss => true
  | .power3v3Loss => true
  | .hotReset => true
  | .linkDown => true
  | .flrPf => true
  | .thermalTrip _ => true
  | _ => false

end Sys2Proof.Claims

/-- A step takes the command at the front of the queue and runs it on the state with the rest of the queue. -/
def Obligations.StepRunsFront : Prop :=
  ∀ (s : State) (c : Instr) (rest : List Instr), s.pending = c :: rest → step s = exec c { s with pending := rest }

/-- R11, R342: with no command waiting, a step is one nanosecond of the hub counter, which runs while the always-on domain has power and the reference clock is
stable (DESIGN CHOICE, entry 11: the tick is the model's). -/
def Obligations.IdleTick : Prop :=
  ∀ s : State, s.pending = [] →
    (s.dev.aon.rail33 = true → s.dev.aon.refclk = true →
      step s = .next { s with dev := { s.dev with aon := { s.dev.aon with hub := (s.dev.aon.hub + 1) % 2 ^ 64 } } }) ∧
    (s.dev.aon.rail33 = false ∨ s.dev.aon.refclk = false → step s = .next s)

/-- R418, R421: reset is the device before power: PERST# asserted, no rail, no clock, nothing waiting, every memory in canonical form and zero, nothing sent, no fuse
of SVN, life cycle or repair blown (entries 2 and 4). -/
def Obligations.ResetState : Prop :=
  State.reset.pending = [] ∧ State.reset.memOk ∧ (∀ a, State.reset.mem.byte a = 0) ∧ State.reset.dev = {} ∧
  State.reset.dev.aon.perst = true ∧ State.reset.dev.aon.powered = false ∧ State.reset.dev.hubRuns = false ∧ State.reset.dev.running = false ∧
  State.reset.fuses.svn = 0 ∧ State.reset.fuses.repair = 0 ∧ lcOf State.reset.fuses = 0 ∧
  (∀ s, s < 25 → (State.reset.dev.die s).lmap = 0x76543210 ∧ ((State.reset.dev.isStacked s = true ↔ (State.reset.dev.die s).stack = 1)))

/-- Every step keeps the memories in canonical form. -/
def Obligations.MemoryStaysCanonical : Prop := ∀ s t : State, s.memOk → step s = .next t → t.memOk

/-- R390, R393: no step clears a fuse or changes what was fixed at manufacture, and none but the end of a pulse and a reset changes a fuse at all. -/
def Obligations.FusesOnlyBlow : Prop :=
  (∀ s t : State, step s = .next t → s.fuses.le t.fuses) ∧
  (∀ (c : Instr) (s t : State), exec c s = .next t → burns c = false → t.fuses = s.fuses) ∧
  (∀ (c : Instr) (s t : State), exec c s = .next t → (∀ ok, c ≠ .fuseProgramComplete ok) → s.dev.sec.pulses = [] → t.fuses = s.fuses)

/-- Every command is answered with a next state, and none touches the commands that wait. -/
def Obligations.EveryCommandAnswers : Prop := ∀ (c : Instr) (s : State), ∃ t, exec c s = .next t ∧ t.pending = s.pending

/-! ## The security processor -/

/-- R391 to R393, R397: SEC_BOOT_CMD in WAIT starts the verification and closes channel 0, and in another state is ignored; an image that passes every check is
measured, and identity derived, the fuse read path locked; one that fails is counted, its store zeroed and channel 0 opened again; and hub firmware that starts
is RUNNING, its table sets the image's (R112), the pack version no lower than the image's floor (R382). -/
def Obligations.FirmwareLoad : Prop :=
  (∀ (s : State) (v : Nat), s.dev.aon.linkUp = true →
    (s.dev.sec.boot = 1 → Does (.secBootCmd 0 v) s
      { s.dev with
        sec := { s.dev.sec with boot := 2, cmdLen := v % 2 ^ 32, pushBad := decide ((s.dev.chan 0).st = 2), verified := false }
        chans := tmod {} s.dev.chans 0 fun C => { C with st := 0 } } s.mem) ∧
    (s.dev.sec.boot ≠ 1 → Does (.secBootCmd 0 v) s
      { s.dev with hub := { s.dev.hub with ignored := true, errFn := 0, errWrite := true, errOff := 0x2000008 } } s.mem)) ∧
  (∀ s : State, s.dev.sec.boot = 2 → s.dev.sec.verified = false →
    let h := s.mem.read storeBase 0x200
    let f := s.dev.aon.shadow
    let k := fld h 0x11 1 % 4
    let passes := s.dev.sec.pushBad = false ∧ fwHeaderOk h = true ∧ fld h 0x18 4 = s.dev.sec.cmdLen ∧ 0x1000 ≤ fld h 0x18 4 ∧ fld h 0x18 4 ≤ storeSize ∧
      fld h 0x18 4 % 64 = 0 ∧ (fld h 6 2).testBit s.dev.variant = true ∧ f.signerRev.testBit k = false ∧
      be (sha384 (slice h 0x120 96)) = lget 0 f.signerDig k ∧
      ecdsaVerify (slice h 0x120 96) (slice h 0x1A0 96) (h.take 0x1A0 ++ s.mem.read (storeBase + 0x200) (fld h 0x18 4 - 0x200)) = true ∧
      svnCount f.svn ≤ fld h 0x10 1 ∧ fld h 0x10 1 ≤ 128
    let S : Sec := { s.dev.sec with
      result := 1, verified := true, svnImage := fld h 0x10 1, keyIdx := k, packFloor := fld h 0x14 4, imageLen := fld h 0x18 4
      imageDigest := sha384 (s.mem.read storeBase (fld h 0x18 4))
      stageDigs := (stagesOf h).map fun x => sha384 (s.mem.read (storeBase + x.2.1) x.2.2) }
    let D : Dev := { s.dev with sec := S }
    let who := D.identity S.lc 0
    (passes → Goes .firmwareVerifyDone s
      { s.dev with sec := { S with devidPub := p384Pub who.1, aliasKey := who.2.2, chain := D.chainFor who.1 who.2.1 who.2.2 S.lc, locked := true } } s.mem) ∧
    (¬ passes → ∃ r, r ≠ 1 ∧ Goes .firmwareVerifyDone s
      { s.dev with
        sec := { s.dev.sec with boot := 1, attempts := min 255 (s.dev.sec.attempts + 1), result := r, pushBad := false }
        chans := tmod {} s.dev.chans 0 fun C => { C with ptr := 0, limit := storeSize, mode := 0, st := 1 } }
      (s.mem.apply (.zero storeBase storeSize)))) ∧
  (∀ s : State, s.dev.sec.boot = 2 → s.dev.sec.verified = true → Goes .hubFirmwareRunning s
    { s.dev with
      sec := { s.dev.sec with boot := 3, tables := builtinSets (s.w.stageBytes 4) (s.w.stageBytes 5) }
      bist := { s.dev.bist with packVer := max s.dev.bist.packVer s.dev.sec.packFloor } } s.mem)

namespace Sys2Proof.Claims

/-- The device with a command of the security processor in progress, its pulses still to be made. -/
def pulsing (s : State) (l : List FusePulse) : Dev :=
  { s.dev with sec := { s.dev.sec with busy := true, pulses := l, cmdResult := 0 } }
/-- The same with a result alone. -/
def refusing (s : State) (r : Nat) : Dev := { s.dev with sec := { s.dev.sec with cmdResult := r } }
/-- The host reaches the PF, the security processor has no command in progress, and firmware is RUNNING. -/
structure SecReady (s : State) : Prop where
  link : s.dev.aon.linkUp = true
  free : s.dev.sec.busy = false
  running : s.dev.running = true
/-- The token commands consume a nonce whatever they read (R395). -/
def freshNonce (s : State) (d : Dev) : Dev :=
  { d with freeCtr := s.dev.freeCtr + 1, sec := { d.sec with nonce := Config.random s.dev.freeCtr % 2 ^ 128 } }

end Sys2Proof.Claims

/-- R390, R393 to R396, R416: SEC_SVN_CMD and the life-cycle commands SECURE, RETURN and RETIRE start their fuse pulses, each where its gate allows it, and
report why where it does not; the end of a pulse blows its fuse if it was sensed blown, and the command ends with its last pulse. -/
def Obligations.FuseCommands : Prop :=
  (∀ s : State, SecReady s →
    (∀ v, let c := svnCount s.fuses.svn
      (s.dev.sec.lc = 0 ∨ s.dev.sec.lc = 1 → c < v % 256 → v % 256 ≤ s.dev.sec.svnImage →
        Does (.secSvnCmd 0 v) s (pulsing s ((rangeFrom c (v % 256)).map .svn)) s.mem) ∧
      (s.dev.sec.lc = 0 ∨ s.dev.sec.lc = 1 → v % 256 ≤ c ∨ s.dev.sec.svnImage < v % 256 → Does (.secSvnCmd 0 v) s (refusing s 5) s.mem) ∧
      (2 ≤ s.dev.sec.lc → Does (.secSvnCmd 0 v) s (refusing s 1) s.mem)) ∧
    (s.dev.allEmpty = true →
      (s.dev.sec.lc = 0 → s.dev.aon.shadow.certWritten = true → Does (.lcSecure 0) s (pulsing s [.secured]) s.mem) ∧
      (s.dev.sec.lc ≠ 0 → Does (.lcSecure 0) s (refusing s 1) s.mem) ∧
      (∀ b, s.dev.sec.lc = 1 ∨ s.dev.sec.lc = 2 → s.dev.tokenOk b 2 = true →
        Does (.lcReturn 0 (.ok b)) s (freshNonce s (pulsing s [.returned])) s.mem) ∧
      (∀ b, s.dev.sec.lc = 1 ∨ s.dev.sec.lc = 2 → s.dev.tokenOk b 2 = false →
        Does (.lcReturn 0 (.ok b)) s (freshNonce s (refusing s 3)) s.mem) ∧
      Does (.lcRetire 0) s (pulsing s [.retired]) s.mem) ∧
    (s.dev.allEmpty = false → ∀ tok,
      Does (.lcSecure 0) s (refusing s 2) s.mem ∧ Does (.lcReturn 0 tok) s (refusing s 2) s.mem ∧ Does (.lcRetire 0) s (refusing s 2) s.mem)) ∧
  (∀ (s : State) (ok : Bool) (p : FusePulse) (rest : List FusePulse), s.dev.sec.pulses = p :: rest →
    ∃ t, exec (.fuseProgramComplete ok) s = .next t ∧ t.pending = s.pending ∧ t.mem = s.mem ∧ t.dev.sec.pulses = rest ∧
      t.dev = { s.dev with
        sec := { s.dev.sec with pulses := rest, busy := t.dev.sec.busy, cmdResult := t.dev.sec.cmdResult }, bist := t.dev.bist } ∧
      (match p with
        | .repair k v => t.fuses = { s.fuses with
            repair := s.fuses.repair ||| (((v % 2 ^ 64 ||| 0x80) - (if ok then 0 else 0x80)) <<< (64 * k)) } ∧
          t.dev.sec = { s.dev.sec with pulses := rest } ∧
          t.dev.bist = { s.dev.bist with fuseBusy := false, fuseResult := if ok then 0 else 4 }
        | _ => t.fuses = (if ok then match p with
              | .svn b => { s.fuses with svn := s.fuses.svn ||| 2 ^ b }
              | .secured => { s.fuses with secured := true }
              | .returned => { s.fuses with returned := true }
              | .retired => { s.fuses with retired := true }
              | .repair _ _ => s.fuses
            else s.fuses) ∧
          t.dev.bist = s.dev.bist ∧ t.dev.sec.cmdResult = (if ok then s.dev.sec.cmdResult else 6) ∧
          (rest = [] → t.dev.sec.busy = false)))

/-- R394, R395, R397, R401: DEBUG with a token, read from SEC_TOKEN_ADDR, that verifies, in SECURED with every polder EMPTY: FIELD_DEBUG, every stack DIRTY, every key erased, every session
ended, scratchpads zero and the dies' arrays, tokens, counts, summary words and flags cleared, and a new alias key and chain for the new state. -/
def Obligations.FieldDebug : Prop :=
  ∀ (s : State) (b : Bytes), SecReady s → s.memOk → s.dev.allEmpty = true → s.dev.sec.lc = 1 → s.dev.tokenOk b 1 = true →
    ∃ t, exec (.lcDebug 0 (.ok b)) s = .next t ∧ t.pending = s.pending ∧ t.fuses = s.fuses ∧
      t.dev.sec.lc = 2 ∧ t.dev.sec.cmdResult = 0 ∧ t.dev.sec.sessions = [] ∧ t.dev.sec.ide = s.dev.sec.ide ∧
      .hostRead (linkTag s.dev.hub.readTag) s.dev.sec.tokenAddr 288 ∈ t.dev.out ∧
      t.dev.sec.aliasKey = (s.dev.identity 2 1).2.2 ∧ t.dev.sec.nonce = Config.random s.dev.freeCtr % 2 ^ 128 ∧
      t.dev.fabric = { s.dev.fabric with keys := [], windows := [] } ∧ t.dev.banks = [] ∧
      (∀ i, s.dev.isStacked i = true → (t.dev.die i).stack = 1) ∧
      (∀ i, s.dev.isCompute i = true → (t.dev.die i).arrays = [] ∧ (t.dev.die i).tokens = [] ∧ (t.dev.die i).counts = [] ∧
        (t.dev.die i).sums = [] ∧ (t.dev.die i).flags = [] ∧ (t.dev.die i).quar = (s.dev.die i).quar ∧
        ∀ a, spBase i ≤ a → a < spBase i + spSize → t.mem.byte a = 0) ∧
      (∀ a, (∀ i, s.dev.isCompute i = true → a < spBase i ∨ spBase i + spSize ≤ a) → t.mem.byte a = s.mem.byte a) ∧
      t.dev.aon = s.dev.aon ∧ t.dev.chans = s.dev.chans ∧ t.dev.sluices = s.dev.sluices ∧ t.dev.grants = s.dev.grants ∧ t.dev.power = s.dev.power ∧
      t.dev.bist = s.dev.bist

/-! ## SPDM -/

namespace Sys2Proof.Claims

/-- The state after a response of function `fn`, the security processor left as `S` and `k` free values drawn. -/
def answered (s : State) (fn : Nat) (S : Sec) (k code p1 p2 : Nat) (body : Bytes) : State :=
  let v := (tget {} S.spdm fn).ver
  { s with dev := { s.dev with
      sec := S, freeCtr := s.dev.freeCtr + k
      out := .doe fn ([BitVec.ofNat 8 (if v = 0 then 0x10 else v), BitVec.ofNat 8 code, BitVec.ofNat 8 p1, BitVec.ofNat 8 p2] ++ body) :: s.dev.out } }
/-- An ERROR response. -/
def errorOf (s : State) (fn code : Nat) : State := answered s fn s.dev.sec 0 0x7F code 0 []
/-- The responder of function `fn` has negotiated up to `phase`. -/
def Talking (s : State) (fn phase : Nat) : Prop := s.dev.doeOk fn = true ∧ phase ≤ (s.dev.spdm fn).phase
/-- A request comes outside a session, or inside one that is open. -/
def within (s : State) (fn : Nat) (ses : Option Nat) : Prop := ∀ id, ses = some id → (s.dev.openSession fn id).isSome = true
/-- 32 random bytes from free values `k` and `k + 1`. -/
def rand32 (k : Nat) : Bytes := toLe 16 (Config.random k % 2 ^ 128) ++ toLe 16 (Config.random (k + 1) % 2 ^ 128)
/-- The alias key's signature, drawn at free value `k`. -/
def signed (s : State) (k : Nat) (msg : Bytes) : Bytes := (Config.ecdsaSign k s.dev.sec.aliasKey (sha384 msg) ++ zeros 96).take 96

end Sys2Proof.Claims

/-- R398, R399 (message layouts of the SPDM standard, entry 10): the responder of each function offers versions 1.2 and 1.3, its capabilities and its one set of
algorithms, gives the digest and the portions of the slot 0 chain, answers a challenge and gives measurements, and refuses requests out of order. -/
def Obligations.SpdmAnswers : Prop :=
  ∀ (s : State) (fn : Nat),
    (Talking s fn 0 → exec (.getVersion fn) s = .next
      (answered s fn { s.dev.sec with spdm := tset s.dev.sec.spdm fn { phase := 1 } } 0 4 0 0 [0, 2, 0x00, 0x12, 0x00, 0x13])) ∧
    (∀ ver, Talking s fn 1 → (ver = 0x12 ∨ ver = 0x13 → exec (.getCapabilities fn ver) s = .next
      (answered s fn { s.dev.sec with spdm := tset s.dev.sec.spdm fn { phase := 2, ver := ver } } 0 0x61 0 0
        [0, 14, 0, 0, 0xF6, 0x62, 0, 0, 0, 0x10, 0, 0, 0, 0x10, 0, 0])) ∧
      (ver ≠ 0x12 → ver ≠ 0x13 → exec (.getCapabilities fn ver) s = .next (errorOf s fn 65))) ∧
    (∀ alg : Algs, Talking s fn 2 → alg.ecdsaP384 = true → alg.sha384 = true → exec (.negotiateAlgorithms fn alg) s = .next
      (answered s fn { s.dev.sec with spdm := tset s.dev.sec.spdm fn { s.dev.spdm fn with phase := 3 } } 0 0x63 2 0
        ([48, 0, 1, 0, 2, 0, 0, 0, 0x80, 0, 0, 0, 2, 0, 0, 0] ++ zeros 12 ++ zeros 4 ++ [2, 0x20, if alg.secp384r1 then 0x10 else 0, 0] ++
          [3, 0x20, if alg.aes256gcm then 2 else 0, 0]))) ∧
    (∀ ses, Talking s fn 3 → within s fn ses →
      exec (.getDigests fn ses) s = .next (answered s fn s.dev.sec 0 1 0 1 (sha384 s.dev.sec.chain)) ∧
      (∀ off len, off < s.dev.sec.chain.length →
        let part := slice s.dev.sec.chain off (min len 4088)
        exec (.getCertificate fn ses 0 off len) s = .next (answered s fn s.dev.sec 0 2 0 0
          (toLe 2 part.length ++ toLe 2 (s.dev.sec.chain.length - off - part.length) ++ part))) ∧
      (∀ nonce, let body := sha384 s.dev.sec.chain ++ rand32 s.dev.freeCtr ++ [0, 0]
        exec (.challenge fn ses 0 nonce) s = .next (answered s fn s.dev.sec 3 3 0 1 (body ++ signed s (s.dev.freeCtr + 2) (nonce ++ body)))) ∧
      (∀ nonce idx sign,
        let all := s.dev.measurements fn nonce s.dev.freeCtr
        let got := if idx = 0 then [] else if idx = 0xFF then all else all.filter (·.1 == idx)
        let body := toLe 1 got.length ++ toLe 3 (got.flatMap Prod.snd).length ++ got.flatMap Prod.snd ++ rand32 (s.dev.freeCtr + 1) ++ [0, 0]
        let sigd := sign || got.any (·.1 == 0x40)
        (idx = 0 ∨ got ≠ []) → exec (.getMeasurements fn ses idx sign nonce) s = .next
          (answered s fn s.dev.sec (if sigd then 4 else 3) 0x60 (if idx = 0 then all.length else 0) 0
            (body ++ if sigd then signed s (s.dev.freeCtr + 3) (nonce ++ body) else [])))) ∧
    (∀ ses, s.dev.doeOk fn = true → (s.dev.spdm fn).phase < 3 → exec (.getDigests fn ses) s = .next (errorOf s fn 4))

/-- R191, R398, R402: KEY_EXCHANGE begins a session of which a function holds at most two; FINISH opens it when it verifies and ends it otherwise; KEY_UPDATE,
HEARTBEAT and END_SESSION work inside it, and a request inside a session that is not open is refused; IDE_KM sets, starts and stops the keys of streams 0 to 4 through
the PF alone. -/
def Obligations.SpdmSessions : Prop :=
  ∀ (s : State) (fn : Nat), Talking s fn 3 →
    (∀ reqId peer, let own := s.dev.sec.sessions.filter (·.fn == fn)
      let n := s.dev.freeCtr
      let rsp := s.dev.sec.sesCtr % 2 ^ 16
      let body := toLe 2 rsp ++ [0, 0] ++ rand32 (n + 1) ++ (Config.dhePublic n ++ zeros 96).take 96 ++ [0, 0]
      (own.length < 2 → exec (.keyExchange fn 0 reqId peer) s = .next
        (answered s fn { s.dev.sec with
            sesCtr := s.dev.sec.sesCtr + 1
            sessions := s.dev.sec.sessions ++ [{ fn := fn, id := reqId % 2 ^ 16 + 2 ^ 16 * rsp, secret := Config.exportSecret n peer }] }
          4 0x64 0 0 (body ++ signed s (n + 3) (peer ++ body) ++ (Config.verifyData n ++ zeros 48).take 48))) ∧
      (2 ≤ own.length → exec (.keyExchange fn 0 reqId peer) s = .next (errorOf s fn 10))) ∧
    (∀ ses x, s.dev.sec.sessions.find? (fun x => x.fn == fn && x.id == ses && !x.opened) = some x →
      exec (.finish fn ses true) s = .next (answered s fn { s.dev.sec with
        sessions := s.dev.sec.sessions.map fun x => if x.fn = fn ∧ x.id = ses then { x with opened := true } else x } 0 0x65 0 0 []) ∧
      exec (.finish fn ses false) s = .next (answered s fn { s.dev.sec with
        sessions := s.dev.sec.sessions.filter fun x => !(x.fn == fn && x.id == ses) } 0 0x7F 6 0 [])) ∧
    (∀ ses, (s.dev.openSession fn ses).isSome = true →
      (∀ op, op = 1 ∨ op = 2 → exec (.keyUpdate fn ses op) s = .next (answered s fn { s.dev.sec with
        sessions := s.dev.sec.sessions.map fun x => if x.fn = fn ∧ x.id = ses then { x with epoch := x.epoch + 1 } else x } 0 0x69 op 0 [])) ∧
      exec (.heartbeat fn ses) s = .next (answered s fn s.dev.sec 0 0x68 0 0 []) ∧
      exec (.endSession fn ses) s = .next (answered s fn { s.dev.sec with
        sessions := s.dev.sec.sessions.filter fun x => !(x.fn == fn && x.id == ses) } 0 0x6C 0 0 []) ∧
      (fn = 0 →
        exec (.ideKm 0 ses .query) s = .next (answered s 0 s.dev.sec 0 0x7E 1 0 [4]) ∧
        (∀ n k, n ≤ 4 → exec (.ideKm 0 ses (.keyProg n k)) s = .next (answered s 0 { s.dev.sec with
          ide := (n, k, false) :: s.dev.sec.ide.filter fun x => x.1 != n } 0 0x7E 3 0 (toLe 1 n))) ∧
        (∀ n k on, s.dev.sec.ide.find? (fun x => x.1 == n) = some (n, k, on) →
          exec (.ideKm 0 ses (.setGo n)) s = .next (answered s 0 { s.dev.sec with
            ide := (n, k, true) :: s.dev.sec.ide.filter fun x => x.1 != n } 0 0x7E 6 0 (toLe 1 n)) ∧
          exec (.ideKm 0 ses (.setStop n)) s = .next (answered s 0 { s.dev.sec with
            ide := (n, k, false) :: s.dev.sec.ide.filter fun x => x.1 != n } 0 0x7E 6 0 (toLe 1 n)))) ∧
      (fn ≠ 0 → ∀ m, exec (.ideKm fn ses m) s = .next (errorOf s fn 1))) ∧
    (∀ ses, s.dev.openSession fn ses = none → exec (.heartbeat fn ses) s = .next (errorOf s fn 6) ∧
      exec (.endSession fn ses) s = .next (errorOf s fn 6))

/-! ## Rings, doorbells and host reads -/

namespace Sys2Proof.Claims

/-- R199, R430: what an enable of ring `r`, its fields in place, asks for. -/
structure Enables (d : Dev) (r : Nat) : Prop where
  size : 6 ≤ (d.ring r).log2 ∧ (d.ring r).log2 ≤ 16 ∧ (d.ring r).kind ≤ 4
  base : (d.ring r).base % 4096 = 0
  owner : match d.ringPol r with
    | none => (d.ring r).kind = 4
    | some p => (d.pol p).hasCtx (d.ring r).owner = true
  cq : (d.ring r).kind = 0 → (d.ring (d.ring r).cq).st = 1 ∧ (d.ring (d.ring r).cq).kind = 1 ∧
    (d.ring (d.ring r).cq).owner = (d.ring r).owner ∧ d.ringPol (d.ring r).cq = d.ringPol r
  vector : (d.ring r).hostFills = false → (d.ring r).irqEn = true → (d.ring r).vector < vecCount (d.ringFn r)

end Sys2Proof.Claims

/-- R202, and of R201, R203 and R469 what a write does: a doorbell records an index that is ahead of the recorded one by less than 2^31 and leaves the ring no
fuller than it is; an index that is not ahead is ignored; one that is too far ahead is an overrun, which posts DOORBELL_OVERRUN and stops a ring that the host
fills, while a ring that the device fills goes on; a ring that is not ACTIVE counts the doorbell, and so does a function that does not own the ring; a write of
another size or with a reserved bit is discarded. -/
def Obligations.Doorbells : Prop :=
  ∀ (s : State) (fn r v : Nat), s.dev.hostReach fn = true → s.dev.running = true → r < 8192 → v < 2 ^ 32 →
    let R := s.dev.ring r
    let c := Instr.doorbell fn (64 * r) 8 v
    (s.dev.reachesPfD fn (s.dev.ringPol r) = false →
      Exactly c s (s.w.modHub fun h => { h with dbDropFn := tmod 0 h.dbDropFn fn fun x => sat64 (x + 1) })) ∧
    (s.dev.reachesPfD fn (s.dev.ringPol r) = true →
      (R.st ≠ 1 → Exactly c s (s.w.modRing r fun R => { R with dbDrop := sat64 (R.dbDrop + 1) })) ∧
      (R.st = 1 → R.hostFills = true →
        let ahead := sub32 v R.tail
        (ahead = 0 ∨ 2 ^ 31 ≤ ahead → Runs c s s.w) ∧
        (0 < ahead → ahead < 2 ^ 31 → sub32 v R.head ≤ R.size → Runs c s (s.w.modRing r fun R => { R with tail := v })) ∧
        (0 < ahead → ahead < 2 ^ 31 → R.size < sub32 v R.head →
          exec c s = .next (s.commit ((s.w.ringLeaves r 3 2).ringEvent r stDOORBELL_OVERRUN 0 v).settle) ∧
          ∃ t, exec c s = .next t ∧ t.dev.ring r = { R with st := 3, cause := 2, batch := [] })) ∧
      (R.st = 1 → R.hostFills = false →
        let ahead := sub32 v R.head
        (ahead = 0 ∨ 2 ^ 31 ≤ ahead → Runs c s s.w) ∧
        (0 < ahead → ahead < 2 ^ 31 → sub32 R.tail v ≤ R.size → Runs c s (s.w.modRing r fun R => { R with head := v })) ∧
        (0 < ahead → ahead < 2 ^ 31 → R.size < sub32 R.tail v →
          exec c s = .next (s.commit (s.w.ringEvent r stDOORBELL_OVERRUN 0 v).settle) ∧
          ∃ t, exec c s = .next t ∧ ((s.dev.ring r).kind ≠ 4 → t.dev.ring r = R))) ∧
      (∀ off size x, off / 64 = r → size ≠ 8 ∨ off % 64 ≠ 0 ∨ 2 ^ 32 ≤ x → exec (.doorbell fn off size x) s = .next s))

/-- R193, R204, R206, R246: the entries of a ring are read at most 16 at a time and never past the end of the ring's memory; what comes back joins the ring's
batch; a read that fails stops the ring with HOST_FAULT, and so does one that times out; data for another purpose waits, with its error detail, for the command
that uses it. -/
def Obligations.EntriesAndReads : Prop :=
  (∀ (s : State) (r : Nat), s.dev.mayFetch r = true →
    let R := s.dev.ring r
    let n := min (min 16 (sub32 R.tail R.head)) (R.size - R.head % R.size)
    let x : HRead := { tag := s.dev.hub.readTag, addr := R.entryAddr R.head, len := n * entrySize R.kind, purpose := .entries r R.head n }
    Exactly (.entryFetch r) s
      { s.w with d := { s.dev with
          hub := { s.dev.hub with readTag := s.dev.hub.readTag + 1, reads := s.dev.hub.reads ++ [x] }
          out := .hostRead (linkTag x.tag) x.addr x.len :: s.dev.out } } ∧
    n ≤ 16 ∧ n ≤ sub32 R.tail R.head ∧ x.addr + x.len ≤ R.base + R.size * entrySize R.kind ∧ R.base ≤ x.addr) ∧
  (∀ (s : State) (tag : Nat) (x : HRead), s.dev.hread tag = some x → x.res = none →
    let kept := s.dev.hub.reads.filter (·.tag != tag)
    let back (res : ReadRes) := s.dev.hub.reads.map fun y => if y.tag = tag then { y with res := some res } else y
    (∀ r first n bs, x.purpose = .entries r first n → bs.length = x.len → s.dev.aon.linkUp = true →
      (s.dev.ring r).st = 1 → Runs (.hostReadCompletion tag (.ok bs)) s
        ((s.w.modHub fun h => { h with reads := kept }).modRing r fun R => { R with batch := cutEntries (entrySize R.kind) n bs })) ∧
    (∀ r first n det, x.purpose = .entries r first n → (s.dev.ring r).st = 1 → (s.dev.ring r).kind ≠ 4 →
      (1 ≤ det → det ≤ 3 → s.dev.aon.linkUp = true → ∃ t, exec (.hostReadCompletion tag (.err det)) s = .next t ∧ t.pending = s.pending ∧
        t.fuses = s.fuses ∧ t.dev.ring r = { s.dev.ring r with st := 3, cause := 3, batch := [] }) ∧
      (∃ t, exec (.hostReadTimeout tag) s = .next t ∧ t.pending = s.pending ∧ t.fuses = s.fuses ∧
        t.dev.ring r = { s.dev.ring r with st := 3, cause := 3, batch := [] })) ∧
    ((∀ r first n, x.purpose ≠ .entries r first n) →
      (∀ bs, bs.length = x.len → s.dev.aon.linkUp = true →
        Exactly (.hostReadCompletion tag (.ok bs)) s (s.w.modHub fun h => { h with reads := back (.ok bs) })) ∧
      Exactly (.hostReadTimeout tag) s (s.w.modHub fun h => { h with reads := back (.err 4) })))

/-- R197 to R200, R232, R444: an enable that meets every condition starts the ring at index and sequence number zero and locks the version of its function;
one that does not leaves the ring STOPPED with CONFIG; a disable drains the ring, but not a COMPLETE ring that a SUBMIT ring may still write to; a drained ring with no
descriptor in progress is DISABLED; the version is selected before the function's first ring starts. -/
def Obligations.RingLifeCycle : Prop :=
  (∀ (s : State) (fn r v : Nat), Reaches s fn (s.dev.ringPol r) → r < 8192 → (s.dev.ring r).st = 0 → bits v 2 0 ≤ 4 →
    let set (R : Ring) : Ring := { R with kind := bits v 2 0, cq := if bits v 2 0 = 0 then bits v 28 16 else 0, log2 := bits v 11 8 }
    (Enables (s.w.modRing r set).d r → Runs (.ringEnable fn r v) s
      ((s.w.modRing r fun R =>
        { set R with st := 1, cause := 0, head := 0, tail := 0, seq := 0, dbDrop := 0, batch := [], desc := none, reserved := 0, since := 0 }).modHub
        fun h => { h with ifSel := tmod (0x20, false) h.ifSel fn fun x => (x.1, true) })) ∧
    (¬ Enables (s.w.modRing r set).d r → Runs (.ringEnable fn r v) s
      ((s.w.modRing r fun R => { set R with st := 3, cause := 1 }).modHub fun h =>
        { h with ignored := true, errFn := fn, errWrite := true, errOff := ringOff fn r 0x10 }))) ∧
  (∀ (s : State) (fn r : Nat), Reaches s fn (s.dev.ringPol r) → r < 8192 → (s.dev.ring r).st = 1 ∨ (s.dev.ring r).st = 3 →
    (s.dev.ring r).kind ≤ 4 → (s.dev.ring r).log2 < 16 → (s.dev.ring r).cq < 8192 →
    ((s.dev.ring r).kind = 1 → s.dev.cqBusy r = true → Runs (.ringDisable fn r) s
      ((s.w.modRing r fun R => { R with cause := 1 }).modHub fun h =>
        { h with ignored := true, errFn := fn, errWrite := true, errOff := ringOff fn r 0x10 })) ∧
    ((s.dev.ring r).kind ≠ 1 ∨ s.dev.cqBusy r = false → (s.dev.ring r).kind ≠ 4 → (s.dev.ring r).waits = false →
      ∃ t, exec (.ringDisable fn r) s = .next t ∧ t.pending = s.pending ∧ t.fuses = s.fuses ∧
        t.dev.ring r = { s.dev.ring r with st := 2, batch := [] } ∧
        (∀ i, i ≠ r → (s.dev.ring i).kind ≠ 4 → t.dev.ring i = s.dev.ring i))) ∧
  (∀ (s : State) (r : Nat), (s.dev.ring r).st = 2 → (s.dev.ring r).desc = none →
    Runs (.ringDrainComplete r) s (s.w.modRing r fun R => { R with st := 0 })) ∧
  (∀ (s : State) (fn v : Nat), s.dev.hostReach fn = true → s.dev.running = true →
    let x := tget (0x20, false) s.dev.hub.ifSel fn
    (x.2 = false → v = 0x20 ∨ v = 0x21 → Runs (.ringIfSel fn v) s (s.w.modHub fun h => { h with ifSel := tset h.ifSel fn (v, false) })) ∧
    (x.2 = true ∨ v ≠ 0x20 ∧ v ≠ 0x21 → Runs (.ringIfSel fn v) s (refusedAt s fn (barOff fn 0x880004 0xC2004))))

/-! ## Descriptors -/

namespace Sys2Proof.Claims

/-- The state once ring `r` has taken its entry, which `f` shows as in progress. -/
def inProgress (s : State) (r : Nat) (f : Desc → Desc) : W := (s.w.take r).modRing r fun R => { R with desc := R.desc.map f }
/-- The device after a host read whose answer the command carries. -/
def asked (d : Dev) : Dev := { d with hub := { d.hub with readTag := d.hub.readTag + 1 } }
/-- No ring but `r` has a COPY in progress or waiting on channel `c`. -/
def onlyCopy (s : State) (c r : Nat) : Prop := ∀ x ∈ s.dev.rings, x.1 ≠ r → x.2.copyOn c = none
/-- No ring has one. -/
def noCopy (s : State) (c : Nat) : Prop := ∀ x ∈ s.dev.rings, x.2.copyOn c = none

/-- The descriptor commands but JOB, with the entries that each takes and the layout of R207 to R216 that each asks for. -/
def descCmds (r : Nat) (blob : ReadRes) : List (Instr × (Bytes → Bool) × (Bytes → Bool)) :=
  [(.nop r, fun b => dType b == 0 || decide (dType b > 7), fun b => dType b == 0 && isZero b 8 0x38),
    (.sluWait r, fun b => dType b == 2, fun b => fld b 8 8 / 2 ^ 13 == 0 && isZero b 0x18 0x28),
    (.sluSignal r, fun b => dType b == 3 && !isSet b, signalLayoutOk), (.sluSet r, fun b => dType b == 3 && isSet b, signalLayoutOk),
    (.copy r, fun b => dType b == 4, copyLayoutOk), (.tableLoad r, fun b => dType b == 5, tableLoadOk), (.tableActivate r, fun b => dType b == 6, tableActOk),
    (.keyInstall r blob, fun b => dType b == 7 && keyOp b != 1, keyLayoutOk), (.keyErase r, fun b => dType b == 7 && keyOp b == 1, keyLayoutOk)]

end Sys2Proof.Claims

/-- R208: of every descriptor, first the version is judged, then the reserved fields; one that fails completes with that status and has no other effect. -/
def Obligations.DescriptorsRefused : Prop :=
  ∀ (s : State) (r : Nat) (e : Bytes) (blob : ReadRes), Takes s r e → ∀ x ∈ descCmds r blob, x.2.1 e = true →
    (s.dev.verOk (s.dev.ringFn r) (dVer e) = false → Ends x.1 s s.dev s.mem r e { status := stVERSION_BAD }) ∧
    (s.dev.verOk (s.dev.ringFn r) (dVer e) = true → headOk e = false ∨ x.2.2 e = false → Ends x.1 s s.dev s.mem r e { status := stRESERVED_NONZERO })

/-- R211, R212, R220, R234, R235, R238, R239, R317: NOP completes; a WAIT whose context may wait completes with the sluice's value when that has reached the threshold and
else is held; a SIGNAL or SET of a sluice of this device adds or sets, saturating an add, and completes with the new value; each without the right is denied; a
held WAIT completes once the value that it waits for is there; and a SIGNAL or SET of another chip's sluice is sent there under the polder's key. -/
def Obligations.SluiceDescriptors : Prop :=
  (∀ (s : State) (r : Nat) (e : Bytes), Takes s r e → dType e = 0 → Passes s r e (isZero e 8 0x38) → Ends (.nop r) s s.dev s.mem r e {}) ∧
  (∀ (s : State) (r : Nat) (e : Bytes), Takes s r e → dType e = 2 → Passes s r e (fld e 8 8 / 2 ^ 13 == 0 && isZero e 0x18 0x28) →
    let i := fld e 8 8 % 2 ^ 13
    let v := (s.dev.sluice i).value
    let ok := s.dev.granted i (s.dev.ring r).owner .wait
    (ok = false → Ends (.sluWait r) s s.dev s.mem r e { status := stGRANT_DENIED }) ∧
    (ok = true → fld e 0x10 8 ≤ v → Ends (.sluWait r) s s.dev s.mem r e { info := u32 v }) ∧
    (ok = true → v < fld e 0x10 8 → Runs (.sluWait r) s (inProgress s r fun D => { D with waiting := true }))) ∧
  (∀ x : (Nat → Instr) × Bool × Right, x = (Instr.sluSignal, false, Right.signal) ∨ x = (Instr.sluSet, true, Right.set) →
    ∀ (s : State) (r i : Nat) (e : Bytes), Takes s r e → dType e = 3 → isSet e = x.2.1 → Passes s r e (signalLayoutOk e) →
      fld e 8 8 / 2 ^ 48 = s.dev.hub.chip → sluiceAt (fld e 8 8 % 2 ^ 48) = some i →
      let S := s.dev.sluice i
      let n := fld e 0x10 8
      let S' : Sluice := if x.2.1 then { S with value := n }
        else if S.value + n < 2 ^ 64 then { S with value := S.value + n } else { S with value := 2 ^ 64 - 1, sat := true }
      (s.dev.granted i (s.dev.ring r).owner x.2.2 = false → Ends (x.1 r) s s.dev s.mem r e { status := stGRANT_DENIED }) ∧
      (s.dev.granted i (s.dev.ring r).owner x.2.2 = true → s.dev.waiters i = [] →
        Ends (x.1 r) s { s.dev with sluices := tset s.dev.sluices i S' } s.mem r e { info := u32 S'.value }) ∧
      (s.dev.granted i (s.dev.ring r).owner x.2.2 = true → ∀ k D, s.dev.waiters i = [k] → (s.dev.ring k).desc = some D →
        (s.dev.ring (s.dev.ring k).cq).kind = 1 → (s.dev.ring k).kind = 0 →
        ∃ t, exec (x.1 r) s = .next t ∧ t.pending = s.pending ∧ t.mem = s.mem ∧ t.dev.sluice i = S' ∧ (t.dev.ring r).desc = none ∧
          (fld D.bytes 0x10 8 ≤ S'.value → (t.dev.ring k).desc = none) ∧ (S'.value < fld D.bytes 0x10 8 → (t.dev.ring k).desc = some D))) ∧
  (∀ (s : State) (r p : Nat) (e : Bytes), Takes s r e → s.dev.ringPol r = some p → dType e = 3 → Passes s r e (signalLayoutOk e) →
    let cmd := if isSet e then Instr.sluSet r else .sluSignal r
    let key := (s.dev.pol p).keyNow
    (fld e 8 8 / 2 ^ 48 = s.dev.hub.chip → sluiceAt (fld e 8 8 % 2 ^ 48) = none →
      Ends cmd s s.dev s.mem r e { status := stADDRESS_FAULT, detail := dUNPOPULATED }) ∧
    (fld e 8 8 / 2 ^ 48 ≠ s.dev.hub.chip →
      (∀ k, key = some k → (s.dev.pol p).hasKey k = false → Ends cmd s s.dev s.mem r e { status := stKEY_SLOT_DENIED }) ∧
      ((∀ k, key = some k → (s.dev.pol p).hasKey k = true) →
        let x := (s.w.take r).issueOp { id := 0, issuer := .ring p r, kind := if isSet e then .set else .add, chip := fld e 8 8 / 2 ^ 48, addr := fld e 8 8
                                        payload := toLe 8 (fld e 0x10 8), key := key }
        Runs cmd s (x.2.modRing r fun R => { R with desc := R.desc.map fun D => { D with op := some x.1 } }).pumpAll)))

/-- R216, R339, R340, R402: an install of a slot of the polder reads the 80 bytes of its blob, unwraps them, records the counter in the session, and the slot holds the
key with its sequence numbers and replay windows new; an erase leaves it empty; each waits for a running job, and a slot of another polder, another length, a
blob that does not unwrap and a read that fails are refused. -/
def Obligations.KeyDescriptors : Prop :=
  ∀ (s : State) (r p : Nat) (e : Bytes), Takes s r e → s.dev.ringPol r = some p → dType e = 7 → Passes s r e (keyLayoutOk e) →
    let k := fld e 8 2 % 2 ^ 10
    let keyed (S : Sec) (key : Key) : Dev := { s.dev with
      sec := S, fabric := { s.dev.fabric with keys := tset s.dev.fabric.keys k key, windows := s.dev.fabric.windows.filter (·.slot != k) } }
    (fld e 0xA 1 = 1 →
      ((s.dev.pol p).hasKey k = false → Ends (.keyErase r) s s.dev s.mem r e { status := stKEY_SLOT_DENIED }) ∧
      ((s.dev.pol p).hasKey k = true → (s.dev.pol p).job = none → Ends (.keyErase r) s (keyed s.dev.sec {}) s.mem r e {}) ∧
      ((s.dev.pol p).hasKey k = true → (s.dev.pol p).job ≠ none → Runs (.keyErase r) s ((s.w.take r).modFabric fun F =>
        { F with keyWait := F.keyWait ++ [{ slot := k, key := none, polder := p, ring := r }] }))) ∧
    (fld e 0xA 1 = 0 → ∀ blob,
      ((s.dev.pol p).hasKey k = false → Ends (.keyInstall r blob) s s.dev s.mem r e { status := stKEY_SLOT_DENIED }) ∧
      ((s.dev.pol p).hasKey k = true → fld e 0xC 4 ≠ 80 → Ends (.keyInstall r blob) s s.dev s.mem r e { status := stKEY_BAD }) ∧
      ((s.dev.pol p).hasKey k = true → fld e 0xC 4 = 80 →
        (∃ t, exec (.keyInstall r blob) s = .next t ∧ .hostRead (linkTag s.dev.hub.readTag) (fld e 0x10 8) 80 ∈ t.dev.out) ∧
        (∀ det, blob = .err det → Ends (.keyInstall r blob) s (asked s.dev) s.mem r e { status := stHOST_READ_FAULT, detail := det }) ∧
        (∀ bs, blob = .ok bs →
          (s.dev.unwrap (s.dev.driver p) k bs = none → Ends (.keyInstall r blob) s (asked s.dev) s.mem r e { status := stKEY_BAD }) ∧
          (∀ ses ctr key, s.dev.unwrap (s.dev.driver p) k bs = some (ses, ctr, key) →
            let S : Sec := { s.dev.sec with sessions := s.dev.sec.sessions.map fun x =>
              if (x.fn = s.dev.driver p ∧ x.id = ses) then { x with counter := ctr } else x }
            ((s.dev.pol p).job = none →
              Ends (.keyInstall r blob) s (asked (keyed S { valid := true, key := key })) s.mem r e {}) ∧
            ((s.dev.pol p).job ≠ none → Runs (.keyInstall r blob) s ((((s.w.take r).askHost (fld e 0x10 8) 80).modSec fun _ => S).modFabric fun F =>
              { F with keyWait := F.keyWait ++ [{ slot := k, key := some key, polder := p, ring := r }] }))))))

/-! ## Copies, channels and apertures -/

/-- R213, R219, R228: a COPY of nothing completes at once; one within the device is in progress; one on a channel that is allotted, in COPY mode, ACTIVE, wide enough and idle
begins; a COPY whose data may move moves all of it, in ascending order, advances its channel's pointer, and completes with the bytes moved. -/
def Obligations.CopyDescriptors : Prop :=
  (∀ (s : State) (r : Nat) (e : Bytes), Takes s r e → dType e = 4 → Passes s r e (copyLayoutOk e) →
    (fld e 0xC 4 = 0 → Ends (.copy r) s s.dev s.mem r e {}) ∧
    (fld e 0xC 4 ≠ 0 → fld e 9 1 = 2 → Runs (.copy r) s (s.w.take r)) ∧
    (fld e 0xC 4 ≠ 0 → fld e 9 1 < 2 → ∀ p, s.dev.ringPol r = some p →
      ((s.dev.pol p).hasChan (fld e 8 1) = false → Ends (.copy r) s s.dev s.mem r e { status := stCHANNEL_STATE, detail := 1 }) ∧
      ((s.dev.pol p).hasChan (fld e 8 1) = true → noCopy s (fld e 8 1) →
        (∀ st det, s.dev.copyRefused p e = some (st, det) → Ends (.copy r) s
          { s.dev with hub := { s.dev.hub with readTag := s.dev.hub.readTag + 1 } } s.mem r e { status := st, detail := det }) ∧
        (s.dev.copyRefused p e = none →
          let w := (inProgress s r fun D => { D with tag := some s.dev.hub.readTag }).modHub fun h => { h with readTag := h.readTag + 1 }
          Runs (.copy r) s (if fld e 9 1 = 1 then w
            else w.each (hostPieces (fld e 0x10 8) (fld e 0xC 4)) fun w x => (w.hostRead x.2.1 x.2.2 (.descData r)).2))))) ∧
  (∀ (s : State) (r : Nat) (D : Desc) (fx : MemFx), (s.dev.ring r).desc = some D → dType D.bytes = 4 → D.queued = false → fx.fail = .none →
    (s.dev.ring (s.dev.ring r).cq).kind = 1 → (s.dev.ring r).kind = 0 →
    let p := (s.dev.ringPol r).getD 16
    let b := D.bytes
    let n := fld b 0xC 4
    let ptr := (s.dev.chan (fld b 8 1)).ptr
    let done (t : State) := (t.dev.ring r).desc = none ∧ (dQuiet b = false →
      .hostWrite ((s.dev.ring (s.dev.ring r).cq).entryAddr (s.dev.ring (s.dev.ring r).cq).tail)
        (recordBytes r (s.dev.ring r).size D ((s.dev.ring (s.dev.ring r).cq).phase (s.dev.ring (s.dev.ring r).cq).tail)
          { check := fxSummary fx, info := n }) ∈ t.dev.out)
    (fld b 9 1 = 2 → s.dev.descReads r = [] → s.dev.reach .copy p (fld b 0x10 8) n false = (n, none) →
      s.dev.reach .copy p (fld b 0x18 8) n true = (n, none) →
      ∃ t, exec (.copyComplete r fx) s = .next t ∧ t.pending = s.pending ∧ t.fuses = s.fuses ∧ done t ∧
        t.mem = s.mem.applyAll (s.w.copyUp (fld b 0x18 8) (fld b 0x10 8) n).ops ∧ t.dev.chans = s.dev.chans) ∧
    (fld b 9 1 = 0 → onlyCopy s (fld b 8 1) r → ∀ data, (∀ x ∈ s.dev.descReads r, x.res.isSome = true) →
      arrivedData (s.dev.descReads r) = (data, none) → data.length = n → s.dev.reach .copy p ptr n true = (n, none) →
      ∃ t, exec (.copyComplete r fx) s = .next t ∧ t.pending = s.pending ∧ t.fuses = s.fuses ∧ done t ∧ t.mem = s.mem.apply (.write ptr data) ∧
        t.dev.chans = tmod {} s.dev.chans (fld b 8 1) fun C => { C with ptr := C.ptr + n }) ∧
    (fld b 9 1 = 1 → onlyCopy s (fld b 8 1) r → s.dev.descReads r = [] → s.dev.reach .copy p ptr n false = (n, none) →
      ∃ t, exec (.copyComplete r fx) s = .next t ∧ t.pending = s.pending ∧ t.fuses = s.fuses ∧ done t ∧ t.mem = s.mem ∧
        (∀ x ∈ hostPieces (fld b 0x18 8) n, .hostWrite x.2.1 (slice (s.w.readDev ptr n) x.1 x.2.2) ∈ t.dev.out) ∧
        t.dev.chans = tmod {} s.dev.chans (fld b 8 1) fun C => { C with ptr := C.ptr + n }))

/-- R226 to R228, R391: a channel is enabled where its range is memory that its polder may reach, and refused elsewhere; a host write to its aperture lands at its pointer, which
moves on, and one that would pass its limit stops the channel; a host read takes from its pointer; a channel in another mode drops a write and answers a read with
ones; a disable ends it; and before firmware runs channel 0 fills the firmware store. -/
def Obligations.ChannelsAndApertures : Prop :=
  (∀ (s : State) (fn c v : Nat), Reaches s fn (s.dev.chanPol c) → c < 256 →
    let C := s.dev.chan c
    let mode := if v % 4 = 3 then C.mode else v % 4
    let ok := ∃ p, s.dev.chanPol c = some p ∧ C.ptr ≤ C.limit ∧ (C.ptr = C.limit ∨ s.dev.reachAll .copy p C.ptr (C.limit - C.ptr) false = none)
    (C.st = 0 → (ok → Runs (.channelEnable fn c v) s (s.w.modChan c fun C => { C with mode := mode, st := 1, drop := 0 })) ∧
      (¬ ok → Runs (.channelEnable fn c v) s
        ((s.w.modChan c fun C => { C with mode := mode }).modHub fun h =>
          { h with ignored := true, errFn := fn, errWrite := true, errOff := chanOff fn c 0x10 }))) ∧
    (C.st ≠ 0 → C.mode < 4 → noCopy s c → Runs (.channelDisable fn c) s (s.w.modChan c fun C => { C with st := 0 }))) ∧
  (∀ (s : State) (fn ap c p : Nat) (fx : MemFx), s.dev.hostReach fn = true → s.dev.running = true → s.dev.apChan fn ap = some c →
    s.dev.chanPol c = some p → p < 16 → fx.fail = .none →
    let C := s.dev.chan c
    let fixed := s.w.countFx p fx
    let ones (n : Nat) := s.w.emit (.completion (some (List.replicate n 0xFF)))
    (∀ data : Bytes, data ≠ [] →
      (C.st ≠ 1 ∨ C.mode ≠ 0 → Runs (.hostWriteAperture fn ap data false fx) s (s.w.modChan c fun C => { C with drop := sat64 (C.drop + 1) })) ∧
      (C.st = 1 → C.mode = 0 → C.ptr + data.length ≤ C.limit → s.dev.reach .copy p C.ptr data.length true = (data.length, none) →
        Runs (.hostWriteAperture fn ap data false fx) s
          ((fixed.write C.ptr data).modChan c fun C => { C with ptr := C.ptr + data.length })) ∧
      (C.st = 1 → C.mode = 0 → C.limit < C.ptr + data.length → Runs (.hostWriteAperture fn ap data false fx) s
        (s.w.modChan c fun C => { C with st := 2, status := stCHANNEL_LIMIT, detail := 0 }))) ∧
    (∀ n,
      (C.mode ≠ 1 → Runs (.hostReadAperture fn ap n fx) s (ones n)) ∧
      (C.mode = 1 → C.st ≠ 1 → Runs (.hostReadAperture fn ap n fx) s (s.w.emit (.completion none))) ∧
      (C.mode = 1 → C.st = 1 → C.ptr + n ≤ C.limit → s.dev.reach .copy p C.ptr n false = (n, none) →
        Runs (.hostReadAperture fn ap n fx) s
          ((fixed.emit (.completion (some (s.w.readDev C.ptr n)))).modChan c fun C => { C with ptr := C.ptr + n })))) ∧
  (∀ (s : State) (data : Bytes) (fx : MemFx), s.dev.hostReach 0 = true → s.dev.running = false → data ≠ [] → (s.dev.chan 0).st = 1 →
    (s.dev.chan 0).ptr + data.length ≤ (s.dev.chan 0).limit →
    Exactly (.hostWriteAperture 0 0 data false fx) s
      ((s.w.write (storeBase + (s.dev.chan 0).ptr) data).modChan 0 fun C => { C with ptr := C.ptr + data.length }))

/-! ## Functions, vectors, sluices, grants, contexts -/

/-- R194, R231, R233, R240, R241: the host enables virtual functions once firmware runs; an unmasked vector sends what was pending, to the
address and with the data of its table entry, unless its function is masked; a new owner of a sluice zeroes it, and
is ignored for a context outside its polder or while a WAIT is held on it, while a write of the same owner only clears SAT; the PF writes any grant but one of WAIT
to another chip, a VF only grants within its polder. -/
def Obligations.FunctionsAndGrants : Prop :=
  (∀ (s : State) (n : Nat), s.dev.aon.linkUp = true → n ≤ 16 →
    (s.dev.running = true → Runs (.vfEnable n) s (s.w.modHub fun h => { h with numVfs := n })) ∧
    (s.dev.running = false → Exactly (.vfEnable n) s s.w)) ∧
  (∀ (s : State) (fn vec : Nat), s.dev.hostReach fn = true → vec < vecCount fn →
    let V := s.dev.vec fn vec
    (V.pend = true ∧ s.dev.fnMasked fn = false → Exactly (.msixUnmask fn vec) s
      ((s.w.modVec fn vec fun v => { v with masked := false, pend := false }).emit (.msix fn vec V.addr V.data))) ∧
    (V.pend = false ∨ s.dev.fnMasked fn = true → Exactly (.msixUnmask fn vec) s (s.w.modVec fn vec fun v => { v with masked := false }))) ∧
  (∀ (s : State) (fn i v : Nat), Reaches s fn (s.dev.sluPol i) → i < 8192 →
    let S := s.dev.sluice i
    let same := v.testBit 31 = S.valid ∧ bits v 11 0 = S.ctx
    (same → Runs (.sluOwner fn i v) s (s.w.modSluice i fun S => { S with sat := S.sat && !v.testBit 30 })) ∧
    (¬ same → ∀ p, s.dev.sluPol i = some p →
      ((s.dev.pol p).hasCtx (bits v 11 0) = true → s.dev.waiters i = [] →
        Runs (.sluOwner fn i v) s (s.w.modSluice i fun _ => { value := 0, valid := v.testBit 31, sat := false, ctx := bits v 11 0 })) ∧
      ((s.dev.pol p).hasCtx (bits v 11 0) = false ∨ s.dev.waiters i ≠ [] → Runs (.sluOwner fn i v) s (refusedAt s fn (sluOff fn (4 * i)))))) ∧
  (∀ (s : State) (fn g v : Nat), Reaches s fn (some (g / 256)) → g < 4096 →
    let e := grantFields v
    let slu := e % 2 ^ 13
    let p := g / 256
    let may := fn = 0 ∨ (p + 1 = fn ∧ e.testBit 51 = false ∧ (s.dev.sluice slu).valid = true ∧ s.dev.sluPol slu = some p ∧
      (s.dev.pol p).hasCtx (s.dev.sluice slu).ctx = true ∧ (s.dev.pol p).hasCtx (bits e 28 16) = true)
    (may → ¬ (e.testBit 48 = true ∧ e.testBit 51 = true) → Runs (.sluGrant fn g v) s (s.w.dev fun d => { d with grants := tset d.grants g e })) ∧
    (¬ may ∨ e.testBit 48 = true ∧ e.testBit 51 = true → Runs (.sluGrant fn g v) s (refusedAt s fn (sluOff fn (0x8000 + 8 * g)))))

/-- R243, R244, R250: a context of a READY polder is enabled SAVED, with nothing saved and its budget empty; it is disabled once its rings are DISABLED, a read
of its save record forgotten; and a save record that reads back as it was written last makes it RESIDENT, while any other makes it FAULTED and stops its rings. -/
def Obligations.Contexts : Prop :=
  (∀ (s : State) (fn n v p : Nat), Reaches s fn (s.dev.ctxPol n) → n < 4096 → s.dev.ctxPol n = some p → (s.dev.ctx n).enable = false →
    fn = 0 ∨ v % 2 ^ 16 = (s.dev.ctx n).tenant →
    ((s.dev.pol p).st = 2 → (s.dev.pol p).svc.st = 0 → Runs (.ctxEnable fn n v) s (s.w.modCtx n fun C =>
      { C with
        tenant := v % 2 ^ 16, enable := true, res := 1, slot := 0, record := none, act := 0, since := s.dev.aon.hub, pend := 0, budget := 0
        lastRing := none })) ∧
    ((s.dev.pol p).st ≠ 2 → v % 2 ^ 16 = (s.dev.ctx n).tenant → Runs (.ctxEnable fn n v) s (refusedAt s fn (ctxOff fn n 0)))) ∧
  (∀ (s : State) (fn n p : Nat), Reaches s fn (s.dev.ctxPol n) → n < 4096 → s.dev.ctxPol n = some p → (s.dev.ctx n).enable = true →
    (s.dev.ctx n).tenant < 2 ^ 16 →
    let idle := ∀ r ∈ s.dev.ctxRings p n, (s.dev.ring r).st = 0
    (idle → Runs (.ctxDisable fn n) s ((s.w.dropReads fun f => f == .saveRec n).modCtx n fun C =>
      { C with enable := false, res := 0, slot := 0, record := none, act := 0, pend := 0, budget := 0, lastRing := none })) ∧
    (¬ idle → Runs (.ctxDisable fn n) s (refusedAt s fn (ctxOff fn n 0)))) ∧
  (∀ (s : State) (n p : Nat) (x : HRead), (s.dev.ctx n).res = 2 → s.dev.ctxPol n = some p →
    s.dev.hub.reads.find? (fun x => x.purpose == .saveRec n) = some x →
    (∀ bs, x.res = some (.ok bs) → (s.dev.ctx n).record = some bs →
      Runs (.contextLoadComplete n) s ((s.w.dropRead x.tag).modCtx n fun C => { C with res := 3 })) ∧
    ((∃ det, x.res = some (.err det)) ∨ (∃ bs, x.res = some (.ok bs) ∧ (s.dev.ctx n).record ≠ some bs) →
      ∃ t, exec (.contextLoadComplete n) s = .next t ∧ t.pending = s.pending ∧ t.fuses = s.fuses ∧ (t.dev.ctx n).res = 5 ∧
        ∀ r ∈ s.dev.ctxRings p n, (s.dev.ring r).st = 1 → (s.dev.ring r).kind ≠ 4 →
          (t.dev.ring r).st = 3 ∧ (t.dev.ring r).cause = 3 ∧ (t.dev.ring r).batch = []))

/-! ## Tables -/

namespace Sys2Proof.Claims

/-- What R124 does to a double bank. -/
def exchangeOf (w : W) : Act → W
  | .exchange x y => w.exchange x y
  | _ => w
/-- The tenant record that a descriptor of context `n` of polder `p` leaves, its tag being the one on record or the first (R255, R256). -/
def tagged (s : State) (p n : Nat) : W :=
  s.w.modPol p fun P => { P with tenant := some (s.dev.ctx n).tenant, tblCtx := P.tblCtx.filter (· != n) ++ [n] }
/-- No other tenant is on record. -/
def sameTenant (s : State) (p n : Nat) : Prop := (s.dev.pol p).tenant = none ∨ (s.dev.pol p).tenant = some (s.dev.ctx n).tenant
/-- The load of ring `r`'s descriptor in progress `D` may end: its source has been read as `res`, or it has none; `w` is the state with that read consumed. -/
structure Loading (s : State) (r p : Nat) (D : Desc) (res : ReadRes) (w : W) : Prop where
  busy : Busy s r D
  pol : s.dev.ringPol r = some p
  type : dType D.bytes = 5
  held : D.held = false
  src : (∃ t, D.tag = some t ∧ (s.dev.hread t).bind (·.res) = some res ∧ w = s.w.dropRead t) ∨ (D.tag = none ∧ res = .ok [] ∧ w = s.w)
  idle : ∀ j, (s.dev.pol p).job = some j → j.stage ≠ .bankWait

end Sys2Proof.Claims

/-- R122, R123, R214: a load of banks none of which refuses it makes every target bank LOADING, an EMPTY one from zero entries, and reads its source; the first bank that
refuses gives the status; one that waits for a running job is held. -/
def Obligations.TableLoads : Prop :=
  ∀ (s : State) (r p : Nat) (e : Bytes), Takes s r e → s.dev.ringPol r = some p → dType e = 5 → Passes s r e (tableLoadOk e) →
    let n := (s.dev.ring r).owner
    let l := s.dev.targetBanks p (tTarget e) (tBank e)
    (s.dev.tableWaits p r e = true → Runs (.tableLoad r) s (inProgress s r fun D => { D with held := true })) ∧
    (s.dev.tableWaits p r e = false → (tTarget e < 2 → sameTenant s p n) →
      (∀ st, s.dev.loadRefusal l = some st →
        Ends (.tableLoad r) s (if tTarget e < 2 then (tagged s p n).d else s.dev) s.mem r e { status := st }) ∧
      (s.dev.loadRefusal l = none → ∃ t, exec (.tableLoad r) s = .next t ∧ t.pending = s.pending ∧ t.fuses = s.fuses ∧
        (∀ i ∈ l, t.dev.bank i = if (s.dev.bank i).st = 1 then { s.dev.bank i with st := 2, vals := [], dflt := 0, user := [] }
          else { s.dev.bank i with st := 2 }) ∧
        (∀ i, i ∉ l → t.dev.bank i = s.dev.bank i) ∧
        (tLen e ≠ 0 → (t.dev.ring r).desc = some { bytes := e, seq := (s.dev.ring r).seq, tag := some s.dev.hub.readTag } ∧
          ({ tag := s.dev.hub.readTag, addr := fld e 0x10 8, len := tLen e, purpose := .descData r } : HRead) ∈ t.dev.hub.reads) ∧
        (tLen e = 0 → (t.dev.ring r).desc = some { bytes := e, seq := (s.dev.ring r).seq }) ∧
        t.mem = (if tTarget e = 2 ∧ (s.dev.bank (ptBank p (tBank e))).st = 1 then s.mem.apply (.zero (ptBase (s.dev.pol p).home (tBank e)) 0x1000000)
          else s.mem)))

/-- R104, R113, R123, R152, R153, R220: a load whose source is right makes every target bank READY under its tag, with the source's entries, and completes with how much it
took; one whose source is refused, or could not be read, leaves every target bank EMPTY. -/
def Obligations.TableLoadsEnd : Prop :=
  ∀ (s : State) (r p : Nat) (D : Desc) (res : ReadRes) (w : W) (fx : MemFx), Loading s r p D res w → fx.fail = .none →
    let b := D.bytes
    let l := s.dev.targetBanks p (tTarget b) (tBank b)
    let ends (w : W) (c : Compl) := ∃ d t, exec (.tableLoadComplete r fx) s = .next t ∧ Finishes w.d d r D c ∧ s.Becomes d (s.mem.applyAll w.ops) t
    let empty (w : W) := w.each l fun w n => w.modBank n fun _ => { st := 1 }
    (∀ det, res = .err det → ends (empty w) { status := stHOST_READ_FAULT, detail := det }) ∧
    (∀ data, res = .ok data →
      (tTarget b = 0 →
        (∀ user, tLen b = 0 ∧ user = [] ∨ tLen b ≠ 0 ∧ userTable data = some user → ends (w.each l fun w n => w.modBank n fun B =>
          { B with st := 3, tag := tTag b, flavour := fld b 0xC 1 % 2, user := user }) { info := tLen b }) ∧
        (tLen b ≠ 0 → userTable data = none → ends (empty w) { status := stTABLE_BAD })) ∧
      (tTarget b = 1 →
        (∀ w', w.loadSmooth p b (wordsOf 4 (tLen b / 4) data) = some w' → ends w' { info := tLen b / 4 }) ∧
        (w.loadSmooth p b (wordsOf 4 (tLen b / 4) data) = none → ends (empty w) { status := stTABLE_BAD })) ∧
      (2 ≤ tTarget b →
        let src := wordsOf 8 (tLen b / 8) data
        let home := (s.dev.pol p).home
        let n := (s.dev.pol p).ptEntries
        let w := w.countFx p fx
        let right := tOff b + src.length ≤ n ∧ ∀ x ∈ src, s.dev.ptOk p x = true
        let w' := if tCopy b then w.copyMem (ptBase home (tBank b)) (ptBase home (1 - tBank b)) (8 * n) else w
        (right → ends ((w'.write (ptBase home (tBank b) + 8 * tOff b) (src.flatMap (toLe 8))).modBank (ptBank p (tBank b)) fun B =>
          { B with st := 3, tag := tTag b }) { info := tLen b / 8, check := fxSummary fx }) ∧
        (¬ right → ends (empty w) { status := stTABLE_BAD, check := fxSummary fx })))

/-- R124 to R127, R215: an activation exchanges the banks of every engine whose READY bank holds the tag, and is refused as a whole where one has neither it nor the active one;
a step does the same for its own engine, and a bank of the other flavour is refused it; a bank that has drained is READY, locked for the job that holds READY
banks and uses it. -/
def Obligations.TableActivations : Prop :=
  (∀ (s : State) (r p : Nat) (e : Bytes), Takes s r e → s.dev.ringPol r = some p → dType e = 6 → Passes s r e (tableActOk e) →
    let n := (s.dev.ring r).owner
    let acts := (s.dev.targetBanks p (tTarget e) 0).map fun i => s.dev.activation i (tTag e)
    let b := if tTarget e < 2 then tagged s p n else s.w
    ((s.dev.pol p).job ≠ none → Runs (.tableActivate r) s (inProgress s r fun D => { D with held := true })) ∧
    ((s.dev.pol p).job = none → (tTarget e < 2 → sameTenant s p n) →
      ((∀ a ∈ acts, ∀ st, a ≠ .refused st) → Ends (.tableActivate r) s (b.each acts exchangeOf).d s.mem r e {}) ∧
      (∀ k st, (acts.take k).all (fun a => match a with
          | .refused _ => false
          | _ => true) = true → acts[k]? = some (.refused st) → Ends (.tableActivate r) s b.d s.mem r e { status := st }))) ∧
  (∀ (s : State) (p d e : Nat) (j : Job) (b : Bytes), s.w.headStep p d (8 + e) = some (j, b) →
    tokensReady (s.dev.die (j.site d)).tokens ((j.queue d (8 + e)).needs (stepWaits b)) = true → stepKind b = 5 → e < 2 →
    let w := s.taken p d (8 + e) j b
    let a := s.dev.activation (fnBank (j.site d) e 0) (fld b 8 2)
    (a = .already → Exactly (.activate p d e) s (w.releaseStep p d (8 + e))) ∧
    (∀ x y, a = .exchange x y →
      ((s.dev.bank x).flavour = b2n j.compat → Exactly (.activate p d e) s ((w.exchange x y).releaseStep p d (8 + e))) ∧
      ((s.dev.bank x).flavour ≠ b2n j.compat → ∃ t, exec (.activate p d e) s = .next t ∧ s.StepFaulted t p d (8 + e) j b stTABLE_MODE 0)) ∧
    (∀ st, a = .refused st → ∃ t, exec (.activate p d e) s = .next t ∧ s.StepFaulted t p d (8 + e) j b st 0)) ∧
  (∀ (s : State) (p d : Nat) (j : Job) (b : Bytes), s.w.headStep p d 10 = some (j, b) →
    tokensReady (s.dev.die (j.site d)).tokens ((j.queue d 10).needs (stepWaits b)) = true → stepKind b = 5 →
    let w := s.taken p d 10 j b
    let a := s.dev.activation (smBank (j.site d) 0) (fld b 8 2)
    (a = .already → Exactly (.activateSmoothing p d) s (w.releaseStep p d 10)) ∧
    (∀ x y, a = .exchange x y → Exactly (.activateSmoothing p d) s ((w.exchange x y).releaseStep p d 10)) ∧
    (∀ st, a = .refused st → ∃ t, exec (.activateSmoothing p d) s = .next t ∧ s.StepFaulted t p d 10 j b st 0)) ∧
  (∀ (s : State) (n : Nat), (s.dev.bank n).st = 5 →
    let p? := if n < 100 then s.dev.sitePol (n / 4) else if n < 150 then s.dev.sitePol ((n - 100) / 2) else some ((n - 150) / 2)
    (150 ≤ n → (s.dev.pol ((n - 150) / 2)).svc.ptDelta = []) →
    Exactly (.bankDrainComplete n) s (s.w.modBank n fun B =>
      { B with st := 3, locked := (p?.map fun p => s.dev.locksBank p n).getD false }))

/-! ## Jobs -/

/-- R159, R185, R210, R251: the JOB that R251 chooses is taken from its ring and counted, its argument block is read unless its arguments are inline, and it waits for
the validation of its image where the image is not registered and an image slot is free. -/
def Obligations.JobsTaken : Prop :=
  ∀ (s : State) (r p n : Nat) (switch : Bool) (b : Bytes) (args : ReadRes), Takes s r b → s.dev.ringPol r = some p → dType b = 1 →
    s.dev.nextCtx p = some (n, switch) → s.dev.nextRing p n = some r → s.dev.jobFree p = true → Passes s r b (jobLayoutOk b) →
    jobArgi b = true ∨ (∃ blk, args = .ok blk) →
    let w := if switch then s.w.switchCtx p n else s.w
    let blk := match args with
      | .ok x => x
      | .err _ => []
    let j : Job :=
      { ring := some r, ctx := n, img := fld b 8 8 % 2 ^ 48, len := 0, release := (fld b 0x38 1).testBit 0, stage := .validating, t0 := s.dev.aon.hub
        number := (s.dev.pol p).jobs + 1, key := (s.dev.pol p).keyNow, args := jobArgs b blk
        ro := ((w.d.pol p).waitRo.filter (·.1 == r)).flatMap Prod.snd }
    (w.d.pol p).imgs.find? (·.addr == j.img) = none → (w.d.pol p).imgs.length < 32 →
    Runs (.job r args) s ((((w.take r).modCtx n fun C => { C with lastRing := some r }).readArgs b).modPol p fun P =>
      { P with curCtx := some n, curRing := some r, jobs := P.jobs + 1, tblCtx := P.tblCtx.filter (· != n), waitRo := P.waitRo.filter (·.1 != r)
               job := some j })

/-- R158 to R163, R183, R185, R186: an image that validation refuses ends its job with IMAGE_BAD and the error's code, and its offset is kept, and one that cannot be
read ends it with the error's status (entry 59); one that it accepts is registered, and where its binding, arguments, tenant, tables and key are right the job runs at its ENTRY segment, its dies' tokens, counts, summary words and flags
cleared. -/
def Obligations.ImageValidation : Prop :=
  ∀ (s : State) (p : Nat) (j : Job) (fx : MemFx), (s.dev.pol p).job = some j → j.stage = .validating →
    (∀ st det, MemFail.code fx.fail = some (st, det) → ∃ t, exec (.imageValidationDone p fx) s = .next t ∧ t.pending = s.pending ∧ t.fuses = s.fuses ∧
      EndsJob s t p j (fun c => c.status = st ∧ c.detail = det)) ∧
    (∀ code off, fx.fail = .none → s.w.validate p j.img = some (code, off) →
      ∃ t, exec (.imageValidationDone p fx) s = .next t ∧ t.pending = s.pending ∧ t.fuses = s.fuses ∧
      EndsJob s t p j (fun c => c.status = stIMAGE_BAD ∧ c.detail = code) ∧ (t.dev.pol p).imgFaultValid = true ∧ (t.dev.pol p).imgFault = off) ∧
    (∀ dies, fx.fail = .none → s.w.validate p j.img = none →
      let len := le (s.mem.read (j.img + 0x10) 4)
      let img := s.mem.read j.img len
      s.dev.binding p (imDies img) (imStacks img) = some dies → s.dev.badArg p img j.args = none → sameTenant s p j.ctx → imActivates img = false →
      (∀ i ∈ dies, (s.dev.bank (s.dev.fnActive i 0)).flavour = b2n ((fld img 0x20 4).testBit 0) ∧
        (s.dev.bank (s.dev.fnActive i 1)).flavour = b2n ((fld img 0x20 4).testBit 0)) →
      j.key = none → (s.dev.pol p).warm = none → (s.dev.pol p).ports = 0 →
      (fld (s.w.segEntry j (s.w.imgFld j 0x1E 2)) 0xA 1).testBit 0 = false →
      ∃ t, exec (.imageValidationDone p fx) s = .next t ∧ t.pending = s.pending ∧ t.fuses = s.fuses ∧ t.mem = s.mem ∧
        (t.dev.pol p).job = some { j with
          len := len, dies := dies, nstk := imStacks img, compat := (fld img 0x20 4).testBit 0, summary := imSummary img, ftz := bits (fld img 0x20 4) 5 2
          ro := roRanges img j.args, locks := false, stage := .running, t6 := s.dev.aon.hub, limit := (s.dev.pol p).wdog
          seg := s.w.imgFld j 0x1E 2, entered := j.entered + 1, qs := []
          codeRetry := j.codeRetry + fx.retry, spCorr := j.spCorr + MemFx.spN fx, dramCorr := j.dramCorr + MemFx.dramN fx } ∧
        (t.dev.pol p).imgs = (s.dev.pol p).imgs ++ [{ addr := j.img, len := len }] ∧ (t.dev.pol p).tenant = some (s.dev.ctx j.ctx).tenant ∧
        (∀ i ∈ dies, (t.dev.die i).tokens = [] ∧ (t.dev.die i).counts = [] ∧ (t.dev.die i).sums = [] ∧ (t.dev.die i).flags = []))

/-- R188 to R190: the warm-up of the next job reads its argument block and then each entry of its table into the scratchpad that it names, stops at the first entry that it cannot read, and is done when
the reading has ended. -/
def Obligations.WarmUp : Prop :=
  (∀ (s : State) (p r : Nat) (j : Job) (b blk : Bytes) (fx : MemFx) (i : Img) (dies : List Nat), s.dev.runningJob p = some j → (s.dev.pol p).warm = none →
    j.ring = some r → (s.dev.ring r).batch.head? = some b → (s.dev.ring r).st = 1 → dType b = 1 → (s.dev.ring r).owner = j.ctx →
    s.dev.descRefused r b (jobLayoutOk b) = none → (s.dev.ctx j.ctx).hasBudget = true → (s.dev.pol p).imgs.find? (·.addr == fld b 8 8 % 2 ^ 48) = some i →
    let image := s.mem.read i.addr i.len
    let a := jobArgs b blk
    s.dev.binding p (imDies image) (imStacks image) = some dies → fld (s.w.segEntry j j.seg) 4 1 % 4 = 0 → s.w.drained j = true → j.faults = [] →
    s.dev.badArg p image a = none → 0 < imWarms image →
    let fx0 : MemFx := { fx with fail := .none }
    let x : Warm := { ring := r, img := fld b 8 8 % 2 ^ 48, args := a, ro := roRanges image a, fx := fx0 }
    let y := (List.range (imWarms image)).foldl (fun (y : W × Warm) k => y.1.warmEntry p image a dies fx.fail y.2 k) ((s.w.readArgs b).countFx p fx, x)
    Exactly (.warmupStart p (.ok blk) fx) s (y.1.modPol p fun P => { P with warm := some y.2 })) ∧
  (∀ (w : W) (p i : Nat) (img : Bytes) (args dies : List Nat) (fail : MemFail) (x : Warm), x.status = 0 →
    let o := imWarmAt img i
    let n := fld img (o + 4) 4
    let src := lget 0 args (fld img o 1 % 16) + 4096 * fld img (o + 12) 4
    let dst := spBase (lget 12 dies (fld img (o + 1) 1)) + fld img (o + 8) 4 % 2 ^ 26
    (w.d.reachAll .dma p src n false = none → fail = .none →
      w.warmEntry p img args dies fail x i = (w.write dst (w.readDev src n), { x with written := x.written ++ [(dst, n)] })) ∧
    (∀ det, w.d.reachAll .dma p src n false = some det →
      w.warmEntry p img args dies fail x i = (w, { x with status := stADDRESS_FAULT, detail := det })) ∧
    (∀ y : Warm, y.status ≠ 0 → w.warmEntry p img args dies fail y i = (w, y))) ∧
  (∀ (s : State) (p : Nat) (x : Warm) (fx : MemFx), (s.dev.pol p).warm = some x → x.done = false → x.status = 0 → fx.fail = .none →
    (∀ j, (s.dev.pol p).job = some j → j.stage ≠ .warmWait) →
    Runs (.warmupComplete p fx) s ((s.w.countFx p fx).modPol p fun P => { P with warm := some { x with
      done := true, status := 0, detail := 0, fx := { sp := x.fx.sp ++ fx.sp, dram := x.fx.dram ++ fx.dram, retry := x.fx.retry + fx.retry } } }))

/-- R165 to R167, R186, R187, R254: at the barrier of its segment a job goes on to the successor that the segment names or selects, or ends with OK; a job that no step can be
issued for ends with the status of the deciding fault; one that has run too long ends with TIMEOUT, its dies cleared. -/
def Obligations.SegmentsAndEnds : Prop :=
  ∀ (s : State) (p : Nat) (j : Job), s.dev.runningJob p = some j →
    let e := s.w.segEntry j j.seg
    let enters (g : Nat) : W := s.w.modJob p fun j => { j with seg := g, entered := j.entered + 1, qs := [] }
    let plain (g : Nat) := (fld (s.w.segEntry j g) 0xA 1).testBit 0 = false
    (s.w.atBarrier p j = true →
      (fld e 4 1 % 4 = 1 → plain (fld e 6 2) → Runs (.segmentBarrier p) s (enters (fld e 6 2))) ∧
      (∀ x y, fld e 4 1 % 4 = 1 → (fld (s.w.segEntry j (fld e 6 2)) 0xA 1).testBit 0 = true →
        s.dev.activation (ptBank p 0) (fld (s.w.segEntry j (fld e 6 2)) 8 2) = .exchange x y →
        Runs (.segmentBarrier p) s ((enters (fld e 6 2)).exchange x y)) ∧
      (∀ g, fld e 4 1 % 4 = 2 → s.w.select j (fld e 6 2) = some g → plain g → Runs (.segmentBarrier p) s (enters g)) ∧
      (fld e 4 1 % 4 = 2 → s.w.select j (fld e 6 2) = none → ∃ t, exec (.segmentBarrier p) s = .next t ∧ t.pending = s.pending ∧ t.fuses = s.fuses ∧
        EndsJob s t p j (· = s.dev.jobCompl j stSUMMARY_UNSET 0)) ∧
      (fld e 4 1 % 4 ≠ 1 → fld e 4 1 % 4 ≠ 2 → ∃ t, exec (.segmentBarrier p) s = .next t ∧ t.pending = s.pending ∧ t.fuses = s.fuses ∧
        EndsJob s t p j (· = s.dev.jobCompl j stOK 0))) ∧
    (∀ f, deciding j.faults = some f →
      (∀ d q, d < j.dies.length → q < 15 → (j.queue d q).busy = false ∧ (j.queue d q).flights = [] ∧ s.w.canIssue p d q = false) →
      ∃ t, exec (.jobFaultEnd p) s = .next t ∧ t.pending = s.pending ∧ t.fuses = s.fuses ∧
        EndsJob s t p j (fun c => c.status = f.status ∧ c.detail = f.detail ∧ c.check = j.check) ∧ (t.dev.pol p).jobFaultValid = true ∧
        (t.dev.pol p).jobFault = (j.seg % 2 ^ 16) * 2 ^ 32 + f.die * 2 ^ 27 + f.queue * 2 ^ 23 + f.pos % 2 ^ 23) ∧
    (∃ t, exec (.watchdogExpiry p) s = .next t ∧ t.pending = s.pending ∧ t.fuses = s.fuses ∧
      EndsJob s t p j (fun c => c.status = stTIMEOUT) ∧
      ∀ i ∈ s.dev.polSites p, (t.dev.die i).arrays = [] ∧ (t.dev.die i).tokens = [] ∧ (t.dev.die i).counts = [] ∧ (t.dev.die i).sums = [])

/-- R61, R78, R170, R171, R173, R178: a step that has done its work and that nothing holds is released: its signal tokens, and a MOVE's remote token, are incremented and its
queue goes on; of an array queue, any pass in flight that no episode holds; a NOP step is issued and released at once. -/
def Obligations.StepsRelease : Prop :=
  (∀ (s : State) (p d q n : Nat) (j : Job), s.dev.runningJob p = some j → d < j.dies.length →
    let signalled (pos : Nat) : W :=
      let b := s.w.stepBytes j j.seg d q pos
      let w := s.w.modDie (j.site d) fun D => { D with tokens := addTokens D.tokens (stepSignals b) }
      match s.w.remoteToken j d b with
      | some (rd, t) => w.modDie (j.site rd) fun D => { D with tokens := addTokens D.tokens [t] }
      | none => w
    (8 ≤ q → (j.queue d q).busy = true → (j.queue d q).ops = [] → (j.queue d q).coll = false →
      Exactly (.stepRelease p d q n) s ((signalled (j.queue d q).pos).modJob p fun j => j.setQueue d q fun Q => { pos := Q.pos + 1 })) ∧
    (q < 8 → ∀ f, (j.queue d q).flights[n]? = some f → f.held = false →
      Exactly (.stepRelease p d q n) s ((signalled f.pos).modJob p fun j => j.setQueue d q fun Q => { Q with flights := Q.flights.eraseIdx n }))) ∧
  (∀ (s : State) (p d q : Nat) (j : Job) (b : Bytes), s.w.headStep p d q = some (j, b) →
    let need := (j.queue d q).needs (stepWaits b)
    tokensReady (s.dev.die (j.site d)).tokens need = true → stepKind b = 0 →
    Exactly (.nopStep p d q) s
      ((s.w.modDie (j.site d) fun D => { D with tokens := addTokens (takeTokens D.tokens need) (stepSignals b) }).modJob p fun j =>
        j.setQueue d q fun Q => (Q.issue q).done q))

/-- R138, R143, R154, R178, R234, R239: a MOVE that is ready moves its runs; between two direct places of the device, where every run can be read and written whole, each
run of the destination takes what the source's run holds when it is reached; a DMA SIGNAL that names no count, or one that its CMAX allows, adds to a sluice that its
context may signal, or sends the add to the chip that its target names; a count of 0 releases it (entry 18), and one above CMAX faults. -/
def Obligations.MovesAndSignals : Prop :=
  (∀ (s : State) (p d q n : Nat) (j : Job) (b : Bytes) (fx : MemFx), s.Ready p d q j b fx → stepKind b = 4 → stepOp b = 1 →
    let src := s.w.tile j d (fld b 8 2)
    let dst := s.w.tile j d (fld b 0xA 2)
    s.rowsAre j d b src.rows (fld b 0xC 2 + 1) n → 0 < n →
    let runs := moveRuns j src dst (gsizeOf (fld b 0x10 1 % 4)) n
    Runs (.move p d q fx) s ((s.issued p d q j b fx).moveBody p d q j b n .none) ∧
    (src.paged = false → dst.paged = false → src.base < 2 → dst.base < 2 →
      (∀ x ∈ runs, x.1 < 2 ^ 48 ∧ x.2.1 < 2 ^ 48 ∧ s.dev.reach .dma p x.1 x.2.2 false = (x.2.2, none) ∧
        s.dev.reach .dma p x.2.1 x.2.2 true = (x.2.2, none)) →
      Runs (.move p d q fx) s ((s.issued p d q j b fx).each (runs.filter fun x => x.2.2 != 0) fun w x => w.write x.2.1 (w.readDev x.1 x.2.2)))) ∧
  (∀ (s : State) (p d q : Nat) (j : Job) (b : Bytes), s.w.headStep p d q = some (j, b) →
    tokensReady (s.dev.die (j.site d)).tokens ((j.queue d q).needs (stepWaits b)) = true → stepKind b = 4 → stepOp b = 2 →
    let target := j.arg (fld b 0xF 1 / 16)
    let n := fld b 0x10 8
    (∀ c, stepCount b = some c → let v := tget 0 (s.dev.die (j.site d)).counts c
      (fld b 0xC 2 + 1 < v → Runs (.dmaSignal p d q) s ((s.taken p d q j b).stepFault p d q stCOUNT_RANGE 0)) ∧
      (v = 0 → Runs (.dmaSignal p d q) s ((s.taken p d q j b).releaseStep p d q))) ∧
    (∀ k, s.rowsAre j d b 1 (fld b 0xC 2 + 1) k → 0 < k → target / 2 ^ 48 = s.dev.hub.chip →
      (∀ i, sluiceAt (target % 2 ^ 48) = some i →
        (s.dev.granted i j.ctx .signal = true → s.dev.waiters i = [] → Runs (.dmaSignal p d q) s
          ((s.taken p d q j b).modSluice i fun S => if S.value + n < 2 ^ 64 then { S with value := S.value + n }
            else { S with value := 2 ^ 64 - 1, sat := true })) ∧
        (s.dev.granted i j.ctx .signal = false → Runs (.dmaSignal p d q) s ((s.taken p d q j b).stepFault p d q stGRANT_DENIED 0))) ∧
      (sluiceAt (target % 2 ^ 48) = none →
        Runs (.dmaSignal p d q) s ((s.taken p d q j b).stepFault p d q stADDRESS_FAULT dUNPOPULATED))) ∧
    (∀ k, s.rowsAre j d b 1 (fld b 0xC 2 + 1) k → 0 < k → target / 2 ^ 48 ≠ s.dev.hub.chip →
      let x := (s.taken p d q j b).issueOp (dmaOp p d q j .add (target / 2 ^ 48 % 2 ^ 13) target (toLe 8 n))
      Runs (.dmaSignal p d q) s (x.2.modJob p fun j => j.setQueue d q fun Q => { Q with ops := [x.1] }).pumpAll))

/-! ## Frames that arrive -/

namespace Sys2Proof.Claims

/-- A plain frame for this device arrives in order on port `n`, which is DIRECT and UP. -/
structure Arrives (s : State) (n : Nat) (f : Frame) : Prop where
  up : (s.dev.port n).st = 2
  direct : (s.dev.port n).mode = 0
  good : badFrame f = none
  order : f.hseq = (s.dev.port n).rxSeq
  here : f.dst = s.dev.hub.chip
  plain : f.enc = false

/-- The port has received it: counted, its acknowledgement taken, the next frame expected (R305). -/
def received (s : State) (n : Nat) (f : Frame) : W :=
  ((s.w.linkCnt n 1).takeHack n f.hack).modPort n fun P => { P with rxSeq := (P.rxSeq + 1) % 2 ^ 16 }

/-- Its CODE has been found right. -/
def coded (s : State) (n : Nat) (f : Frame) : W :=
  (received s n f).modFabric fun F => { F with checkRetry := F.checkRetry.filter (· != (f.src, f.tag)) }

/-- The operation of this device that an answer names: sent to the chip it comes from, under its TAG, and not keyed. -/
structure Waits (s : State) (o : ROp) (src num : Nat) : Prop where
  sent : o.sent = true
  chip : o.chip = src
  tag : o.tag = num
  plain : o.key = none
  only : ∀ x ∈ s.dev.fabric.ops, x.sent = true → x.chip = src → x.tag = num → x = o
  known : o ∈ s.dev.fabric.ops

/-- The operation is a read. -/
def isRead : OpKind → Bool
  | .read _ => true
  | _ => false

/-- What R324 reports at the issuer for a refusal that fails the operation: status and detail. -/
def nakFails (reason detail : Nat) : Option (Nat × Nat) :=
  match reason with
  | 1 => some (stREMOTE_UNREACHABLE, 6)
  | 2 => some (stREMOTE_UNREACHABLE, 4)
  | 4 => some (stADDRESS_FAULT, detail)
  | 5 => some (stREMOTE_UNREACHABLE, 5)
  | 6 => some (stGRANT_DENIED, 0)
  | 8 => some (stCHECK_MISMATCH, dCODE_MISMATCH)
  | 10 => some (stECC, detail)
  | _ => none

end Sys2Proof.Claims

/-- R318, R322 to R324, R149: a WRITE that polder, address and window allow lands and is acknowledged, one that they do not is refused by the first check that fails, with
nothing written; a READ_REQ is answered with its block; a READ_RESP lands in the bytes that its request names, and an ACK ends its operation; a NAK fails its
operation with the status of R324, or has it sent again, after CHECK_RETRY with its source read again. -/
def Obligations.RemoteReadsAndWrites : Prop :=
  (∀ (s : State) (n p : Nat) (f : Frame) (fx : MemFx), Arrives s n f → f.kind = 1 → f.payload ≠ [] → s.dev.targetPol (f.addr % 2 ^ 48) = some p →
    fx.fail = .none →
    let a := f.addr % 2 ^ 48
    let len := f.payload.length
    let nak (reason detail : Nat) := Runs (.write n f fx) s ((received s n f).nakTo p f reason detail none)
    a % 4096 + len ≤ 4096 →
    (s.dev.polReady p = false → nak 2 0) ∧
    (∀ det, s.dev.polReady p = true → s.dev.addressBad f.addr len true = some det → nak 4 det) ∧
    (s.dev.polReady p = true → s.dev.addressBad f.addr len true = none → s.dev.windowOk p f.src none true a len = false → nak 5 0) ∧
    (s.dev.polReady p = true → s.dev.addressBad f.addr len true = none → s.dev.windowOk p f.src none true a len = true →
      (codeRight f = true →
        Runs (.write n f fx) s ((((coded s n f).countFx p fx).write a f.payload).ackTo p f f.tag none)) ∧
      (codeRight f = false → (f.src, f.tag) ∉ s.dev.fabric.checkRetry → Runs (.write n f fx) s
        (((coded s n f).modFabric fun F => { F with checkRetry := F.checkRetry ++ [(f.src, f.tag)] }).nakTo p f 7 0 none)) ∧
      (codeRight f = false → (f.src, f.tag) ∈ s.dev.fabric.checkRetry → Runs (.write n f fx) s
        (((coded s n f).polErr p 1 1).nakTo p f 8 0 none)))) ∧
  (∀ (s : State) (n p : Nat) (f : Frame) (fx : MemFx), Arrives s n f → f.kind = 2 → f.payload = [] → s.dev.targetPol (f.addr % 2 ^ 48) = some p →
    fx.fail = .none → s.dev.polReady p = true → s.dev.addressBad (f.addr / 4096 * 4096) 4096 false = none →
    s.dev.windowOk p f.src none false (f.addr % 2 ^ 48 / 4096 * 4096) 4096 = true →
    Runs (.readReq n f fx) s ((((received s n f).countFx p fx).modFabric fun F =>
      { F with served := (F.served.filter fun x => !(x.1 == f.src && x.2.1 == f.tag)) ++ [(f.src, f.tag, f.addr, p, 0)] }).readResp
        p f.src f.tag f.addr none)) ∧
  (∀ (s : State) (n p d q : Nat) (f : Frame) (fx : MemFx) (o : ROp) (pieces : List (Nat × Nat × Nat)), Arrives s n f → f.kind = 3 →
    Waits s o f.src f.tag → o.kind = .read pieces → o.issuer = .dma p d q → fx.fail = .none →
    f.payload.length = 4096 → codeRight f = true →
    Runs (.readResp n f fx) s (((((received s n f).jobFx p fx).each pieces fun w x => w.write x.2.2 (slice f.payload x.1 x.2.1)).opDone o).pumpAll)) ∧
  (∀ (s : State) (n : Nat) (f : Frame) (o : ROp), Arrives s n f → f.kind = 6 → codeRight f = true →
    (∀ tag, f.payload = toLe 4 tag → Waits s o f.src (u32 tag) → isRead o.kind = false → Runs (.ack n f) s (((received s n f).opDone o).pumpAll))) ∧
  (∀ (s : State) (n : Nat) (f : Frame) (o : ROp) (reason : Nat), Arrives s n f → f.kind = 7 → codeRight f = true → f.payload.length = 8 → fld f.payload 6 2 = 0 →
    fld f.payload 4 1 = reason → Waits s o f.src (fld f.payload 0 4) → (reason = 7 → isRead o.kind = false) →
    (∀ st det, nakFails reason (fld f.payload 5 1) = some (st, det) → Runs (.nak n f) s (((received s n f).opFail o st det).pumpAll)) ∧
    (reason = 3 → Runs (.nak n f) s (((received s n f).modOp o.id fun o => { o with sent := false, waitNak := true }).pumpAll)) ∧
    (reason = 7 → Runs (.nak n f) s (((received s n f).modOp o.id fun o => { o with
      sent := false, retried := true
      payload := if o.src = [] then o.payload else o.src.flatMap fun x => (received s n f).readDev x.1 x.2 }).pumpAll)))

/-- R234, R239 to R242, R320, R307, R324, R325: a remote add or set that a grant allows is applied once, a resent one with the last TAG only acknowledged, and one without a
grant is denied and counted; an operation that is not answered fails with TIMEOUT, one that was told to wait is sent again, and a connection's unacknowledged
frames are sent again unchanged until it fails. -/
def Obligations.RemoteSluicesAndTimers : Prop :=
  (∀ x : (Nat → Frame → Instr) × Nat × Bool × Right, x = (Instr.frameSignal, 4, false, Right.signal) ∨ x = (Instr.frameSet, 5, true, Right.set) →
    ∀ (s : State) (n i p : Nat) (f : Frame), Arrives s n f → f.kind = x.2.1 → f.payload.length = 8 → f.addr / 2 ^ 48 = s.dev.hub.chip → f.addr / 2 ^ 61 = 0 →
      sluiceAt (f.addr % 2 ^ 48) = some i → s.dev.sluPol i = some p → s.dev.targetPol (f.addr % 2 ^ 48) = some p → s.dev.polReady p = true →
      let k := f.src * 32 + f.srcPol
      let ack (w : W) := w.ackTo p f f.tag none
      (s.dev.grantedRemote i f.src none x.2.2.2 = false → Runs (x.1 n f) s
        (((received s n f).modPol p fun P => { P with sluDeny := sat64 (P.sluDeny + 1) }).nakTo p f 6 0 none)) ∧
      (s.dev.grantedRemote i f.src none x.2.2.2 = true → codeRight f = true →
        (∀ at_, tfind s.dev.fabric.lastTag k = some (f.tag, at_) → Runs (x.1 n f) s (ack (coded s n f))) ∧
        ((∀ at_, tfind s.dev.fabric.lastTag k ≠ some (f.tag, at_)) →
          (s.dev.fabric.lastTag.any (·.1 == k) = true ∨ s.dev.fabric.lastTag.length < 16384) → Runs (x.1 n f) s
            (ack (((coded s n f).modFabric fun F => { F with lastTag := tset F.lastTag k (f.tag, s.dev.aon.hub) }).sluOp i x.2.2.1 (fld f.payload 0 8)))))) ∧
  (∀ (s : State) (o : ROp), s.dev.fabric.ops.find? (fun x => x.id == o.id && x.sent) = some o →
    Runs (.operationTimeout o.id) s ((s.w.opFail o stREMOTE_UNREACHABLE 3).pumpAll)) ∧
  (∀ (s : State) (o : ROp), s.dev.fabric.ops.find? (fun x => x.id == o.id && x.waitNak) = some o → (∀ p, o.issuer ≠ .service p) →
    Runs (.nakWaitResend o.id) s ((s.w.modOp o.id fun o => { o with waitNak := false }).pumpAll)) ∧
  (∀ (s : State) (o : ROp), s.dev.fabric.ops.find? (fun x => x.id == o.id && x.waitNak) = none →
    s.dev.fabric.ctls.find? (fun x => x.id == o.id && x.waitNak) = some o →
    Runs (.nakWaitResend o.id) s ((s.w.modFabric fun F =>
      { F with ctls := F.ctls.map fun x => if x.id = o.id then { x with waitNak := false } else x }).sendCtl o.frame o.key)) ∧
  (∀ (s : State) (lp chip tc n : Nat),
    let C := s.dev.conn lp chip tc
    let counted := s.w.modConn lp chip tc fun C => { C with retx := C.retx + 1 }
    (C.st = 1 → s.dev.member lp (s.dev.connFrame chip) = some n → Exactly (.retransmissionTimeout lp chip tc) s (counted.sendHello n lp chip tc)) ∧
    (C.st ≠ 1 → C.unacked ≠ [] → C.retx < s.dev.fabric.limit → (∀ f ∈ C.unacked, s.dev.member lp f = some n) →
      ∃ t, exec (.retransmissionTimeout lp chip tc) s = .next t ∧ t.pending = s.pending ∧ t.fuses = s.fuses ∧ t.mem = s.mem ∧
        t.dev = { s.dev with
          fabric := { s.dev.fabric with conns := tmod {} s.dev.fabric.conns (connKey lp chip tc) fun C => { C with retx := C.retx + 1 }
                                        cnt := t.dev.fabric.cnt }
          out := (C.unacked.map fun f => Out.frame n (s.dev.ethHead n f) f).reverse ++ s.dev.out })) ∧
  (∀ (s : State) (lp chip tc : Nat), (s.dev.conn lp chip tc).st ≠ 0 → s.dev.fabric.limit ≤ (s.dev.conn lp chip tc).retx →
    Runs (.connectionFailed lp chip tc) s (s.w.connFail lp chip tc 3))

/-! ## Collectives -/

namespace Sys2Proof.Claims

/-- What member `e.me` sends of its contribution for segment `seg`, by the OP of R330 and R331: to an owner, to every member, a block to each, or from the root
alone: rank, offset and length. -/
def contributions (e : CEnt) (seg : Nat) : List (Nat × Nat × Nat) :=
  match e.op with
  | 1 => [(seg % e.n, 0, e.seg)]
  | 2 => [(seg % e.n, 0, e.seg)]
  | 4 => (List.range e.n).map fun t => (t, t * (e.seg / e.n), e.seg / e.n)
  | 5 => if e.me = e.root then (List.range e.n).map fun t => (t, 0, e.seg) else []
  | _ => (List.range e.n).map fun t => (t, 0, e.seg)

/-- The polder's registers that its driving function alone writes are reached. -/
structure Drives (s : State) (fn p : Nat) : Prop where
  reach : s.dev.hostReach fn = true
  running : s.dev.running = true
  pol : p < 16
  mine : s.dev.driver p = fn

end Sys2Proof.Claims

/-- R54, R326, R328 to R336: a table that passes is VALID, one that does not says why, and a job keeps its own; a COLL step sends what its OP asks and waits for its
result, or faults where its table or its descriptors do not fit; the owner of a segment whose contributions have landed sums them in rank order and sends the
sum; data of other members lands in its slot and is acknowledged, a bad digest asking for the segment again; a credit counts; and an abort ends the collective (phase
numbers: entry 19; ERR's order: entry 20). -/
def Obligations.Collectives : Prop :=
  (∀ (s : State) (fn p v : Nat), Drives s fn p →
    let n := bits v 59 48 + 1
    let base := bits v 47 0
    let w := s.w.modPol p fun P => { P with coll := { P.coll with valid := false, ranges := [], count := n - 1, base := base } }
    let err (c : Nat) := w.centErr p (w.cent p c)
    (s.dev.pol p).job = none ∧ v < 2 ^ 64 →
    (v.testBit 63 = false → Runs (.polColl fn p v) s w) ∧
    (v.testBit 63 = true → base % 64 = 0 → (∃ x y, region base = .stack x y) → w.d.reachAll .dma p base (64 * n) false = none →
      ((∀ c, c < n → err c = 0) → Runs (.polColl fn p v) s (w.modPol p fun P => { P with coll := { P.coll with
        valid := true, err := 0, ranges := (base, 64 * n) :: (List.range n).map fun c => (fld (w.cent p c).raw 0x18 8, 4 * (w.cent p c).n) } })) ∧
      (∀ c, c < n → err c ≠ 0 → (∀ i, i < n → err i ≠ 0 → err c ≤ err i) →
        Runs (.polColl fn p v) s (w.modPol p fun P => { P with coll := { P.coll with err := err c } })))) ∧
  (∀ (s : State) (fn p v : Nat), Drives s fn p → (s.dev.pol p).job ≠ none → Runs (.polColl fn p v) s (refusedAt s fn (polOff fn p 0x68))) ∧
  (∀ (s : State) (p d q k : Nat) (j : Job) (b : Bytes) (fx : MemFx), s.w.headStep p d q = some (j, b) →
    tokensReady (s.dev.die (j.site d)).tokens ((j.queue d q).needs (stepWaits b)) = true → stepKind b = 4 → stepOp b = 3 →
    s.rowsAre j d b 1 (fld b 0xC 2 + 1) k → 0 < k →
    let c := fld b 0x10 2
    let seg := fld b 0x12 2
    let K := (s.dev.pol p).coll
    let e := s.w.cent p c
    let src := s.w.tile j d (fld b 8 2)
    let dst := s.w.tile j d (fld b 0xA 2)
    let fits := K.valid = true ∧ c ≤ K.count ∧ seg < e.nseg ∧ collTileOk src e.fmt e.seg = true ∧ collTileOk dst e.outFmt e.recvSlot = true
    (¬ fits → Runs (.coll p d q fx) s ((s.taken p d q j b).stepFault p d q stINDEX_RANGE 0)) ∧
    (fits → K.failed.find? (·.1 == c) = none → (s.w.endOf j src).chip = none → (s.w.endOf j dst).chip = none → fx.fail = .none →
      ∀ bs, (e.op = 5 ∧ e.me ≠ e.root ∧ bs = [] ∨ (e.op ≠ 5 ∨ e.me = e.root) ∧ s.w.readTile p j src (j.tileAddr src % 2 ^ 48) e.seg = .ok bs) →
        Runs (.coll p d q fx) s ((((s.issued p d q j b fx).modColl p fun K => { K with
          steps := K.steps ++ [{ c := c, seg := seg, ldie := d, q := q, pos := (j.queue d q).pos, dst := j.tileAddr dst % 2 ^ 48, waiting := true }]
          sends := K.sends ++ (contributions e seg).map fun x =>
            { c := c, seg := seg, phase := 0, rank := x.1, bytes := slice bs x.2.1 x.2.2, src := some (j.tileAddr src % 2 ^ 48 + x.2.1), info := 0 }
          begun := K.begun ++ [(c, seg)] }).modJob p fun j => j.setQueue d q fun Q => { Q with coll := true }).collAll))) ∧
  (∀ (s : State) (p c seg : Nat) (j : Job), s.dev.runningJob p = some j → (s.dev.pol p).coll.valid = true → c ≤ (s.dev.pol p).coll.count →
    let e := s.w.cent p c
    e.op = 1 ∨ e.op = 2 → seg % e.n = e.me → (∀ r, r < e.n → s.dev.hasLanded p c seg 0 r = true) → s.dev.mayLand p c e 1 e.me seg = true →
    let x := s.w.sumSegment p seg e (j.ftzOf 3)
    Runs (.segmentReduce p c seg) s (((((x.1.modColl p fun K => { K with
      landings := K.landings.filter fun L => !(L.c == c && L.seg == seg && L.phase == 0) }).creditAll p c e 0 seg)).modColl p fun K => { K with
      sends := K.sends ++ (if e.op = 1 then List.range e.n else [e.me]).map fun t =>
        { c := c, seg := seg, phase := 1, rank := t, bytes := x.2.1, info := x.2.2 } }).collAll)) ∧
  (∀ (s : State) (n : Nat) (f : Frame) (fx : MemFx), Arrives s n f → s.dev.collReady f.dstPol = true → codeRight f = true →
    let p := f.dstPol
    let K := (s.dev.pol p).coll
    (f.kind = 8 → bits f.addr 47 45 = 0 → (∀ x ∈ K.failed, x.1 ≠ f.addr % 2 ^ 16) →
      (lastTrailer f).length = (if f.last then 16 else 0) → (f.last = true → fld (lastTrailer f) 9 3 = 0) →
      let c := f.addr % 2 ^ 16
      let seg := bits f.addr 31 16
      let phase := bits f.addr 44 44
      let r := bits f.addr 43 32
      let num := bits f.addr 63 48
      let e := s.w.cent p c
      let place := s.dev.landAt p e seg phase r + num * 4096
      let w := (coded s n f).polErr p 2 (MemFx.spN fx)
      (s.w.collFrameOk p f = false → Runs (.collData n f fx) s ((coded s n f).collReject p c 2 f.src)) ∧
      (s.w.collFrameOk p f = true → s.dev.hasLanded p c seg phase r = false →
        (∀ L ∈ K.landings, ¬ (L.c = c ∧ L.seg = seg ∧ L.phase = phase ∧ L.rank = r)) →
        (f.last = false → Runs (.collData n f fx) s (((w.write place f.payload).modColl p fun K => { K with
          landings := K.landings ++ [{ c := c, seg := seg, phase := phase, rank := r, got := [num] }] }).ackTo p f f.tag none)) ∧
        (f.last = true → num = 0 → fx.fail = .none →
          (crc64 f.payload = fld (lastTrailer f) 0 8 → s.memOk →
            Runs (.collData n f fx) s ((((w.write place f.payload).landed p c seg phase r (fld (lastTrailer f) 8 1)).ackTo p f f.tag none).collAll)) ∧
          (crc64 f.payload ≠ fld (lastTrailer f) 0 8 → s.memOk →
            Runs (.collData n f fx) s ((((w.write place f.payload).polErr p 5 1).modColl p fun K => { K with
              landings := K.landings ++ [{ c := c, seg := seg, phase := phase, rank := r, retried := true }] }).sendCtl
                (nakFrame p f.src (f.addr % 2 ^ 32) 9 0) none))))) ∧
    (f.kind = 9 → f.payload.length = 8 → fld f.payload 0 8 / 2 ^ 45 = 0 →
      let v := fld f.payload 0 8
      Runs (.collCredit n f) s (((received s n f).modColl p fun K => { K with
        credits := K.credits ++ [(v % 2 ^ 16, bits v 44 44, bits v 43 32, bits v 31 16)] }).collAll)) ∧
    (f.kind = 0x0A → f.payload.length = 8 → K.valid = true →
      let v := fld f.payload 0 8
      bits v 47 45 = 0 → v / 2 ^ 56 = 0 → v % 2 ^ 16 ≤ K.count →
      (bits v 31 16 = stMEMBER_LOST → Runs (.collAbort n f) s ((received s n f).memberLost p (v % 2 ^ 16) (bits v 44 32) (bits v 55 48))) ∧
      (bits v 31 16 = stCONTRIBUTION_BAD →
        Runs (.collAbort n f) s ((received s n f).collFail p (v % 2 ^ 16) stCONTRIBUTION_BAD (bits v 55 48) (bits v 44 32)))))

/-! ## Checks of arrays -/

namespace Sys2Proof.Claims

/-- The episode `e` of site `site` is the one that is served (R373), `x` its K-block, and `j` the running job whose pass it holds. -/
structure Serves (s : State) (site : Nat) (e : Episode) (j : Job) (x : EpBlk) : Prop where
  first : s.dev.episode site = some e
  job : s.dev.runningJob e.polder = some j
  block : s.w.epBlk j e = some x
/-- Two episodes are of one pass. -/
def onePass (x y : Episode) : Bool := x.polder == y.polder && x.ldie == y.ldie && x.logical == y.logical && x.pos == y.pos
/-- No slice runs on array `phys` of site `site`, and no pack is being loaded (R382, R412). -/
def testFree (s : State) (site phys : Nat) : Prop :=
  s.dev.bist.packSt ≠ 1 ∧ ∀ y ∈ s.dev.bist.slots,
    ¬ (y.2.st = 2 ∧ bits y.2.cmd 7 0 = 1 ∧ bits y.2.cmd 12 8 = site ∧ bits y.2.cmd 23 16 = phys)

end Sys2Proof.Claims

/-- R78, R366 to R373, R378: the oldest mismatch of a die is repeated; a repeat that meets none is TRANSIENT and is accepted, and one that does calls a substitute, the
spare if it can be, else the lowest array in service; a substitute that meets none is accepted, its array quarantined by whether it formed what the original did,
and the array replaced by the spare or its die withdrawn at the job's end; one that does is computed once more, and then the pass faults and the die is withdrawn;
and the record is written when the targeted test that it waits for has ended. -/
def Obligations.CheckEpisodes : Prop :=
  (∀ (s : State) (site : Nat) (e : Episode) (j : Job) (x : EpBlk) (errs : List BlkErr), Serves s site e j x → e.stage = .repeatP →
    (x.records errs = [] → Exactly (.repeatComplete site errs) s ((((s.w.dropEpisode site e).hubErr 1 1).acceptBlk e errs).finishPass site e)) ∧
    (x.records errs ≠ [] → Exactly (.repeatComplete site errs) s
      (s.w.setEpisode site { e with stage := .waitSub, patP := recPat (x.records errs) }))) ∧
  (∀ (s : State) (site : Nat) (e : Episode), s.dev.episode site = some e → e.stage = .waitSub →
    let D := s.dev.die site
    let takes (n : Nat) := Exactly (.substituteReady site) s
      ((s.w.setEpisode site { e with stage := .compS, sub := n }).modDie site fun D => { D with spareOn := D.spareOn || n == 8 })
    (s.dev.logicalOf site 8 = none → e.phys ≠ 8 → D.quar.testBit 8 = false → D.chkq.testBit 8 = false → takes 8) ∧
    (∀ n, D.quar.testBit 8 = true → n < 8 → (s.dev.logicalOf site n).isSome = true → n ≠ e.phys → D.quar.testBit n = false → D.chkq.testBit n = false →
      (∀ m, m < n → m = e.phys ∨ D.quar.testBit m = true ∨ D.chkq.testBit m = true ∨ s.dev.logicalOf site m = none) → takes n)) ∧
  (∀ (s : State) (site : Nat) (e : Episode) (j : Job) (x : EpBlk) (errs : List BlkErr) (rest : List ArrErr), Serves s site e j x →
    e.stage = .compS ∨ e.stage = .compS2 → e.logical < 8 →
    let spare := e.sub = 8 ∧ s.dev.logicalOf site 8 = none
    (x.records errs = [] → ∃ t, exec (.substituteComplete site errs rest) s = .next t ∧ t.pending = s.pending ∧ t.fuses = s.fuses ∧
      t.dev.hub.evidSeq = s.dev.hub.evidSeq + 1 ∧
      (if x.equal errs e.errs then (t.dev.die site).chkq = (s.dev.die site).chkq ||| 2 ^ e.phys ∧ (t.dev.die site).quar = (s.dev.die site).quar
        else (t.dev.die site).quar = (s.dev.die site).quar ||| 2 ^ e.phys ∧ (t.dev.die site).chkq = (s.dev.die site).chkq) ∧
      (spare → (t.dev.die site).lmap = setBits (s.dev.die site).lmap (4 * e.logical + 3) (4 * e.logical) 8 ∧ (t.dev.die site).spareOn = true ∧
        (rest = [] → (t.dev.die site).episodes = ((s.dev.die site).episodes.erase e).filter fun y => !(onePass y e && decide (e.j < y.j)))) ∧
      (¬ spare → (t.dev.die site).withdraw = 1 ∧ (t.dev.die site).lmap = (s.dev.die site).lmap ∧
        (t.dev.die site).episodes = (s.dev.die site).episodes.erase e) ∧
      ∃ y, y.site = site ∧ y.phys = e.phys ∧ y.sub = e.sub ∧ y.seq = s.dev.hub.evidSeq ∧ t.dev.evids = s.dev.evids ++ [y]) ∧
    (x.records errs ≠ [] → e.stage = .compS → Exactly (.substituteComplete site errs rest) s
      (s.w.setEpisode site { e with stage := .compS2, diffS := x.diff e.recs errs e.errs })) ∧
    (x.records errs ≠ [] → e.stage = .compS2 → ∃ t, exec (.substituteComplete site errs rest) s = .next t ∧ t.pending = s.pending ∧ t.fuses = s.fuses ∧
      t.mem = s.mem ∧ (t.dev.die site).quar = (s.dev.die site).quar ||| 2 ^ e.phys ∧ (t.dev.die site).withdrawn = true ∧
      (t.dev.die site).episodes = (s.dev.die site).episodes.filter (fun y => !onePass y e) ∧
      (t.dev.pol e.polder).job.map (·.faults) = some (j.faults ++ [{ die := e.ldie, queue := e.logical
                                                                     pos := (j.queue e.ldie e.logical).now e.logical
                                                                     status := stCHECK_MISMATCH, detail := dCODE_MISMATCH }]))) ∧
  (∀ (s : State) (site phys : Nat) (res : TestEnd) (e : Evid), s.dev.evids = [e] → e.site = site → e.phys = phys → e.waitPhys = true → e.waitSub = false →
    (s.dev.die site).test.testBit phys = true → testFree s site phys →
    let r := s.dev.bist.targeted site phys res
    Exactly (.targetedSelfTestEnd site phys res) s
      (((s.w.dev fun d => { d with evids := [] }).modDie site fun D => { D with
        test := (D.test ||| 2 ^ phys) ^^^ 2 ^ phys, spareOn := D.spareOn && (phys != 8 || (s.dev.logicalOf site 8).isSome) }).writeEvid
          { e with waitPhys := false, test := r.1, fail := r.2 }))

/-! ## Polders and stacks -/

namespace Sys2Proof.Claims

/-- What forming or rebuilding polder `p` leaves (R263, R401, R423): it is FORMING; its dies are clear of what others left, its keys and images gone, its stacks SCRUBBING. -/
structure Rebuilds (s : State) (p : Nat) (w : W) : Prop where
  st : (w.d.pol p).st = 1
  imgs : (w.d.pol p).imgs = []
  job : (w.d.pol p).job = none
  tenant : (w.d.pol p).tenant = none
  home : (w.d.pol p).home = s.dev.homeOf p
  dies : ∀ i ∈ s.dev.polSites p, (w.d.die i).arrays = [] ∧ (w.d.die i).tokens = [] ∧ (w.d.die i).counts = [] ∧ (w.d.die i).sums = [] ∧ (w.d.die i).flags = []
  stacks_ : ∀ i ∈ s.dev.polStacks p, (w.d.die i).stack = 2
  keys : ∀ k, k < 1024 → (s.dev.pol p).hasKey k = true → w.d.key k = {}
  zero : s.memOk → ∀ i ∈ s.dev.polSites p, ∀ a, spBase i ≤ a → a < spBase i + spSize → (s.mem.applyAll w.ops).byte a = 0

end Sys2Proof.Claims

/-- R147, R155, R156, R260 to R264, R401, R421 to R424, R427: the PF forms a polder whose resources are free, READY once its stacks are CLEAN, and is told why where it cannot;
one with no context enabled is dissolved, its stacks DIRTY, its keys, sluices and grants gone; a reset of it, by its register or its function, ends what it
does and forms it again; scrubbing zeroes a stack; and the patrol counts what it corrects and reports what it finds. -/
def Obligations.Polders : Prop :=
  (∀ (s : State) (p v : Nat), s.dev.hostReach 0 = true → s.dev.running = true → p < 16 →
    ((s.dev.pol p).st = 0 →
      (∀ c, s.dev.formRefused p = some c → Runs (.polEnable 0 p v) s
        ((s.w.modPol p fun P => { P with service := v.testBit 30, cause := c }).ignored 0 (polOff 0 p 0))) ∧
      (s.dev.formRefused p = none → ∃ w : W, Runs (.polEnable 0 p v) s w ∧ Rebuilds s p w ∧ (w.d.pol p).enable = true ∧
        (w.d.pol p).service = v.testBit 30 ∧ (w.d.pol p).formGen = u32 ((s.dev.pol p).formGen + 1))) ∧
    ((s.dev.pol p).st = 2 →
      (s.dev.polCtxs p ≠ [] → Runs (.polDisable 0 p) s ((s.w.modPol p fun P => { P with cause := 6 }).ignored 0 (polOff 0 p 0))) ∧
      (s.dev.polCtxs p = [] → (s.dev.pol p).job = none → (s.dev.pol p).warm = none →
        ∃ w : W, Runs (.polDisable 0 p) s w ∧ w.ops = [] ∧ (w.d.pol p).st = 3 ∧ (w.d.pol p).enable = false ∧ (w.d.pol p).imgs = [] ∧
          (∀ i ∈ s.dev.polStacks p, (w.d.die i).stack = 1) ∧ (∀ k, k < 1024 → (s.dev.pol p).hasKey k = true → w.d.key k = {}) ∧
          w.d.sluices = s.dev.sluices.filter (fun x => !(s.dev.pol p).hasSluice x.1) ∧
          ∀ g, 256 * p ≤ g → g < 256 * p + 256 → tget 0 w.d.grants g = 0))) ∧
  (∀ (s : State) (p : Nat), (s.dev.pol p).st = 1 → s.dev.allClean p = true →
    Runs (.polderReady p) s ((s.w.setPolSt p 2).modPol p fun P => { P with resetting := false })) ∧
  (∀ (s : State) (p : Nat), (s.dev.pol p).st = 3 →
    Exactly (.dissolveComplete p) s ((((s.w.modBank (ptBank p 0) fun _ => {}).modBank (ptBank p 1) fun _ => {}).modPol p fun P =>
      { P with slotIds := [] }).setPolSt p 0)) ∧
  (∀ (s : State) (fn p v : Nat), s.dev.hostReach fn = true → s.dev.running = true → p < 16 → s.dev.driver p = fn ∨ fn = 0 → (s.dev.pol p).st = 2 →
    ∃ w : W, Runs (.polReset fn p v) s w ∧ Rebuilds s p w ∧ (w.d.pol p).resetting = true ∧
      (∀ i, (s.dev.pol p).hasSluice i = true → (w.d.sluice i).value = 0) ∧ (∀ c, (s.dev.pol p).hasChan c = true → (w.d.chan c).st = 0) ∧
      ∀ n, (s.dev.pol p).hasCtx n = true → (s.dev.ctx n).res ≠ 0 → (w.d.ctx n).res = 1 ∧ (w.d.ctx n).record = none) ∧
  (∀ (s : State) (fn p v : Nat), s.dev.hostReach fn = true → s.dev.running = true → p < 16 → s.dev.driver p = fn ∨ fn = 0 →
    (s.dev.pol p).st = 0 ∨ (s.dev.pol p).st = 3 → Runs (.polReset fn p v) s (refusedAt s fn (polOff fn p 8))) ∧
  (∀ (s : State) (k : Nat), 0 < k → s.dev.hostReach k = true → s.dev.running = true →
    ((s.dev.pol (vfPol k)).st = 2 → ∃ w : W, Runs (.flrVf k) s w ∧ Rebuilds s (vfPol k) w ∧ (w.d.pol (vfPol k)).resetting = true ∧
      (∀ i, s.dev.ringPol i = some (vfPol k) → (w.d.ring i).st = 0) ∧ ∀ x ∈ w.d.sec.sessions, x.fn ≠ k) ∧
    ((s.dev.pol (vfPol k)).st = 0 → ∃ t, exec (.flrVf k) s = .next t ∧ t.pending = s.pending ∧ t.fuses = s.fuses ∧ t.mem = s.mem ∧
      t.dev.rings = s.dev.rings ∧ t.dev.pols = s.dev.pols ∧ ∀ x ∈ t.dev.sec.sessions, x.fn ≠ k)) ∧
  (∀ (s : State) (site : Nat), (s.dev.die site).stack = 2 → s.memOk →
    ∃ t, exec (.stackScrubComplete site) s = .next t ∧ t.pending = s.pending ∧ t.fuses = s.fuses ∧
      t.dev = { s.dev with dies := t.dev.dies, sec := t.dev.sec } ∧ (t.dev.die site).stack = 3 ∧ (t.dev.die site).stackEcc = 0 ∧
      (∀ i, i ≠ site → t.dev.die i = s.dev.die i) ∧
      (∀ a, stackBase site ≤ a → a < stackBase site + stackSize → t.mem.byte a = 0) ∧
      ∀ a, a < stackBase site ∨ stackBase site + stackSize ≤ a → t.mem.byte a = s.mem.byte a) ∧
  (∀ (s : State) (site block p : Nat) (fx : MemFx), s.dev.sitePol site = some p → (s.dev.die site).stack = 3 → 4096 * block < stackSize →
    (fx.fail = .none → Exactly (.patrolRead site block fx) s (s.w.countFx p fx)) ∧
    (∀ st det, MemFail.code fx.fail = some (st, det) → Exactly (.patrolRead site block fx) s
      (((s.w.countFx p fx).polErr p 4 1).event p st dPATROL 5 site (stackBase site + 4096 * block))))

/-! ## Ports -/

namespace Sys2Proof.Claims

/-- Port `n` is UP or EXCLUDED. -/
def linked (s : State) (n : Nat) : Prop := (s.dev.port n).st = 2 ∨ (s.dev.port n).st = 4
/-- Port `n` has gone DOWN with a cause and trains again; what it held goes elsewhere. -/
def wentDown (w : W) (n cause : Nat) : W :=
  (w.modPort n fun P => { P with st := 1, cause := cause, hvalid := false, txSeq := 0, rxSeq := 0, paused := 0, pausing := 0 }).replayLost n

end Sys2Proof.Claims

/-- R295 to R298, R302, R305 to R307, R314 to R316, R335, R359, R465: a port is enabled where its group allows it, goes UP when its PCS locks and DOWN when it is lost, and is
DISABLED; a DIRECT port says HELLO and LL_ACK at its timers, takes a neighbour's HELLO, and is EXCLUDED when that is not the one expected; a NAK has it send
again what is not acknowledged; a frame that is not whole or not the next is asked for again, and one that is but is not well formed is accepted from the link and
discarded; a GOODBYE loses the peer; a paused priority waits; and a fibre latch turns its lasers off. -/
def Obligations.PortStates : Prop :=
  (∀ (s : State) (n v : Nat), s.dev.hostReach 0 = true → s.dev.running = true → n < 36 → n < s.dev.numPorts →
    let Q := (s.dev.port n).withCtrl (v % 2 ^ 31 + 2 ^ 31)
    ((s.dev.port n).enable = false →
      (s.dev.portEnableOk n Q = true → Runs (.portEnable 0 n v) s (s.w.modPort n fun _ => { Q with enable := true, st := 1 })) ∧
      (s.dev.portEnableOk n Q = false → Runs (.portEnable 0 n v) s
        ((s.w.modPort n fun _ => { Q with cfgErr := true }).ignored 0 (0x2800100 + 4 * n)))) ∧
    ((s.dev.port n).enable = true → Runs (.portDisable 0 n) s
      ((s.w.modPort n fun P => { P with enable := false, st := 0, hvalid := false, txSeq := 0, rxSeq := 0, paused := 0, pausing := 0 }).replayLost n))) ∧
  (∀ (s : State) (n : Nat), (s.dev.port n).enable = true → (s.dev.port n).st = 1 → (s.dev.port n).lit = true →
    let w := s.w.modPort n fun P => { P with st := 2, hvalid := false }
    ((s.dev.port n).mode = 0 → Runs (.pcsLock n) s (w.direct n (w.d.helloFrame n)).pumpAll) ∧
    ((s.dev.port n).mode = 1 → Runs (.pcsLock n) s w.pumpAll)) ∧
  (∀ (s : State) (n : Nat), linked s n →
    Runs (.pcsLoss n) s (wentDown s.w n 1) ∧ Runs (.silenceTimeout n) s (wentDown s.w n 2) ∧
    (16 ≤ (s.dev.port n).replays → Runs (.replayLimit n) s (wentDown s.w n 3)) ∧
    Exactly (.llAckTimer n) s (s.w.wire n
      { s.dev.llAckFrame n false with hseq := 0, hack := if (s.dev.port n).mode = 0 then (s.dev.port n).rxSeq else 0 }) ∧
    ((s.dev.port n).mode = 0 → Exactly (.helloTimer n) s (s.w.direct n (s.dev.helloFrame n))) ∧
    (∀ prio, Exactly (.pfcFrame n prio true) s (s.w.modPort n fun P => { P with paused := P.paused ||| 2 ^ prio })) ∧
    (∀ prio, let resumed := s.w.modPort n fun P => { P with paused := (P.paused ||| 2 ^ prio) ^^^ 2 ^ prio }
      Exactly (.pfcFrame n prio false) s (resumed.release n) ∧
      ((s.dev.port n).held = [] → (∀ x ∈ s.dev.fabric.ports, x.2.pausing = 0 ∧ x.2.held = []) → Exactly (.pfcFrame n prio false) s resumed))) ∧
  (∀ (s : State) (n k : Nat) (f : Frame), (s.dev.port n).st = 2 → badFrame f = some k →
    let asksAgain (w : W) : W := w.wire n { s.dev.llAckFrame n true with hseq := 0, hack := (s.dev.port n).rxSeq }
    (f.fcsOk = false → (s.dev.port n).mode = 0 → Exactly (.frameDiscard n f) s (asksAgain (s.w.linkCnt n k))) ∧
    (f.fcsOk = true → (s.dev.port n).mode = 0 → f.kind ≠ 0x11 → f.hseq ≠ (s.dev.port n).rxSeq → Exactly (.frameDiscard n f) s (asksAgain s.w)) ∧
    (f.fcsOk = true → (s.dev.port n).mode = 0 → f.kind ≠ 0x11 → f.hseq = (s.dev.port n).rxSeq →
      Exactly (.frameDiscard n f) s ((received s n f).linkCnt n k)) ∧
    ((s.dev.port n).mode = 1 → Exactly (.frameDiscard n f) s (s.w.linkCnt n k))) ∧
  (∀ (s : State) (n : Nat) (f : Frame), Arrives s n f →
    (f.kind = 0x10 →
      let v := fld f.payload 0 4
      let known := (received s n f).modPort n fun P =>
        { P with hvalid := true, peerChip := bits v 12 0, peerPort := bits v 18 13, helloAt := s.dev.aon.hub }
      let expected := bits v 12 0 = (s.dev.port n).expChip ∧ bits v 18 13 = (s.dev.port n).expPort
      ((s.dev.port n).expValid = false ∨ expected → Runs (.hello n f) s known) ∧
      ((s.dev.port n).expValid = true → ¬ expected →
        Runs (.hello n f) s (((known.modPort n fun P => { P with st := 4 }).linkCnt n 6).replayLost n))) ∧
    (f.kind = 0x12 → Runs (.goodbye n f) s (((received s n f).chipLost f.src 2).portDown n 4))) ∧
  (∀ (s : State) (n : Nat) (f : Frame), linked s n → (s.dev.port n).mode = 0 → badFrame f = none → f.kind = 0x11 →
    let w := (s.w.linkCnt n 1).takeHack n f.hack
    ((fld f.payload 0 4).testBit 0 = false → Exactly (.llAck n f) s w) ∧
    ((fld f.payload 0 4).testBit 0 = true → Exactly (.llAck n f) s (w.replayAll n))) ∧
  (∀ (s : State) (n : Nat) (f : Frame), (s.dev.port n).st = 2 → (s.dev.port n).mode = 1 → badFrame f = none → f.kind = 0x10 → f.dst = s.dev.hub.chip →
    f.eackv = false → (fld f.payload 8 1).testBit 1 = false →
    let v := fld f.payload 0 4
    let lp := (s.dev.port n).lport
    let tc := fld f.payload 8 1 % 2
    let C := s.dev.conn lp f.src tc
    let known := (s.w.linkCnt n 1).modPort n fun P =>
      { P with hvalid := true, peerChip := bits v 12 0, peerPort := bits v 18 13, helloAt := s.dev.aon.hub }
    let opened := known.modConn lp f.src tc fun C => { C with st := 2, rxOpen := true, rx := fld f.payload 4 4 }
    (C.st = 1 → bits v 12 0 = f.src → bits v 22 19 = lp →
      Runs (.hello n f) s (W.pushConn (C.waiting.length + 1) opened lp f.src tc)) ∧
    (C.st ≠ 1 → Runs (.hello n f) s (W.pushConn (C.waiting.length + 1) (opened.sendHello n lp f.src tc) lp f.src tc))) ∧
  (∀ (s : State) (site i : Nat), s.dev.linkSites.findIdx? (· == site) = some i →
    (∃ t, exec (.fibreLatchRelease site) s = .next t ∧ t.pending = s.pending ∧ t.fuses = s.fuses ∧ ∀ k, k < 3 →
      (t.dev.port (3 * i + k)).latched = false ∧
      ((s.dev.port (3 * i + k)).phy = true → linked s (3 * i + k) → (t.dev.port (3 * i + k)).st = 1) ∧
      ((s.dev.port (3 * i + k)).phy = false → (t.dev.port (3 * i + k)).st = (s.dev.port (3 * i + k)).st)) ∧
    Exactly (.fibreLatchEngage site) s (s.w.each [3 * i, 3 * i + 1, 3 * i + 2] fun w n => w.modPort n fun P => { P with latched := true }))

/-! ## Power -/

namespace Sys2Proof.Claims

/-- The targets of a die's islands. -/
def aims (P : Power) (f : Nat → Isl → Isl) : Power := { P with isl := P.isl.map fun x => (x.1, f x.1 x.2) }
/-- The hub's clock runs (R342). -/
def clocked (s : State) : Prop := s.dev.aon.rail33 = true ∧ s.dev.aon.rail12 = true ∧ s.dev.aon.refclk = true

end Sys2Proof.Claims

/-- R343 to R363: each arbiter period counts itself, puts the mode that was written in force, and changes only power; the shares of the polders and what unallotted dies are
held at add up to the budget; grants never exceed their allowance and lie between each island's minimum and what it wants; a raised target waits for its rail; a
write of limits, of the mode and of the trip register does what R350, R354 and R458 say; the limiter lowers targets within their range; and a sensor's
reading changes its die's protection. -/
def Obligations.PowerControl : Prop :=
  (∀ (s : State) (draws : List (Nat × Nat)), clocked s → ∃ t, exec (.arbiterPeriod draws) s = .next t ∧ t.pending = s.pending ∧ t.fuses = s.fuses ∧ t.mem = s.mem ∧
    t.dev = { s.dev with power := t.dev.power, rings := t.dev.rings, hub := t.dev.hub, out := t.dev.out } ∧
    t.dev.power.openMode = s.dev.power.openReg ∧ t.dev.power.openReg = s.dev.power.openReg ∧ t.dev.power.limited = false ∧
    lget 0 t.dev.power.devCnt 0 = (if s.dev.power.devCnt = [] then 0 else sat64 (lget 0 s.dev.power.devCnt 0 + 1)) ∧
    (∀ p, p < 16 → (s.dev.pol p).st ≠ 0 → ∃ x g a, (p, x) ∈ s.dev.shares ∧ tget (0, 0, 0) t.dev.power.pgrant p = (x, g, a) ∧ x ≤ a)) ∧
  (∀ d : Dev, d.formed ≠ [] → (∀ p ∈ d.formed, 0 < d.power.weightOf p) →
    let idle := d.computeSites.filter fun s => (d.sitePol s).isNone
    let held := sumOf (idle.map d.floorOf) + d.testExtra idle
    let floors := sumOf (d.formed.map fun p => sumOf ((d.polSites p).map d.floorOf))
    reserve d.variant + held + floors ≤ d.power.cap → sumOf (d.shares.map Prod.snd) + held + reserve d.variant = d.power.cap) ∧
  (∀ (a : Nat) (l : List Want), (∀ x ∈ l, minGrant x.kind ≤ x.lo ∧ x.lo ≤ x.want) → sumOf (l.map fun x => minGrant x.kind) ≤ a →
    (allocate a l).length = l.length ∧ sumOf (allocate a l) ≤ a ∧ ∀ y ∈ l.zip (allocate a l), minGrant y.1.kind ≤ y.2 ∧ y.2 ≤ y.1.want) ∧
  (∀ (s : State) (site : Nat), Exactly (.railVoltageReached site) s (s.w.modPower fun P => aims P fun k I =>
    if k / 16 = site then { I with target := I.raise.getD I.target, raise := none } else I)) ∧
  (∀ (s : State) (site i : Nat), exec (.droopClocking site i) s = .next s) ∧
  (∀ (s : State) (i v : Nat), s.dev.hostReach 0 = true → s.dev.running = true → i < 64 → v < 2 ^ 32 →
    let k := i % 4
    let c := v / 2 ^ 16
    let f := v % 2 ^ 16
    let right := rangeMin k ≤ c ∧ c ≤ rangeMax k ∧ c % 25 = 0 ∧ (f = 0 ∨ rangeMin k ≤ f ∧ f ≤ c ∧ f % 25 = 0)
    (¬ right → Runs (.clkPolLim 0 i v) s (refusedAt s 0 (0x1C00000 + 4 * i))) ∧
    (right → ∃ w : W, Runs (.clkPolLim 0 i v) s w ∧ w.d = { s.dev with power := w.d.power } ∧ w.ops = [] ∧
      w.d.power.lim = tset s.dev.power.lim i v ∧
      ((s.dev.pol (i / 4)).st = 0 → w.d.power.isl = s.dev.power.isl) ∧
      ((s.dev.pol (i / 4)).st ≠ 0 → ∀ site ∈ s.dev.polSites (i / 4), ∀ j ∈ varIslands,
        if islKind j = some k then (w.d.power.island site j).target = min (s.dev.power.island site j).target c
        else w.d.power.island site j = s.dev.power.island site j))) ∧
  (∀ (s : State) (v : Nat), s.dev.hostReach 0 = true → s.dev.running = true →
    (v.testBit 31 = true ∨ s.dev.portsShared = false → Runs (.pwrMode 0 v) s (s.w.modPower fun P => { P with openReg := v.testBit 31 })) ∧
    (v.testBit 31 = false → s.dev.portsShared = true → Runs (.pwrMode 0 v) s (refusedAt s 0 0x1800010)) ∧
    (bits v 30 28 ≤ 3 → Runs (.pwrTrip 0 v) s (s.w.modAon fun A =>
      { A with tripValid := v.testBit 31, tripCause := bits v 30 28, tripSite := bits v 4 0, thermtrip := v.testBit 31 && A.thermtrip }))) ∧
  (∀ (s : State) (us : Nat), ∃ t, exec (.inputLimiter us) s = .next t ∧ t.pending = s.pending ∧ t.fuses = s.fuses ∧ t.mem = s.mem ∧
    t.dev = { s.dev with power := { s.dev.power with limited := true, thermStatus := s.dev.power.thermStatus ||| 0x20, isl := t.dev.power.isl } } ∧
    ∀ site i k, s.dev.isCompute site = true → i < 16 → islKind i = some k →
      (t.dev.power.island site i).target = max (min (s.dev.power.island site i).target (rangeMin k)) ((s.dev.power.island site i).target - 25 * us) ∧
      (t.dev.power.island site i).grant = (s.dev.power.island site i).grant) ∧
  (∀ (s : State) (temp : Int), s.dev.aon.rail33 = true → s.dev.aon.tripHold = false →
    let heats (k : Sensor) (site : Nat) (f : Therm → Therm) (bit : Nat) := Exactly (.thermalThreshold k temp) s (s.w.modPower fun P =>
      { P with therm := tmod {} P.therm site f, thermStatus := P.thermStatus ||| bit })
    let hot := (if 800 ≤ temp then 1 else 0) ||| (if 840 ≤ temp then 2 else 0)
    let level (t1 t2 norm : Int) (old : Nat) := if t2 ≤ temp then 2 else if temp < norm then 0 else if t1 ≤ temp then max 1 old else old
    (∀ site, s.dev.isCompute site = true → heats (.computeDie site) site (fun T =>
      { T with logic := temp, logicLimit := decide (840 ≤ temp) || T.logicLimit && decide (784 ≤ temp) }) hot) ∧
    (∀ site, s.dev.isStacked site = true → heats (.dramDie site) site (fun T => { T with dram := temp, dramLevel := level 736 760 720 T.dramLevel })
      ((if 736 ≤ temp then 4 else 0) ||| (if 760 ≤ temp then 8 else 0))) ∧
    (∀ site, s.dev.isLink site = true → heats (.linkDie site) site (fun T => { T with logic := temp, level := level 800 840 784 T.level }) hot) ∧
    heats .hubDie 12 (fun T => { T with logic := temp, level := level 800 840 784 T.level }) (if 800 ≤ temp then 0x40 else 0) ∧
    (∀ n, n < s.dev.numPorts →
      let read := s.w.modPower fun P => { P with optTemp := tset P.optTemp n temp }
      let off := read.modPort n fun P => { P with hot := true }
      (640 ≤ temp → (s.dev.port n).laser = false → Exactly (.thermalThreshold (.optic n) temp) s off) ∧
      (640 ≤ temp → (s.dev.port n).laser = true → Runs (.thermalThreshold (.optic n) temp) s
        ((off.modPower fun P => { P with thermStatus := P.thermStatus ||| 0x10 }).portDown n 1)) ∧
      (600 ≤ temp → temp < 640 → Exactly (.thermalThreshold (.optic n) temp) s read) ∧
      (temp < 600 → Exactly (.thermalThreshold (.optic n) temp) s (read.modPort n fun P => { P with hot := false }))))

/-! ## Service mode -/

namespace Sys2Proof.Claims

/-- The step loop of polder `p` runs and has no job. -/
structure Looping (s : State) (p : Nat) : Prop where
  st : (s.dev.pol p).svc.st = 2
  job : (s.dev.pol p).svc.job = none
  ready : s.dev.polReady p = true
  running : s.dev.running = true

/-- Nothing is left to be done by firmware before it launches a job: no sequence is cancelled, owes an entry, or waits for frames that it could get. -/
def settled (s : State) (p : Nat) : Prop :=
  let S := (s.dev.pol p).svc
  (∀ q ∈ S.seqs, q.live = true ∧ q.cancel = false ∧ q.toks = []) ∧ ∃ q ∈ S.seqs, S.heldOnFrames q = false

end Sys2Proof.Claims

/-- R266 to R270, R275 to R280, R285: RUN starts the loop of a READY service polder whose block is right, and says what was wrong of one that is not; a start that every
check passes is RUNNING, its page tables zero and its frames free; a pass with no job launches one, a prefill where a prompt is outstanding and else a decode; a job
that is done gives each of its sequences its token, or ends them; RUN = 0 stops the loop, and a stopped loop forgets what it held. -/
def Obligations.ServiceLoop : Prop :=
  (∀ (s : State) (fn p : Nat), Drives s fn p →
    (s.dev.svcReached p = false → Runs (.runStart fn p) s (refusedAt s fn (polOff fn p 0x90)) ∧ Runs (.runStop fn p) s (refusedAt s fn (polOff fn p 0x90))) ∧
    (s.dev.svcReached p = true → (s.dev.pol p).svc.st = 0 →
      (s.w.svcRead p = none ∨ (∃ b x, s.w.svcRead p = some (b, x) ∧ svcBlockOk b x = false) →
        Runs (.runStart fn p) s (s.w.modSvc p fun S => { S with cause := 1 })) ∧
      (∀ b x, s.w.svcRead p = some (b, x) → svcBlockOk b x = true → ∃ w : W, Runs (.runStart fn p) s w ∧ w.ops = [] ∧ (w.d.pol p).svc.st = 1 ∧
        (w.d.pol p).svc.block = b ∧ (w.d.pol p).svc.pairs.map (·.entry) = (List.range (svPairs b)).map (fun i => slice x (64 * i) 64))) ∧
    (s.dev.svcReached p = true → (s.dev.pol p).svc.st = 2 → Runs (.runStop fn p) s (s.w.modSvc p fun S => { S with st := 3 }))) ∧
  (∀ (s : State) (p : Nat), (s.dev.pol p).svc.st = 1 →
    let S := (s.dev.pol p).svc
    (∀ c, s.w.svcRefused p = some c → ∃ t, exec (.serviceLoopRunning p) s = .next t ∧ t.pending = s.pending ∧ t.fuses = s.fuses ∧ t.mem = s.mem ∧
      (t.dev.pol p).svc = { base := S.base, cause := c, flags := S.flags } ∧ (t.dev.pol p).imgs = (s.dev.pol p).imgs) ∧
    (s.w.svcRefused p = none → (∀ x ∈ S.pairs, prDonate x.entry = 0) →
      let home := (s.dev.pol p).home
      let new := ((svImages S.block).filter fun a => !(s.dev.pol p).imgs.any fun i => i.addr == a).eraseDups
      Runs (.serviceLoopRunning p) s ((((s.w.zero (ptBase home 0) 0x1000000).zero (ptBase home 1) 0x1000000).modPol p fun P => { P with
        imgs := P.imgs ++ new.map fun a => { addr := a, len := le (s.mem.read (a + 0x10) 4) }
        svc := { P.svc with st := 2, free := s.dev.kvFrames p S.block } }).pumpAll))) ∧
  (∀ (s : State) (p : Nat) (prompt : ReadRes), Looping s p → settled s p →
    let w := (s.w.modSvc p Svc.endPass).donateAll p
    let S := (w.d.pol p).svc
    let decodable := (W.pickDecode p S.decodeOrder w [] []).2 ≠ []
    w.d.jobFree p = true →
    (∀ q, S.nextPrompt = some q →
      (svRole S.block = 1 → Runs (.serviceLoopPass p prompt) s (w.prefill p (svStepImg S.block) q prompt).pumpAll) ∧
      (svRole S.block = 0 → svPrefillImg S.block ≠ 0 → S.lastPrefill = false ∨ ¬ decodable →
        Runs (.serviceLoopPass p prompt) s (w.prefill p (svPrefillImg S.block) q prompt).pumpAll) ∧
      (svRole S.block = 0 → svPrefillImg S.block ≠ 0 → S.lastPrefill = true → decodable →
        Runs (.serviceLoopPass p prompt) s (w.decode p).pumpAll)) ∧
    (S.nextPrompt = none → svRole S.block = 0 → Runs (.serviceLoopPass p prompt) s (w.decode p).pumpAll)) ∧
  (∀ (s : State) (p st : Nat) (J : SvcJob), (s.dev.pol p).svc.job = some J → J.status = some st → (s.dev.pol p).svc.st = 2 ∨ (s.dev.pol p).svc.st = 3 →
    let out := s.mem.read (svOutbuf (s.dev.pol p).svc.block) (8 * J.rows.length)
    let w := s.w.modSvc p fun S => { S with job := none }
    (st ≠ stOK → Runs (.serviceJobComplete p) s ((w.each J.rows fun w a => w.endSeq p a 8 st J.detail).pumpAll)) ∧
    (∀ a, st = stOK → J.prefill = false → J.rows = [a] → Runs (.serviceJobComplete p) s
      (((w.modSeq p a fun q => { q with pos := q.pos + 1 }).afterToken p a (fld out 0 4) (fld out 4 4)).pumpAll)) ∧
    (∀ a, st = stOK → J.prefill = true → J.complete = false → J.rows = [a] → Runs (.serviceJobComplete p) s
      ((w.modSeq p a fun q => { q with promptDone := q.promptDone + J.chunk, pos := q.pos + J.chunk }).pumpAll)) ∧
    (∀ a, st = stOK → J.prefill = true → J.complete = true → J.rows = [a] → Runs (.serviceJobComplete p) s
      (((w.modSeq p a fun q => { q with promptDone := q.promptDone + J.chunk, pos := q.pos + J.chunk }).afterToken p a (fld out 0 4) (fld out 4 4)).pumpAll))) ∧
  (∀ (s : State) (p : Nat), (s.dev.pol p).svc.st = 3 → (s.dev.pol p).svc.job = none → (s.dev.pol p).svc.seqs = [] →
    let S := (s.dev.pol p).svc
    Runs (.serviceLoopStopped p) s ((s.w.dropOps fun i => i == .service p).modPol p fun P =>
      { P with imgs := P.imgs.filter (fun i => !(svImages S.block).contains i.addr), svc := { base := S.base, cause := S.cause, flags := S.flags } }))

/-- R271, R272, R286, R287: a START that is refused is counted and answered with the status of the first check that fails; one that can be held is admitted with the next admission
number and its frames reserved; one whose ring cannot be written is taken and posts an event; a CANCEL marks its sequence; a SESSION_DROP releases its sessions; and a
NOP is taken. -/
def Obligations.ServiceRequests : Prop :=
  ∀ (s : State) (r p : Nat) (e : Bytes), s.dev.request r = some (p, e) →
    let S := (s.dev.pol p).svc
    let n := (s.dev.ring r).owner
    let room := 0 < (s.dev.ring (rqRing e)).room
    (rqOp e = 1 →
      (s.dev.respRingOk r e = false → Runs (.start r) s (((s.w.takeEntry r).tally n false).event p stREQUEST_BAD 2 2 r (rqId e))) ∧
      (s.dev.respRingOk r e = true →
        (∀ st det, s.dev.startRefused p r e = some (st, det) → room → Runs (.start r) s
          ((((s.w.takeEntry r).tally n false).modSvc p fun S => { S with refused := S.refused.filter (· != (rqPair e, rqId e)) }).svcRespond
            (rqRing e) (rqId e) 0 det st [] true 7)) ∧
        (∀ slot, s.dev.startRefused p r e = none → rqReuse e = false → rqRemote e = false → S.freeSlot = some slot →
          S.live.length < svMaxSeq S.block → S.reserveFor e ≤ S.avail →
          Runs (.start r) s (((s.w.fresh.2).takeEntry r).modSvc p fun S => { S with
            admission := S.admission + 1, seqs := S.seqs ++ [{ slot := slot, entry := e, ring := r, admission := S.admission, reserved := S.reserveFor e }] })))) ∧
    (rqOp e = 2 → s.dev.smallEntryOk r e [(0x10, 8)] = true → svRole S.block ≠ 2 → Runs (.cancel r) s ((s.w.takeEntry r).modSvc p fun S => { S with
      seqs := S.seqs.map fun q => if q.live && rqId q.entry == rqId e then { q with cancel := true } else q })) ∧
    (rqOp e = 3 → s.dev.smallEntryOk r e [(8, 8)] = true → svRole S.block ≠ 1 →
      ∃ w : W, Runs (.sessionDrop r) s w ∧ (∀ x ∈ (w.d.pol p).svc.sessions, x ∈ S.sessions ∧ x.id ≠ rqSession e) ∧
        ((∀ x ∈ S.sessions, x.id ≠ rqSession e) → w = s.w.takeEntry r)) ∧
    (rqOp e = 0 → Runs (.requestNop r) s (s.w.takeEntry r))

/-! ## Handoffs -/

namespace Sys2Proof.Claims

/-- The service loop of polder `p` works. -/
structure Serving (s : State) (p : Nat) : Prop where
  st : (s.dev.pol p).svc.st = 2
  ready : s.dev.polReady p = true
  running : s.dev.running = true

/-- A record of `pages` pages that is in order, the frames `fs` being those that it names (R290, R292). -/
structure Accepts (s : State) (p i : Nat) (b : Bytes) (fs : List Nat) : Prop where
  next : s.w.nextRecord p i = some b
  fields : recordFieldsOk b = true
  number : fld b 0x28 4 = ((s.dev.pol p).svc.pair i).taken % 2 ^ 32
  role : roleTakes (svRole (s.dev.pol p).svc.block) (rcKind b) = true
  frames : (List.range (rcPages b)).map (fun k => s.dev.donatedFrame ((s.dev.pol p).svc.pair i) (rcEnt b k)) = fs.map some
  distinct : fs.Nodup
  last : rcMore b = false
  whole : ((s.dev.pol p).svc.pair i).partKey = none ∧ ((s.dev.pol p).svc.pair i).partFrames = []
  good : ((s.dev.pol p).svc.pair i).badKey ≠ some (rcKey b)

/-- The record is taken, the pass being at its pair: it and the frames that it names are no longer expected. -/
def recordTaken (s : State) (p i : Nat) (fs : List Nat) : W :=
  s.w.modSvc p fun S => ({ S with passPair := some i } : Svc).modPair i fun X =>
    { X with taken := X.taken + 1, donated := X.donated.filter fun x => !fs.contains x, badKey := none }
/-- The credit goes back to the peer, and frames are donated again (R289, R292). -/
def credited (s : State) (p i : Nat) (w : W) : W :=
  let e := ((s.dev.pol p).svc.pair i).entry
  let x := w.issueAll [svcAdd p e (prPeerSlu e 2) 1]
  ((x.2.modSvc p fun S => S.modPair i fun X => { X with ops := X.ops ++ x.1 }).donate p i).pumpAll

end Sys2Proof.Claims

/-- R289 to R292: the first handoff of a pair whose operations are acknowledged goes on: its pages into donated frames, then its record, then its pages are free; a record that
is in order is taken, its credit returned and its frames donated again: SEQ_PAGES go to the sequence that waits for them or are held, SESSION_PAGES are stored or
given to the sequence that fetched them, which ends where the retained tokens pass MAXCTX, a FETCH is answered with the session or MISS, and a MISS ends its request
with SESSION_GONE; and what could not be delivered is sent again, a running loop making the donation up too. -/
def Obligations.Handoffs : Prop :=
  (∀ (s : State) (p k : Nat) (x : Send), Serving s p → (s.dev.pol p).svc.sends[k]? = some x → x.ops = [] →
    (∀ y ∈ (s.dev.pol p).svc.sends.take k, y.pair ≠ x.pair) →
    (x.pagesOut = true → Runs (.handoffSend p k) s (s.w.sendRecord p k x).pumpAll) ∧
    (x.pagesOut = false → x.lastPosted = false → Runs (.handoffSend p k) s (s.w.sendPages p k x).pumpAll) ∧
    (x.pagesOut = false → x.lastPosted = true → x.seq = none → Runs (.handoffSend p k) s
      (let w := s.w.modSvc p fun S => { S with sends := S.sends.eraseIdx k }
       (if x.free then w.freeFrames p x.frames else w).pumpAll))) ∧
  (∀ (s : State) (p i : Nat) (b : Bytes) (fs : List Nat), Accepts s p i b fs → i < (s.dev.pol p).svc.pairs.length →
    let S := (s.dev.pol p).svc
    let w := recordTaken s p i fs
    (rcKind b = 1 →
      let x : HeldRec := { pair := i, key := rcKey b, ended := rcEnded b, stop := fld b 6 1, ntok := rcNtok b, token := rcToken b, frames := fs }
      let mine (q : Sq) : Bool := q.phase == .remoteKv && rqPair q.entry == i && rqId q.entry == rcKey b
      (∀ q, S.live.find? mine = some q → Runs (.seqPages p i) s (credited s p i (w.joinPages p q.admission x))) ∧
      (S.live.find? mine = none → Runs (.seqPages p i) s (credited s p i (w.modSvc p fun S => { S with heldRecs := S.heldRecs ++ [x] })))) ∧
    (rcKind b = 2 → svRole S.block = 2 → (∀ x ∈ S.sessions, x.id ≠ rcSession b) → Runs (.sessionPages p i) s (credited s p i (w.modSvc p fun S => { S with
      sessions := S.sessions ++ [{ id := rcSession b, slot := svMaxSeq S.block, tokens := rcNtok b, frames := fs, order := S.sessCtr }]
      sessCtr := S.sessCtr + 1 }))) ∧
    (rcKind b = 2 → svRole S.block = 0 → ∀ a, S.fetches.find? (·.1 == rcKey b) = some (rcKey b, a) →
      let fetched := (w.fresh.2.modSvc p fun S => { S with fetches := S.fetches.filter (·.2 != a) }).modSeq p a fun q =>
        { q with frames := fs, mapped := 0, pos := rcNtok b, token := Config.freeNat s.dev.freeCtr % 2 ^ 32
                 phase := if rqPlen q.entry = 0 then .ready else .prompt }
      let fits (q : Sq) := rcNtok b + rqPlen q.entry + rqMaxNew q.entry ≤ svMaxCtx S.block
      ∀ q, S.seq a = some q →
        (fits q → Runs (.sessionPages p i) s (credited s p i fetched)) ∧
        (¬ fits q → Runs (.sessionPages p i) s (credited s p i (fetched.endSeq p a 7 stREQUEST_BAD 4)))) ∧
    (rcKind b = 3 → fs = [] →
      (∀ x, S.sessions.find? (·.id == rcSession b) = some x → Runs (.fetch p i) s (credited s p i (w.modSvc p fun S => { S with
        sends := S.sends ++ [{ pair := i, kind := 2, key := rcKey b, session := x.id, frames := x.frames, ntok := x.tokens }] }))) ∧
      (S.sessions.find? (·.id == rcSession b) = none → Runs (.fetch p i) s (credited s p i (w.modSvc p fun S => { S with
        sends := S.sends ++ [{ pair := i, kind := 4, key := rcKey b, session := rcSession b }] })))) ∧
    (rcKind b = 4 → fs = [] → ∀ a, S.fetches.find? (·.1 == rcKey b) = some (rcKey b, a) →
      Runs (.miss p i) s (credited s p i (w.endSeq p a 7 stREQUEST_BAD 8)))) ∧
  (∀ (s : State) (p i : Nat),
    let again (w : W) (ids : List Nat) : W :=
      (w.modFabric fun F => { F with ops := F.ops.map fun o => if ids.contains o.id then { o with waitNak := false } else o }).pumpAll
    (Serving s p → i < (s.dev.pol p).svc.pairs.length → Runs (.donationRetry p i) s (again (s.w.donate p i) ((s.dev.pol p).svc.pair i).ops)) ∧
    ((s.dev.pol p).svc.st ≠ 2 → Runs (.donationRetry p i) s (again s.w ((s.dev.pol p).svc.pair i).ops)) ∧
    Runs (.remoteRetry p i) s (again s.w ((((s.dev.pol p).svc.sends.filter (·.pair == i)).map (·.ops)).flatten)))

/-! ## Self-test -/

/-- R381, R382, R403 to R416: a slice command that is allowed waits in its slot, one that is not says why, and BLOCK 0 cancels one that waits; a slice that can start runs, ends
with PASS, FAIL, INTERRUPTED or BUDGET, and leaves its block as reset; a pattern pack and a repair list are read, checked whole, and take effect only where every check passes; and
a fuse repair starts its pulse where the life-cycle state and an empty device allow it. -/
def Obligations.SelfTest : Prop :=
  (∀ (s : State) (n v : Nat), s.dev.hostReach 0 = true → s.dev.running = true → n < 16 → v < 2 ^ 64 →
    ((s.dev.slot n).st = 0 ∨ (s.dev.slot n).st = 3 →
      (s.dev.sliceRefuse v = 0 → ∃ w : W, Runs (.bistSliceCmd 0 n v) s w ∧ w.d = { s.dev with bist := w.d.bist } ∧ w.ops = [] ∧
        (w.d.slot n).st = 1 ∧ (w.d.slot n).cmd = v ∧ (w.d.slot n).logAt = (s.dev.slot n).log ∧ (w.d.slot n).freq = s.dev.bist.marginF ∧
        (∀ x ∈ s.dev.bist.slots, x.2.ord < (w.d.slot n).ord) ∧ ∀ m, m ≠ n → w.d.slot m = s.dev.slot m) ∧
      (s.dev.sliceRefuse v ≠ 0 → Runs (.bistSliceCmd 0 n v) s
        (s.w.modSlot n fun S => { st := 3, refuse := s.dev.sliceRefuse v, log := S.log }))) ∧
    ((s.dev.slot n).st = 2 → Runs (.bistSliceCmd 0 n v) s s.w ∧ Runs (.sliceCancel 0 n) s s.w) ∧
    ((s.dev.slot n).st = 1 → Runs (.sliceCancel 0 n) s (s.w.modSlot n fun S => { S with st := 3, result := 3 }))) ∧
  (∀ (s : State) (n : Nat), s.dev.running = true → s.dev.sliceReady n = true →
    ∃ t, exec (.sliceStart n) s = .next t ∧ t.pending = s.pending ∧ t.fuses = s.fuses ∧ t.mem = s.mem ∧
      t.dev = { s.dev with bist := { s.dev.bist with slots := tmod {} s.dev.bist.slots n fun S => { S with st := 2 } }, dies := t.dev.dies, power := t.dev.power } ∧
      ∀ i, t.dev.die i = { s.dev.die i with spareOn := (t.dev.die i).spareOn }) ∧
  (∀ (s : State) (n : Nat), (s.dev.slot n).st = 2 →
    (∀ results errs, let found := s.dev.sliceFound n s.dev.bist.patterns.length results errs
      (s.dev.offPoint n = false → (∀ x ∈ found, x.result = 0) → ∃ w : W, Runs (.sliceComplete n results errs false) s w ∧
        (w.d.slot n).st = 3 ∧ (w.d.slot n).result = 0 ∧ (w.d.slot n).nlog = 0 ∧ w.d.bist.soft = s.dev.bist.soft) ∧
      (s.dev.offPoint n = false → scRepair (s.dev.slot n).cmd = false → (∃ x ∈ found, x.result ≠ 0) →
        ∃ w : W, Runs (.sliceComplete n results errs false) s w ∧ (w.d.slot n).st = 3 ∧ (w.d.slot n).result = 1 ∧ w.d.bist.soft = s.dev.bist.soft) ∧
      (∀ moved, moved = true ∨ s.dev.offPoint n = true →
        ∃ w : W, Runs (.sliceComplete n results errs moved) s w ∧ (w.d.slot n).st = 3 ∧ (w.d.slot n).result = 3) ∧
      (∀ run, ∃ w : W, Runs (.sliceBudget n results errs run) s w ∧ (w.d.slot n).st = 3 ∧ (w.d.slot n).result = 4) ∧
      (∀ moved, scBlock (s.dev.slot n).cmd = 3 → ∃ w : W, Runs (.sliceComplete n results errs moved) s w ∧
        (w.d.die (scSite (s.dev.slot n).cmd)).tokens = []))) ∧
  (∀ (s : State) (v : Nat), s.dev.hostReach 0 = true → s.dev.running = true → v < 2 ^ 32 →
    let B := s.dev.bist
    (B.packSt = 1 ∨ s.dev.packInUse = true → Runs (.bistPackCmd 0 v) s (s.w.modBist fun B => { B with packResult := 5 })) ∧
    (B.packSt ≠ 1 → s.dev.packInUse = false → 0xA0 ≤ v → v ≤ 0x400000 → Runs (.bistPackCmd 0 v) s
      ((s.w.hostRead B.packAddr v .pack).2.modBist fun B => { B with packSt := 1, packLen := v, packTag := s.dev.hub.readTag })) ∧
    (B.repSt = 1 ∨ s.dev.allEmpty = false → Runs (.bistRepairCmd 0 v) s (s.w.modBist fun B => { B with repResult := 5 })) ∧
    (B.repSt ≠ 1 → s.dev.allEmpty = true → 16 ≤ v → v ≤ 16 + 8 * 4096 → Runs (.bistRepairCmd 0 v) s
      ((s.w.hostRead B.repAddr v .repairList).2.modBist fun B => { B with repPrev := B.repSt, repSt := 1, repLen := v, repTag := s.dev.hub.readTag }))) ∧
  (∀ (s : State) (res : ReadRes),
    let B := s.dev.bist
    (B.packSt = 1 → (s.dev.hread B.packTag).bind (·.res) = some res →
      (∀ b, res = .ok b → s.w.packResult b = 0 → Exactly .packLoadComplete s ((s.w.dropRead B.packTag).modBist fun B =>
        { B with packSt := 2, packResult := 0, pack := b, packVer := fld b 8 4 })) ∧
      (∀ k, (∃ b, res = .ok b ∧ s.w.packResult b = k ∧ k ≠ 0) ∨ (∃ det, res = .err det) ∧ k = 4 →
        Exactly .packLoadComplete s ((s.w.dropRead B.packTag).modBist fun B => { B with packSt := if B.pack.isEmpty then 0 else 2, packResult := k }))) ∧
    (B.repSt = 1 → (s.dev.hread B.repTag).bind (·.res) = some res →
      (∀ b, res = .ok b → s.w.repairResult b = 0 → (∀ e ∈ listEntries b, 3 ≤ (repairOf e).kind) →
        Exactly .repairListLoadComplete s ((s.w.dropRead B.repTag).modBist fun B => { B with
          repSt := 2, repResult := 0, repCount := fld b 6 2, soft := distinctRepairs ((listEntries b).map repairOf) })) ∧
      (∀ k, (∃ b, res = .ok b ∧ s.w.repairResult b = k ∧ k ≠ 0) ∨ (∃ det, res = .err det) ∧ k = 4 →
        Exactly .repairListLoadComplete s ((s.w.dropRead B.repTag).modBist fun B => { B with repSt := B.repPrev, repResult := k })))) ∧
  (∀ (s : State) (v : Nat), s.dev.hostReach 0 = true → s.dev.running = true → v < 2 ^ 64 → s.dev.bist.fuseBusy = false →
    let ends (r : Nat) := Runs (.bistFuseCmd 0 v) s (s.w.modBist fun B => { B with fuseResult := r })
    let may := (s.dev.sec.lc = 0 ∨ s.dev.sec.lc = 3) ∧ s.dev.allEmpty = true
    (¬ may → ends 1) ∧ (may → fuseNext s.fuses.repair = none → ends 2) ∧
    (∀ k, may → fuseNext s.fuses.repair = some k →
      (s.dev.repairOk v = false → ends 3) ∧
      (s.dev.repairOk v = true → Runs (.bistFuseCmd 0 v) s ((s.w.modBist fun B => { B with fuseBusy := true, fuseResult := 0 }).modSec fun S =>
        { S with pulses := S.pulses ++ [.repair k v] }))))

/-! ## Registers -/

/-- R10, R11, R195, R226, R323, R347, R348, R420, R432 to R448: a write that its function may make to a register takes effect, one to a register that it may not write, or that is
read only, is ignored and says so; one of another size, or misaligned, is not supported, and such a read returns ones; half of a 64-bit register is written with its
other half as it stands; and each of some registers holds what is written where the rule allows the value. -/
def Obligations.Registers : Prop :=
  (∀ (s : State) (fn off size v : Nat), s.dev.hostReach fn = true →
    ((size ≠ 4 ∧ size ≠ 8) ∨ off % size ≠ 0 →
      Exactly (.registerWrite fn off size v) s (s.w.modHub fun h => { h with unsup := true, errFn := fn, errWrite := true, errOff := off }) ∧
      Exactly (.unsupportedRead fn off size) s
        ((s.w.modHub fun h => { h with unsup := true, errFn := fn, errWrite := false, errOff := off }).emit (.completion (some (List.replicate size 0xFF))))) ∧
    (∀ reg, regAt fn off = some reg → (size = 4 ∧ reg.wide = false ∨ size = 8 ∧ reg.wide = true) → off % size = 0 → v < 2 ^ (8 * size) →
      let may := (s.dev.running = true ∨ reg.early = true) ∧ s.dev.pathWrite fn (s.dev.regPath reg) = true ∧ reg.ro = false
      (may → Runs (.registerWrite fn off size v) s (s.w.writeReg s.fuses fn reg v fun w => w.ignored fn off)) ∧
      (¬ may → Runs (.registerWrite fn off size v) s (refusedAt s fn off))) ∧
    (∀ reg, regAt fn off = some reg → reg.wide = true → reg.wo64 = false → reg.w1c64 = false → size = 4 → off % 8 = 0 → v < 2 ^ 32 →
      (s.dev.running = true ∨ reg.early = true) → s.dev.pathWrite fn (s.dev.regPath reg) = true → reg.ro = false →
      let old := s.dev.readReg s.fuses fn reg
      Runs (.registerWrite fn off 4 v) s (s.w.writeReg s.fuses fn reg (setBits old 31 0 v) fun w => w.ignored fn off) ∧
      Runs (.registerWrite fn (off + 4) 4 v) s (s.w.writeReg s.fuses fn reg (setBits old 63 32 v) fun w => w.ignored fn (off + 4)))) ∧
  (∀ (s : State) (v : Nat), s.dev.hostReach 0 = true → s.dev.running = true → v < 2 ^ 32 →
    let puts (off : Nat) (w : W) := Runs (.registerWrite 0 off 4 v) s w
    let refuses (off : Nat) := Runs (.registerWrite 0 off 4 v) s (refusedAt s 0 off)
    (s.dev.allEmpty = true ∧ s.dev.portsOff = true → puts 0x18 (s.w.modHub fun h => { h with chip := v % 2 ^ 13 })) ∧
    (s.dev.allEmpty = false ∨ s.dev.portsOff = false → refuses 0x18) ∧
    (minCap s.dev.variant ≤ v % 2 ^ 16 ∧ v % 2 ^ 16 ≤ maxCap s.dev.variant → puts 0x1800000 (s.w.modPower fun P => { P with cap := v % 2 ^ 16 })) ∧
    (v % 2 ^ 16 < minCap s.dev.variant ∨ maxCap s.dev.variant < v % 2 ^ 16 → refuses 0x1800000) ∧
    (∀ p, p < 16 →
      (v % 256 ≠ 0 → puts (0x1800100 + 4 * p) (s.w.modPower fun P => { P with weight := tset P.weight p (v % 256) })) ∧
      ((s.dev.pol p).st = 0 → puts (0x1400010 + 0x1000 * p) (s.w.modPol p fun P => { P with dies := v % 2 ^ 25 })) ∧
      ((s.dev.pol p).st ≠ 0 → refuses (0x1400010 + 0x1000 * p))) ∧
    (∀ r, r < 8192 →
      ((s.dev.ring r).st = 0 → puts (0x800000 + 64 * r + 0x18) (s.w.modRing r fun R => { R with owner := v % 2 ^ 12 })) ∧
      ((s.dev.ring r).st ≠ 0 → refuses (0x800000 + 64 * r + 0x18)) ∧
      refuses (0x800000 + 64 * r + 0x14))) ∧
  (∀ (s : State) (v : Nat), s.dev.hostReach 0 = true → s.dev.running = true → v < 2 ^ 64 →
    (∀ n, n < 256 → Runs (.registerWrite 0 (0x2804000 + 8 * n) 8 v) s
      (s.w.modFabric fun F => { F with winLo := tset F.winLo n (v &&& 0xFFFCFFFFFFFFF000) })) ∧
    (∀ c, c < 256 → (s.dev.chan c).st = 0 → Runs (.registerWrite 0 (0x400000 + 32 * c) 8 v) s
      (s.w.modChan c fun C => { C with ptr := v % 2 ^ 48 / 4 * 4 })) ∧
    (∀ vec, vec < vecCount 0 → (tget {} s.dev.hub.vecs (vecKey 0 vec)).addr < 2 ^ 64 → Runs (.registerWrite 0 (0x3C00000 + 16 * vec) 8 v) s
      (s.w.modHub fun h => { h with vecs := tmod {} h.vecs (vecKey 0 vec) fun V => { V with addr := v } })))
end

