-- ==== Sys2Proof/Laws/Checks.lean ====
section
/-! SUPPORT. An array that computes rightly is never reported: what the checksum column, the checksum row and the corner predict of a K-block is what the grid
shows them (R74, R75). -/

namespace Sys2Proof.Laws

open Sys2Proof.Machine

/-! ## Sums -/

theorem sum_map_add {α : Type} (l : List α) (f g : α → Int) : (l.map fun x => f x + g x).sum = (l.map f).sum + (l.map g).sum := by
  induction l with
  | nil => rfl
  | cons x l ih => simp only [List.map_cons, List.sum_cons, ih]; omega

/-! ## The integer dot product -/

theorem dotInt_nil (a : List Int) : dotInt a [] = 0 := by cases a <;> rfl

theorem dotInt_comm (a b : List Int) : dotInt a b = dotInt b a := by
  induction a generalizing b with
  | nil => cases b <;> rfl
  | cons x a ih =>
    cases b with
    | nil => rfl
    | cons y b =>
      have h := ih b
      simp only [dotInt, List.zipWith_cons_cons, List.sum_cons] at h ⊢
      rw [h, Int.mul_comm]

theorem dotInt_addRows (a x y : List Int) : dotInt a (addRows x y) = dotInt a x + dotInt a y := by
  induction x generalizing a y with
  | nil => simp [addRows, dotInt_nil]
  | cons u x ih =>
    cases y with
    | nil => simp [addRows, dotInt_nil]
    | cons v y =>
      cases a with
      | nil => rfl
      | cons k a =>
        have h := ih a y
        simp only [dotInt, addRows, List.zipWith_cons_cons, List.sum_cons] at h ⊢
        rw [h, Int.mul_add]
        omega

theorem dotInt_checkSums (a : List Int) (l : List (List Int)) : dotInt a (checkSums l) = (l.map (dotInt a)).sum := by
  induction l with
  | nil => exact dotInt_nil a
  | cons b l ih => exact (dotInt_addRows a b (checkSums l)).trans (by rw [ih]; rfl)

/-! ## The predictions -/

theorem gridOff_nil (m n : Nat) : gridOff [] m n = 0 := rfl

theorem map_zipIdx {α β : Type} (l : List α) (f : α → β) (k : Nat) : ((l.zipIdx k).map fun x => f x.1) = l.map f := by
  induction l generalizing k with
  | nil => rfl
  | cons x l ih => simp only [List.zipIdx_cons, List.map_cons, ih]

theorem gridRow_matmul (bx : Bool) (B : List Blk) (jj : Nat) (a : Blk) (m : Nat) :
    gridRow .matmul bx B jj [] a m = dotInt a.sigs (checkSums (B.map (·.sigs))) := by
  simp only [gridRow, gridOff_nil, Int.add_zero, dotInt_checkSums, List.map_map, blockVal, dotSigs]
  exact congrArg List.sum (map_zipIdx B (fun b => dotInt a.sigs b.sigs) 0)

theorem gridCol_matmul (bx : Bool) (A : List Blk) (jj : Nat) (b : Blk) (n : Nat) :
    gridCol .matmul bx A jj [] b n = dotInt (checkSums (A.map (·.sigs))) b.sigs := by
  simp only [gridCol, gridOff_nil, Int.add_zero, blockVal, dotSigs]
  rw [dotInt_comm, dotInt_checkSums, List.map_map]
  refine (congrArg List.sum (map_zipIdx A (fun a => dotInt a.sigs b.sigs) 0)).trans (congrArg List.sum (List.map_congr_left fun a _ => ?_))
  exact dotInt_comm _ _

/-- The grid total is the sum of the checksum column, of the checksum row, and the product of the two operands' sums (R74). -/
theorem gridTotal_matmul (bx : Bool) (A B : List Blk) (jj : Nat) :
    gridTotal .matmul bx A B jj [] = (predictions .matmul bx A B jj).1.sum ∧
    gridTotal .matmul bx A B jj [] = (predictions .matmul bx A B jj).2.sum ∧
    gridTotal .matmul bx A B jj [] = dotInt (checkSums (A.map (·.sigs))) (checkSums (B.map (·.sigs))) := by
  have h : gridTotal .matmul bx A B jj [] = (A.map fun a => dotInt a.sigs (checkSums (B.map (·.sigs)))).sum := by
    simp only [gridTotal, gridRow_matmul]
    exact congrArg List.sum (map_zipIdx A (fun a => dotInt a.sigs (checkSums (B.map (·.sigs)))) 0)
  have hc : (A.map fun a => dotInt a.sigs (checkSums (B.map (·.sigs)))).sum = dotInt (checkSums (A.map (·.sigs))) (checkSums (B.map (·.sigs))) := by
    rw [dotInt_comm, dotInt_checkSums, List.map_map]
    exact congrArg List.sum (List.map_congr_left fun a _ => dotInt_comm _ _)
  refine ⟨h, ?_, h.trans hc⟩
  rw [h, hc, dotInt_checkSums, List.map_map]
  rfl

/-! ## Differing bits -/

theorem bitDiffs_comm (a b : List Int) : bitDiffs a b = bitDiffs b a := by
  induction a generalizing b with
  | nil => cases b <;> rfl
  | cons x a ih =>
    cases b with
    | nil => rfl
    | cons y b => simp only [bitDiffs, ih b, eq_comm]

theorem sum_addRows (x y : List Int) : (addRows x y).sum = x.sum + y.sum := by
  induction x generalizing y with
  | nil => simp [addRows]
  | cons u x ih =>
    cases y with
    | nil => simp [addRows]
    | cons v y => simp only [addRows, List.sum_cons, ih]; omega

theorem addRows_nil (x : List Int) : addRows x [] = x := by cases x <;> rfl
theorem hamSum_nil (n : Int) (a : List Int) : hamSum n a [] = (a.map fun x => if x = 0 then (0 : Int) else n).sum := by cases a <;> rfl
theorem bitDiffs_nil (a : List Int) : bitDiffs a [] = (bitRow a).sum := by cases a <;> rfl

/-- One row more: its own differing bits. -/
theorem hamSum_addRows (n : Int) (a b c : List Int) : hamSum (n + 1) a (addRows (bitRow b) c) = bitDiffs a b + hamSum n a c := by
  induction a generalizing b c with
  | nil => simp only [hamSum, sum_addRows, bitDiffs, bitRow]
  | cons x a ih =>
    cases b with
    | nil =>
      cases c with
      | nil =>
        rw [show addRows (bitRow []) [] = [] from rfl, hamSum_nil, hamSum_nil, bitDiffs_nil, bitRow, ← sum_map_add]
        refine congrArg List.sum (List.map_congr_left fun y _ => ?_)
        split <;> omega
      | cons z c =>
        have h := ih [] c
        rw [bitDiffs_nil, show addRows (bitRow []) c = c by cases c <;> rfl] at h
        rw [show addRows (bitRow []) (z :: c) = z :: c from rfl, bitDiffs_nil]
        simp only [hamSum, h, bitRow, List.map_cons, List.sum_cons]
        split <;> omega
    | cons y b =>
      have h := ih b
      cases c with
      | nil =>
        have h := h []
        rw [addRows_nil] at h
        rw [addRows_nil, bitRow, List.map_cons, hamSum_nil]
        rw [hamSum_nil, bitRow] at h
        simp only [hamSum, bitDiffs, List.map_cons, List.sum_cons, h]
        by_cases hx : x = 0 <;> by_cases hy : y = 0 <;> simp [hx, hy] <;> omega
      | cons z c =>
        have h := h c
        rw [bitRow] at h ⊢
        simp only [List.map_cons, addRows, hamSum, bitDiffs, h]
        by_cases hx : x = 0 <;> by_cases hy : y = 0 <;> simp [hx, hy] <;> omega

theorem hamSum_checkSums (a : List Int) (l : List (List Int)) : hamSum l.length a (checkSums (l.map bitRow)) = (l.map (bitDiffs a)).sum := by
  induction l with
  | nil => exact (hamSum_nil 0 a).trans (by induction a with
    | nil => rfl
    | cons x a ih => simp)
  | cons b l ih => exact (hamSum_addRows l.length a b (checkSums (l.map bitRow))).trans (by rw [ih]; rfl)

/-! ## The grid shows what is predicted -/

theorem gridRow_eq (op : ArrOp) (bx : Bool) (A B : List Blk) (jj m : Nat) (a : Blk) (ha : A[m]? = some a) :
    (predictions op bx A B jj).1[m]? = some (gridRow op bx B jj [] a m) := by
  have hm : gridRow .matmul bx B jj [] a m = _ := gridRow_matmul bx B jj a m
  have hh : gridRow .hamming bx B jj [] a m = hamSum B.length a.sigs (checkSums (B.map fun b => bitRow b.sigs)) := by
    have h := hamSum_checkSums a.sigs (B.map (·.sigs))
    rw [List.map_map, List.map_map, List.length_map] at h
    refine Eq.trans ?_ h.symm
    simp only [gridRow, gridOff_nil, Int.add_zero, blockVal]
    exact congrArg List.sum (map_zipIdx B (fun b => bitDiffs a.sigs b.sigs) 0)
  cases op <;> simp only [predictions, List.getElem?_map, ha, Option.map_some, Option.some.injEq] <;>
    first | exact hm.symm | exact hh.symm | simp only [gridRow, gridOff_nil, Int.add_zero]

theorem gridCol_eq (op : ArrOp) (bx : Bool) (A B : List Blk) (jj n : Nat) (b : Blk) (hb : B[n]? = some b) :
    (predictions op bx A B jj).2[n]? = some (gridCol op bx A jj [] b n) := by
  have hm : gridCol .matmul bx A jj [] b n = _ := gridCol_matmul bx A jj b n
  have hh : gridCol .hamming bx A jj [] b n = hamSum A.length b.sigs (checkSums (A.map fun a => bitRow a.sigs)) := by
    have h := hamSum_checkSums b.sigs (A.map (·.sigs))
    rw [List.map_map, List.map_map, List.length_map] at h
    refine Eq.trans ?_ h.symm
    simp only [gridCol, gridOff_nil, Int.add_zero, blockVal]
    refine (congrArg List.sum (map_zipIdx A (fun a => bitDiffs a.sigs b.sigs) 0)).trans (congrArg List.sum (List.map_congr_left fun a _ => ?_))
    exact bitDiffs_comm _ _
  cases op <;> simp only [predictions, List.getElem?_map, hb, Option.map_some, Option.some.injEq] <;>
    first | exact hm.symm | exact hh.symm | simp only [gridCol, gridOff_nil, Int.add_zero]

/-! ## No record -/

theorem map_places (l : List Int) : (l.zipIdx.map fun x => x.1) = l := (map_zipIdx l id 0).trans (List.map_id l)

/-- What stands in the pairs of a list, its places and another list. -/
theorem zip_places {α β : Type} {l : List α} {r : List β} {x : (α × Nat) × β} (h : x ∈ l.zipIdx.zip r) :
    l[x.1.2]? = some x.1.1 ∧ r[x.1.2]? = some x.2 := by
  obtain ⟨i, hi, e⟩ := List.mem_iff_getElem.mp h
  rw [List.getElem_zip] at e
  subst e
  rw [List.length_zip, List.length_zipIdx] at hi
  constructor <;> simp

/-- R74 to R76, R78: a K-block of which nothing is formed wrongly has no check record. -/
theorem blockRecords_none (op : ArrOp) (bx : Bool) (A B : List Blk) (jj : Nat) : blockRecords op bx A B jj [] = [] := by
  have hc := map_places (predictions op bx A B jj).1
  have hr := map_places (predictions op bx A B jj).2
  simp only [blockRecords, colOff, rowOff, cornerOff, List.map_nil, List.sum_nil, List.isEmpty_nil, if_true, List.append_nil, hc, hr, Int.add_zero]
  refine List.append_eq_nil_iff.mpr ⟨List.append_eq_nil_iff.mpr ⟨List.flatMap_eq_nil_iff.mpr fun x hx => ?_, List.flatMap_eq_nil_iff.mpr fun x hx => ?_⟩, ?_⟩
  · obtain ⟨h1, h2⟩ := zip_places hx
    rw [gridRow_eq op bx A B jj _ _ h1, Option.some.injEq] at h2
    exact if_pos h2.symm
  · obtain ⟨h1, h2⟩ := zip_places hx
    rw [gridCol_eq op bx A B jj _ _ h1, Option.some.injEq] at h2
    exact if_pos h2.symm
  · split
    · next h =>
      subst h
      obtain ⟨h1, h2, h3⟩ := gridTotal_matmul bx A B jj
      simp [← h1, ← h2, ← h3]
    · rfl

/-- A pass of which nothing is formed wrongly opens no episode. -/
theorem passRecords_none (op : ArrOp) (bx : Bool) (xa xb : List (List Blk)) (j0 : Nat) : passRecords op bx xa xb j0 (fun _ => []) = [] := by
  simp [passRecords, blockRecords_none]

end Sys2Proof.Laws
end

