-- ==== Sys2Proof/Laws/State.lean ====
section
/-! SUPPORT. What each update of the state leaves as it was, and what it sets: one lemma for each field, true by definition. -/

namespace Sys2Proof.Laws

open Sys2Proof.Machine

/-! ## The state -/

@[simp] theorem commit_pending (s : State) (w : W) : (s.commit w).pending = s.pending := rfl
@[simp] theorem commit_fuses (s : State) (w : W) : (s.commit w).fuses = s.fuses := rfl
@[simp] theorem commit_mem (s : State) (w : W) : (s.commit w).mem = s.mem.applyAll w.ops := rfl
@[simp] theorem commit_dev (s : State) (w : W) : (s.commit w).dev = w.d := rfl
@[simp] theorem w_base (s : State) : s.w.base = s.mem := rfl
@[simp] theorem w_ops (s : State) : s.w.ops = [] := rfl
@[simp] theorem w_d (s : State) : s.w.d = s.dev := rfl
@[simp] theorem run_def (s : State) (f : W → W) : s.run f = .next (s.commit (f s.w)) := rfl

/-! ## The memories -/

@[simp] theorem write_base (w : W) (a : Nat) (bs : Bytes) : (w.write a bs).base = w.base := rfl
@[simp] theorem write_d (w : W) (a : Nat) (bs : Bytes) : (w.write a bs).d = w.d := rfl
@[simp] theorem write_ops (w : W) (a : Nat) (bs : Bytes) : (w.write a bs).ops = w.ops ++ [.write a bs] := rfl
@[simp] theorem zero_base (w : W) (a n : Nat) : (w.zero a n).base = w.base := rfl
@[simp] theorem zero_d (w : W) (a n : Nat) : (w.zero a n).d = w.d := rfl
@[simp] theorem zero_ops (w : W) (a n : Nat) : (w.zero a n).ops = w.ops ++ [.zero a n] := rfl
@[simp] theorem copyMem_base (w : W) (d s n : Nat) : (w.copyMem d s n).base = w.base := rfl
@[simp] theorem copyMem_d (w : W) (d s n : Nat) : (w.copyMem d s n).d = w.d := rfl
@[simp] theorem copyMem_ops (w : W) (d s n : Nat) : (w.copyMem d s n).ops = w.ops ++ [.copy d s n] := rfl

/-! ## Messages -/

@[simp] theorem emit_base (w : W) (o : Out) : (w.emit o).base = w.base := rfl
@[simp] theorem emit_ops (w : W) (o : Out) : (w.emit o).ops = w.ops := rfl
@[simp] theorem emit_variant (w : W) (o : Out) : (w.emit o).d.variant = w.d.variant := rfl
@[simp] theorem emit_aon (w : W) (o : Out) : (w.emit o).d.aon = w.d.aon := rfl
@[simp] theorem emit_sec (w : W) (o : Out) : (w.emit o).d.sec = w.d.sec := rfl
@[simp] theorem emit_hub (w : W) (o : Out) : (w.emit o).d.hub = w.d.hub := rfl
@[simp] theorem emit_rings (w : W) (o : Out) : (w.emit o).d.rings = w.d.rings := rfl
@[simp] theorem emit_chans (w : W) (o : Out) : (w.emit o).d.chans = w.d.chans := rfl
@[simp] theorem emit_sluices (w : W) (o : Out) : (w.emit o).d.sluices = w.d.sluices := rfl
@[simp] theorem emit_grants (w : W) (o : Out) : (w.emit o).d.grants = w.d.grants := rfl
@[simp] theorem emit_ctxs (w : W) (o : Out) : (w.emit o).d.ctxs = w.d.ctxs := rfl
@[simp] theorem emit_pols (w : W) (o : Out) : (w.emit o).d.pols = w.d.pols := rfl
@[simp] theorem emit_dies (w : W) (o : Out) : (w.emit o).d.dies = w.d.dies := rfl
@[simp] theorem emit_banks (w : W) (o : Out) : (w.emit o).d.banks = w.d.banks := rfl
@[simp] theorem emit_evids (w : W) (o : Out) : (w.emit o).d.evids = w.d.evids := rfl
@[simp] theorem emit_fabric (w : W) (o : Out) : (w.emit o).d.fabric = w.d.fabric := rfl
@[simp] theorem emit_power (w : W) (o : Out) : (w.emit o).d.power = w.d.power := rfl
@[simp] theorem emit_bist (w : W) (o : Out) : (w.emit o).d.bist = w.d.bist := rfl
@[simp] theorem emit_sealEpoch (w : W) (o : Out) : (w.emit o).d.sealEpoch = w.d.sealEpoch := rfl
@[simp] theorem emit_freeCtr (w : W) (o : Out) : (w.emit o).d.freeCtr = w.d.freeCtr := rfl
@[simp] theorem emit_out (w : W) (o : Out) : (w.emit o).d.out = o :: w.d.out := rfl

/-! ## A change of the device record -/

@[simp] theorem dev_base (w : W) (f : Dev → Dev) : (w.dev f).base = w.base := rfl
@[simp] theorem dev_ops (w : W) (f : Dev → Dev) : (w.dev f).ops = w.ops := rfl
@[simp] theorem dev_d (w : W) (f : Dev → Dev) : (w.dev f).d = f w.d := rfl

/-! ## modRing -/

@[simp] theorem modRing_base (w : W) (r : Nat) (f : Ring → Ring) : (w.modRing r f).base = w.base := rfl
@[simp] theorem modRing_ops (w : W) (r : Nat) (f : Ring → Ring) : (w.modRing r f).ops = w.ops := rfl
@[simp] theorem modRing_variant (w : W) (r : Nat) (f : Ring → Ring) : (w.modRing r f).d.variant = w.d.variant := rfl
@[simp] theorem modRing_aon (w : W) (r : Nat) (f : Ring → Ring) : (w.modRing r f).d.aon = w.d.aon := rfl
@[simp] theorem modRing_sec (w : W) (r : Nat) (f : Ring → Ring) : (w.modRing r f).d.sec = w.d.sec := rfl
@[simp] theorem modRing_hub (w : W) (r : Nat) (f : Ring → Ring) : (w.modRing r f).d.hub = w.d.hub := rfl
@[simp] theorem modRing_rings (w : W) (r : Nat) (f : Ring → Ring) : (w.modRing r f).d.rings = tmod {} w.d.rings r f := rfl
@[simp] theorem modRing_chans (w : W) (r : Nat) (f : Ring → Ring) : (w.modRing r f).d.chans = w.d.chans := rfl
@[simp] theorem modRing_sluices (w : W) (r : Nat) (f : Ring → Ring) : (w.modRing r f).d.sluices = w.d.sluices := rfl
@[simp] theorem modRing_grants (w : W) (r : Nat) (f : Ring → Ring) : (w.modRing r f).d.grants = w.d.grants := rfl
@[simp] theorem modRing_ctxs (w : W) (r : Nat) (f : Ring → Ring) : (w.modRing r f).d.ctxs = w.d.ctxs := rfl
@[simp] theorem modRing_pols (w : W) (r : Nat) (f : Ring → Ring) : (w.modRing r f).d.pols = w.d.pols := rfl
@[simp] theorem modRing_dies (w : W) (r : Nat) (f : Ring → Ring) : (w.modRing r f).d.dies = w.d.dies := rfl
@[simp] theorem modRing_banks (w : W) (r : Nat) (f : Ring → Ring) : (w.modRing r f).d.banks = w.d.banks := rfl
@[simp] theorem modRing_evids (w : W) (r : Nat) (f : Ring → Ring) : (w.modRing r f).d.evids = w.d.evids := rfl
@[simp] theorem modRing_fabric (w : W) (r : Nat) (f : Ring → Ring) : (w.modRing r f).d.fabric = w.d.fabric := rfl
@[simp] theorem modRing_power (w : W) (r : Nat) (f : Ring → Ring) : (w.modRing r f).d.power = w.d.power := rfl
@[simp] theorem modRing_bist (w : W) (r : Nat) (f : Ring → Ring) : (w.modRing r f).d.bist = w.d.bist := rfl
@[simp] theorem modRing_sealEpoch (w : W) (r : Nat) (f : Ring → Ring) : (w.modRing r f).d.sealEpoch = w.d.sealEpoch := rfl
@[simp] theorem modRing_freeCtr (w : W) (r : Nat) (f : Ring → Ring) : (w.modRing r f).d.freeCtr = w.d.freeCtr := rfl
@[simp] theorem modRing_out (w : W) (r : Nat) (f : Ring → Ring) : (w.modRing r f).d.out = w.d.out := rfl

/-! ## modChan -/

@[simp] theorem modChan_base (w : W) (c : Nat) (f : Chan → Chan) : (w.modChan c f).base = w.base := rfl
@[simp] theorem modChan_ops (w : W) (c : Nat) (f : Chan → Chan) : (w.modChan c f).ops = w.ops := rfl
@[simp] theorem modChan_variant (w : W) (c : Nat) (f : Chan → Chan) : (w.modChan c f).d.variant = w.d.variant := rfl
@[simp] theorem modChan_aon (w : W) (c : Nat) (f : Chan → Chan) : (w.modChan c f).d.aon = w.d.aon := rfl
@[simp] theorem modChan_sec (w : W) (c : Nat) (f : Chan → Chan) : (w.modChan c f).d.sec = w.d.sec := rfl
@[simp] theorem modChan_hub (w : W) (c : Nat) (f : Chan → Chan) : (w.modChan c f).d.hub = w.d.hub := rfl
@[simp] theorem modChan_rings (w : W) (c : Nat) (f : Chan → Chan) : (w.modChan c f).d.rings = w.d.rings := rfl
@[simp] theorem modChan_chans (w : W) (c : Nat) (f : Chan → Chan) : (w.modChan c f).d.chans = tmod {} w.d.chans c f := rfl
@[simp] theorem modChan_sluices (w : W) (c : Nat) (f : Chan → Chan) : (w.modChan c f).d.sluices = w.d.sluices := rfl
@[simp] theorem modChan_grants (w : W) (c : Nat) (f : Chan → Chan) : (w.modChan c f).d.grants = w.d.grants := rfl
@[simp] theorem modChan_ctxs (w : W) (c : Nat) (f : Chan → Chan) : (w.modChan c f).d.ctxs = w.d.ctxs := rfl
@[simp] theorem modChan_pols (w : W) (c : Nat) (f : Chan → Chan) : (w.modChan c f).d.pols = w.d.pols := rfl
@[simp] theorem modChan_dies (w : W) (c : Nat) (f : Chan → Chan) : (w.modChan c f).d.dies = w.d.dies := rfl
@[simp] theorem modChan_banks (w : W) (c : Nat) (f : Chan → Chan) : (w.modChan c f).d.banks = w.d.banks := rfl
@[simp] theorem modChan_evids (w : W) (c : Nat) (f : Chan → Chan) : (w.modChan c f).d.evids = w.d.evids := rfl
@[simp] theorem modChan_fabric (w : W) (c : Nat) (f : Chan → Chan) : (w.modChan c f).d.fabric = w.d.fabric := rfl
@[simp] theorem modChan_power (w : W) (c : Nat) (f : Chan → Chan) : (w.modChan c f).d.power = w.d.power := rfl
@[simp] theorem modChan_bist (w : W) (c : Nat) (f : Chan → Chan) : (w.modChan c f).d.bist = w.d.bist := rfl
@[simp] theorem modChan_sealEpoch (w : W) (c : Nat) (f : Chan → Chan) : (w.modChan c f).d.sealEpoch = w.d.sealEpoch := rfl
@[simp] theorem modChan_freeCtr (w : W) (c : Nat) (f : Chan → Chan) : (w.modChan c f).d.freeCtr = w.d.freeCtr := rfl
@[simp] theorem modChan_out (w : W) (c : Nat) (f : Chan → Chan) : (w.modChan c f).d.out = w.d.out := rfl

/-! ## modSluice -/

@[simp] theorem modSluice_base (w : W) (i : Nat) (f : Sluice → Sluice) : (w.modSluice i f).base = w.base := rfl
@[simp] theorem modSluice_ops (w : W) (i : Nat) (f : Sluice → Sluice) : (w.modSluice i f).ops = w.ops := rfl
@[simp] theorem modSluice_variant (w : W) (i : Nat) (f : Sluice → Sluice) : (w.modSluice i f).d.variant = w.d.variant := rfl
@[simp] theorem modSluice_aon (w : W) (i : Nat) (f : Sluice → Sluice) : (w.modSluice i f).d.aon = w.d.aon := rfl
@[simp] theorem modSluice_sec (w : W) (i : Nat) (f : Sluice → Sluice) : (w.modSluice i f).d.sec = w.d.sec := rfl
@[simp] theorem modSluice_hub (w : W) (i : Nat) (f : Sluice → Sluice) : (w.modSluice i f).d.hub = w.d.hub := rfl
@[simp] theorem modSluice_rings (w : W) (i : Nat) (f : Sluice → Sluice) : (w.modSluice i f).d.rings = w.d.rings := rfl
@[simp] theorem modSluice_chans (w : W) (i : Nat) (f : Sluice → Sluice) : (w.modSluice i f).d.chans = w.d.chans := rfl
@[simp] theorem modSluice_sluices (w : W) (i : Nat) (f : Sluice → Sluice) : (w.modSluice i f).d.sluices = tmod {} w.d.sluices i f := rfl
@[simp] theorem modSluice_grants (w : W) (i : Nat) (f : Sluice → Sluice) : (w.modSluice i f).d.grants = w.d.grants := rfl
@[simp] theorem modSluice_ctxs (w : W) (i : Nat) (f : Sluice → Sluice) : (w.modSluice i f).d.ctxs = w.d.ctxs := rfl
@[simp] theorem modSluice_pols (w : W) (i : Nat) (f : Sluice → Sluice) : (w.modSluice i f).d.pols = w.d.pols := rfl
@[simp] theorem modSluice_dies (w : W) (i : Nat) (f : Sluice → Sluice) : (w.modSluice i f).d.dies = w.d.dies := rfl
@[simp] theorem modSluice_banks (w : W) (i : Nat) (f : Sluice → Sluice) : (w.modSluice i f).d.banks = w.d.banks := rfl
@[simp] theorem modSluice_evids (w : W) (i : Nat) (f : Sluice → Sluice) : (w.modSluice i f).d.evids = w.d.evids := rfl
@[simp] theorem modSluice_fabric (w : W) (i : Nat) (f : Sluice → Sluice) : (w.modSluice i f).d.fabric = w.d.fabric := rfl
@[simp] theorem modSluice_power (w : W) (i : Nat) (f : Sluice → Sluice) : (w.modSluice i f).d.power = w.d.power := rfl
@[simp] theorem modSluice_bist (w : W) (i : Nat) (f : Sluice → Sluice) : (w.modSluice i f).d.bist = w.d.bist := rfl
@[simp] theorem modSluice_sealEpoch (w : W) (i : Nat) (f : Sluice → Sluice) : (w.modSluice i f).d.sealEpoch = w.d.sealEpoch := rfl
@[simp] theorem modSluice_freeCtr (w : W) (i : Nat) (f : Sluice → Sluice) : (w.modSluice i f).d.freeCtr = w.d.freeCtr := rfl
@[simp] theorem modSluice_out (w : W) (i : Nat) (f : Sluice → Sluice) : (w.modSluice i f).d.out = w.d.out := rfl

/-! ## modCtx -/

@[simp] theorem modCtx_base (w : W) (n : Nat) (f : Ctx → Ctx) : (w.modCtx n f).base = w.base := rfl
@[simp] theorem modCtx_ops (w : W) (n : Nat) (f : Ctx → Ctx) : (w.modCtx n f).ops = w.ops := rfl
@[simp] theorem modCtx_variant (w : W) (n : Nat) (f : Ctx → Ctx) : (w.modCtx n f).d.variant = w.d.variant := rfl
@[simp] theorem modCtx_aon (w : W) (n : Nat) (f : Ctx → Ctx) : (w.modCtx n f).d.aon = w.d.aon := rfl
@[simp] theorem modCtx_sec (w : W) (n : Nat) (f : Ctx → Ctx) : (w.modCtx n f).d.sec = w.d.sec := rfl
@[simp] theorem modCtx_hub (w : W) (n : Nat) (f : Ctx → Ctx) : (w.modCtx n f).d.hub = w.d.hub := rfl
@[simp] theorem modCtx_rings (w : W) (n : Nat) (f : Ctx → Ctx) : (w.modCtx n f).d.rings = w.d.rings := rfl
@[simp] theorem modCtx_chans (w : W) (n : Nat) (f : Ctx → Ctx) : (w.modCtx n f).d.chans = w.d.chans := rfl
@[simp] theorem modCtx_sluices (w : W) (n : Nat) (f : Ctx → Ctx) : (w.modCtx n f).d.sluices = w.d.sluices := rfl
@[simp] theorem modCtx_grants (w : W) (n : Nat) (f : Ctx → Ctx) : (w.modCtx n f).d.grants = w.d.grants := rfl
@[simp] theorem modCtx_ctxs (w : W) (n : Nat) (f : Ctx → Ctx) : (w.modCtx n f).d.ctxs = tmod {} w.d.ctxs n f := rfl
@[simp] theorem modCtx_pols (w : W) (n : Nat) (f : Ctx → Ctx) : (w.modCtx n f).d.pols = w.d.pols := rfl
@[simp] theorem modCtx_dies (w : W) (n : Nat) (f : Ctx → Ctx) : (w.modCtx n f).d.dies = w.d.dies := rfl
@[simp] theorem modCtx_banks (w : W) (n : Nat) (f : Ctx → Ctx) : (w.modCtx n f).d.banks = w.d.banks := rfl
@[simp] theorem modCtx_evids (w : W) (n : Nat) (f : Ctx → Ctx) : (w.modCtx n f).d.evids = w.d.evids := rfl
@[simp] theorem modCtx_fabric (w : W) (n : Nat) (f : Ctx → Ctx) : (w.modCtx n f).d.fabric = w.d.fabric := rfl
@[simp] theorem modCtx_power (w : W) (n : Nat) (f : Ctx → Ctx) : (w.modCtx n f).d.power = w.d.power := rfl
@[simp] theorem modCtx_bist (w : W) (n : Nat) (f : Ctx → Ctx) : (w.modCtx n f).d.bist = w.d.bist := rfl
@[simp] theorem modCtx_sealEpoch (w : W) (n : Nat) (f : Ctx → Ctx) : (w.modCtx n f).d.sealEpoch = w.d.sealEpoch := rfl
@[simp] theorem modCtx_freeCtr (w : W) (n : Nat) (f : Ctx → Ctx) : (w.modCtx n f).d.freeCtr = w.d.freeCtr := rfl
@[simp] theorem modCtx_out (w : W) (n : Nat) (f : Ctx → Ctx) : (w.modCtx n f).d.out = w.d.out := rfl

/-! ## modPol -/

@[simp] theorem modPol_base (w : W) (p : Nat) (f : Pol → Pol) : (w.modPol p f).base = w.base := rfl
@[simp] theorem modPol_ops (w : W) (p : Nat) (f : Pol → Pol) : (w.modPol p f).ops = w.ops := rfl
@[simp] theorem modPol_variant (w : W) (p : Nat) (f : Pol → Pol) : (w.modPol p f).d.variant = w.d.variant := rfl
@[simp] theorem modPol_aon (w : W) (p : Nat) (f : Pol → Pol) : (w.modPol p f).d.aon = w.d.aon := rfl
@[simp] theorem modPol_sec (w : W) (p : Nat) (f : Pol → Pol) : (w.modPol p f).d.sec = w.d.sec := rfl
@[simp] theorem modPol_hub (w : W) (p : Nat) (f : Pol → Pol) : (w.modPol p f).d.hub = w.d.hub := rfl
@[simp] theorem modPol_rings (w : W) (p : Nat) (f : Pol → Pol) : (w.modPol p f).d.rings = w.d.rings := rfl
@[simp] theorem modPol_chans (w : W) (p : Nat) (f : Pol → Pol) : (w.modPol p f).d.chans = w.d.chans := rfl
@[simp] theorem modPol_sluices (w : W) (p : Nat) (f : Pol → Pol) : (w.modPol p f).d.sluices = w.d.sluices := rfl
@[simp] theorem modPol_grants (w : W) (p : Nat) (f : Pol → Pol) : (w.modPol p f).d.grants = w.d.grants := rfl
@[simp] theorem modPol_ctxs (w : W) (p : Nat) (f : Pol → Pol) : (w.modPol p f).d.ctxs = w.d.ctxs := rfl
@[simp] theorem modPol_pols (w : W) (p : Nat) (f : Pol → Pol) : (w.modPol p f).d.pols = tmod {} w.d.pols p f := rfl
@[simp] theorem modPol_dies (w : W) (p : Nat) (f : Pol → Pol) : (w.modPol p f).d.dies = w.d.dies := rfl
@[simp] theorem modPol_banks (w : W) (p : Nat) (f : Pol → Pol) : (w.modPol p f).d.banks = w.d.banks := rfl
@[simp] theorem modPol_evids (w : W) (p : Nat) (f : Pol → Pol) : (w.modPol p f).d.evids = w.d.evids := rfl
@[simp] theorem modPol_fabric (w : W) (p : Nat) (f : Pol → Pol) : (w.modPol p f).d.fabric = w.d.fabric := rfl
@[simp] theorem modPol_power (w : W) (p : Nat) (f : Pol → Pol) : (w.modPol p f).d.power = w.d.power := rfl
@[simp] theorem modPol_bist (w : W) (p : Nat) (f : Pol → Pol) : (w.modPol p f).d.bist = w.d.bist := rfl
@[simp] theorem modPol_sealEpoch (w : W) (p : Nat) (f : Pol → Pol) : (w.modPol p f).d.sealEpoch = w.d.sealEpoch := rfl
@[simp] theorem modPol_freeCtr (w : W) (p : Nat) (f : Pol → Pol) : (w.modPol p f).d.freeCtr = w.d.freeCtr := rfl
@[simp] theorem modPol_out (w : W) (p : Nat) (f : Pol → Pol) : (w.modPol p f).d.out = w.d.out := rfl

/-! ## modJob -/

@[simp] theorem modJob_base (w : W) (p : Nat) (f : Job → Job) : (w.modJob p f).base = w.base := rfl
@[simp] theorem modJob_ops (w : W) (p : Nat) (f : Job → Job) : (w.modJob p f).ops = w.ops := rfl
@[simp] theorem modJob_variant (w : W) (p : Nat) (f : Job → Job) : (w.modJob p f).d.variant = w.d.variant := rfl
@[simp] theorem modJob_aon (w : W) (p : Nat) (f : Job → Job) : (w.modJob p f).d.aon = w.d.aon := rfl
@[simp] theorem modJob_sec (w : W) (p : Nat) (f : Job → Job) : (w.modJob p f).d.sec = w.d.sec := rfl
@[simp] theorem modJob_hub (w : W) (p : Nat) (f : Job → Job) : (w.modJob p f).d.hub = w.d.hub := rfl
@[simp] theorem modJob_rings (w : W) (p : Nat) (f : Job → Job) : (w.modJob p f).d.rings = w.d.rings := rfl
@[simp] theorem modJob_chans (w : W) (p : Nat) (f : Job → Job) : (w.modJob p f).d.chans = w.d.chans := rfl
@[simp] theorem modJob_sluices (w : W) (p : Nat) (f : Job → Job) : (w.modJob p f).d.sluices = w.d.sluices := rfl
@[simp] theorem modJob_grants (w : W) (p : Nat) (f : Job → Job) : (w.modJob p f).d.grants = w.d.grants := rfl
@[simp] theorem modJob_ctxs (w : W) (p : Nat) (f : Job → Job) : (w.modJob p f).d.ctxs = w.d.ctxs := rfl
@[simp] theorem modJob_pols (w : W) (p : Nat) (f : Job → Job) : (w.modJob p f).d.pols = tmod {} w.d.pols p fun P => { P with job := P.job.map f } := rfl
@[simp] theorem modJob_dies (w : W) (p : Nat) (f : Job → Job) : (w.modJob p f).d.dies = w.d.dies := rfl
@[simp] theorem modJob_banks (w : W) (p : Nat) (f : Job → Job) : (w.modJob p f).d.banks = w.d.banks := rfl
@[simp] theorem modJob_evids (w : W) (p : Nat) (f : Job → Job) : (w.modJob p f).d.evids = w.d.evids := rfl
@[simp] theorem modJob_fabric (w : W) (p : Nat) (f : Job → Job) : (w.modJob p f).d.fabric = w.d.fabric := rfl
@[simp] theorem modJob_power (w : W) (p : Nat) (f : Job → Job) : (w.modJob p f).d.power = w.d.power := rfl
@[simp] theorem modJob_bist (w : W) (p : Nat) (f : Job → Job) : (w.modJob p f).d.bist = w.d.bist := rfl
@[simp] theorem modJob_sealEpoch (w : W) (p : Nat) (f : Job → Job) : (w.modJob p f).d.sealEpoch = w.d.sealEpoch := rfl
@[simp] theorem modJob_freeCtr (w : W) (p : Nat) (f : Job → Job) : (w.modJob p f).d.freeCtr = w.d.freeCtr := rfl
@[simp] theorem modJob_out (w : W) (p : Nat) (f : Job → Job) : (w.modJob p f).d.out = w.d.out := rfl

/-! ## modDie -/

@[simp] theorem modDie_base (w : W) (s : Nat) (f : Die → Die) : (w.modDie s f).base = w.base := rfl
@[simp] theorem modDie_ops (w : W) (s : Nat) (f : Die → Die) : (w.modDie s f).ops = w.ops := rfl
@[simp] theorem modDie_variant (w : W) (s : Nat) (f : Die → Die) : (w.modDie s f).d.variant = w.d.variant := rfl
@[simp] theorem modDie_aon (w : W) (s : Nat) (f : Die → Die) : (w.modDie s f).d.aon = w.d.aon := rfl
@[simp] theorem modDie_sec (w : W) (s : Nat) (f : Die → Die) : (w.modDie s f).d.sec = w.d.sec := rfl
@[simp] theorem modDie_hub (w : W) (s : Nat) (f : Die → Die) : (w.modDie s f).d.hub = w.d.hub := rfl
@[simp] theorem modDie_rings (w : W) (s : Nat) (f : Die → Die) : (w.modDie s f).d.rings = w.d.rings := rfl
@[simp] theorem modDie_chans (w : W) (s : Nat) (f : Die → Die) : (w.modDie s f).d.chans = w.d.chans := rfl
@[simp] theorem modDie_sluices (w : W) (s : Nat) (f : Die → Die) : (w.modDie s f).d.sluices = w.d.sluices := rfl
@[simp] theorem modDie_grants (w : W) (s : Nat) (f : Die → Die) : (w.modDie s f).d.grants = w.d.grants := rfl
@[simp] theorem modDie_ctxs (w : W) (s : Nat) (f : Die → Die) : (w.modDie s f).d.ctxs = w.d.ctxs := rfl
@[simp] theorem modDie_pols (w : W) (s : Nat) (f : Die → Die) : (w.modDie s f).d.pols = w.d.pols := rfl
@[simp] theorem modDie_dies (w : W) (s : Nat) (f : Die → Die) : (w.modDie s f).d.dies = tset w.d.dies s (f (w.d.die s)) := rfl
@[simp] theorem modDie_banks (w : W) (s : Nat) (f : Die → Die) : (w.modDie s f).d.banks = w.d.banks := rfl
@[simp] theorem modDie_evids (w : W) (s : Nat) (f : Die → Die) : (w.modDie s f).d.evids = w.d.evids := rfl
@[simp] theorem modDie_fabric (w : W) (s : Nat) (f : Die → Die) : (w.modDie s f).d.fabric = w.d.fabric := rfl
@[simp] theorem modDie_power (w : W) (s : Nat) (f : Die → Die) : (w.modDie s f).d.power = w.d.power := rfl
@[simp] theorem modDie_bist (w : W) (s : Nat) (f : Die → Die) : (w.modDie s f).d.bist = w.d.bist := rfl
@[simp] theorem modDie_sealEpoch (w : W) (s : Nat) (f : Die → Die) : (w.modDie s f).d.sealEpoch = w.d.sealEpoch := rfl
@[simp] theorem modDie_freeCtr (w : W) (s : Nat) (f : Die → Die) : (w.modDie s f).d.freeCtr = w.d.freeCtr := rfl
@[simp] theorem modDie_out (w : W) (s : Nat) (f : Die → Die) : (w.modDie s f).d.out = w.d.out := rfl

/-! ## modBank -/

@[simp] theorem modBank_base (w : W) (n : Nat) (f : Bank → Bank) : (w.modBank n f).base = w.base := rfl
@[simp] theorem modBank_ops (w : W) (n : Nat) (f : Bank → Bank) : (w.modBank n f).ops = w.ops := rfl
@[simp] theorem modBank_variant (w : W) (n : Nat) (f : Bank → Bank) : (w.modBank n f).d.variant = w.d.variant := rfl
@[simp] theorem modBank_aon (w : W) (n : Nat) (f : Bank → Bank) : (w.modBank n f).d.aon = w.d.aon := rfl
@[simp] theorem modBank_sec (w : W) (n : Nat) (f : Bank → Bank) : (w.modBank n f).d.sec = w.d.sec := rfl
@[simp] theorem modBank_hub (w : W) (n : Nat) (f : Bank → Bank) : (w.modBank n f).d.hub = w.d.hub := rfl
@[simp] theorem modBank_rings (w : W) (n : Nat) (f : Bank → Bank) : (w.modBank n f).d.rings = w.d.rings := rfl
@[simp] theorem modBank_chans (w : W) (n : Nat) (f : Bank → Bank) : (w.modBank n f).d.chans = w.d.chans := rfl
@[simp] theorem modBank_sluices (w : W) (n : Nat) (f : Bank → Bank) : (w.modBank n f).d.sluices = w.d.sluices := rfl
@[simp] theorem modBank_grants (w : W) (n : Nat) (f : Bank → Bank) : (w.modBank n f).d.grants = w.d.grants := rfl
@[simp] theorem modBank_ctxs (w : W) (n : Nat) (f : Bank → Bank) : (w.modBank n f).d.ctxs = w.d.ctxs := rfl
@[simp] theorem modBank_pols (w : W) (n : Nat) (f : Bank → Bank) : (w.modBank n f).d.pols = w.d.pols := rfl
@[simp] theorem modBank_dies (w : W) (n : Nat) (f : Bank → Bank) : (w.modBank n f).d.dies = w.d.dies := rfl
@[simp] theorem modBank_banks (w : W) (n : Nat) (f : Bank → Bank) : (w.modBank n f).d.banks = tset w.d.banks n (f (w.d.bank n)) := rfl
@[simp] theorem modBank_evids (w : W) (n : Nat) (f : Bank → Bank) : (w.modBank n f).d.evids = w.d.evids := rfl
@[simp] theorem modBank_fabric (w : W) (n : Nat) (f : Bank → Bank) : (w.modBank n f).d.fabric = w.d.fabric := rfl
@[simp] theorem modBank_power (w : W) (n : Nat) (f : Bank → Bank) : (w.modBank n f).d.power = w.d.power := rfl
@[simp] theorem modBank_bist (w : W) (n : Nat) (f : Bank → Bank) : (w.modBank n f).d.bist = w.d.bist := rfl
@[simp] theorem modBank_sealEpoch (w : W) (n : Nat) (f : Bank → Bank) : (w.modBank n f).d.sealEpoch = w.d.sealEpoch := rfl
@[simp] theorem modBank_freeCtr (w : W) (n : Nat) (f : Bank → Bank) : (w.modBank n f).d.freeCtr = w.d.freeCtr := rfl
@[simp] theorem modBank_out (w : W) (n : Nat) (f : Bank → Bank) : (w.modBank n f).d.out = w.d.out := rfl

/-! ## modHub -/

@[simp] theorem modHub_base (w : W) (f : Hub → Hub) : (w.modHub f).base = w.base := rfl
@[simp] theorem modHub_ops (w : W) (f : Hub → Hub) : (w.modHub f).ops = w.ops := rfl
@[simp] theorem modHub_variant (w : W) (f : Hub → Hub) : (w.modHub f).d.variant = w.d.variant := rfl
@[simp] theorem modHub_aon (w : W) (f : Hub → Hub) : (w.modHub f).d.aon = w.d.aon := rfl
@[simp] theorem modHub_sec (w : W) (f : Hub → Hub) : (w.modHub f).d.sec = w.d.sec := rfl
@[simp] theorem modHub_hub (w : W) (f : Hub → Hub) : (w.modHub f).d.hub = f w.d.hub := rfl
@[simp] theorem modHub_rings (w : W) (f : Hub → Hub) : (w.modHub f).d.rings = w.d.rings := rfl
@[simp] theorem modHub_chans (w : W) (f : Hub → Hub) : (w.modHub f).d.chans = w.d.chans := rfl
@[simp] theorem modHub_sluices (w : W) (f : Hub → Hub) : (w.modHub f).d.sluices = w.d.sluices := rfl
@[simp] theorem modHub_grants (w : W) (f : Hub → Hub) : (w.modHub f).d.grants = w.d.grants := rfl
@[simp] theorem modHub_ctxs (w : W) (f : Hub → Hub) : (w.modHub f).d.ctxs = w.d.ctxs := rfl
@[simp] theorem modHub_pols (w : W) (f : Hub → Hub) : (w.modHub f).d.pols = w.d.pols := rfl
@[simp] theorem modHub_dies (w : W) (f : Hub → Hub) : (w.modHub f).d.dies = w.d.dies := rfl
@[simp] theorem modHub_banks (w : W) (f : Hub → Hub) : (w.modHub f).d.banks = w.d.banks := rfl
@[simp] theorem modHub_evids (w : W) (f : Hub → Hub) : (w.modHub f).d.evids = w.d.evids := rfl
@[simp] theorem modHub_fabric (w : W) (f : Hub → Hub) : (w.modHub f).d.fabric = w.d.fabric := rfl
@[simp] theorem modHub_power (w : W) (f : Hub → Hub) : (w.modHub f).d.power = w.d.power := rfl
@[simp] theorem modHub_bist (w : W) (f : Hub → Hub) : (w.modHub f).d.bist = w.d.bist := rfl
@[simp] theorem modHub_sealEpoch (w : W) (f : Hub → Hub) : (w.modHub f).d.sealEpoch = w.d.sealEpoch := rfl
@[simp] theorem modHub_freeCtr (w : W) (f : Hub → Hub) : (w.modHub f).d.freeCtr = w.d.freeCtr := rfl
@[simp] theorem modHub_out (w : W) (f : Hub → Hub) : (w.modHub f).d.out = w.d.out := rfl

/-! ## modSec -/

@[simp] theorem modSec_base (w : W) (f : Sec → Sec) : (w.modSec f).base = w.base := rfl
@[simp] theorem modSec_ops (w : W) (f : Sec → Sec) : (w.modSec f).ops = w.ops := rfl
@[simp] theorem modSec_variant (w : W) (f : Sec → Sec) : (w.modSec f).d.variant = w.d.variant := rfl
@[simp] theorem modSec_aon (w : W) (f : Sec → Sec) : (w.modSec f).d.aon = w.d.aon := rfl
@[simp] theorem modSec_sec (w : W) (f : Sec → Sec) : (w.modSec f).d.sec = f w.d.sec := rfl
@[simp] theorem modSec_hub (w : W) (f : Sec → Sec) : (w.modSec f).d.hub = w.d.hub := rfl
@[simp] theorem modSec_rings (w : W) (f : Sec → Sec) : (w.modSec f).d.rings = w.d.rings := rfl
@[simp] theorem modSec_chans (w : W) (f : Sec → Sec) : (w.modSec f).d.chans = w.d.chans := rfl
@[simp] theorem modSec_sluices (w : W) (f : Sec → Sec) : (w.modSec f).d.sluices = w.d.sluices := rfl
@[simp] theorem modSec_grants (w : W) (f : Sec → Sec) : (w.modSec f).d.grants = w.d.grants := rfl
@[simp] theorem modSec_ctxs (w : W) (f : Sec → Sec) : (w.modSec f).d.ctxs = w.d.ctxs := rfl
@[simp] theorem modSec_pols (w : W) (f : Sec → Sec) : (w.modSec f).d.pols = w.d.pols := rfl
@[simp] theorem modSec_dies (w : W) (f : Sec → Sec) : (w.modSec f).d.dies = w.d.dies := rfl
@[simp] theorem modSec_banks (w : W) (f : Sec → Sec) : (w.modSec f).d.banks = w.d.banks := rfl
@[simp] theorem modSec_evids (w : W) (f : Sec → Sec) : (w.modSec f).d.evids = w.d.evids := rfl
@[simp] theorem modSec_fabric (w : W) (f : Sec → Sec) : (w.modSec f).d.fabric = w.d.fabric := rfl
@[simp] theorem modSec_power (w : W) (f : Sec → Sec) : (w.modSec f).d.power = w.d.power := rfl
@[simp] theorem modSec_bist (w : W) (f : Sec → Sec) : (w.modSec f).d.bist = w.d.bist := rfl
@[simp] theorem modSec_sealEpoch (w : W) (f : Sec → Sec) : (w.modSec f).d.sealEpoch = w.d.sealEpoch := rfl
@[simp] theorem modSec_freeCtr (w : W) (f : Sec → Sec) : (w.modSec f).d.freeCtr = w.d.freeCtr := rfl
@[simp] theorem modSec_out (w : W) (f : Sec → Sec) : (w.modSec f).d.out = w.d.out := rfl

/-! ## modAon -/

@[simp] theorem modAon_base (w : W) (f : Aon → Aon) : (w.modAon f).base = w.base := rfl
@[simp] theorem modAon_ops (w : W) (f : Aon → Aon) : (w.modAon f).ops = w.ops := rfl
@[simp] theorem modAon_variant (w : W) (f : Aon → Aon) : (w.modAon f).d.variant = w.d.variant := rfl
@[simp] theorem modAon_aon (w : W) (f : Aon → Aon) : (w.modAon f).d.aon = f w.d.aon := rfl
@[simp] theorem modAon_sec (w : W) (f : Aon → Aon) : (w.modAon f).d.sec = w.d.sec := rfl
@[simp] theorem modAon_hub (w : W) (f : Aon → Aon) : (w.modAon f).d.hub = w.d.hub := rfl
@[simp] theorem modAon_rings (w : W) (f : Aon → Aon) : (w.modAon f).d.rings = w.d.rings := rfl
@[simp] theorem modAon_chans (w : W) (f : Aon → Aon) : (w.modAon f).d.chans = w.d.chans := rfl
@[simp] theorem modAon_sluices (w : W) (f : Aon → Aon) : (w.modAon f).d.sluices = w.d.sluices := rfl
@[simp] theorem modAon_grants (w : W) (f : Aon → Aon) : (w.modAon f).d.grants = w.d.grants := rfl
@[simp] theorem modAon_ctxs (w : W) (f : Aon → Aon) : (w.modAon f).d.ctxs = w.d.ctxs := rfl
@[simp] theorem modAon_pols (w : W) (f : Aon → Aon) : (w.modAon f).d.pols = w.d.pols := rfl
@[simp] theorem modAon_dies (w : W) (f : Aon → Aon) : (w.modAon f).d.dies = w.d.dies := rfl
@[simp] theorem modAon_banks (w : W) (f : Aon → Aon) : (w.modAon f).d.banks = w.d.banks := rfl
@[simp] theorem modAon_evids (w : W) (f : Aon → Aon) : (w.modAon f).d.evids = w.d.evids := rfl
@[simp] theorem modAon_fabric (w : W) (f : Aon → Aon) : (w.modAon f).d.fabric = w.d.fabric := rfl
@[simp] theorem modAon_power (w : W) (f : Aon → Aon) : (w.modAon f).d.power = w.d.power := rfl
@[simp] theorem modAon_bist (w : W) (f : Aon → Aon) : (w.modAon f).d.bist = w.d.bist := rfl
@[simp] theorem modAon_sealEpoch (w : W) (f : Aon → Aon) : (w.modAon f).d.sealEpoch = w.d.sealEpoch := rfl
@[simp] theorem modAon_freeCtr (w : W) (f : Aon → Aon) : (w.modAon f).d.freeCtr = w.d.freeCtr := rfl
@[simp] theorem modAon_out (w : W) (f : Aon → Aon) : (w.modAon f).d.out = w.d.out := rfl

/-! ## modPower -/

@[simp] theorem modPower_base (w : W) (f : Power → Power) : (w.modPower f).base = w.base := rfl
@[simp] theorem modPower_ops (w : W) (f : Power → Power) : (w.modPower f).ops = w.ops := rfl
@[simp] theorem modPower_variant (w : W) (f : Power → Power) : (w.modPower f).d.variant = w.d.variant := rfl
@[simp] theorem modPower_aon (w : W) (f : Power → Power) : (w.modPower f).d.aon = w.d.aon := rfl
@[simp] theorem modPower_sec (w : W) (f : Power → Power) : (w.modPower f).d.sec = w.d.sec := rfl
@[simp] theorem modPower_hub (w : W) (f : Power → Power) : (w.modPower f).d.hub = w.d.hub := rfl
@[simp] theorem modPower_rings (w : W) (f : Power → Power) : (w.modPower f).d.rings = w.d.rings := rfl
@[simp] theorem modPower_chans (w : W) (f : Power → Power) : (w.modPower f).d.chans = w.d.chans := rfl
@[simp] theorem modPower_sluices (w : W) (f : Power → Power) : (w.modPower f).d.sluices = w.d.sluices := rfl
@[simp] theorem modPower_grants (w : W) (f : Power → Power) : (w.modPower f).d.grants = w.d.grants := rfl
@[simp] theorem modPower_ctxs (w : W) (f : Power → Power) : (w.modPower f).d.ctxs = w.d.ctxs := rfl
@[simp] theorem modPower_pols (w : W) (f : Power → Power) : (w.modPower f).d.pols = w.d.pols := rfl
@[simp] theorem modPower_dies (w : W) (f : Power → Power) : (w.modPower f).d.dies = w.d.dies := rfl
@[simp] theorem modPower_banks (w : W) (f : Power → Power) : (w.modPower f).d.banks = w.d.banks := rfl
@[simp] theorem modPower_evids (w : W) (f : Power → Power) : (w.modPower f).d.evids = w.d.evids := rfl
@[simp] theorem modPower_fabric (w : W) (f : Power → Power) : (w.modPower f).d.fabric = w.d.fabric := rfl
@[simp] theorem modPower_power (w : W) (f : Power → Power) : (w.modPower f).d.power = f w.d.power := rfl
@[simp] theorem modPower_bist (w : W) (f : Power → Power) : (w.modPower f).d.bist = w.d.bist := rfl
@[simp] theorem modPower_sealEpoch (w : W) (f : Power → Power) : (w.modPower f).d.sealEpoch = w.d.sealEpoch := rfl
@[simp] theorem modPower_freeCtr (w : W) (f : Power → Power) : (w.modPower f).d.freeCtr = w.d.freeCtr := rfl
@[simp] theorem modPower_out (w : W) (f : Power → Power) : (w.modPower f).d.out = w.d.out := rfl

/-! ## modBist -/

@[simp] theorem modBist_base (w : W) (f : Bist → Bist) : (w.modBist f).base = w.base := rfl
@[simp] theorem modBist_ops (w : W) (f : Bist → Bist) : (w.modBist f).ops = w.ops := rfl
@[simp] theorem modBist_variant (w : W) (f : Bist → Bist) : (w.modBist f).d.variant = w.d.variant := rfl
@[simp] theorem modBist_aon (w : W) (f : Bist → Bist) : (w.modBist f).d.aon = w.d.aon := rfl
@[simp] theorem modBist_sec (w : W) (f : Bist → Bist) : (w.modBist f).d.sec = w.d.sec := rfl
@[simp] theorem modBist_hub (w : W) (f : Bist → Bist) : (w.modBist f).d.hub = w.d.hub := rfl
@[simp] theorem modBist_rings (w : W) (f : Bist → Bist) : (w.modBist f).d.rings = w.d.rings := rfl
@[simp] theorem modBist_chans (w : W) (f : Bist → Bist) : (w.modBist f).d.chans = w.d.chans := rfl
@[simp] theorem modBist_sluices (w : W) (f : Bist → Bist) : (w.modBist f).d.sluices = w.d.sluices := rfl
@[simp] theorem modBist_grants (w : W) (f : Bist → Bist) : (w.modBist f).d.grants = w.d.grants := rfl
@[simp] theorem modBist_ctxs (w : W) (f : Bist → Bist) : (w.modBist f).d.ctxs = w.d.ctxs := rfl
@[simp] theorem modBist_pols (w : W) (f : Bist → Bist) : (w.modBist f).d.pols = w.d.pols := rfl
@[simp] theorem modBist_dies (w : W) (f : Bist → Bist) : (w.modBist f).d.dies = w.d.dies := rfl
@[simp] theorem modBist_banks (w : W) (f : Bist → Bist) : (w.modBist f).d.banks = w.d.banks := rfl
@[simp] theorem modBist_evids (w : W) (f : Bist → Bist) : (w.modBist f).d.evids = w.d.evids := rfl
@[simp] theorem modBist_fabric (w : W) (f : Bist → Bist) : (w.modBist f).d.fabric = w.d.fabric := rfl
@[simp] theorem modBist_power (w : W) (f : Bist → Bist) : (w.modBist f).d.power = w.d.power := rfl
@[simp] theorem modBist_bist (w : W) (f : Bist → Bist) : (w.modBist f).d.bist = f w.d.bist := rfl
@[simp] theorem modBist_sealEpoch (w : W) (f : Bist → Bist) : (w.modBist f).d.sealEpoch = w.d.sealEpoch := rfl
@[simp] theorem modBist_freeCtr (w : W) (f : Bist → Bist) : (w.modBist f).d.freeCtr = w.d.freeCtr := rfl
@[simp] theorem modBist_out (w : W) (f : Bist → Bist) : (w.modBist f).d.out = w.d.out := rfl

/-! ## modFabric -/

@[simp] theorem modFabric_base (w : W) (f : Fabric → Fabric) : (w.modFabric f).base = w.base := rfl
@[simp] theorem modFabric_ops (w : W) (f : Fabric → Fabric) : (w.modFabric f).ops = w.ops := rfl
@[simp] theorem modFabric_variant (w : W) (f : Fabric → Fabric) : (w.modFabric f).d.variant = w.d.variant := rfl
@[simp] theorem modFabric_aon (w : W) (f : Fabric → Fabric) : (w.modFabric f).d.aon = w.d.aon := rfl
@[simp] theorem modFabric_sec (w : W) (f : Fabric → Fabric) : (w.modFabric f).d.sec = w.d.sec := rfl
@[simp] theorem modFabric_hub (w : W) (f : Fabric → Fabric) : (w.modFabric f).d.hub = w.d.hub := rfl
@[simp] theorem modFabric_rings (w : W) (f : Fabric → Fabric) : (w.modFabric f).d.rings = w.d.rings := rfl
@[simp] theorem modFabric_chans (w : W) (f : Fabric → Fabric) : (w.modFabric f).d.chans = w.d.chans := rfl
@[simp] theorem modFabric_sluices (w : W) (f : Fabric → Fabric) : (w.modFabric f).d.sluices = w.d.sluices := rfl
@[simp] theorem modFabric_grants (w : W) (f : Fabric → Fabric) : (w.modFabric f).d.grants = w.d.grants := rfl
@[simp] theorem modFabric_ctxs (w : W) (f : Fabric → Fabric) : (w.modFabric f).d.ctxs = w.d.ctxs := rfl
@[simp] theorem modFabric_pols (w : W) (f : Fabric → Fabric) : (w.modFabric f).d.pols = w.d.pols := rfl
@[simp] theorem modFabric_dies (w : W) (f : Fabric → Fabric) : (w.modFabric f).d.dies = w.d.dies := rfl
@[simp] theorem modFabric_banks (w : W) (f : Fabric → Fabric) : (w.modFabric f).d.banks = w.d.banks := rfl
@[simp] theorem modFabric_evids (w : W) (f : Fabric → Fabric) : (w.modFabric f).d.evids = w.d.evids := rfl
@[simp] theorem modFabric_fabric (w : W) (f : Fabric → Fabric) : (w.modFabric f).d.fabric = f w.d.fabric := rfl
@[simp] theorem modFabric_power (w : W) (f : Fabric → Fabric) : (w.modFabric f).d.power = w.d.power := rfl
@[simp] theorem modFabric_bist (w : W) (f : Fabric → Fabric) : (w.modFabric f).d.bist = w.d.bist := rfl
@[simp] theorem modFabric_sealEpoch (w : W) (f : Fabric → Fabric) : (w.modFabric f).d.sealEpoch = w.d.sealEpoch := rfl
@[simp] theorem modFabric_freeCtr (w : W) (f : Fabric → Fabric) : (w.modFabric f).d.freeCtr = w.d.freeCtr := rfl
@[simp] theorem modFabric_out (w : W) (f : Fabric → Fabric) : (w.modFabric f).d.out = w.d.out := rfl

end Sys2Proof.Laws
end

