-- ==== Sys2Proof/Laws/Tables.lean ====
section
/-! SUPPORT. What a sparse table reads as after a record is replaced. -/

namespace Sys2Proof.Laws

open Sys2Proof.Machine

@[simp] theorem tget_tset_same {α : Type} (d : α) (t : Tab α) (i : Nat) (a : α) : tget d (tset t i a) i = a := by
  induction t with
  | nil => simp [tset, tget]
  | cons x t ih =>
    obtain ⟨k, b⟩ := x
    simp only [tset]
    split
    · simp [tget]
    · split
      · simp [tget]
      · rename_i h1 h2; simp [tget, h1, h2, ih]

theorem tget_tset_other {α : Type} (d : α) (t : Tab α) (i j : Nat) (a : α) (h : i ≠ j) : tget d (tset t j a) i = tget d t i := by
  induction t with
  | nil =>
    have h' : j ≠ i := fun e => h e.symm
    by_cases hl : i < j <;> simp [tset, tget, h', hl]
  | cons x t ih =>
    obtain ⟨k, b⟩ := x
    have h' : j ≠ i := fun e => h e.symm
    simp only [tset]
    split
    · rename_i e; subst e; simp [tget, h']
    · split
      · rename_i h1 h2
        by_cases hl : i < j
        · have : ¬ k = i := by omega
          have : i < k := by omega
          simp [tget, h', hl, *]
        · simp [tget, h', hl]
      · simp only [tget]; rw [ih]

@[simp] theorem tget_tmod_same {α : Type} (d : α) (t : Tab α) (i : Nat) (f : α → α) : tget d (tmod d t i f) i = f (tget d t i) := by
  simp [tmod]

theorem tget_tmod_other {α : Type} (d : α) (t : Tab α) (i j : Nat) (f : α → α) (h : i ≠ j) : tget d (tmod d t j f) i = tget d t i := by
  simp [tmod, tget_tset_other d t i j _ h]

/-- A record replaced twice holds what was written last. -/
@[simp] theorem tset_tset {α : Type} (t : Tab α) (i : Nat) (a b : α) : tset (tset t i a) i b = tset t i b := by
  induction t with
  | nil => simp [tset]
  | cons x t ih =>
    obtain ⟨k, c⟩ := x
    simp only [tset]
    split
    · simp [tset]
    · split
      · simp [tset]
      · rename_i h1 h2; simp [tset, h1, h2, ih]

theorem tset_comm {α : Type} (t : Tab α) (i j : Nat) (a b : α) (h : i ≠ j) : tset (tset t i a) j b = tset (tset t j b) i a := by
  induction t with
  | nil =>
    rcases Nat.lt_or_gt_of_ne h with hl | hl
    · have h1 : ¬ j < i := by omega
      simp [tset, h, h.symm, hl, h1]
    · have h1 : ¬ i < j := by omega
      simp [tset, h, h.symm, hl, h1]
  | cons x t ih =>
    obtain ⟨k, c⟩ := x
    have h' : j ≠ i := h.symm
    by_cases hi : k = i
    · subst hi
      by_cases hj : j < k
      · simp [tset, h, h', hj]; omega
      · simp [tset, h, hj]
    · by_cases hj : k = j
      · subst hj
        by_cases hl : i < k
        · simp [tset, h, h', hl]; omega
        · simp [tset, hi, hl]
      · by_cases h1 : i < k <;> by_cases h2 : j < k <;> by_cases h3 : i < j
        all_goals simp [tset, hi, hj, h, h', h1, h2, h3, ih]
        all_goals first
          | omega
          | (have h4 : j < i := by omega
             simp [h4])

/-- A record changed twice. -/
theorem tmod_tmod {α : Type} (d : α) (t : Tab α) (i : Nat) (f g : α → α) : tmod d (tmod d t i f) i g = tmod d t i fun x => g (f x) := by
  simp [tmod]

end Sys2Proof.Laws
end

