-- ==== Sys2Proof/Laws/Host.lean ====
section
/-! SUPPORT. What events, interrupts and the context scheduler can do, said once for each shared operation. -/

namespace Sys2Proof.Laws

open Sys2Proof.Machine

/-! ## The parts of the device after an update -/

@[simp] theorem ring_modRing (w : W) (r : Nat) (f : Ring → Ring) : (w.modRing r f).d.ring r = f (w.d.ring r) := by simp [Dev.ring]
theorem ring_modRing_ne (w : W) (r i : Nat) (f : Ring → Ring) (h : i ≠ r) : (w.modRing r f).d.ring i = w.d.ring i := by
  simp [Dev.ring, tget_tmod_other _ _ _ _ _ h]
@[simp] theorem chan_modChan (w : W) (c : Nat) (f : Chan → Chan) : (w.modChan c f).d.chan c = f (w.d.chan c) := by simp [Dev.chan]
@[simp] theorem sluice_modSluice (w : W) (i : Nat) (f : Sluice → Sluice) : (w.modSluice i f).d.sluice i = f (w.d.sluice i) := by
  simp [Dev.sluice]
@[simp] theorem ctx_modCtx (w : W) (n : Nat) (f : Ctx → Ctx) : (w.modCtx n f).d.ctx n = f (w.d.ctx n) := by simp [Dev.ctx]
theorem ctx_modCtx_ne (w : W) (n i : Nat) (f : Ctx → Ctx) (h : i ≠ n) : (w.modCtx n f).d.ctx i = w.d.ctx i := by
  simp [Dev.ctx, tget_tmod_other _ _ _ _ _ h]
@[simp] theorem pol_modPol (w : W) (p : Nat) (f : Pol → Pol) : (w.modPol p f).d.pol p = f (w.d.pol p) := by simp [Dev.pol]
theorem pol_modPol_ne (w : W) (p i : Nat) (f : Pol → Pol) (h : i ≠ p) : (w.modPol p f).d.pol i = w.d.pol i := by
  simp [Dev.pol, tget_tmod_other _ _ _ _ _ h]
@[simp] theorem die_modDie (w : W) (s : Nat) (f : Die → Die) : (w.modDie s f).d.die s = f (w.d.die s) := by simp [Dev.die]
@[simp] theorem bank_modBank (w : W) (n : Nat) (f : Bank → Bank) : (w.modBank n f).d.bank n = f (w.d.bank n) := by simp [Dev.bank]

/-! ## Posting and scheduling -/

/-- `w'` is `w` after work that only posts events and schedules contexts; the memories are untouched. -/
structure Quiet (w w' : W) : Prop where
  base : w'.base = w.base
  ops : w'.ops = w.ops
  dev : w.d.Posted w'.d

theorem Posted.refl (d : Dev) : d.Posted d := ⟨rfl, fun _ => rfl, fun _ _ => rfl, fun _ => rfl, fun _ => rfl, rfl⟩

theorem Posted.trans {a b c : Dev} (h : a.Posted b) (k : b.Posted c) : a.Posted c where
  rest := by rw [k.rest, h.rest]
  rings r := by rw [k.rings r, h.rings r]
  others r hr := by
    rw [k.others r, h.others r hr]
    rw [h.others r hr]; exact hr
  ctxs n := by rw [k.ctxs n, h.ctxs n]
  pols p := by rw [k.pols p, h.pols p]
  hub := by rw [k.hub, h.hub]

theorem Quiet.refl (w : W) : Quiet w w := ⟨rfl, rfl, Posted.refl _⟩
theorem Quiet.trans {a b c : W} (h : Quiet a b) (k : Quiet b c) : Quiet a c :=
  ⟨k.base.trans h.base, k.ops.trans h.ops, Posted.trans h.dev k.dev⟩

theorem Quiet.each {α : Type} (l : List α) (f : W → α → W) (h : ∀ w a, Quiet w (f w a)) (w : W) : Quiet w (w.each l f) := by
  unfold W.each
  induction l generalizing w with
  | nil => exact Quiet.refl w
  | cons a l ih => exact (h w a).trans (ih (f w a))

theorem Quiet.emit (w : W) (o : Out) : Quiet w (w.emit o) :=
  ⟨rfl, rfl, ⟨rfl, fun _ => rfl, fun _ _ => rfl, fun _ => rfl, fun _ => rfl, rfl⟩⟩

/-- A change of the hub that leaves its registers alone. -/
theorem Quiet.modHub (w : W) (f : Hub → Hub)
    (h : ∀ x, f x = { x with lost := (f x).lost, vecs := (f x).vecs, reads := (f x).reads, readTag := (f x).readTag, pendCtr := (f x).pendCtr }) :
    Quiet w (w.modHub f) :=
  ⟨rfl, rfl, ⟨rfl, fun _ => rfl, fun _ _ => rfl, fun _ => rfl, fun _ => rfl, h _⟩⟩

theorem Quiet.modCtx (w : W) (n : Nat) (f : Ctx → Ctx)
    (h : ∀ x, f x = { x with
      res := (f x).res, slot := (f x).slot, gen := (f x).gen, record := (f x).record, act := (f x).act, since := (f x).since, pend := (f x).pend }) :
    Quiet w (w.modCtx n f) := by
  refine ⟨rfl, rfl, ⟨rfl, fun _ => rfl, fun _ _ => rfl, fun i => ?_, fun _ => rfl, rfl⟩⟩
  by_cases e : i = n
  · subst e; rw [ctx_modCtx]; exact h _
  · rw [ctx_modCtx_ne _ _ _ _ e]

theorem Quiet.modPol (w : W) (p : Nat) (f : Pol → Pol)
    (h : ∀ x, f x = { x with
      evictBlocked := (f x).evictBlocked, starving := (f x).starving, starved := (f x).starved, tblCtx := (f x).tblCtx }) :
    Quiet w (w.modPol p f) := by
  refine ⟨rfl, rfl, ⟨rfl, fun _ => rfl, fun _ _ => rfl, fun _ => rfl, fun i => ?_, rfl⟩⟩
  by_cases e : i = p
  · subst e; rw [pol_modPol]; exact h _
  · rw [pol_modPol_ne _ _ _ _ e]

theorem Quiet.modEventRing (w : W) (r : Nat) (f : Ring → Ring) (hk : (w.d.ring r).kind = 4)
    (h : ∀ x, f x = { x with tail := (f x).tail, seq := (f x).seq, since := (f x).since }) : Quiet w (w.modRing r f) := by
  refine ⟨rfl, rfl, ⟨rfl, fun i => ?_, fun i hi => ?_, fun _ => rfl, fun _ => rfl, rfl⟩⟩
  · by_cases e : i = r
    · subst e; rw [ring_modRing]; exact h _
    · rw [ring_modRing_ne _ _ _ _ e]
  · have e : i ≠ r := by rintro rfl; exact hi hk
    rw [ring_modRing_ne _ _ _ _ e]

theorem raise_quiet (w : W) (fn vec : Nat) : Quiet w (w.raise fn vec) := by
  unfold W.raise
  split
  · exact Quiet.modHub _ _ fun _ => rfl
  · exact Quiet.emit _ _

theorem raiseRing_quiet (w : W) (r : Nat) (hk : (w.d.ring r).kind = 4) : Quiet w (w.raiseRing r) := by
  unfold W.raiseRing
  extract_lets
  split
  · refine (raise_quiet _ _ _).trans (Quiet.modEventRing _ _ _ ?_ fun _ => rfl)
    rw [(raise_quiet w (w.d.ringFn r) (w.d.ring r).vector).dev.rings r]; exact hk
  · exact Quiet.refl _

theorem eventRing_kind {d : Dev} {t r : Nat} (h : d.eventRing t = some r) : (d.ring r).kind = 4 := by
  simp only [Dev.eventRing, Option.ite_none_right_eq_some, Option.some.injEq, Bool.and_eq_true, beq_iff_eq] at h
  obtain ⟨⟨_, hc⟩, rfl⟩ := h
  exact hc

/-- Posting an event. -/
theorem event_quiet (w : W) (t status detail srcKind srcId info : Nat) : Quiet w (w.event t status detail srcKind srcId info) := by
  unfold W.event
  simp only
  split
  · exact Quiet.modHub _ _ fun _ => rfl
  · rename_i r hr
    have hk := eventRing_kind hr
    split
    · exact Quiet.modHub _ _ fun _ => rfl
    · have h1 := Quiet.emit w (.hostWrite ((w.d.ring r).entryAddr (w.d.ring r).tail)
        (toLe 8 (w.d.ring r).seq ++ toLe 2 status ++ toLe 1 detail ++ toLe 1 srcKind ++ toLe 4 srcId ++ toLe 8 info ++
          toLe 2 0 ++ toLe 1 (min 255 (tget 0 w.d.hub.lost t)) ++ toLe 1 ((w.d.ring r).phase (w.d.ring r).tail) ++ toLe 4 0))
      refine h1.trans ?_
      generalize W.emit _ _ = v at h1 ⊢
      have hv : (v.d.ring r).kind = 4 := by rw [h1.dev.rings r]; exact hk
      have h2 := Quiet.modEventRing v r (fun R => { R with tail := u32 (R.tail + 1), seq := R.seq + 1 }) hv fun _ => rfl
      refine h2.trans ?_
      generalize W.modRing _ _ _ = x at h2 ⊢
      have hx : (x.d.ring r).kind = 4 := by rw [h2.dev.rings r]; exact hv
      have h3 := Quiet.modHub x (fun h => { h with lost := tset h.lost t 0 }) fun _ => rfl
      refine h3.trans ?_
      generalize W.modHub _ _ = y at h3 ⊢
      exact raiseRing_quiet y r (by rw [h3.dev.rings r]; exact hx)

theorem ringEvent_quiet (w : W) (r status detail info : Nat) : Quiet w (w.ringEvent r status detail info) := event_quiet _ _ _ _ _ _ _

theorem hostRead_quiet (w : W) (a n : Nat) (why : ReadFor) : Quiet w (w.hostRead a n why).2 :=
  (Quiet.modHub _ _ fun _ => rfl).trans (Quiet.emit _ _)

theorem evict_quiet (w : W) (p n : Nat) : Quiet w (w.evict p n) :=
  (Quiet.emit _ _).trans (Quiet.modCtx _ _ _ fun _ => rfl)

theorem load_quiet (w : W) (p n slot : Nat) : Quiet w (w.load p n slot) := by
  unfold W.load
  simp only
  split
  · exact Quiet.modCtx _ _ _ fun _ => rfl
  · exact (hostRead_quiet _ _ _ _).trans (Quiet.modCtx _ _ _ fun _ => rfl)

theorem refresh_quiet (w : W) (p : Nat) : Quiet w (w.refresh p) := by
  refine Quiet.each _ _ (fun w n => ?_) w
  have h1 : Quiet w (if w.d.activity p n = (w.d.ctx n).act then w
      else w.modCtx n fun C => { C with act := w.d.activity p n, since := w.d.aon.hub }) := by
    split
    · exact Quiet.refl _
    · exact Quiet.modCtx _ _ _ fun _ => rfl
  simp only
  split
  · exact h1.trans ((Quiet.modHub _ _ fun _ => rfl).trans (Quiet.modCtx _ _ _ fun _ => rfl))
  · split
    · exact h1.trans (Quiet.modCtx _ _ _ fun _ => rfl)
    · exact h1

theorem serveOne_quiet (w w' : W) (p : Nat) (h : w.serveOne p = some w') : Quiet w w' := by
  unfold W.serveOne at h
  simp only at h
  split at h
  · cases h
  · split at h
    · cases h; exact load_quiet _ _ _ _
    · split at h
      · cases h
      · split at h
        · cases h; exact (evict_quiet _ _ _).trans (load_quiet _ _ _ _)
        · split at h
          · split at h
            · cases h
              exact (Quiet.modPol _ _ _ fun _ => rfl).trans ((evict_quiet _ _ _).trans (load_quiet _ _ _ _))
            · cases h
          · cases h

theorem serve_quiet (p k : Nat) (w : W) : Quiet w (W.serve p k w) := by
  induction k generalizing w with
  | zero => exact Quiet.refl _
  | succ k ih =>
    unfold W.serve
    split
    · rename_i w' h
      exact (serveOne_quiet _ _ _ h).trans ((refresh_quiet _ _).trans (ih _))
    · exact Quiet.refl _

theorem starve_quiet (w : W) (p : Nat) : Quiet w (w.starve p) := by
  unfold W.starve
  simp only
  split
  · split
    · split
      · exact Quiet.refl _
      · exact (Quiet.modPol _ _ _ fun _ => rfl).trans (event_quiet _ _ _ _ _ _ _)
    · exact Quiet.modPol _ _ _ fun _ => rfl
  · split
    · exact Quiet.modPol _ _ _ fun _ => rfl
    · exact Quiet.refl _

theorem endTblHold_quiet (w : W) (p : Nat) : Quiet w (w.endTblHold p) := by
  unfold W.endTblHold
  split
  · exact Quiet.refl _
  · exact Quiet.modPol _ _ _ fun _ => rfl

theorem endStarving_quiet (w : W) (p : Nat) : Quiet w (w.endStarving p) := by
  unfold W.endStarving
  split
  · exact Quiet.modPol _ _ _ fun _ => rfl
  · exact Quiet.refl _

theorem settlePol_quiet (w : W) (p : Nat) : Quiet w (w.settlePol p) := by
  unfold W.settlePol
  split
  · exact ((refresh_quiet _ _).trans ((endTblHold_quiet _ _).trans (endStarving_quiet _ _))).trans ((serve_quiet _ _ _).trans (starve_quiet _ _))
  · exact Quiet.refl _

/-- The scheduler's work. -/
theorem settle_quiet (w : W) : Quiet w w.settle := by
  refine Quiet.each _ _ (fun w p => ?_) w
  split
  · exact Quiet.refl _
  · exact settlePol_quiet _ _

/-- A command whose work ends with the scheduler's: its effect before that, and what the scheduler may add. -/
theorem becomes_settle (s : State) (w : W) : s.Becomes w.d (s.mem.applyAll w.ops) (s.commit w.settle) := by
  have h := settle_quiet w
  generalize w.settle = v at h
  refine ⟨rfl, rfl, ?_, h.dev⟩
  show s.mem.applyAll v.ops = _
  rw [h.ops]

/-- A register write that its path allows. -/
theorem regWrite_ok (w : W) (fn off : Nat) (ok : Bool) (f : W → (W → W) → W) (early : Bool) (h1 : w.d.hostReach fn = true)
    (h2 : (early || w.d.running) = true) (h3 : ok = true) : w.regWrite fn off ok f early = (f w fun w => w.ignored fn off).settle := by
  unfold W.regWrite
  rw [h1, h2, h3]; rfl

end Sys2Proof.Laws
end

