-- ==== Sys2Proof/Laws/Descriptors.lean ====
section
/-! SUPPORT. What taking a descriptor and completing it do. -/

namespace Sys2Proof.Laws

open Sys2Proof.Machine

/-- What an entry that can be taken says of its ring. -/
theorem takes_ring {s : State} {r : Nat} {e : Bytes} (h : Takes s r e) :
    (s.dev.ring r).batch = e :: (s.dev.ring r).batch.tail ∧ (s.dev.ring r).kind = 0 ∧ (s.dev.ring r).st = 1 ∧ (s.dev.ring r).desc = none ∧
      (s.dev.ring r).cq ≠ r ∧ s.dev.running = true ∧ ∃ p, s.dev.ringPol r = some p := by
  have ha := h.able
  unfold Dev.takeable at ha
  simp only at ha
  split at ha
  · rename_i p x l hp hb
    split at ha
    · rename_i hc
      cases ha
      simp only [Bool.and_eq_true, beq_iff_eq, Option.isNone_iff_eq_none] at hc
      have hk := hc.1.1.1.1.1
      refine ⟨by rw [hb]; rfl, hk.1.1, hk.1.2, hk.2, ?_, hc.2, p, hp⟩
      intro hq
      have := h.cq
      rw [hq, hk.1.1] at this
      cases this
    · cases ha
  · cases ha

/-- Raising a ring's vector changes that ring's count and the vectors alone, and may send a message. -/
theorem raiseRing_spec (w : W) (q : Nat) : (w.raiseRing q).base = w.base ∧ (w.raiseRing q).ops = w.ops ∧
    (w.raiseRing q).d = { w.d with rings := (w.raiseRing q).d.rings, hub := { w.d.hub with vecs := (w.raiseRing q).d.hub.vecs }, out := (w.raiseRing q).d.out } ∧
    (∀ i, i ≠ q → (w.raiseRing q).d.ring i = w.d.ring i) ∧
    (w.raiseRing q).d.ring q = { w.d.ring q with since := ((w.raiseRing q).d.ring q).since } ∧ w.d.out <:+ (w.raiseRing q).d.out := by
  unfold W.raiseRing
  extract_lets R
  split
  · unfold W.raise
    split
    · refine ⟨rfl, rfl, rfl, fun i hi => ?_, ?_, List.suffix_refl _⟩
      · rw [ring_modRing_ne _ _ _ _ hi]; rfl
      · rw [ring_modRing]; rfl
    · refine ⟨rfl, rfl, rfl, fun i hi => ?_, ?_, List.suffix_cons _ _⟩
      · rw [ring_modRing_ne _ _ _ _ hi]; rfl
      · rw [ring_modRing]; rfl
  · exact ⟨rfl, rfl, rfl, fun _ _ => rfl, rfl, List.suffix_refl _⟩

/-- The state once an entry is taken. -/
theorem take_eq (w : W) (r : Nat) (e : Bytes) (waiting : Bool) (hb : (w.d.ring r).batch = e :: (w.d.ring r).batch.tail) :
    w.take r waiting =
      ((w.modRing r fun R =>
        { R with head := u32 (R.head + 1), seq := R.seq + 1, batch := (w.d.ring r).batch.tail
                 desc := some { bytes := e, seq := (w.d.ring r).seq, waiting := waiting } }).modRing (w.d.ring r).cq fun Q => { Q with reserved := Q.reserved + 1 }).shadow r := by
  unfold W.take
  simp only
  split
  · rename_i h; rw [h] at hb; cases hb
  · rename_i x l h
    rw [h] at hb
    simp only [List.tail_cons, List.cons.injEq, and_true] at hb
    subst hb
    simp only [h, List.tail_cons]
    rfl

@[simp] theorem ring_shadow (w : W) (r i : Nat) : (w.shadow r).d.ring i = w.d.ring i := rfl
@[simp] theorem ring_emit (w : W) (o : Out) (i : Nat) : (w.emit o).d.ring i = w.d.ring i := rfl

/-- An entry taken from SUBMIT ring `r` and completed at once. -/
theorem completes_taken (w : W) (r : Nat) (e : Bytes) (c : Compl) (hb : (w.d.ring r).batch = e :: (w.d.ring r).batch.tail) (hq : (w.d.ring r).cq ≠ r) :
    Completes w.d ((w.take r).complete r c).d r e c ∧ ((w.take r).complete r c).base = w.base ∧ ((w.take r).complete r c).ops = w.ops := by
  rw [take_eq w r e false hb]
  have hq' : r ≠ (w.d.ring r).cq := fun h => hq h.symm
  set x := ((w.modRing r fun R =>
        { R with head := u32 (R.head + 1), seq := R.seq + 1, batch := (w.d.ring r).batch.tail
                 desc := some { bytes := e, seq := (w.d.ring r).seq, waiting := false } }).modRing (w.d.ring r).cq fun Q => { Q with reserved := Q.reserved + 1 }).shadow r with hx
  have xr : x.d.ring r = { w.d.ring r with
      head := u32 ((w.d.ring r).head + 1), seq := (w.d.ring r).seq + 1, batch := (w.d.ring r).batch.tail
      desc := some { bytes := e, seq := (w.d.ring r).seq, waiting := false } } := by
    rw [hx, ring_shadow, ring_modRing_ne _ _ _ _ hq', ring_modRing]
  have xq : x.d.ring (w.d.ring r).cq = { w.d.ring (w.d.ring r).cq with reserved := (w.d.ring (w.d.ring r).cq).reserved + 1 } := by
    rw [hx, ring_shadow, ring_modRing, ring_modRing_ne _ _ _ _ hq]
  have xo : ∀ i, i ≠ r → i ≠ (w.d.ring r).cq → x.d.ring i = w.d.ring i := by
    intro i h1 h2
    rw [hx, ring_shadow, ring_modRing_ne _ _ _ _ h2, ring_modRing_ne _ _ _ _ h1]
  have xout : x.d.out = .hostWrite (w.d.ring r).shadow (toLe 4 (u32 ((w.d.ring r).head + 1)) ++ toLe 4 0) :: w.d.out := by
    rw [hx]
    show Out.hostWrite ((W.modRing _ _ _).d.ring r).shadow (toLe 4 ((W.modRing _ _ _).d.ring r).head ++ toLe 4 0) :: w.d.out = _
    rw [ring_modRing_ne _ _ _ _ hq', ring_modRing]
  have xd : x.d = { w.d with rings := x.d.rings, out := x.d.out } := by rw [hx]; rfl
  have xb : x.base = w.base ∧ x.ops = w.ops := by rw [hx]; exact ⟨rfl, rfl⟩
  clear_value x
  unfold W.complete
  simp only [xr, xq]
  set y := (x.modRing r fun R => { R with desc := none }).modRing (w.d.ring r).cq fun Q => { Q with reserved := Q.reserved - 1 } with hy
  have yr : y.d.ring r = { w.d.ring r with
      head := u32 ((w.d.ring r).head + 1), seq := (w.d.ring r).seq + 1, batch := (w.d.ring r).batch.tail, desc := none } := by
    rw [hy, ring_modRing_ne _ _ _ _ hq', ring_modRing, xr]
  have yq : y.d.ring (w.d.ring r).cq = w.d.ring (w.d.ring r).cq := by
    rw [hy, ring_modRing, ring_modRing_ne _ _ _ _ hq, xq]; simp
  have yo : ∀ i, i ≠ r → i ≠ (w.d.ring r).cq → y.d.ring i = w.d.ring i := by
    intro i h1 h2
    rw [hy, ring_modRing_ne _ _ _ _ h2, ring_modRing_ne _ _ _ _ h1, xo i h1 h2]
  have yout : y.d.out = x.d.out := by rw [hy]; rfl
  have yd : y.d = { w.d with rings := y.d.rings, out := y.d.out } := by
    rw [hy]; show ({ x.d with rings := _ } : Dev) = _
    conv_lhs => rw [xd]
    rfl
  have yb : y.base = w.base ∧ y.ops = w.ops := by rw [hy]; exact xb
  clear_value y
  split
  · rename_i hc
    simp only [Bool.and_eq_true, beq_iff_eq] at hc
    refine ⟨⟨yr, ?_, fun h => absurd hc h, fun _ _ => yq, ?_, yo, ?_, ?_⟩, yb.1, yb.2⟩
    · rw [yout, xout]; simp
    · rw [yq]
    · rw [yout, xout]; exact List.suffix_cons _ _
    · rw [yd]
  · rename_i hc
    simp only [Bool.and_eq_true, beq_iff_eq] at hc
    set z := (y.emit (.hostWrite ((w.d.ring (w.d.ring r).cq).entryAddr (w.d.ring (w.d.ring r).cq).tail)
      (recordBytes r (w.d.ring r).size { bytes := e, seq := (w.d.ring r).seq } ((w.d.ring (w.d.ring r).cq).phase (w.d.ring (w.d.ring r).cq).tail) c))).modRing
      (w.d.ring r).cq fun Q => { Q with tail := u32 (Q.tail + 1), since := Q.since + 1 } with hz
    have zr : z.d.ring r = y.d.ring r := by rw [hz, ring_modRing_ne _ _ _ _ hq']; rfl
    have zq : z.d.ring (w.d.ring r).cq = { w.d.ring (w.d.ring r).cq with
        tail := u32 ((w.d.ring (w.d.ring r).cq).tail + 1), since := (w.d.ring (w.d.ring r).cq).since + 1 } := by
      rw [hz, ring_modRing]; show _ = _; rw [show (W.emit y _).d.ring (w.d.ring r).cq = y.d.ring (w.d.ring r).cq from rfl, yq]
    have zo : ∀ i, i ≠ r → i ≠ (w.d.ring r).cq → z.d.ring i = w.d.ring i := by
      intro i h1 h2; rw [hz, ring_modRing_ne _ _ _ _ h2]; exact yo i h1 h2
    have zout : z.d.out = .hostWrite ((w.d.ring (w.d.ring r).cq).entryAddr (w.d.ring (w.d.ring r).cq).tail)
      (recordBytes r (w.d.ring r).size { bytes := e, seq := (w.d.ring r).seq } ((w.d.ring (w.d.ring r).cq).phase (w.d.ring (w.d.ring r).cq).tail) c) :: y.d.out := by
      rw [hz]; rfl
    have zd : z.d = { w.d with rings := z.d.rings, out := z.d.out } := by
      rw [hz]; show ({ y.d with rings := _, out := _ } : Dev) = _
      conv_lhs => rw [yd]
      rfl
    have zb : z.base = w.base ∧ z.ops = w.ops := by rw [hz]; exact yb
    have key : ∀ v : W, v.base = z.base → v.ops = z.ops →
        v.d = { z.d with rings := v.d.rings, hub := { z.d.hub with vecs := v.d.hub.vecs }, out := v.d.out } →
        (∀ i, i ≠ (w.d.ring r).cq → v.d.ring i = z.d.ring i) →
        v.d.ring (w.d.ring r).cq = { z.d.ring (w.d.ring r).cq with since := (v.d.ring (w.d.ring r).cq).since } → z.d.out <:+ v.d.out →
        Completes w.d v.d r e c ∧ v.base = w.base ∧ v.ops = w.ops := by
      intro v h1 h2 h3 h4 h5 h6
      refine ⟨⟨?_, ?_, fun _ => ⟨?_, ?_⟩, fun a b => absurd ⟨a, b⟩ hc, ?_, ?_, ?_, ?_⟩, h1.trans zb.1, h2.trans zb.2⟩
      · rw [h4 r hq', zr, yr]
      · refine h6.subset ?_; rw [zout, yout, xout]; simp
      · refine h6.subset ?_; rw [zout]; simp
      · rw [h5, zq]
      · rw [h5, zq]
      · intro i a b; rw [h4 i b, zo i a b]
      · refine List.IsSuffix.trans ?_ h6
        rw [zout, yout, xout]
        exact (List.suffix_cons _ _).trans (List.suffix_cons _ _)
      · rw [h3, zd]
    split
    · obtain ⟨h1, h2, h3, h4, h5, h6⟩ := raiseRing_spec z (w.d.ring r).cq
      exact key _ h1 h2 h3 h4 h5 h6
    · exact key z rfl rfl rfl (fun _ _ => rfl) rfl (List.suffix_refl _)

/-- Taking the entry that a command is for. -/
theorem takeFor_eq {s : State} {r : Nat} {e : Bytes} (h : Takes s r e) (want layout : Bytes → Bool) (f : W → Bytes → W) (hw : want e = true) :
    s.w.takeFor r want layout f = match s.dev.descRefused r e (layout e) with
      | some st => ((s.w.take r).completeSt r st).settle
      | none => (f (s.w.take r) e).settle := by
  unfold W.takeFor
  have : s.w.d.takeable r = some e := h.able
  rw [this]
  simp only [hw] <;> rfl

/-- An entry taken and completed at once, with an effect `g` on parts that taking does not touch. -/
theorem ends_of {s : State} {r : Nat} {e : Bytes} {cmd : Instr} {b : Dev} {c : Compl} (h : Takes s r e) (g : W → W)
    (hb : (g s.w).d = b) (hg : (g s.w).ops = []) (hbase : (g s.w).base = s.mem) (hr : b.rings = s.dev.rings)
    (hx : exec cmd s = .next (s.commit (((g s.w).take r).complete r c).settle)) : Ends cmd s b s.mem r e c := by
  obtain ⟨h1, -, -, -, h5, -⟩ := takes_ring h
  have e1 : ∀ i, b.ring i = s.dev.ring i := fun i => by unfold Dev.ring; rw [hr]
  have e2 : ∀ i, (g s.w).d.ring i = s.dev.ring i := fun i => by rw [hb]; exact e1 i
  obtain ⟨k1, k2, k3⟩ := completes_taken (g s.w) r e c (by rw [e2]; exact h1) (by rw [e2]; exact h5)
  refine ⟨(((g s.w).take r).complete r c).d, _, hx, ?_, ?_⟩
  · exact hb ▸ k1
  · have := becomes_settle s (((g s.w).take r).complete r c)
    rw [k3, hg] at this
    exact this

theorem passes_none {s : State} {r : Nat} {e : Bytes} {l : Bool} (h : Passes s r e l) : s.dev.descRefused r e l = none := by
  obtain ⟨h1, h2, h3⟩ := h
  simp [Dev.descRefused, h1, h2, h3]

/-- An entry that passes R208 is taken and goes to the command's own work. -/
theorem run_take {s : State} {r : Nat} {e : Bytes} (h : Takes s r e) (want layout : Bytes → Bool) (f : W → Bytes → W) (hw : want e = true) (hp : Passes s r e (layout e)) :
    s.run (fun w => w.takeFor r want layout f) = .next (s.commit (f (s.w.take r) e).settle) := by
  show Host.Outcome.next (s.commit (s.w.takeFor r want layout f)) = _
  rw [takeFor_eq h _ _ _ hw, passes_none hp]

theorem take_rest {s : State} {r : Nat} {e : Bytes} (h : Takes s r e) : (s.w.take r).d = { s.dev with rings := (s.w.take r).d.rings, out := (s.w.take r).d.out } ∧ (s.w.take r).ops = [] ∧ ((s.w.take r).d.ring r).owner = (s.dev.ring r).owner := by
  obtain ⟨h1, -, -, -, h5, -⟩ := takes_ring h
  rw [take_eq s.w r e false h1]
  refine ⟨rfl, rfl, ?_⟩
  rw [ring_shadow]
  refine (congrArg Ring.owner (ring_modRing_ne _ _ _ _ fun h => h5 h.symm)).trans ?_
  rw [ring_modRing]
  rfl

/-- A command whose work ends with the scheduler's. -/
theorem runs_settle {s : State} {c : Instr} {w : W} (h : exec c s = .next (s.commit w.settle)) : Runs c s w := ⟨_, h, becomes_settle s w⟩


end Sys2Proof.Laws
end

