-- ==== Sys2Proof/Laws/Mem.lean ====
section
/-! SUPPORT. The memory operations keep the canonical form, and what a byte reads as after each of them. -/

namespace Sys2Proof.Laws

open Sys2Proof.Machine

theorem wfFrom_mono {m : Mem} {a b : Nat} (h : Mem.wfFrom b m = true) (hab : a ≤ b) : Mem.wfFrom a m = true := by
  cases m with
  | nil => rfl
  | cons x t =>
    obtain ⟨k, v⟩ := x
    simp only [Mem.wfFrom, Bool.and_eq_true, decide_eq_true_eq] at h ⊢
    exact ⟨⟨by omega, h.1.2⟩, h.2⟩

/-- Entries of a list in canonical form from `lo` on stand at or above `lo`. -/
theorem wfFrom_le {m : Mem} {lo : Nat} (h : Mem.wfFrom lo m = true) : ∀ c ∈ m, lo ≤ c.1 := by
  induction m generalizing lo with
  | nil => simp
  | cons x t ih =>
    obtain ⟨k, v⟩ := x
    simp only [Mem.wfFrom, Bool.and_eq_true, decide_eq_true_eq] at h
    intro c hc
    rcases List.mem_cons.1 hc with rfl | hc
    · exact h.1.1
    · have := ih h.2 c hc; omega

theorem wfFrom_filter (p : Host.Cell → Bool) {m : Mem} {lo : Nat} (h : Mem.wfFrom lo m = true) : Mem.wfFrom lo (m.filter p) = true := by
  induction m generalizing lo with
  | nil => rfl
  | cons x t ih =>
    obtain ⟨k, v⟩ := x
    simp only [Mem.wfFrom, Bool.and_eq_true, decide_eq_true_eq] at h
    by_cases hp : p (k, v) = true
    · simp only [List.filter_cons_of_pos hp, Mem.wfFrom, Bool.and_eq_true, decide_eq_true_eq]
      exact ⟨h.1, ih h.2⟩
    · rw [List.filter_cons_of_neg hp]
      exact wfFrom_mono (ih h.2) (by omega)

theorem wfFrom_filter_ge {m : Mem} {lo : Nat} (b : Nat) (h : Mem.wfFrom lo m = true) :
    Mem.wfFrom b (m.filter fun c => decide (b ≤ c.1)) = true := by
  induction m generalizing lo with
  | nil => rfl
  | cons x t ih =>
    obtain ⟨k, v⟩ := x
    simp only [Mem.wfFrom, Bool.and_eq_true, decide_eq_true_eq] at h
    by_cases hp : b ≤ k
    · rw [List.filter_cons, if_pos (by simpa using hp)]
      simp only [Mem.wfFrom, Bool.and_eq_true, decide_eq_true_eq]
      exact ⟨⟨hp, h.1.2⟩, wfFrom_filter _ h.2⟩
    · rw [List.filter_cons, if_neg (by simpa using hp)]
      exact ih h.2

/-- Two lists in canonical form, the second from a bound that the first stays below, make one. -/
theorem wfFrom_append {m n : Mem} {lo hi : Nat} (hm : Mem.wfFrom lo m = true) (hn : Mem.wfFrom hi n = true) (hlo : lo ≤ hi)
    (hlt : ∀ c ∈ m, c.1 < hi) : Mem.wfFrom lo (m ++ n) = true := by
  induction m generalizing lo with
  | nil => exact wfFrom_mono hn hlo
  | cons x t ih =>
    obtain ⟨k, v⟩ := x
    simp only [Mem.wfFrom, Bool.and_eq_true, decide_eq_true_eq, List.cons_append] at hm ⊢
    refine ⟨hm.1, ih hm.2 ?_ fun c hc => hlt c (List.mem_cons_of_mem _ hc)⟩
    have := hlt (k, v) (by simp)
    simp only at this
    omega

theorem cells_wf (a : Nat) (bs : Bytes) : Mem.wfFrom a (cells a bs) = true := by
  induction bs generalizing a with
  | nil => rfl
  | cons b bs ih =>
    simp only [cells]
    split
    · exact wfFrom_mono (ih (a + 1)) (by omega)
    · rename_i h
      simp only [Mem.wfFrom, Bool.and_eq_true, decide_eq_true_eq]
      exact ⟨⟨by omega, by simpa using h⟩, ih (a + 1)⟩

theorem cells_lt (a : Nat) (bs : Bytes) : ∀ c ∈ cells a bs, c.1 < a + bs.length := by
  induction bs generalizing a with
  | nil => simp [cells]
  | cons b bs ih =>
    intro c hc
    simp only [cells] at hc
    simp only [List.length_cons]
    split at hc
    · have := ih (a + 1) c hc; omega
    · rcases List.mem_cons.1 hc with rfl | hc
      · simp only; omega
      · have := ih (a + 1) c hc; omega

/-- Cells moved from `[s, s + n)` to `[d, d + n)` keep the canonical form. -/
theorem moved_wf (d s n : Nat) {m : Mem} {lo : Nat} (h : Mem.wfFrom lo m = true) :
    Mem.wfFrom (d + (lo - s)) ((m.filter fun c => decide (s ≤ c.1 ∧ c.1 < s + n)).map fun c => (d + (c.1 - s), c.2)) = true := by
  induction m generalizing lo with
  | nil => rfl
  | cons x t ih =>
    obtain ⟨k, v⟩ := x
    simp only [Mem.wfFrom, Bool.and_eq_true, decide_eq_true_eq] at h
    by_cases hp : s ≤ k ∧ k < s + n
    · rw [List.filter_cons, if_pos (by simpa using hp)]
      simp only [List.map_cons, Mem.wfFrom, Bool.and_eq_true, decide_eq_true_eq]
      refine ⟨⟨by omega, h.1.2⟩, wfFrom_mono (ih h.2) (by omega)⟩
    · rw [List.filter_cons, if_neg (by simpa using hp)]
      exact wfFrom_mono (ih h.2) (by omega)

theorem splice_wf {m : Mem} (a n : Nat) (cs : Mem) (h : m.wf = true) (hc : Mem.wfFrom a cs = true) (hlt : ∀ c ∈ cs, c.1 < a + n) :
    (m.splice a n cs).wf = true := by
  unfold Mem.wf Mem.splice
  rw [List.append_assoc]
  refine wfFrom_append (hi := a) (wfFrom_filter _ h) ?_ (by omega) ?_
  · exact wfFrom_append (hi := a + n) hc (wfFrom_filter_ge _ h) (by omega) hlt
  · intro c hc
    simpa using (List.mem_filter.1 hc).2

/-- Every memory operation keeps the canonical form. -/
theorem apply_wf {m : Mem} (op : MemOp) (h : m.wf = true) : (m.apply op).wf = true := by
  cases op with
  | write a bs => exact splice_wf a bs.length _ h (cells_wf a bs) (cells_lt a bs)
  | zero a n => exact splice_wf a n _ h rfl (by simp)
  | copy d s n =>
    refine splice_wf d n _ h (wfFrom_mono (moved_wf d s n (lo := 0) h) (by omega)) ?_
    intro c hc
    obtain ⟨x, hx, rfl⟩ := List.mem_map.1 hc
    have := (List.mem_filter.1 hx).2
    simp only [decide_eq_true_eq] at this
    simp only
    omega

theorem applyAll_wf {m : Mem} (ops : List MemOp) (h : m.wf = true) : (m.applyAll ops).wf = true := by
  unfold Mem.applyAll
  induction ops generalizing m with
  | nil => exact h
  | cons o ops ih => exact ih (apply_wf o h)

/-! ## Reading a byte -/

theorem tget_below {m : Mem} {lo x : Nat} (h : Mem.wfFrom lo m = true) (hx : x < lo) : tget 0 m x = 0 := by
  cases m with
  | nil => rfl
  | cons c t =>
    obtain ⟨k, v⟩ := c
    simp only [Mem.wfFrom, Bool.and_eq_true, decide_eq_true_eq] at h
    have h1 : ¬ k = x := by omega
    have h2 : x < k := by omega
    simp [tget, h1, h2]

theorem tget_absent {m : Mem} {x : Nat} (h : ∀ c ∈ m, c.1 ≠ x) : tget 0 m x = 0 := by
  induction m with
  | nil => rfl
  | cons c t ih =>
    obtain ⟨k, v⟩ := c
    have hk : ¬ k = x := h (k, v) (by simp)
    simp only [tget, hk, if_false]
    split
    · rfl
    · exact ih fun c hc => h c (List.mem_cons_of_mem _ hc)

theorem tget_append_left {m n : Mem} {hi x : Nat} (hn : ∀ c ∈ n, hi ≤ c.1) (hx : x < hi) : tget 0 (m ++ n) x = tget 0 m x := by
  induction m with
  | nil => exact tget_absent fun c hc => by have := hn c hc; omega
  | cons c t ih =>
    obtain ⟨k, v⟩ := c
    simp only [List.cons_append, tget, ih]

theorem tget_append_right {m n : Mem} {lo x : Nat} (hm : ∀ c ∈ m, c.1 < lo) (hx : lo ≤ x) : tget 0 (m ++ n) x = tget 0 n x := by
  induction m with
  | nil => rfl
  | cons c t ih =>
    obtain ⟨k, v⟩ := c
    have hk : k < lo := hm (k, v) (by simp)
    have h1 : ¬ k = x := by omega
    have h2 : ¬ x < k := by omega
    simp only [List.cons_append, tget, h1, h2, if_false]
    exact ih fun c hc => hm c (List.mem_cons_of_mem _ hc)

theorem tget_filter {m : Mem} {lo x : Nat} (p : Host.Cell → Bool) (h : Mem.wfFrom lo m = true) (hp : ∀ v, p (x, v) = true) :
    tget 0 (m.filter p) x = tget 0 m x := by
  induction m generalizing lo with
  | nil => rfl
  | cons c t ih =>
    obtain ⟨k, v⟩ := c
    simp only [Mem.wfFrom, Bool.and_eq_true, decide_eq_true_eq] at h
    by_cases hk : k = x
    · subst hk; simp [List.filter_cons_of_pos (hp v), tget]
    · by_cases hl : x < k
      · rw [tget_absent (m := List.filter p ((k, v) :: t))]
        · simp [tget, hk, hl]
        · intro c hc
          rcases List.mem_cons.1 (List.mem_filter.1 hc).1 with rfl | hc
          · exact hk
          · have := wfFrom_le h.2 c hc; omega
      · simp only [tget, hk, hl, if_false]
        rw [← ih h.2]
        by_cases hq : p (k, v) = true
        · rw [List.filter_cons_of_pos hq]; simp [tget, hk, hl]
        · rw [List.filter_cons_of_neg hq]

/-- A byte outside a splice reads as before; inside, as the spliced cells say. -/
theorem byte_splice {m : Mem} (a n : Nat) (cs : Mem) (x : Nat) (h : m.wf = true) (hc : ∀ c ∈ cs, a ≤ c.1 ∧ c.1 < a + n) :
    (m.splice a n cs).byte x = if a ≤ x ∧ x < a + n then tget 0 cs x else m.byte x := by
  unfold Mem.byte Mem.splice
  have hlow : ∀ c ∈ m.filter fun c => decide (c.1 < a), c.1 < a := fun c hc => by simpa using (List.mem_filter.1 hc).2
  have hhigh : ∀ c ∈ m.filter fun c => decide (a + n ≤ c.1), a + n ≤ c.1 := fun c hc => by simpa using (List.mem_filter.1 hc).2
  rw [List.append_assoc]
  by_cases h1 : x < a
  · rw [if_neg (by omega), tget_append_left (hi := a) _ h1]
    · exact tget_filter _ h fun v => by simpa using h1
    · intro c hc'
      rcases List.mem_append.1 hc' with hc' | hc'
      · exact (hc c hc').1
      · have := hhigh c hc'; omega
  · rw [tget_append_right (lo := a) hlow (by omega)]
    by_cases h2 : x < a + n
    · rw [if_pos ⟨by omega, h2⟩, tget_append_left (hi := a + n) hhigh h2]
    · rw [if_neg (by omega), tget_append_right (lo := a + n) (fun c hc' => (hc c hc').2) (by omega)]
      exact tget_filter _ h fun v => by simpa using (by omega : a + n ≤ x)

theorem tget_cells (a : Nat) (bs : Bytes) (i : Nat) (h : i < bs.length) : tget 0 (cells a bs) (a + i) = bs[i] := by
  induction bs generalizing a i with
  | nil => simp at h
  | cons b bs ih =>
    cases i with
    | zero =>
      simp only [cells, Nat.add_zero, List.getElem_cons_zero]
      split
      · rename_i hb
        rw [hb]
        exact tget_below (cells_wf (a + 1) bs) (by omega)
      · simp [tget]
    | succ i =>
      have hi : i < bs.length := by simpa using h
      have e : a + (i + 1) = (a + 1) + i := by omega
      simp only [cells, List.getElem_cons_succ]
      split
      · rw [e]; exact ih (a + 1) i hi
      · have h1 : ¬ a = a + (i + 1) := by omega
        have h2 : ¬ a + (i + 1) < a := by omega
        simp only [tget, h1, h2, if_false]
        rw [e]; exact ih (a + 1) i hi

theorem cells_ge (a : Nat) (bs : Bytes) : ∀ c ∈ cells a bs, a ≤ c.1 := wfFrom_le (cells_wf a bs)

/-- A byte of a write reads as the byte written. -/
theorem byte_write_in {m : Mem} (a : Nat) (bs : Bytes) (i : Nat) (h : m.wf = true) (hi : i < bs.length) :
    (m.apply (.write a bs)).byte (a + i) = bs[i] := by
  rw [Mem.apply, byte_splice a bs.length _ _ h fun c hc => ⟨cells_ge a bs c hc, cells_lt a bs c hc⟩, if_pos ⟨by omega, by omega⟩]
  exact tget_cells a bs i hi

/-- A byte outside a write reads as before. -/
theorem byte_write_out {m : Mem} (a : Nat) (bs : Bytes) (x : Nat) (h : m.wf = true) (hx : x < a ∨ a + bs.length ≤ x) :
    (m.apply (.write a bs)).byte x = m.byte x := by
  rw [Mem.apply, byte_splice a bs.length _ _ h fun c hc => ⟨cells_ge a bs c hc, cells_lt a bs c hc⟩, if_neg (by omega)]

theorem byte_zero {m : Mem} (a n x : Nat) (h : m.wf = true) :
    (m.apply (.zero a n)).byte x = if a ≤ x ∧ x < a + n then 0 else m.byte x := by
  rw [Mem.apply, byte_splice a n _ _ h (by simp)]; rfl

/-- Reading `n` bytes reads each of them. -/
theorem readFrom_length (m : Mem) (a n : Nat) : (Mem.readFrom m a n).length = n := by
  induction n generalizing m a with
  | zero => cases m <;> rfl
  | succ n ih =>
    cases m with
    | nil => simp [Mem.readFrom, ih]
    | cons c t =>
      obtain ⟨k, v⟩ := c
      simp only [Mem.readFrom]
      split <;> simp [ih]

theorem read_length (m : Mem) (a n : Nat) : (m.read a n).length = n := readFrom_length _ _ _

theorem readFrom_get {m : Mem} (a n i : Nat) (h : Mem.wfFrom a m = true) (hi : i < n) :
    (Mem.readFrom m a n)[i]'(by rw [readFrom_length]; exact hi) = tget 0 m (a + i) := by
  induction n generalizing m a i with
  | zero => omega
  | succ n ih =>
    cases m with
    | nil =>
      cases i with
      | zero => simp [Mem.readFrom, tget]
      | succ i =>
        simp only [Mem.readFrom, List.getElem_cons_succ]
        rw [ih (m := []) (a + 1) i rfl (by omega)]; rfl
    | cons c t =>
      obtain ⟨k, v⟩ := c
      simp only [Mem.wfFrom, Bool.and_eq_true, decide_eq_true_eq] at h
      by_cases hk : k = a
      · subst hk
        cases i with
        | zero => simp [Mem.readFrom, tget]
        | succ i =>
          have h1 : ¬ k = k + (i + 1) := by omega
          have h2 : ¬ k + (i + 1) < k := by omega
          simp only [Mem.readFrom, if_true, List.getElem_cons_succ, tget, h1, h2, if_false]
          rw [ih (k + 1) i h.2 (by omega)]
          congr 1; omega
      · cases i with
        | zero =>
          have h2 : a < k := by omega
          simp [Mem.readFrom, hk, tget, h2]
        | succ i =>
          simp only [Mem.readFrom, hk, if_false, List.getElem_cons_succ]
          rw [ih (a + 1) i (by simp only [Mem.wfFrom, Bool.and_eq_true, decide_eq_true_eq]; exact ⟨⟨by omega, h.1.2⟩, h.2⟩) (by omega)]
          congr 1; omega

/-- The `i`-th byte read from `a` is the byte at `a + i`. -/
theorem read_get {m : Mem} (a n i : Nat) (h : m.wf = true) (hi : i < n) :
    (m.read a n)[i]'(by rw [read_length]; exact hi) = m.byte (a + i) := by
  simp only [Mem.read]
  rw [readFrom_get a n i (wfFrom_filter_ge a h) hi]
  exact tget_filter _ h fun v => by simp

end Sys2Proof.Laws
end

