-- ==== Sys2Proof/Laws/Parts.lean ====
section
/-! SUPPORT. What the updates of a part of the state leave as it was, and what they set: service parts, ports, connections, self-test slots, error counters, host reads. -/

namespace Sys2Proof.Laws

open Sys2Proof.Machine

/-! ## modSvc -/

@[simp] theorem modSvc_base (w : W) (p : Nat) (f : Svc → Svc) : (w.modSvc p f).base = w.base := rfl
@[simp] theorem modSvc_ops (w : W) (p : Nat) (f : Svc → Svc) : (w.modSvc p f).ops = w.ops := rfl
@[simp] theorem modSvc_variant (w : W) (p : Nat) (f : Svc → Svc) : (w.modSvc p f).d.variant = w.d.variant := rfl
@[simp] theorem modSvc_aon (w : W) (p : Nat) (f : Svc → Svc) : (w.modSvc p f).d.aon = w.d.aon := rfl
@[simp] theorem modSvc_sec (w : W) (p : Nat) (f : Svc → Svc) : (w.modSvc p f).d.sec = w.d.sec := rfl
@[simp] theorem modSvc_hub (w : W) (p : Nat) (f : Svc → Svc) : (w.modSvc p f).d.hub = w.d.hub := rfl
@[simp] theorem modSvc_rings (w : W) (p : Nat) (f : Svc → Svc) : (w.modSvc p f).d.rings = w.d.rings := rfl
@[simp] theorem modSvc_chans (w : W) (p : Nat) (f : Svc → Svc) : (w.modSvc p f).d.chans = w.d.chans := rfl
@[simp] theorem modSvc_sluices (w : W) (p : Nat) (f : Svc → Svc) : (w.modSvc p f).d.sluices = w.d.sluices := rfl
@[simp] theorem modSvc_grants (w : W) (p : Nat) (f : Svc → Svc) : (w.modSvc p f).d.grants = w.d.grants := rfl
@[simp] theorem modSvc_ctxs (w : W) (p : Nat) (f : Svc → Svc) : (w.modSvc p f).d.ctxs = w.d.ctxs := rfl
@[simp] theorem modSvc_pols (w : W) (p : Nat) (f : Svc → Svc) : (w.modSvc p f).d.pols = tmod {} w.d.pols p fun P => { P with svc := f P.svc } := rfl
@[simp] theorem modSvc_dies (w : W) (p : Nat) (f : Svc → Svc) : (w.modSvc p f).d.dies = w.d.dies := rfl
@[simp] theorem modSvc_banks (w : W) (p : Nat) (f : Svc → Svc) : (w.modSvc p f).d.banks = w.d.banks := rfl
@[simp] theorem modSvc_evids (w : W) (p : Nat) (f : Svc → Svc) : (w.modSvc p f).d.evids = w.d.evids := rfl
@[simp] theorem modSvc_fabric (w : W) (p : Nat) (f : Svc → Svc) : (w.modSvc p f).d.fabric = w.d.fabric := rfl
@[simp] theorem modSvc_power (w : W) (p : Nat) (f : Svc → Svc) : (w.modSvc p f).d.power = w.d.power := rfl
@[simp] theorem modSvc_bist (w : W) (p : Nat) (f : Svc → Svc) : (w.modSvc p f).d.bist = w.d.bist := rfl
@[simp] theorem modSvc_sealEpoch (w : W) (p : Nat) (f : Svc → Svc) : (w.modSvc p f).d.sealEpoch = w.d.sealEpoch := rfl
@[simp] theorem modSvc_freeCtr (w : W) (p : Nat) (f : Svc → Svc) : (w.modSvc p f).d.freeCtr = w.d.freeCtr := rfl
@[simp] theorem modSvc_out (w : W) (p : Nat) (f : Svc → Svc) : (w.modSvc p f).d.out = w.d.out := rfl

/-! ## modPort -/

@[simp] theorem modPort_base (w : W) (n : Nat) (f : Port → Port) : (w.modPort n f).base = w.base := rfl
@[simp] theorem modPort_ops (w : W) (n : Nat) (f : Port → Port) : (w.modPort n f).ops = w.ops := rfl
@[simp] theorem modPort_variant (w : W) (n : Nat) (f : Port → Port) : (w.modPort n f).d.variant = w.d.variant := rfl
@[simp] theorem modPort_aon (w : W) (n : Nat) (f : Port → Port) : (w.modPort n f).d.aon = w.d.aon := rfl
@[simp] theorem modPort_sec (w : W) (n : Nat) (f : Port → Port) : (w.modPort n f).d.sec = w.d.sec := rfl
@[simp] theorem modPort_hub (w : W) (n : Nat) (f : Port → Port) : (w.modPort n f).d.hub = w.d.hub := rfl
@[simp] theorem modPort_rings (w : W) (n : Nat) (f : Port → Port) : (w.modPort n f).d.rings = w.d.rings := rfl
@[simp] theorem modPort_chans (w : W) (n : Nat) (f : Port → Port) : (w.modPort n f).d.chans = w.d.chans := rfl
@[simp] theorem modPort_sluices (w : W) (n : Nat) (f : Port → Port) : (w.modPort n f).d.sluices = w.d.sluices := rfl
@[simp] theorem modPort_grants (w : W) (n : Nat) (f : Port → Port) : (w.modPort n f).d.grants = w.d.grants := rfl
@[simp] theorem modPort_ctxs (w : W) (n : Nat) (f : Port → Port) : (w.modPort n f).d.ctxs = w.d.ctxs := rfl
@[simp] theorem modPort_pols (w : W) (n : Nat) (f : Port → Port) : (w.modPort n f).d.pols = w.d.pols := rfl
@[simp] theorem modPort_dies (w : W) (n : Nat) (f : Port → Port) : (w.modPort n f).d.dies = w.d.dies := rfl
@[simp] theorem modPort_banks (w : W) (n : Nat) (f : Port → Port) : (w.modPort n f).d.banks = w.d.banks := rfl
@[simp] theorem modPort_evids (w : W) (n : Nat) (f : Port → Port) : (w.modPort n f).d.evids = w.d.evids := rfl
@[simp] theorem modPort_fabric (w : W) (n : Nat) (f : Port → Port) : (w.modPort n f).d.fabric = { w.d.fabric with ports := tmod {} w.d.fabric.ports n f } := rfl
@[simp] theorem modPort_power (w : W) (n : Nat) (f : Port → Port) : (w.modPort n f).d.power = w.d.power := rfl
@[simp] theorem modPort_bist (w : W) (n : Nat) (f : Port → Port) : (w.modPort n f).d.bist = w.d.bist := rfl
@[simp] theorem modPort_sealEpoch (w : W) (n : Nat) (f : Port → Port) : (w.modPort n f).d.sealEpoch = w.d.sealEpoch := rfl
@[simp] theorem modPort_freeCtr (w : W) (n : Nat) (f : Port → Port) : (w.modPort n f).d.freeCtr = w.d.freeCtr := rfl
@[simp] theorem modPort_out (w : W) (n : Nat) (f : Port → Port) : (w.modPort n f).d.out = w.d.out := rfl

/-! ## modConn -/

@[simp] theorem modConn_base (w : W) (l c k : Nat) (f : Conn → Conn) : (w.modConn l c k f).base = w.base := rfl
@[simp] theorem modConn_ops (w : W) (l c k : Nat) (f : Conn → Conn) : (w.modConn l c k f).ops = w.ops := rfl
@[simp] theorem modConn_variant (w : W) (l c k : Nat) (f : Conn → Conn) : (w.modConn l c k f).d.variant = w.d.variant := rfl
@[simp] theorem modConn_aon (w : W) (l c k : Nat) (f : Conn → Conn) : (w.modConn l c k f).d.aon = w.d.aon := rfl
@[simp] theorem modConn_sec (w : W) (l c k : Nat) (f : Conn → Conn) : (w.modConn l c k f).d.sec = w.d.sec := rfl
@[simp] theorem modConn_hub (w : W) (l c k : Nat) (f : Conn → Conn) : (w.modConn l c k f).d.hub = w.d.hub := rfl
@[simp] theorem modConn_rings (w : W) (l c k : Nat) (f : Conn → Conn) : (w.modConn l c k f).d.rings = w.d.rings := rfl
@[simp] theorem modConn_chans (w : W) (l c k : Nat) (f : Conn → Conn) : (w.modConn l c k f).d.chans = w.d.chans := rfl
@[simp] theorem modConn_sluices (w : W) (l c k : Nat) (f : Conn → Conn) : (w.modConn l c k f).d.sluices = w.d.sluices := rfl
@[simp] theorem modConn_grants (w : W) (l c k : Nat) (f : Conn → Conn) : (w.modConn l c k f).d.grants = w.d.grants := rfl
@[simp] theorem modConn_ctxs (w : W) (l c k : Nat) (f : Conn → Conn) : (w.modConn l c k f).d.ctxs = w.d.ctxs := rfl
@[simp] theorem modConn_pols (w : W) (l c k : Nat) (f : Conn → Conn) : (w.modConn l c k f).d.pols = w.d.pols := rfl
@[simp] theorem modConn_dies (w : W) (l c k : Nat) (f : Conn → Conn) : (w.modConn l c k f).d.dies = w.d.dies := rfl
@[simp] theorem modConn_banks (w : W) (l c k : Nat) (f : Conn → Conn) : (w.modConn l c k f).d.banks = w.d.banks := rfl
@[simp] theorem modConn_evids (w : W) (l c k : Nat) (f : Conn → Conn) : (w.modConn l c k f).d.evids = w.d.evids := rfl
@[simp] theorem modConn_fabric (w : W) (l c k : Nat) (f : Conn → Conn) : (w.modConn l c k f).d.fabric = { w.d.fabric with conns := tmod {} w.d.fabric.conns (connKey l c k) f } := rfl
@[simp] theorem modConn_power (w : W) (l c k : Nat) (f : Conn → Conn) : (w.modConn l c k f).d.power = w.d.power := rfl
@[simp] theorem modConn_bist (w : W) (l c k : Nat) (f : Conn → Conn) : (w.modConn l c k f).d.bist = w.d.bist := rfl
@[simp] theorem modConn_sealEpoch (w : W) (l c k : Nat) (f : Conn → Conn) : (w.modConn l c k f).d.sealEpoch = w.d.sealEpoch := rfl
@[simp] theorem modConn_freeCtr (w : W) (l c k : Nat) (f : Conn → Conn) : (w.modConn l c k f).d.freeCtr = w.d.freeCtr := rfl
@[simp] theorem modConn_out (w : W) (l c k : Nat) (f : Conn → Conn) : (w.modConn l c k f).d.out = w.d.out := rfl

/-! ## modSlot -/

@[simp] theorem modSlot_base (w : W) (n : Nat) (f : Slot → Slot) : (w.modSlot n f).base = w.base := rfl
@[simp] theorem modSlot_ops (w : W) (n : Nat) (f : Slot → Slot) : (w.modSlot n f).ops = w.ops := rfl
@[simp] theorem modSlot_variant (w : W) (n : Nat) (f : Slot → Slot) : (w.modSlot n f).d.variant = w.d.variant := rfl
@[simp] theorem modSlot_aon (w : W) (n : Nat) (f : Slot → Slot) : (w.modSlot n f).d.aon = w.d.aon := rfl
@[simp] theorem modSlot_sec (w : W) (n : Nat) (f : Slot → Slot) : (w.modSlot n f).d.sec = w.d.sec := rfl
@[simp] theorem modSlot_hub (w : W) (n : Nat) (f : Slot → Slot) : (w.modSlot n f).d.hub = w.d.hub := rfl
@[simp] theorem modSlot_rings (w : W) (n : Nat) (f : Slot → Slot) : (w.modSlot n f).d.rings = w.d.rings := rfl
@[simp] theorem modSlot_chans (w : W) (n : Nat) (f : Slot → Slot) : (w.modSlot n f).d.chans = w.d.chans := rfl
@[simp] theorem modSlot_sluices (w : W) (n : Nat) (f : Slot → Slot) : (w.modSlot n f).d.sluices = w.d.sluices := rfl
@[simp] theorem modSlot_grants (w : W) (n : Nat) (f : Slot → Slot) : (w.modSlot n f).d.grants = w.d.grants := rfl
@[simp] theorem modSlot_ctxs (w : W) (n : Nat) (f : Slot → Slot) : (w.modSlot n f).d.ctxs = w.d.ctxs := rfl
@[simp] theorem modSlot_pols (w : W) (n : Nat) (f : Slot → Slot) : (w.modSlot n f).d.pols = w.d.pols := rfl
@[simp] theorem modSlot_dies (w : W) (n : Nat) (f : Slot → Slot) : (w.modSlot n f).d.dies = w.d.dies := rfl
@[simp] theorem modSlot_banks (w : W) (n : Nat) (f : Slot → Slot) : (w.modSlot n f).d.banks = w.d.banks := rfl
@[simp] theorem modSlot_evids (w : W) (n : Nat) (f : Slot → Slot) : (w.modSlot n f).d.evids = w.d.evids := rfl
@[simp] theorem modSlot_fabric (w : W) (n : Nat) (f : Slot → Slot) : (w.modSlot n f).d.fabric = w.d.fabric := rfl
@[simp] theorem modSlot_power (w : W) (n : Nat) (f : Slot → Slot) : (w.modSlot n f).d.power = w.d.power := rfl
@[simp] theorem modSlot_bist (w : W) (n : Nat) (f : Slot → Slot) : (w.modSlot n f).d.bist = { w.d.bist with slots := tmod {} w.d.bist.slots n f } := rfl
@[simp] theorem modSlot_sealEpoch (w : W) (n : Nat) (f : Slot → Slot) : (w.modSlot n f).d.sealEpoch = w.d.sealEpoch := rfl
@[simp] theorem modSlot_freeCtr (w : W) (n : Nat) (f : Slot → Slot) : (w.modSlot n f).d.freeCtr = w.d.freeCtr := rfl
@[simp] theorem modSlot_out (w : W) (n : Nat) (f : Slot → Slot) : (w.modSlot n f).d.out = w.d.out := rfl

/-! ## dropRead -/

@[simp] theorem dropRead_base (w : W) (k : Nat) : (w.dropRead k).base = w.base := rfl
@[simp] theorem dropRead_ops (w : W) (k : Nat) : (w.dropRead k).ops = w.ops := rfl
@[simp] theorem dropRead_variant (w : W) (k : Nat) : (w.dropRead k).d.variant = w.d.variant := rfl
@[simp] theorem dropRead_aon (w : W) (k : Nat) : (w.dropRead k).d.aon = w.d.aon := rfl
@[simp] theorem dropRead_sec (w : W) (k : Nat) : (w.dropRead k).d.sec = w.d.sec := rfl
@[simp] theorem dropRead_hub (w : W) (k : Nat) : (w.dropRead k).d.hub = { w.d.hub with reads := w.d.hub.reads.filter (·.tag != k) } := rfl
@[simp] theorem dropRead_rings (w : W) (k : Nat) : (w.dropRead k).d.rings = w.d.rings := rfl
@[simp] theorem dropRead_chans (w : W) (k : Nat) : (w.dropRead k).d.chans = w.d.chans := rfl
@[simp] theorem dropRead_sluices (w : W) (k : Nat) : (w.dropRead k).d.sluices = w.d.sluices := rfl
@[simp] theorem dropRead_grants (w : W) (k : Nat) : (w.dropRead k).d.grants = w.d.grants := rfl
@[simp] theorem dropRead_ctxs (w : W) (k : Nat) : (w.dropRead k).d.ctxs = w.d.ctxs := rfl
@[simp] theorem dropRead_pols (w : W) (k : Nat) : (w.dropRead k).d.pols = w.d.pols := rfl
@[simp] theorem dropRead_dies (w : W) (k : Nat) : (w.dropRead k).d.dies = w.d.dies := rfl
@[simp] theorem dropRead_banks (w : W) (k : Nat) : (w.dropRead k).d.banks = w.d.banks := rfl
@[simp] theorem dropRead_evids (w : W) (k : Nat) : (w.dropRead k).d.evids = w.d.evids := rfl
@[simp] theorem dropRead_fabric (w : W) (k : Nat) : (w.dropRead k).d.fabric = w.d.fabric := rfl
@[simp] theorem dropRead_power (w : W) (k : Nat) : (w.dropRead k).d.power = w.d.power := rfl
@[simp] theorem dropRead_bist (w : W) (k : Nat) : (w.dropRead k).d.bist = w.d.bist := rfl
@[simp] theorem dropRead_sealEpoch (w : W) (k : Nat) : (w.dropRead k).d.sealEpoch = w.d.sealEpoch := rfl
@[simp] theorem dropRead_freeCtr (w : W) (k : Nat) : (w.dropRead k).d.freeCtr = w.d.freeCtr := rfl
@[simp] theorem dropRead_out (w : W) (k : Nat) : (w.dropRead k).d.out = w.d.out := rfl

/-! ## polErr -/

@[simp] theorem polErr_base (w : W) (p k n : Nat) : (w.polErr p k n).base = w.base := rfl
@[simp] theorem polErr_ops (w : W) (p k n : Nat) : (w.polErr p k n).ops = w.ops := rfl
@[simp] theorem polErr_variant (w : W) (p k n : Nat) : (w.polErr p k n).d.variant = w.d.variant := rfl
@[simp] theorem polErr_aon (w : W) (p k n : Nat) : (w.polErr p k n).d.aon = w.d.aon := rfl
@[simp] theorem polErr_sec (w : W) (p k n : Nat) : (w.polErr p k n).d.sec = w.d.sec := rfl
@[simp] theorem polErr_hub (w : W) (p k n : Nat) : (w.polErr p k n).d.hub = w.d.hub := rfl
@[simp] theorem polErr_rings (w : W) (p k n : Nat) : (w.polErr p k n).d.rings = w.d.rings := rfl
@[simp] theorem polErr_chans (w : W) (p k n : Nat) : (w.polErr p k n).d.chans = w.d.chans := rfl
@[simp] theorem polErr_sluices (w : W) (p k n : Nat) : (w.polErr p k n).d.sluices = w.d.sluices := rfl
@[simp] theorem polErr_grants (w : W) (p k n : Nat) : (w.polErr p k n).d.grants = w.d.grants := rfl
@[simp] theorem polErr_ctxs (w : W) (p k n : Nat) : (w.polErr p k n).d.ctxs = w.d.ctxs := rfl
@[simp] theorem polErr_pols (w : W) (p k n : Nat) : (w.polErr p k n).d.pols = tmod {} w.d.pols p fun P => { P with errCnt := lset P.errCnt k (sat64 (lget 0 P.errCnt k + n)) } := rfl
@[simp] theorem polErr_dies (w : W) (p k n : Nat) : (w.polErr p k n).d.dies = w.d.dies := rfl
@[simp] theorem polErr_banks (w : W) (p k n : Nat) : (w.polErr p k n).d.banks = w.d.banks := rfl
@[simp] theorem polErr_evids (w : W) (p k n : Nat) : (w.polErr p k n).d.evids = w.d.evids := rfl
@[simp] theorem polErr_fabric (w : W) (p k n : Nat) : (w.polErr p k n).d.fabric = w.d.fabric := rfl
@[simp] theorem polErr_power (w : W) (p k n : Nat) : (w.polErr p k n).d.power = w.d.power := rfl
@[simp] theorem polErr_bist (w : W) (p k n : Nat) : (w.polErr p k n).d.bist = w.d.bist := rfl
@[simp] theorem polErr_sealEpoch (w : W) (p k n : Nat) : (w.polErr p k n).d.sealEpoch = w.d.sealEpoch := rfl
@[simp] theorem polErr_freeCtr (w : W) (p k n : Nat) : (w.polErr p k n).d.freeCtr = w.d.freeCtr := rfl
@[simp] theorem polErr_out (w : W) (p k n : Nat) : (w.polErr p k n).d.out = w.d.out := rfl

/-! ## hubErr -/

@[simp] theorem hubErr_base (w : W) (k n : Nat) : (w.hubErr k n).base = w.base := rfl
@[simp] theorem hubErr_ops (w : W) (k n : Nat) : (w.hubErr k n).ops = w.ops := rfl
@[simp] theorem hubErr_variant (w : W) (k n : Nat) : (w.hubErr k n).d.variant = w.d.variant := rfl
@[simp] theorem hubErr_aon (w : W) (k n : Nat) : (w.hubErr k n).d.aon = w.d.aon := rfl
@[simp] theorem hubErr_sec (w : W) (k n : Nat) : (w.hubErr k n).d.sec = w.d.sec := rfl
@[simp] theorem hubErr_hub (w : W) (k n : Nat) : (w.hubErr k n).d.hub = { w.d.hub with errCnt := lset w.d.hub.errCnt k (sat64 (lget 0 w.d.hub.errCnt k + n)) } := rfl
@[simp] theorem hubErr_rings (w : W) (k n : Nat) : (w.hubErr k n).d.rings = w.d.rings := rfl
@[simp] theorem hubErr_chans (w : W) (k n : Nat) : (w.hubErr k n).d.chans = w.d.chans := rfl
@[simp] theorem hubErr_sluices (w : W) (k n : Nat) : (w.hubErr k n).d.sluices = w.d.sluices := rfl
@[simp] theorem hubErr_grants (w : W) (k n : Nat) : (w.hubErr k n).d.grants = w.d.grants := rfl
@[simp] theorem hubErr_ctxs (w : W) (k n : Nat) : (w.hubErr k n).d.ctxs = w.d.ctxs := rfl
@[simp] theorem hubErr_pols (w : W) (k n : Nat) : (w.hubErr k n).d.pols = w.d.pols := rfl
@[simp] theorem hubErr_dies (w : W) (k n : Nat) : (w.hubErr k n).d.dies = w.d.dies := rfl
@[simp] theorem hubErr_banks (w : W) (k n : Nat) : (w.hubErr k n).d.banks = w.d.banks := rfl
@[simp] theorem hubErr_evids (w : W) (k n : Nat) : (w.hubErr k n).d.evids = w.d.evids := rfl
@[simp] theorem hubErr_fabric (w : W) (k n : Nat) : (w.hubErr k n).d.fabric = w.d.fabric := rfl
@[simp] theorem hubErr_power (w : W) (k n : Nat) : (w.hubErr k n).d.power = w.d.power := rfl
@[simp] theorem hubErr_bist (w : W) (k n : Nat) : (w.hubErr k n).d.bist = w.d.bist := rfl
@[simp] theorem hubErr_sealEpoch (w : W) (k n : Nat) : (w.hubErr k n).d.sealEpoch = w.d.sealEpoch := rfl
@[simp] theorem hubErr_freeCtr (w : W) (k n : Nat) : (w.hubErr k n).d.freeCtr = w.d.freeCtr := rfl
@[simp] theorem hubErr_out (w : W) (k n : Nat) : (w.hubErr k n).d.out = w.d.out := rfl


end Sys2Proof.Laws
end

