-- ==== Sys2Proof/Laws/Steps.lean ====
section
/-! SUPPORT. What issuing a step and writing its results can do. -/

namespace Sys2Proof.Laws

open Sys2Proof.Machine

/-! ## What an access depends on -/

/-- What the right of access to memory depends on, of a polder. -/
structure SamePol (P Q : Pol) : Prop where
  st : Q.st = P.st
  dies : Q.dies = P.dies
  ptEntries : Q.ptEntries = P.ptEntries
  home : Q.home = P.home
  sealed : Q.sealedRanges = P.sealedRanges

/-- Two devices in which every access finds the same. -/
structure SameReach (a b : Dev) : Prop where
  variant : b.variant = a.variant
  pols : ∀ p, SamePol (a.pol p) (b.pol p)
  stack : ∀ s, (b.die s).stack = (a.die s).stack

theorem SameReach.refl (a : Dev) : SameReach a a := ⟨rfl, fun _ => ⟨rfl, rfl, rfl, rfl, rfl⟩, fun _ => rfl⟩
theorem SameReach.trans {a b c : Dev} (h : SameReach a b) (k : SameReach b c) : SameReach a c where
  variant := k.variant.trans h.variant
  pols p := ⟨(k.pols p).st.trans (h.pols p).st, (k.pols p).dies.trans (h.pols p).dies, (k.pols p).ptEntries.trans (h.pols p).ptEntries,
    (k.pols p).home.trans (h.pols p).home, (k.pols p).sealed.trans (h.pols p).sealed⟩
  stack s := (k.stack s).trans (h.stack s)

theorem SameReach.sitePol {a b : Dev} (h : SameReach a b) (s : Nat) : b.sitePol s = a.sitePol s := by
  unfold Dev.sitePol Dev.polWhere
  congr 1
  funext p
  simp [Pol.hasSite, (h.pols p).st, (h.pols p).dies]

theorem SameReach.siteKind {a b : Dev} (h : SameReach a b) (s : Nat) : b.siteKind s = a.siteKind s := by
  simp [Dev.siteKind, h.variant]

theorem SameReach.access {a b : Dev} (h : SameReach a b) (req : Req) (p x : Nat) (wr : Bool) : b.access req p x wr = a.access req p x wr := by
  unfold Dev.access
  simp only [Dev.isStacked, Dev.isCompute, h.siteKind, h.sitePol, h.stack, (h.pols _).sealed, (h.pols _).st, (h.pols _).ptEntries, (h.pols _).home]
  rfl

theorem SameReach.reach {a b : Dev} (h : SameReach a b) (req : Req) (p x n : Nat) (wr : Bool) : b.reach req p x n wr = a.reach req p x n wr := by
  simp [Dev.reach, h.access]

theorem SameReach.mayWrite {a b : Dev} (h : SameReach a b) {p : Nat} {l : List (Nat × Bytes)} (m : a.mayWrite p l) : b.mayWrite p l := by
  intro x hx
  rw [h.reach]; exact m x hx

theorem die_modDie_ne (w : W) (s i : Nat) (f : Die → Die) (h : i ≠ s) : (w.modDie s f).d.die i = w.d.die i := by
  show tget _ (tset w.d.dies s (f (w.d.die s))) i = tget _ w.d.dies i
  rw [tget_tset_other _ _ _ _ _ h]
  rfl

theorem sameReach_modDie (w : W) (s : Nat) (f : Die → Die) (h : ∀ D, (f D).stack = D.stack) : SameReach w.d (w.modDie s f).d := by
  refine ⟨rfl, fun _ => ⟨rfl, rfl, rfl, rfl, rfl⟩, fun i => ?_⟩
  by_cases e : i = s
  · subst e; rw [die_modDie]; exact h _
  · rw [die_modDie_ne _ _ _ _ e]

theorem sameReach_modPol (w : W) (p : Nat) (f : Pol → Pol) (h : SamePol (w.d.pol p) (f (w.d.pol p))) : SameReach w.d (w.modPol p f).d := by
  refine ⟨rfl, fun i => ?_, fun _ => rfl⟩
  by_cases e : i = p
  · subst e; rw [pol_modPol]; exact h
  · rw [pol_modPol_ne _ _ _ _ e]; exact ⟨rfl, rfl, rfl, rfl, rfl⟩

theorem sameReach_modJob (w : W) (p : Nat) (f : Job → Job) (h : ∀ j, (f j).ro = j.ro) : SameReach w.d (w.modJob p f).d := by
  refine sameReach_modPol w p _ ⟨rfl, rfl, rfl, rfl, ?_⟩
  cases hj : (w.d.pol p).job <;> simp [Pol.sealedRanges, hj, h]

theorem sameReach_polErr (w : W) (p k n : Nat) : SameReach w.d (w.polErr p k n).d := sameReach_modPol w p _ ⟨rfl, rfl, rfl, rfl, rfl⟩

theorem sameReach_each {α : Type} (l : List α) (f : W → α → W) (h : ∀ w a, SameReach w.d (f w a).d) (w : W) : SameReach w.d (w.each l f).d := by
  unfold W.each
  induction l generalizing w with
  | nil => exact SameReach.refl _
  | cons a l ih => exact (h w a).trans (ih (f w a))

theorem sameReach_countSites (w : W) (fx : MemFx) : SameReach w.d (w.countSites fx).d := by
  unfold W.countSites
  refine (sameReach_each fx.sp _ (fun w a => ?_) w).trans (sameReach_each fx.dram _ (fun w a => ?_) _) <;>
  · dsimp only
    split
    · exact sameReach_modDie _ _ _ fun _ => rfl
    · exact SameReach.refl _

theorem sameReach_countFx (w : W) (p : Nat) (fx : MemFx) : SameReach w.d (w.countFx p fx).d := by
  unfold W.countFx
  have h := sameReach_countSites w fx
  generalize w.countSites fx = v at h ⊢
  exact h.trans ((sameReach_polErr v p 1 _).trans ((sameReach_polErr _ p 2 _).trans (sameReach_polErr _ p 3 _)))

theorem sameReach_jobFx (w : W) (p : Nat) (fx : MemFx) : SameReach w.d (w.jobFx p fx).d :=
  (sameReach_countFx w p fx).trans (sameReach_modJob _ p _ fun _ => rfl)

theorem sameReach_raiseFlags (w : W) (p d q fl : Nat) : SameReach w.d (w.raiseFlags p d q fl).d := by
  unfold W.raiseFlags
  split
  · exact SameReach.refl _
  · exact sameReach_modDie _ _ _ fun _ => rfl

theorem sameReach_issued (s : State) (p d q : Nat) (j : Job) (b : Bytes) (fx : MemFx) : SameReach s.dev (s.issued p d q j b fx).d := by
  have h : SameReach s.dev (s.taken p d q j b).d := by
    unfold State.taken
    have h1 := sameReach_modDie s.w (j.site d) (fun D => { D with tokens := takeTokens D.tokens ((j.queue d q).needs (stepWaits b)) }) fun _ => rfl
    generalize s.w.modDie _ _ = v at h1 ⊢
    exact SameReach.trans h1 (sameReach_modJob v p _ fun _ => rfl)
  unfold State.issued
  generalize s.taken p d q j b = v at h ⊢
  exact h.trans (sameReach_jobFx v p fx)

/-! ## Writing -/

theorem raiseFlags_mem (w : W) (p d q fl : Nat) : (w.raiseFlags p d q fl).base = w.base ∧ (w.raiseFlags p d q fl).ops = w.ops := by
  unfold W.raiseFlags
  split <;> exact ⟨rfl, rfl⟩

theorem each_mem {α : Type} (l : List α) (f : W → α → W) (h : ∀ w a, (f w a).base = w.base ∧ (f w a).ops = w.ops) (w : W) :
    (w.each l f).base = w.base ∧ (w.each l f).ops = w.ops := by
  unfold W.each
  induction l generalizing w with
  | nil => exact ⟨rfl, rfl⟩
  | cons a l ih => exact ⟨(ih _).1.trans (h w a).1, (ih _).2.trans (h w a).2⟩

theorem countSites_mem (w : W) (fx : MemFx) : (w.countSites fx).base = w.base ∧ (w.countSites fx).ops = w.ops := by
  unfold W.countSites
  have a := each_mem fx.sp (fun w (x : Nat × Nat) => if x.1 < 25 then w.modDie x.1 fun D => { D with spEcc := sat64 (D.spEcc + x.2) } else w)
    (fun w x => by split <;> exact ⟨rfl, rfl⟩) w
  generalize W.each w fx.sp _ = v at a ⊢
  have b := each_mem fx.dram (fun w (x : Nat × Nat) => if x.1 < 25 then w.modDie x.1 fun D => { D with stackEcc := sat64 (D.stackEcc + x.2) } else w)
    (fun w x => by split <;> exact ⟨rfl, rfl⟩) v
  exact ⟨b.1.trans a.1, b.2.trans a.2⟩

/-- Counting corrections leaves the memories alone. -/
theorem jobFx_mem (w : W) (p : Nat) (fx : MemFx) : (w.jobFx p fx).base = w.base ∧ (w.jobFx p fx).ops = w.ops := by
  have h := countSites_mem w fx
  unfold W.jobFx W.countFx
  generalize w.countSites fx = v at h ⊢
  exact h

theorem issued_mem (s : State) (p d q : Nat) (j : Job) (b : Bytes) (fx : MemFx) :
    (s.issued p d q j b fx).base = s.mem ∧ (s.issued p d q j b fx).ops = [] := by
  have h := jobFx_mem (s.taken p d q j b) p fx
  exact h

/-- Writes that are allowed all land, in their order, and change nothing else. -/
theorem putAll_ok {w : W} {p : Nat} {l : List (Nat × Bytes)} (h : w.d.mayWrite p l) :
    w.putAll p l = ({ w with ops := w.ops ++ writeOps l }, none) := by
  induction l generalizing w with
  | nil => simp [W.putAll, writeOps]
  | cons x l ih =>
    obtain ⟨a, bs⟩ := x
    have h1 : w.d.reach .dma p (localPart a) bs.length true = (bs.length, none) := h (a, bs) (by simp)
    have h2 : (w.write (localPart a) bs).d.mayWrite p l := fun x hx => h x (by simp [hx])
    simp only [W.putAll, W.putBytes, h1, ih h2]
    simp [W.write, writeOps]

/-- The bytes outside a list of writes. -/
theorem applyAll_write_out {m : Mem} (l : List (Nat × Bytes)) (x : Nat) (h : m.wf = true)
    (hx : ∀ y ∈ l, x < localPart y.1 ∨ localPart y.1 + y.2.length ≤ x) : (m.applyAll (writeOps l)).byte x = m.byte x := by
  induction l generalizing m with
  | nil => rfl
  | cons y l ih =>
    have := ih (m := m.apply (.write (localPart y.1) y.2)) (apply_wf _ h) fun z hz => hx z (by simp [hz])
    simp only [Mem.applyAll, writeOps, List.map_cons, List.foldl_cons] at this ⊢
    rw [this]
    exact byte_write_out _ _ _ h (hx y (by simp))

/-! ## Issue -/

/-- A step that is ready and wanted is issued. -/
theorem issue_ready {s : State} {p d q : Nat} {j : Job} {b : Bytes} {fx : MemFx} (h : s.Ready p d q j b fx) (want : Bytes → Bool)
    (hw : want b = true) (f : W → Job → Bytes → W) : s.w.issue p d q want f = f (s.taken p d q j b) j b := by
  simp [W.issue, h.head, hw, h.waits, State.taken]

theorem headStep_job {w : W} {p d q : Nat} {j : Job} {b : Bytes} (h : w.headStep p d q = some (j, b)) : w.d.runningJob p = some j := by
  unfold W.headStep at h
  split at h
  · cases h
  · rename_i j' hj
    split at h
    · cases h
    · simp only at h
      split at h
      · cases h
      · simp only [Option.some.injEq, Prod.mk.injEq] at h
        rw [hj, h.1]

theorem runningJob_job {d : Dev} {p : Nat} {j : Job} (h : d.runningJob p = some j) : (d.pol p).job = some j ∧ j.stage = .running := by
  unfold Dev.runningJob at h
  split at h
  · rename_i j' hj
    split at h
    · rename_i hs
      simp only [Option.some.injEq] at h
      subst h; exact ⟨hj, hs⟩
    · cases h
  · cases h

/-- The job of an issued step still runs, with the same layout. -/
theorem runningJob_modJob {w : W} {p : Nat} {j : Job} (f : Job → Job) (h : w.d.runningJob p = some j) (hs : (f j).stage = .running) :
    (w.modJob p f).d.runningJob p = some (f j) := by
  obtain ⟨h1, _⟩ := runningJob_job h
  unfold Dev.runningJob W.modJob
  rw [pol_modPol]
  simp [h1, hs]

theorem runningJob_modDie {w : W} {p : Nat} (s : Nat) (f : Die → Die) : (w.modDie s f).d.runningJob p = w.d.runningJob p := rfl

/-- Reading operands without an unrecoverable error only counts corrections. -/
theorem withFx_fine {w : W} {p d q : Nat} {j : Job} {fx : MemFx} (h : w.d.runningJob p = some j) (hf : fx.fail = .none) (f : W → W) :
    w.withFx p d q fx f = f (w.jobFx p fx) := by
  simp [W.withFx, h, hf, MemFail.code]

theorem taken_job {s : State} {p d q : Nat} {j : Job} {b : Bytes} {fx : MemFx} (h : s.Ready p d q j b fx) :
    (s.taken p d q j b).d.runningJob p = some (j.setQueue d q fun Q => Q.issue q) :=
  runningJob_modJob _ ((runningJob_modDie _ _).trans (headStep_job h.head)) (runningJob_job (headStep_job h.head)).2

theorem taken_die {s : State} {p d q : Nat} {j : Job} {b : Bytes} (i : Nat) :
    ((s.taken p d q j b).d.die i).counts = (s.dev.die i).counts := by
  show (((s.w.modDie (j.site d) fun D => { D with tokens := takeTokens D.tokens ((j.queue d q).needs (stepWaits b)) })).d.die i).counts = _
  by_cases e : i = j.site d
  · subst e; rw [die_modDie]; rfl
  · rw [die_modDie_ne _ _ _ _ e]; rfl

/-- The rows that a step is carried out on. -/
theorem rowsOf_ok {s : State} {p d q rows max n : Nat} {j : Job} {b : Bytes} (h : s.rowsAre j d b rows max n) :
    (s.taken p d q j b).rowsOf j d b rows max = .ok n := by
  cases hc : stepCount b with
  | none =>
    simp only [State.rowsAre, hc] at h
    simp only [W.rowsOf, hc, h]
  | some c =>
    simp only [State.rowsAre, hc] at h
    simp only [W.rowsOf, hc, taken_die]
    rw [if_neg (by omega), h.1]

/-- A step's writes and flags, all in range, and what follows them. -/
theorem vecApply_ok {w : W} {p d q : Nat} {o : VOut} {after : W → W} (he : o.err = none) (hm : w.d.mayWrite p o.writes) :
    w.vecApply p d q o after = after { w.raiseFlags p d q o.flags with ops := w.ops ++ writeOps o.writes } := by
  have h := putAll_ok ((sameReach_raiseFlags w p d q o.flags).mayWrite hm)
  simp only [W.vecApply, h, he, (raiseFlags_mem w p d q o.flags).2]

/-- A ready vector step runs: its rows are computed, its writes land, its flags are raised. -/
theorem vecStep_runs {s : State} {p d e n : Nat} {j : Job} {b : Bytes} {fx : MemFx} {want : Bytes → Bool} {body : VC → VOut}
    {region : VStep → Nat} {pre : VC → Option StepErr} {after : VC → W → W} (h : s.VecReady p d e j b fx (region (vstepOf b)) n)
    (hw : want b = true) {rc : Nat × Nat} (hrc : rc = s.regionOf j d (region (vstepOf b)))
    (hp : pre { w := s.taken p d (8 + e) j b, p := p, j := j, d := d, e := e, st := vstepOf b, ftz := j.ftzOf 1, rows := rc.1, cols := rc.2 } = none)
    (he : (body (s.vecView p d e j b fx n rc.2)).err = none) (hm : s.dev.mayWrite p (body (s.vecView p d e j b fx n rc.2)).writes) :
    s.w.vecStep p d e fx want body region pre after =
      after (s.vecView p d e j b fx n rc.2)
        { (s.issued p d (8 + e) j b fx).raiseFlags p d (8 + e) (body (s.vecView p d e j b fx n rc.2)).flags with
          ops := writeOps (body (s.vecView p d e j b fx n rc.2)).writes } := by
  subst hrc
  unfold W.vecStep
  rw [issue_ready h.ready _ (by simp [h.kind, hw, h.engine])]
  have hr : (if region (vstepOf b) ≥ 0xFFFE then ((1 : Nat), (1 : Nat)) else
      let t := (s.taken p d (8 + e) j b).tile j d (region (vstepOf b)); (t.rows, t.cols)) = s.regionOf j d (region (vstepOf b)) := rfl
  have hn := h.some
  obtain ⟨m, rfl⟩ : ∃ m, n = m + 1 := ⟨n - 1, by omega⟩
  have ho : (s.taken p d (8 + e) j b).ownTiles j d
      [(vstepOf b).src0, (vstepOf b).src1, (vstepOf b).src2, (vstepOf b).dst, (vstepOf b).dst2] = true := h.own
  simp only [hr, hp, rowsOf_ok h.rows, ho, Bool.not_true, Bool.false_eq_true, if_false]
  rw [withFx_fine (taken_job h.ready) h.ready.fine]
  have hv : (s.taken p d (8 + e) j b).jobFx p fx = s.issued p d (8 + e) j b fx := rfl
  rw [hv]
  have hi := vecApply_ok (q := 8 + e) (d := d) (after := after (s.vecView p d e j b fx (m + 1) (s.regionOf j d (region (vstepOf b))).2)) he
    ((sameReach_issued s p d (8 + e) j b fx).mayWrite hm)
  rw [(issued_mem s p d (8 + e) j b fx).2, List.nil_append] at hi
  exact hi

end Sys2Proof.Laws
end

