-- ==== Sys2Proof/Laws/TableSets.lean ====
section
/-! SUPPORT. A step over table sets that keep the rules of the spec keeps them too. -/

namespace Sys2Proof.Laws

open Sys2Proof.Machine

theorem sfuEl_tableFn (c : VC) (fn : Fn) (fmt x : Nat) (hf : c.ftz = false) (hn : c.st.e4nan = false) :
    sfuEl (sfu c.T fn) fmt c.ftz c.st.e4nan (x, 0) = tableFn c.w.d.sec.tables c.bank.flavour fn fmt x := by
  rw [hf, hn]; rfl

/-- R111, R118 to R121: where the image's sets keep `TableRules`, what a step computes without FTZ has the exact results, the error bounds and the
monotonicity of its flavour, but for the backward steps of the compatibility set. -/
theorem sfuEl_rules (c : VC) (h : TableRules c.w.d.sec.tables) (hf : c.ftz = false) (hn : c.st.e4nan = false) (hb : c.bank.flavour ≤ 1) :
    let f := fun fn fmt x => sfuEl (sfu c.T fn) fmt c.ftz c.st.e4nan (x, 0)
    ExactResults f ∧ WithinBounds c.bank.flavour f ∧ MonotoneBut (if c.bank.flavour = 0 then fun _ => [] else backKerfs) f ∧
      (c.bank.flavour = 1 → BackSteps f) := by
  have e : (fun fn fmt x => sfuEl (sfu c.T fn) fmt c.ftz c.st.e4nan (x, 0)) = tableFn c.w.d.sec.tables c.bank.flavour := by
    funext fn fmt x; exact sfuEl_tableFn c fn fmt x hf hn
  intro f
  rw [show f = _ from e]
  have h01 : c.bank.flavour = 0 ∨ c.bank.flavour = 1 := by omega
  rcases h01 with h0 | h0 <;> rw [h0]
  · exact ⟨h.exact 0 (by omega), h.nativeBounds, h.native, by omega⟩
  · exact ⟨h.exact 1 (by omega), h.compatBounds, h.compat, fun _ => h.backSteps⟩

end Sys2Proof.Laws
end

