-- ==== Sys2Proof/Machine/Package.lean ====
section
/-! DEFINITION. The land grid and the fibre blocks (R455 to R458, R463, R464): which land carries which signal. Rows and columns run from 1 to 95. -/

namespace Sys2Proof.Machine

/-- The letters of the row names (R455). -/
def rowLetters : List Char := "ABCDEFGHJKLMNPTUVWY".toList
/-- The name of row `i`, and of the land at row `i` and column `j` (R455). -/
def rowName (i : Nat) : String :=
  let q := (i - 1) / 19
  String.ofList ((if q = 0 then [] else [lget 'A' rowLetters (q - 1)]) ++ [lget 'A' rowLetters ((i - 1) % 19)])
def landName (i j : Nat) : String := rowName i ++ toString j
/-- The site over the land at row `i` and column `j` (R455). -/
def landSite (i j : Nat) : Nat := 5 * ((i - 1) / 19) + (j - 1) / 19

/-- Sites whose lands and fibre block may serve a link die: the ones that hold one on the WZ25C (R454). -/
def fabricSites : List Nat := [0, 4, 5, 9, 10, 14, 15, 19, 21, 22, 23, 24]

/-- A signal of the land grid (R456 to R458). -/
inductive Land where
  | vin12
  | gnd
  | v3p3sb
  | rsvd
  | pcie (lane : Nat) (tx p : Bool)
  /-- An electrical fabric lane: `k` is the local port of site `s`. -/
  | fabric (s k lane : Nat) (tx p : Bool)
  | refclk (p : Bool)
  | perst
  | coreOk
  | thermtrip
  /-- TCK, TMS, TDI, TDO and TRST# of the debug access port, 0 to 4. -/
  | debug (i : Nat)
  | vin12Sense
  | gndSense
  deriving DecidableEq, Repr

/-- The lands of row A (R456, R458). -/
def landA (j : Nat) : Land :=
  match j with
  | 40 => .perst
  | 41 => .coreOk
  | 42 => .thermtrip
  | 44 => .refclk true
  | 45 => .refclk false
  | 54 => .vin12Sense
  | 55 => .gndSense
  | _ =>
    if 48 ≤ j ∧ j ≤ 52 then .debug (j - 48)
    else if 57 ≤ j ∧ j ≤ 64 then .v3p3sb
    else if 65 ≤ j ∧ j ≤ 76 then .rsvd
    else .gnd
/-- The PCI Express lands of a row, three columns to a lane: P, N and ground (R457). -/
def landPcie (j : Nat) (tx : Bool) : Land :=
  let x := j - 24
  if j < 24 ∨ x / 3 ≥ 16 ∨ x % 3 = 2 then .gnd else .pcie (x / 3) tx (x % 3 == 0)
/-- The fabric land at local row `u` and local column `v` of site `s` (R457): three blocks of four columns and sixteen rows. -/
def landFabric (s u v : Nat) : Land :=
  let b := (v - 1) % 5
  let a := u - 1
  if v = 0 ∨ v > 15 ∨ u = 0 ∨ u > 16 ∨ (b ≠ 0 ∧ b ≠ 2) then .gnd else .fabric s ((v - 1) / 5) (a / 2) (b == 0) (a % 2 == 0)
/-- What the land at row `i` and column `j` carries (R456): a land that no other row names is ground. -/
def landAt (i j : Nat) : Land :=
  if i = 1 ∧ landA j ≠ .gnd then landA j
  else if i = 2 ∧ landPcie j true ≠ .gnd then landPcie j true
  else if i = 4 ∧ landPcie j false ≠ .gnd then landPcie j false
  else if i % 2 = 1 ∧ j % 2 = 1 ∧ 21 ≤ i ∧ i ≤ 75 ∧ 21 ≤ j ∧ j ≤ 75 then .vin12
  else if fabricSites.contains (landSite i j) then landFabric (landSite i j) ((i - 1) % 19) ((j - 1) % 19)
  else .gnd

/-- The fabric port that local port `k` of site `s` is, where the site holds a link die; the lands of another are connected to nothing (R293, R457, R462). -/
def Dev.landPort (d : Dev) (s k : Nat) : Option Nat := (d.linkSites.findIdx? (· == s)).map fun o => 3 * o + k

/-- The edge of the package at which the fibre block of a site stands (R463). -/
inductive Edge where
  | left
  | right
  | top
  deriving DecidableEq, Repr
def fibreEdge (s : Nat) : Edge := if s % 5 = 0 then .left else if s % 5 = 4 then .right else .top
/-- The local port and the lane of fibre `f` in row `k` of a block, and whether the lane sends (R464). -/
def fibreLane (k f : Nat) : Nat × Nat × Bool := (k, f % 8, f < 8)

end Sys2Proof.Machine
end

