-- ==== Sys2Proof/WellFormed.lean ====
section
/-! DEFINITION. When a command is well formed: every number lies in the range of what it names (R11). A command that is not well
formed names nothing of the device. -/

namespace Sys2Proof

/-- The operands lie in their ranges. -/
def Instr.wf : Instr → Bool
  | .power3v3Rise => true
  | .power12vRise => true
  | .coreOk => true
  | .refclkStable => true
  | .refclkLoss => true
  | .perstDeassert => true
  | .perstAssert => true
  | .power12vLoss => true
  | .power3v3Loss => true
  | .hotReset => true
  | .linkDown => true
  | .flrPf => true
  | .flrVf k => decide (1 ≤ k ∧ k ≤ 16)
  | .polReset fn p v => decide (fn ≤ 16 ∧ p < 16 ∧ v < 2 ^ 64)
  | .secBootCmd fn v => decide (fn ≤ 16 ∧ v < 2 ^ 64)
  | .firmwareVerifyDone => true
  | .hubFirmwareRunning => true
  | .secSvnCmd fn v => decide (fn ≤ 16 ∧ v < 2 ^ 64)
  | .fuseProgramComplete _ => true
  | .lcSecure fn => decide (fn ≤ 16)
  | .lcDebug fn _ => decide (fn ≤ 16)
  | .lcReturn fn _ => decide (fn ≤ 16)
  | .lcRetire fn => decide (fn ≤ 16)
  | .getVersion fn => decide (fn ≤ 16)
  | .getCapabilities fn _ => decide (fn ≤ 16)
  | .negotiateAlgorithms fn _ => decide (fn ≤ 16)
  | .getDigests fn _ => decide (fn ≤ 16)
  | .getCertificate fn _ _ off _ => decide (fn ≤ 16 ∧ off < 2 ^ 26)
  | .challenge fn _ _ _ => decide (fn ≤ 16)
  | .getMeasurements fn _ _ _ _ => decide (fn ≤ 16)
  | .keyExchange fn _ _ _ => decide (fn ≤ 16)
  | .finish fn _ _ => decide (fn ≤ 16)
  | .keyUpdate fn _ _ => decide (fn ≤ 16)
  | .heartbeat fn _ => decide (fn ≤ 16)
  | .endSession fn _ => decide (fn ≤ 16)
  | .ideKm fn _ _ => decide (fn ≤ 16)
  | .doorbell fn off _ v => decide (fn ≤ 16 ∧ off < 2 ^ 26 ∧ v < 2 ^ 64)
  | .entryFetch r => decide (r < 8192)
  | .hostReadCompletion _ _ => true
  | .hostReadTimeout _ => true
  | .ringEnable fn r v => decide (fn ≤ 16 ∧ r < 8192 ∧ v < 2 ^ 64)
  | .ringDisable fn r => decide (fn ≤ 16 ∧ r < 8192)
  | .ringDrainComplete r => decide (r < 8192)
  | .ringIfSel fn v => decide (fn ≤ 16 ∧ v < 2 ^ 64)
  | .nop r => decide (r < 8192)
  | .job r _ => decide (r < 8192)
  | .imageValidationDone p _ => decide (p < 16)
  | .sluWait r => decide (r < 8192)
  | .sluSignal r => decide (r < 8192)
  | .sluSet r => decide (r < 8192)
  | .copy r => decide (r < 8192)
  | .copyComplete r _ => decide (r < 8192)
  | .msixUnmask fn vec => decide (fn ≤ 16 ∧ vec < 2048)
  | .tableLoad r => decide (r < 8192)
  | .tableLoadComplete r _ => decide (r < 8192)
  | .tableActivate r => decide (r < 8192)
  | .keyInstall r _ => decide (r < 8192)
  | .keyErase r => decide (r < 8192)
  | .channelEnable fn c v => decide (fn ≤ 16 ∧ c < 256 ∧ v < 2 ^ 64)
  | .channelDisable fn c => decide (fn ≤ 16 ∧ c < 256)
  | .hostWriteAperture fn ap _ _ _ => decide (fn ≤ 16 ∧ ap < 256)
  | .hostReadAperture fn ap _ _ => decide (fn ≤ 16 ∧ ap < 256)
  | .vfEnable n => decide (n ≤ 16)
  | .sluOwner fn i v => decide (fn ≤ 16 ∧ i < 8192 ∧ v < 2 ^ 64)
  | .sluGrant fn g v => decide (fn ≤ 16 ∧ g < 4096 ∧ v < 2 ^ 64)
  | .ctxEnable fn n v => decide (fn ≤ 16 ∧ n < 4096 ∧ v < 2 ^ 64)
  | .ctxDisable fn n => decide (fn ≤ 16 ∧ n < 4096)
  | .contextLoadComplete n => decide (n < 4096)
  | .warmupStart p _ _ => decide (p < 16)
  | .warmupComplete p _ => decide (p < 16)
  | .segmentBarrier p => decide (p < 16)
  | .jobFaultEnd p => decide (p < 16)
  | .watchdogExpiry p => decide (p < 16)
  | .stepRelease p d q n => decide (p < 16 ∧ d < 20 ∧ q < 15 ∧ n < 65536)
  | .nopStep p d q => decide (p < 16 ∧ d < 20 ∧ q < 15)
  | .activate p d e => decide (p < 16 ∧ d < 20 ∧ e < 2)
  | .activateSmoothing p d => decide (p < 16 ∧ d < 20)
  | .bankDrainComplete n => decide (n < 182)
  | .matmul p d q _ _ => decide (p < 16 ∧ d < 20 ∧ q < 15)
  | .distL2sq p d q _ _ => decide (p < 16 ∧ d < 20 ∧ q < 15)
  | .distL1 p d q _ _ => decide (p < 16 ∧ d < 20 ∧ q < 15)
  | .maxplus p d q _ _ => decide (p < 16 ∧ d < 20 ∧ q < 15)
  | .minplus p d q _ _ => decide (p < 16 ∧ d < 20 ∧ q < 15)
  | .hamming p d q _ _ => decide (p < 16 ∧ d < 20 ∧ q < 15)
  | .cmpcount p d q _ _ => decide (p < 16 ∧ d < 20 ∧ q < 15)
  | .repeatComplete site _ => decide (site < 25)
  | .substituteReady site => decide (site < 25)
  | .substituteComplete site _ _ => decide (site < 25)
  | .targetedSelfTestEnd site phys _ => decide (site < 25 ∧ phys < 9)
  | .fadd p d e _ => decide (p < 16 ∧ d < 20 ∧ e < 2)
  | .fsub p d e _ => decide (p < 16 ∧ d < 20 ∧ e < 2)
  | .fmul p d e _ => decide (p < 16 ∧ d < 20 ∧ e < 2)
  | .fma p d e _ => decide (p < 16 ∧ d < 20 ∧ e < 2)
  | .fmin p d e _ => decide (p < 16 ∧ d < 20 ∧ e < 2)
  | .fmax p d e _ => decide (p < 16 ∧ d < 20 ∧ e < 2)
  | .clamp p d e _ => decide (p < 16 ∧ d < 20 ∧ e < 2)
  | .fabs p d e _ => decide (p < 16 ∧ d < 20 ∧ e < 2)
  | .fneg p d e _ => decide (p < 16 ∧ d < 20 ∧ e < 2)
  | .cmpEq p d e _ => decide (p < 16 ∧ d < 20 ∧ e < 2)
  | .cmpNe p d e _ => decide (p < 16 ∧ d < 20 ∧ e < 2)
  | .cmpLt p d e _ => decide (p < 16 ∧ d < 20 ∧ e < 2)
  | .cmpLe p d e _ => decide (p < 16 ∧ d < 20 ∧ e < 2)
  | .cmpGt p d e _ => decide (p < 16 ∧ d < 20 ∧ e < 2)
  | .cmpGe p d e _ => decide (p < 16 ∧ d < 20 ∧ e < 2)
  | .sel p d e _ => decide (p < 16 ∧ d < 20 ∧ e < 2)
  | .cvt p d e _ => decide (p < 16 ∧ d < 20 ∧ e < 2)
  | .iadd p d e _ => decide (p < 16 ∧ d < 20 ∧ e < 2)
  | .isub p d e _ => decide (p < 16 ∧ d < 20 ∧ e < 2)
  | .imin p d e _ => decide (p < 16 ∧ d < 20 ∧ e < 2)
  | .imax p d e _ => decide (p < 16 ∧ d < 20 ∧ e < 2)
  | .bitAnd p d e _ => decide (p < 16 ∧ d < 20 ∧ e < 2)
  | .bitOr p d e _ => decide (p < 16 ∧ d < 20 ∧ e < 2)
  | .bitXor p d e _ => decide (p < 16 ∧ d < 20 ∧ e < 2)
  | .shl p d e _ => decide (p < 16 ∧ d < 20 ∧ e < 2)
  | .shr p d e _ => decide (p < 16 ∧ d < 20 ∧ e < 2)
  | .exp2 p d e _ => decide (p < 16 ∧ d < 20 ∧ e < 2)
  | .exp p d e _ => decide (p < 16 ∧ d < 20 ∧ e < 2)
  | .log2 p d e _ => decide (p < 16 ∧ d < 20 ∧ e < 2)
  | .ln p d e _ => decide (p < 16 ∧ d < 20 ∧ e < 2)
  | .rcp p d e _ => decide (p < 16 ∧ d < 20 ∧ e < 2)
  | .rsqrt p d e _ => decide (p < 16 ∧ d < 20 ∧ e < 2)
  | .sqrt p d e _ => decide (p < 16 ∧ d < 20 ∧ e < 2)
  | .tanh p d e _ => decide (p < 16 ∧ d < 20 ∧ e < 2)
  | .erf p d e _ => decide (p < 16 ∧ d < 20 ∧ e < 2)
  | .sigmoid p d e _ => decide (p < 16 ∧ d < 20 ∧ e < 2)
  | .silu p d e _ => decide (p < 16 ∧ d < 20 ∧ e < 2)
  | .softplus p d e _ => decide (p < 16 ∧ d < 20 ∧ e < 2)
  | .geluErf p d e _ => decide (p < 16 ∧ d < 20 ∧ e < 2)
  | .geluTanh p d e _ => decide (p < 16 ∧ d < 20 ∧ e < 2)
  | .sin p d e _ => decide (p < 16 ∧ d < 20 ∧ e < 2)
  | .cos p d e _ => decide (p < 16 ∧ d < 20 ∧ e < 2)
  | .usern p d e _ => decide (p < 16 ∧ d < 20 ∧ e < 2)
  | .rmax p d e _ => decide (p < 16 ∧ d < 20 ∧ e < 2)
  | .rmin p d e _ => decide (p < 16 ∧ d < 20 ∧ e < 2)
  | .rsum p d e _ => decide (p < 16 ∧ d < 20 ∧ e < 2)
  | .rssq p d e _ => decide (p < 16 ∧ d < 20 ∧ e < 2)
  | .normRms p d e _ => decide (p < 16 ∧ d < 20 ∧ e < 2)
  | .normLayer p d e _ => decide (p < 16 ∧ d < 20 ∧ e < 2)
  | .softmax p d e _ => decide (p < 16 ∧ d < 20 ∧ e < 2)
  | .rope p d e _ => decide (p < 16 ∧ d < 20 ∧ e < 2)
  | .gather p d e _ => decide (p < 16 ∧ d < 20 ∧ e < 2)
  | .scatter p d e _ => decide (p < 16 ∧ d < 20 ∧ e < 2)
  | .scatterAdd p d e _ => decide (p < 16 ∧ d < 20 ∧ e < 2)
  | .topk p d e _ => decide (p < 16 ∧ d < 20 ∧ e < 2)
  | .quant p d e _ => decide (p < 16 ∧ d < 20 ∧ e < 2)
  | .dequant p d e _ => decide (p < 16 ∧ d < 20 ∧ e < 2)
  | .compress p d e _ => decide (p < 16 ∧ d < 20 ∧ e < 2)
  | .expand p d e _ => decide (p < 16 ∧ d < 20 ∧ e < 2)
  | .cntLoad p d e _ => decide (p < 16 ∧ d < 20 ∧ e < 2)
  | .cntStore p d e _ => decide (p < 16 ∧ d < 20 ∧ e < 2)
  | .smax p d e _ => decide (p < 16 ∧ d < 20 ∧ e < 2)
  | .smin p d e _ => decide (p < 16 ∧ d < 20 ∧ e < 2)
  | .ssum p d e _ => decide (p < 16 ∧ d < 20 ∧ e < 2)
  | .snz p d e _ => decide (p < 16 ∧ d < 20 ∧ e < 2)
  | .sfirst p d e _ => decide (p < 16 ∧ d < 20 ∧ e < 2)
  | .scnt p d e _ => decide (p < 16 ∧ d < 20 ∧ e < 2)
  | .sample p d e _ => decide (p < 16 ∧ d < 20 ∧ e < 2)
  | .transform p d _ => decide (p < 16 ∧ d < 20)
  | .move p d q _ => decide (p < 16 ∧ d < 20 ∧ q < 15)
  | .dmaSignal p d q => decide (p < 16 ∧ d < 20 ∧ q < 15)
  | .coll p d q _ => decide (p < 16 ∧ d < 20 ∧ q < 15)
  | .segmentReduce p c seg => decide (p < 16 ∧ c < 4096 ∧ seg < 65536)
  | .patrolRead site _ _ => decide (site < 25)
  | .stackScrubComplete site => decide (site < 25)
  | .polEnable fn p v => decide (fn ≤ 16 ∧ p < 16 ∧ v < 2 ^ 64)
  | .polDisable fn p => decide (fn ≤ 16 ∧ p < 16)
  | .polderReady p => decide (p < 16)
  | .dissolveComplete p => decide (p < 16)
  | .portEnable fn n v => decide (fn ≤ 16 ∧ n < 36 ∧ v < 2 ^ 64)
  | .portDisable fn n => decide (fn ≤ 16 ∧ n < 36)
  | .pcsLock n => decide (n < 36)
  | .pcsLoss n => decide (n < 36)
  | .silenceTimeout n => decide (n < 36)
  | .replayLimit n => decide (n < 36)
  | .llAckTimer n => decide (n < 36)
  | .helloTimer n => decide (n < 36)
  | .write n _ _ => decide (n < 36)
  | .readReq n _ _ => decide (n < 36)
  | .readResp n _ _ => decide (n < 36)
  | .frameSignal n _ => decide (n < 36)
  | .frameSet n _ => decide (n < 36)
  | .ack n _ => decide (n < 36)
  | .nak n _ => decide (n < 36)
  | .collData n _ _ => decide (n < 36)
  | .collCredit n _ => decide (n < 36)
  | .collAbort n _ => decide (n < 36)
  | .hello n _ => decide (n < 36)
  | .llAck n _ => decide (n < 36)
  | .goodbye n _ => decide (n < 36)
  | .pfcFrame n prio _ => decide (n < 36 ∧ prio < 8)
  | .retransmissionTimeout lp chip tc => decide (lp < 16 ∧ chip < 8192 ∧ tc < 2)
  | .connectionFailed lp chip tc => decide (lp < 16 ∧ chip < 8192 ∧ tc < 2)
  | .operationTimeout _ => true
  | .nakWaitResend _ => true
  | .fibreLatchRelease site => decide (site < 25)
  | .fibreLatchEngage site => decide (site < 25)
  | .polColl fn p v => decide (fn ≤ 16 ∧ p < 16 ∧ v < 2 ^ 64)
  | .arbiterPeriod _ => true
  | .railVoltageReached site => decide (site < 25)
  | .droopClocking site isl => decide (site < 25 ∧ isl < 16)
  | .clkPolLim fn i v => decide (fn ≤ 16 ∧ i < 64 ∧ v < 2 ^ 64)
  | .pwrMode fn v => decide (fn ≤ 16 ∧ v < 2 ^ 64)
  | .inputLimiter _ => true
  | .thermalThreshold _ _ => true
  | .thermalTrip _ => true
  | .pwrTrip fn v => decide (fn ≤ 16 ∧ v < 2 ^ 64)
  | .runStart fn p => decide (fn ≤ 16 ∧ p < 16)
  | .serviceLoopRunning p => decide (p < 16)
  | .runStop fn p => decide (fn ≤ 16 ∧ p < 16)
  | .serviceLoopStopped p => decide (p < 16)
  | .serviceLoopPass p _ => decide (p < 16)
  | .start r => decide (r < 8192)
  | .cancel r => decide (r < 8192)
  | .sessionDrop r => decide (r < 8192)
  | .requestNop r => decide (r < 8192)
  | .serviceJobComplete p => decide (p < 16)
  | .handoffSend p sq => decide (p < 16 ∧ sq < 4096)
  | .seqPages p pair => decide (p < 16 ∧ pair < 16)
  | .sessionPages p pair => decide (p < 16 ∧ pair < 16)
  | .fetch p pair => decide (p < 16 ∧ pair < 16)
  | .miss p pair => decide (p < 16 ∧ pair < 16)
  | .donationRetry p pair => decide (p < 16 ∧ pair < 16)
  | .remoteRetry p pair => decide (p < 16 ∧ pair < 16)
  | .bistSliceCmd fn n v => decide (fn ≤ 16 ∧ n < 16 ∧ v < 2 ^ 64)
  | .sliceCancel fn n => decide (fn ≤ 16 ∧ n < 16)
  | .sliceStart n => decide (n < 16)
  | .sliceComplete n _ _ _ => decide (n < 16)
  | .sliceBudget n _ _ _ => decide (n < 16)
  | .bistPackCmd fn v => decide (fn ≤ 16 ∧ v < 2 ^ 64)
  | .packLoadComplete => true
  | .bistRepairCmd fn v => decide (fn ≤ 16 ∧ v < 2 ^ 64)
  | .repairListLoadComplete => true
  | .bistFuseCmd fn v => decide (fn ≤ 16 ∧ v < 2 ^ 64)
  | .registerWrite fn off _ v => decide (fn ≤ 16 ∧ off < 2 ^ 26 ∧ v < 2 ^ 64)
  | .frameDiscard n _ => decide (n < 36)
  | .unsupportedRead fn off _ => decide (fn ≤ 16 ∧ off < 2 ^ 26)

end Sys2Proof
end

