-- ==== Sys2Proof/Tests/Slice0.lean ====
section
/-! SUPPORT. Tests: for every statement of Obligations.lean that has premises, a state and operands that meet them all; ill-formed commands, which
WellFormed refuses; and results that the spec's worked examples state. -/

section

set_option Elab.async false

open Sys2Proof Sys2Proof.Machine Sys2Proof.Claims

/-! ## Small states -/

namespace Sys2Proof.Tests

/-- `n` zero bytes with fields (offset, length, value) put in. -/
def put (n : Nat) (l : List (Nat × Nat × Nat)) : Bytes := l.foldl (fun b x => b.take x.1 ++ toLe x.2.1 x.2.2 ++ b.drop (x.1 + x.2.1)) (zeros n)

/-- Polder 0, READY, of the stacked compute die at site 1. -/
def pol0 : Pol :=
  { enable := true, st := 2, home := 1, dies := 2, ports := 0, chBase := 1, chCount := 4, ctxBase := 0, ctxCount := 4, keyBase := 0, keyCount := 4
    ringGrp := 1, sluGrp := 1, slots := 4, ptEntries := 4096, landSize := 4 }

/-- A device whose firmware runs: polder 0 with context 0 RESIDENT, SUBMIT ring 0 and its COMPLETE ring 1. -/
def dev0 : Dev :=
  { variant := 1
    aon := { rail33 := true, rail12 := true, coreOk := true, refclk := true, perst := false, linkUp := true, sensed := true }
    sec := { boot := 3, lc := 1 }
    pols := [(0, pol0)]
    rings := [(0, { kind := 0, st := 1, cq := 1, log2 := 4, base := 0x10000, shadow := 0x20000 }), (1, { kind := 1, st := 1, log2 := 4, base := 0x30000 })]
    ctxs := [(0, { enable := true, res := 3 })]
    banks := [(150, { st := 4 }), (151, { st := 1 })]
    dies := [(1, { stack := 3 })] }
def s0 : State := { State.reset with dev := dev0 }
/-- The same device with nothing formed. -/
def bare : State := { s0 with dev := { dev0 with pols := [], rings := [], ctxs := [] } }
/-- The same device with its boot ROM waiting for an image. -/
def rom : State := { s0 with dev := { variant := 1, aon := dev0.aon, sec := { boot := 1, lc := 1 }, chans := [(0, { st := 1, limit := storeSize })] } }

end Sys2Proof.Tests

namespace Sys2Proof.Machine

def State.withDev (s : State) (f : Dev → Dev) : State := { s with dev := f s.dev }
def State.withPol (s : State) (f : Pol → Pol) : State := { s with dev := { s.dev with pols := tmod {} s.dev.pols 0 f } }
def State.withMem (s : State) (a : Nat) (bs : Bytes) : State := { s with mem := s.mem.apply (.write a bs) }
def State.withRing (s : State) (r : Nat) (f : Ring → Ring) : State := { s with dev := { s.dev with rings := tmod {} s.dev.rings r f } }
def State.withFabric (s : State) (f : Fabric → Fabric) : State := { s with dev := { s.dev with fabric := f s.dev.fabric } }

end Sys2Proof.Machine

namespace Sys2Proof.Tests

/-- The state that a command leaves, or the old one where it stops. -/
def after (c : Instr) (s : State) : State := match exec c s with
  | .next t => t
  | _ => s

/-- Where the tests' image stands: stack 1, beyond its first pages. -/
def imgAt : Nat := stackBase 1 + 0x10000

/-- Tables of an image of one die and one segment: die table 0x40, segment table 0x60, stream table 0x80, descriptors 0x100, the one step of queue `q` at 0x200. -/
def tables (q : Nat) (step : Bytes) (descs : List Bytes) : Bytes :=
  put 0x40 [(0x24, 4, 0x40), (0x28, 4, 0x60)] ++ put 0x20 [(0, 4, 0x100), (4, 2, 8)] ++ put 0x20 [(0, 4, 0x80)] ++
    put 0x80 [(8 * q, 4, 0x200), (8 * q + 4, 4, 1)] ++ (descs.flatten ++ zeros 0x100).take 0x100 ++ step

/-- A descriptor of a direct tile in the scratchpad of logical die 0. -/
def tileD (fmt rows cols stride off : Nat) : Bytes := put 32 [(2, 1, fmt), (4, 6, off), (0xC, 4, stride), (0x10, 3, cols - 1), (0x14, 2, rows - 1)]

/-- The job of the tests. -/
def job0 : Job := { ring := some 0, dies := [1], img := imgAt, len := 0x220 }

/-- Polder 0 runs `job0`, `step` at the head of queue `q`. -/
def oneStep (q : Nat) (step : Bytes) (descs : List Bytes) : State :=
  (s0.withMem imgAt (tables q step descs)).withPol fun P => { P with job := some job0 }

/-- `Ready` and `rowsAre`, so that a test can evaluate them. -/
theorem ready_iff {s : State} {p d q : Nat} {j : Job} {b : Bytes} {fx : MemFx} : s.Ready p d q j b fx ↔
    (s.mem.wf = true ∧ s.w.headStep p d q = some (j, b)) ∧ tokensReady (s.dev.die (j.site d)).tokens ((j.queue d q).needs (stepWaits b)) = true ∧
      fx.fail = .none :=
  ⟨fun h => ⟨⟨h.mem, h.head⟩, h.waits, h.fine⟩, fun h => ⟨h.1.1, h.1.2, h.2.1, h.2.2⟩⟩
def rowsIs (s : State) (j : Job) (d : Nat) (b : Bytes) (rows max n : Nat) : Bool :=
  match stepCount b with
  | none => n == rows
  | some c => n == tget 0 (s.dev.die (j.site d)).counts c && decide (n ≤ max)
theorem rowsAre_iff {s : State} {j : Job} {d : Nat} {b : Bytes} {rows max n : Nat} : s.rowsAre j d b rows max n ↔ rowsIs s j d b rows max n = true := by
  cases h : stepCount b <;> simp [State.rowsAre, rowsIs, h]

/-- A step that names count slot 31. -/
def counted (b : Bytes) : Bytes := b.take 6 ++ [0x3F] ++ b.drop 7

end Sys2Proof.Tests

/-! ## Vector steps -/

namespace Sys2Proof.Tests

/-- A VECTOR step of opcode `op`, flags `x` and output format `out`, on descriptors 0, 1 and 2, into 3 and 4. -/
def vstep (op x out : Nat) (p : Nat := 0) (imm : Nat := 0) : Bytes :=
  put 32 [(0, 8, op + 256 * 2), (8, 2, 0), (0xA, 2, 1), (0xC, 2, 2), (0xE, 2, 3), (0x10, 2, 4), (0x14, 4, imm), (0x18, 4, p), (0x1C, 4, out * 2 ^ 12 + x * 2 ^ 19)]

/-- The state of a test of a VECTOR step: tiles of two rows of two columns in the formats `fs`, and a few bytes of data. -/
def vstate (b : Bytes) (fs : List Nat) (cols : List Nat := [2, 2, 2, 2, 2]) : State :=
  ((oneStep 8 b ((fs.zip cols).zipIdx.map fun x => tileD x.1.1 2 x.1.2 64 (0x100 + 0x100 * x.2))).withMem (spBase 1 + 0x102) [0x80, 0x3F, 0, 0, 0, 0x40]).withMem
    (spBase 1 + 0x240) [1]

/-- `VecReady` on `n` rows, of engine 0 and `job0`, as a test. -/
abbrev VecOk (s : State) (b : Bytes) (reg n : Nat) : Prop :=
  (s.mem.wf = true ∧ s.w.headStep 0 0 8 = some (job0, b) ∧ tokensReady (s.dev.die (job0.site 0)).tokens ((job0.queue 0 8).needs (stepWaits b)) = true) ∧
    stepKind b = 2 ∧ (stepCount b = none ∧ n = (s.regionOf job0 0 reg).1) ∧ 0 < n ∧
    s.w.ownTiles job0 0 [(vstepOf b).src0, (vstepOf b).src1, (vstepOf b).src2, (vstepOf b).dst, (vstepOf b).dst2] = true

theorem vecReady_of {s : State} {b : Bytes} {reg n : Nat} (h : VecOk s b reg n) : s.VecReady 0 0 0 job0 b {} reg n where
  ready := ⟨h.1.1, h.1.2.1, h.1.2.2, rfl⟩
  kind := h.2.1
  engine := by decide
  rows := by simp only [State.rowsAre, h.2.2.1.1]; exact h.2.2.1.2
  some := h.2.2.2.1
  own := h.2.2.2.2

/-- Every write lies where polder 0 may write. -/
def writable (d : Dev) (l : List (Nat × Bytes)) : Bool := l.all fun x => d.reach .dma 0 (localPart x.1) x.2.length true == (x.2.length, none)

theorem mayWrite_of {d : Dev} {l : List (Nat × Bytes)} (h : writable d l = true) : d.mayWrite 0 l := by
  intro x hx
  simpa using List.all_eq_true.mp h x hx

/-- What a reading gives, or nothing. -/
def okOr {ε α : Type} (d : α) : Except ε α → α
  | .ok x => x
  | .error _ => d

theorem ok_of {ε α : Type} {d : α} {x : Except ε α} (h : x.toBool = true) : x = .ok (okOr d x) := by
  cases x <;> simp_all [Except.toBool, okOr]

/-- The premises of `RowsRun`. -/
def RowsHyp {α : Type} (want : Bytes → Bool) (m : Nat) (get : VC → Nat → Nat → Except StepErr (List α)) (row : VC → List (List α) → List CF) : Prop :=
  ∃ (s : State) (p d e n : Nat) (j : Job) (b : Bytes) (fx : MemFx) (xs : Nat → Nat → List α),
    s.VecReady p d e j b fx (vstepOf b).src0 n ∧ want b = true ∧
    let c := s.vecView p d e j b fx n (s.regionOf j d (vstepOf b).src0).2
    let srcs := [(vstepOf b).src0, (vstepOf b).src1, (vstepOf b).src2].take m
    let res := fun r => row c (srcs.map fun i => xs i r)
    (∀ i ∈ srcs, i = 0xFFFE ∨ (c.tile i).cols = 1 ∨ (c.tile i).cols = c.cols) ∧
    (∀ i ∈ srcs, ∀ r < n, get c i r = .ok (xs i r)) ∧ s.dev.mayWrite p (elTiles c res)

/-- The same, as a test on one state. -/
abbrev RowsOk {α : Type} (want : Bytes → Bool) (m : Nat) (get : VC → Nat → Nat → Except StepErr (List α)) (row : VC → List (List α) → List CF)
    (s : State) (b : Bytes) : Prop :=
  let c := s.vecView 0 0 0 job0 b {} 2 (s.regionOf job0 0 (vstepOf b).src0).2
  let srcs := [(vstepOf b).src0, (vstepOf b).src1, (vstepOf b).src2].take m
  (VecOk s b (vstepOf b).src0 2 ∧ want b = true) ∧
    (∀ i ∈ srcs, (i = 0xFFFE ∨ (c.tile i).cols = 1 ∨ (c.tile i).cols = c.cols) ∧ ∀ r < 2, (get c i r).toBool = true) ∧
    writable s.dev (elTiles c fun r => row c (srcs.map fun i => okOr [] (get c i r))) = true

theorem rowsHyp_of {α : Type} {want : Bytes → Bool} {m : Nat} {get : VC → Nat → Nat → Except StepErr (List α)} {row : VC → List (List α) → List CF}
    {s : State} {b : Bytes} (h : RowsOk want m get row s b) : RowsHyp want m get row :=
  ⟨s, 0, 0, 0, 2, job0, b, {}, fun i r => okOr [] (get _ i r), vecReady_of h.1.1, h.1.2, fun i hi => (h.2.1 i hi).1,
    fun i hi r hr => ok_of ((h.2.1 i hi).2 r hr), mayWrite_of h.2.2⟩

/-- Opcodes of the float steps with their number of sources and what they compute. -/
def floatOps : List (Nat × Nat × (Bool → List Nat → CF)) :=
  [(0x01, 2, bin fAdd), (0x02, 2, bin fSub), (0x03, 2, bin fMul), (0x04, 3, tern fFma), (0x05, 2, bin fMin), (0x06, 2, bin fMax), (0x07, 3, tern fClamp),
    (0x08, 1, una fAbs), (0x09, 1, una fNeg), (0x0B, 3, tern fSel), (0x0C, 1, una fCvt)]

/-- The premises of `ElementwiseFloat` are met: by each operation on FP32 sources with a BF16 result, and by each relation of CMP. -/
theorem witness_ElementwiseFloat :
    (∀ x ∈ floatOps, RowsHyp (opIs x.1) x.2.1 VC.floats (floatRow x.2.2 outCode)) ∧
    ∀ rel ∈ [0, 1, 2, 3, 4, 5], RowsHyp (relIs rel) 2 VC.floats (floatRow (bin (fCmp rel)) fun _ _ _ x => x) := by
  have h : ∀ x ∈ floatOps, RowsOk (opIs x.1) x.2.1 VC.floats (floatRow x.2.2 outCode) (vstate (vstep x.1 0 1) [0, 0, 0, 1, 0]) (vstep x.1 0 1) := by
    decide +kernel
  have h' : ∀ rel ∈ [0, 1, 2, 3, 4, 5], RowsOk (relIs rel) 2 VC.floats (floatRow (bin (fCmp rel)) fun _ _ _ x => x)
      (vstate (vstep 0x0A rel 0x22) [0, 0, 0, 0x22, 0]) (vstep 0x0A rel 0x22) := by decide +kernel
  exact ⟨fun x hx => rowsHyp_of (h x hx), fun rel hx => rowsHyp_of (h' rel hx)⟩

/-- Opcodes of the integer steps with what they compute. -/
def intOps : List (Nat × (Int → Int → Int × Nat)) :=
  [(0x10, iAdd), (0x11, iSub), (0x12, iMin), (0x13, iMax), (0x14, iBits (· &&& ·)), (0x15, iBits (· ||| ·)), (0x16, iBits (· ^^^ ·)), (0x17, iShl), (0x18, iShr)]

/-- The premises of `ElementwiseInteger` are met: by each operation on an INT32 and an INT8 source with a U8 result. -/
theorem witness_ElementwiseInteger : ∀ x ∈ intOps, RowsHyp (opIs x.1) 2 intSource (intRow x.2) := by
  have h : ∀ x ∈ intOps, RowsOk (opIs x.1) 2 intSource (intRow x.2) (vstate (vstep x.1 0 0x22) [0x21, 0x20, 0, 0x22, 0]) (vstep x.1 0 0x22) := by
    decide +kernel
  exact fun x hx => rowsHyp_of (h x hx)

def sfuOps : List (Nat × Fn) :=
  [(0x20, .exp2), (0x21, .exp), (0x22, .log2), (0x23, .ln), (0x24, .rcp), (0x25, .rsqrt), (0x26, .sqrt), (0x27, .tanh), (0x28, .erf), (0x29, .sigmoid),
    (0x2A, .silu), (0x2B, .softplus), (0x2C, .geluErf), (0x2D, .geluTanh), (0x2E, .sin), (0x2F, .cos)]

/-- The premises of `SfuRuns`, of a row function `row`. -/
def FuncHyp (op : Nat) (row : VC → List CF → List CF) : Prop :=
  ∃ (s : State) (p d e n : Nat) (j : Job) (b : Bytes) (fx : MemFx) (xs : Nat → List CF),
    s.VecReady p d e j b fx (vstepOf b).src0 n ∧ opIs op b = true ∧
    let c := s.vecView p d e j b fx n (s.regionOf j d (vstepOf b).src0).2
    (∀ r < n, c.floats (vstepOf b).src0 r = .ok (xs r)) ∧
    s.dev.mayWrite p (cutTiles c fun r => [c.put (vstepOf b).dst r ((row c (xs r)).map Prod.fst)])

abbrev FuncOk (op : Nat) (row : VC → List CF → List CF) (s : State) (b : Bytes) : Prop :=
  let c := s.vecView 0 0 0 job0 b {} 2 (s.regionOf job0 0 (vstepOf b).src0).2
  (VecOk s b (vstepOf b).src0 2 ∧ opIs op b = true) ∧ (∀ r < 2, (c.floats (vstepOf b).src0 r).toBool = true) ∧
    writable s.dev (cutTiles c fun r => [c.put (vstepOf b).dst r ((row c (okOr [] (c.floats (vstepOf b).src0 r))).map Prod.fst)]) = true

theorem funcHyp_of {op : Nat} {row : VC → List CF → List CF} {s : State} {b : Bytes} (h : FuncOk op row s b) : FuncHyp op row :=
  ⟨s, 0, 0, 0, 2, job0, b, {}, fun _ => okOr [] _, vecReady_of h.1.1, h.1.2, fun r hr => ok_of (h.2.1 r hr), mayWrite_of h.2.2⟩

/-- The premises of `SpecialFunctions` are met by each function on an FP16 source. -/
theorem witness_SpecialFunctions : ∀ x ∈ sfuOps, FuncHyp x.1 (funcRow fun c => sfu c.T x.2) := by
  have h : ∀ x ∈ sfuOps, FuncOk x.1 (funcRow fun c => sfu c.T x.2) (vstate (vstep x.1 0 0) [2, 0, 0, 0, 0]) (vstep x.1 0 0) := by decide +kernel
  exact fun x hx => funcHyp_of (h x hx)

end Sys2Proof.Tests

namespace Sys2Proof.Tests

/-- The result of a row under its mask. -/
def redCode (k : Red) (c : VC) (xs : List CF) (ms : List Bool) : Nat :=
  let kept := ((xs.zip ms).filter Prod.snd).map Prod.fst
  let y := reduceRow k c.ftz (kept.map Prod.fst)
  (outCode c.st.outFmt c.ftz c.st.e4nan (y.1, y.2 ||| flagsOf kept)).1

/-- The premises of `RedRuns`. -/
def RedHyp (op : Nat) (k : Red) : Prop :=
  ∃ (s : State) (p d e n : Nat) (j : Job) (b : Bytes) (fx : MemFx) (xs : Nat → List CF) (ms : Nat → List Bool),
    s.VecReady p d e j b fx (vstepOf b).src0 n ∧ opIs op b = true ∧
    let c := s.vecView p d e j b fx n (s.regionOf j d (vstepOf b).src0).2
    (∀ r < n, c.floats (vstepOf b).src0 r = .ok (xs r) ∧ c.mask (vstepOf b).src1 r = .ok (ms r)) ∧
    s.dev.mayWrite p (cutTiles c fun r => [c.put (vstepOf b).dst r [redCode k c (xs r) (ms r)]])

abbrev RedOk (op : Nat) (k : Red) (s : State) (b : Bytes) : Prop :=
  let c := s.vecView 0 0 0 job0 b {} 2 (s.regionOf job0 0 (vstepOf b).src0).2
  (VecOk s b (vstepOf b).src0 2 ∧ opIs op b = true) ∧
    (∀ r < 2, (c.floats (vstepOf b).src0 r).toBool = true ∧ (c.mask (vstepOf b).src1 r).toBool = true) ∧
    writable s.dev (cutTiles c fun r => [c.put (vstepOf b).dst r
      [redCode k c (okOr [] (c.floats (vstepOf b).src0 r)) (okOr [] (c.mask (vstepOf b).src1 r))]]) = true

theorem redHyp_of {op : Nat} {k : Red} {s : State} {b : Bytes} (h : RedOk op k s b) : RedHyp op k :=
  ⟨s, 0, 0, 0, 2, job0, b, {}, fun _ => okOr [] _, fun _ => okOr [] _, vecReady_of h.1.1, h.1.2,
    fun r hr => ⟨ok_of (h.2.1 r hr).1, ok_of (h.2.1 r hr).2⟩, mayWrite_of h.2.2⟩

/-- The premises of `RowReductions` are met by each reduction under a U8 mask. -/
theorem witness_RowReductions : ∀ x ∈ [(0x40, Red.max), (0x41, .min), (0x42, .sum), (0x43, .ssq)], RedHyp x.1 x.2 := by
  have h : ∀ x ∈ [(0x40, Red.max), (0x41, .min), (0x42, .sum), (0x43, .ssq)],
      RedOk x.1 x.2 (vstate (vstep x.1 0 0) [0, 0x22, 0, 0, 0]) (vstep x.1 0 0) := by decide +kernel
  exact fun x hx => redHyp_of (h x hx)

/-- The premises of `SumRuns`. -/
def SumHyp (k : Nat) : Prop :=
  ∃ (s : State) (p d e n : Nat) (j : Job) (b : Bytes) (fx : MemFx) (xs : Nat → List CF),
    s.VecReady p d e j b fx (vstepOf b).src0 n ∧ sumIs k b = true ∧
    ∀ r < n, (s.vecView p d e j b fx n (s.regionOf j d (vstepOf b).src0).2).floats (vstepOf b).src0 r = .ok (xs r)

abbrev SumOk (k : Nat) (s : State) (b : Bytes) : Prop :=
  (VecOk s b (vstepOf b).src0 2 ∧ sumIs k b = true) ∧
    ∀ r < 2, ((s.vecView 0 0 0 job0 b {} 2 (s.regionOf job0 0 (vstepOf b).src0).2).floats (vstepOf b).src0 r).toBool = true

theorem sumHyp_of {k : Nat} {s : State} {b : Bytes} (h : SumOk k s b) : SumHyp k :=
  ⟨s, 0, 0, 0, 2, job0, b, {}, fun _ => okOr [] _, vecReady_of h.1.1, h.1.2, fun r hr => ok_of (h.2 r hr)⟩

/-- The premises of `VecRuns`. -/
def VecHyp (want : Bytes → Bool) (region : VStep → Nat) (body : VC → VOut) : Prop :=
  ∃ (s : State) (p d e n : Nat) (j : Job) (b : Bytes) (fx : MemFx),
    s.VecReady p d e j b fx (region (vstepOf b)) n ∧ want b = true ∧
    let c := s.vecView p d e j b fx n (s.regionOf j d (region (vstepOf b))).2
    (body c).err = none ∧ s.dev.mayWrite p (body c).writes

abbrev VecBodyOk (want : Bytes → Bool) (region : VStep → Nat) (body : VC → VOut) (s : State) (b : Bytes) : Prop :=
  let o := body (s.vecView 0 0 0 job0 b {} 2 (s.regionOf job0 0 (region (vstepOf b))).2)
  (VecOk s b (region (vstepOf b)) 2 ∧ want b = true) ∧ o.err = none ∧ writable s.dev o.writes = true

theorem vecHyp_of {want : Bytes → Bool} {region : VStep → Nat} {body : VC → VOut} {s : State} {b : Bytes} (h : VecBodyOk want region body s b) :
    VecHyp want region body :=
  ⟨s, 0, 0, 0, 2, job0, b, {}, vecReady_of h.1.1, h.1.2, h.2.1, mayWrite_of h.2.2⟩

/-- The premises of `SummaryWords` are met, by word 7. -/
theorem witness_SummaryWords : (∀ k ∈ [0, 1, 2, 3, 4], SumHyp k) ∧ VecHyp (sumIs 5) (·.src0) (fun _ => {}) := by
  have h : ∀ k ∈ [0, 1, 2, 3, 4], SumOk k (vstate (vstep 0x80 k 0 7) [0, 0, 0, 0, 0]) (vstep 0x80 k 0 7) := by decide +kernel
  exact ⟨fun k hk => sumHyp_of (h k hk),
    vecHyp_of (s := vstate (vstep 0x80 5 0 (7 + 31 * 256)) [0, 0, 0, 0, 0]) (b := vstep 0x80 5 0 (7 + 31 * 256)) (by decide +kernel)⟩

/-- The premises of `RowFunctions` are met: by both norms, a causal soft maximum, a rotation of two columns, the best two of a row, a quantisation to FP16, a
dequantisation from INT8, and sampling of a padding row. -/
theorem witness_RowFunctions :
    VecHyp (opFlag 0x48 0 false) (·.src0) (VC.norm false) ∧ VecHyp (opFlag 0x48 0 true) (·.src0) (VC.norm true) ∧
    VecHyp (opIs 0x50) (·.src0) VC.softmax ∧ VecHyp (opIs 0x58) (·.src0) VC.rope ∧ VecHyp (opIs 0x68) (·.src0) VC.topk ∧
    VecHyp (opIs 0x70) (·.src0) VC.quant ∧ VecHyp (opIs 0x71) (·.src0) VC.dequant ∧ VecHyp (opIs 0x88) (·.src0) VC.sample := by
  refine ⟨vecHyp_of (s := vstate (vstep 0x48 0 0) [0, 0, 0, 0, 0]) (b := vstep 0x48 0 0) ?_, vecHyp_of (s := vstate (vstep 0x48 1 0) [0, 0, 0, 0, 0]) (b := vstep 0x48 1 0) ?_,
    vecHyp_of (s := vstate (vstep 0x50 4 1) [0, 0, 0x21, 1, 0]) (b := vstep 0x50 4 1) ?_,
    vecHyp_of (s := vstate (vstep 0x58 0 0 2) [0, 0x21, 0, 0, 0] [2, 1, 1, 2, 2]) (b := vstep 0x58 0 0 2) ?_,
    vecHyp_of (s := vstate (vstep 0x68 0 0 1) [0, 0x22, 0, 0, 0x21]) (b := vstep 0x68 0 0 1) ?_,
    vecHyp_of (s := vstate (vstep 0x70 0 2) [0, 0, 0, 2, 0]) (b := vstep 0x70 0 2) ?_,
    vecHyp_of (s := vstate (vstep 0x71 0 0) [0x20, 0, 0, 0, 0]) (b := vstep 0x71 0 0) ?_,
    vecHyp_of (s := (vstate (vstep 0x88 0 0x21) [0, 0x22, 0, 0x21, 0] [2, 64, 2, 2, 2]).withMem (spBase 1 + 0x200) (List.replicate 128 0xFF)) (b := vstep 0x88 0 0x21) ?_⟩ <;>
    decide +kernel

/-- The premises of `MovementAndCounts` are met, by each command in its row mode and, where it has one, in its element mode. -/
theorem witness_MovementAndCounts :
    (∀ x ∈ [0, 1], VecHyp (fun b => opIs 0x60 b && opFlag 0x60 0 (x == 1) b) (·.dst)
      (fun c => if c.st.x.testBit 0 then c.gatherEl
        else c.moveRows (c.tile c.st.src0).rows fun r i => (c.rawRow (c.tile c.st.src0) i).map (c.putRaw (c.tile c.st.dst) r))) ∧
    (∀ x ∈ [0, 1], VecHyp (fun b => opFlag 0x61 1 false b && opFlag 0x61 0 (x == 1) b) (·.src0)
      (fun c => if c.st.x.testBit 0 then c.scatterEl (fun _ _ v => (v, 0))
        else c.moveRows (c.tile c.st.dst).rows fun r i => (c.rawRow (c.tile c.st.src0) r).map (c.putRaw (c.tile c.st.dst) i))) ∧
    (∀ x ∈ [0, 1], VecHyp (fun b => opFlag 0x61 1 true b && opFlag 0x61 0 (x == 1) b) (·.src0)
      (fun c => if c.st.x.testBit 0 then c.scatterEl fAdd else c.scatterAddRows)) ∧
    VecHyp (opIs 0x79) (·.src0)
      (fun c => c.moveRows (c.tile c.st.dst).rows fun r i => (c.rawRow (c.tile c.st.src0) r).map (c.putRaw (c.tile c.st.dst) i)) ∧
    VecHyp (opIs 0x7B) (·.dst) (fun c => { writes := [c.put c.st.dst 0 [tget 0 (c.w.d.die (c.j.site c.d)).counts (c.st.p % 32)]] }) ∧
    VecHyp (opIs 0x78) (·.src0) VC.compress ∧
    VecHyp (opIs 0x7A) (·.src0)
      (fun c => match c.codes c.st.src0 0 with
        | .ok _ => {}
        | .error er => { err := some er }) := by
  refine ⟨fun x hx => ?_, fun x hx => ?_, fun x hx => ?_,
    vecHyp_of (s := vstate (vstep 0x79 0 0) [0, 0x21, 0, 0, 0] [2, 1, 2, 2, 2]) (b := vstep 0x79 0 0) (by decide +kernel),
    vecHyp_of (s := vstate (vstep 0x7B 0 0x21 31) [0, 0, 0, 0x21, 0]) (b := vstep 0x7B 0 0x21 31) (by decide +kernel),
    vecHyp_of (s := vstate (vstep 0x78 0 0 31) [0, 0x22, 0, 0, 0x21] [2, 1, 2, 2, 1]) (b := vstep 0x78 0 0 31) (by decide +kernel),
    vecHyp_of (s := vstate (vstep 0x7A 0 0x21 31) [0x21, 0, 0, 0, 0]) (b := vstep 0x7A 0 0x21 31) (by decide +kernel)⟩ <;>
  (simp only [List.mem_cons, List.not_mem_nil, or_false] at hx; obtain rfl | rfl := hx)
  · exact vecHyp_of (s := vstate (vstep 0x60 0 0) [0, 0x21, 0, 0, 0] [2, 1, 2, 2, 2]) (b := vstep 0x60 0 0) (by decide +kernel)
  · exact vecHyp_of (s := vstate (vstep 0x60 1 0) [0, 0x21, 0, 0, 0] [2, 2, 2, 2, 2]) (b := vstep 0x60 1 0) (by decide +kernel)
  · exact vecHyp_of (s := vstate (vstep 0x61 0 0) [0, 0x21, 0, 0, 0] [2, 1, 2, 2, 2]) (b := vstep 0x61 0 0) (by decide +kernel)
  · exact vecHyp_of (s := vstate (vstep 0x61 1 0) [0, 0x21, 0, 0, 0] [2, 2, 2, 2, 2]) (b := vstep 0x61 1 0) (by decide +kernel)
  · exact vecHyp_of (s := vstate (vstep 0x61 2 0) [0, 0x21, 0, 0, 0] [2, 1, 2, 2, 2]) (b := vstep 0x61 2 0) (by decide +kernel)
  · exact vecHyp_of (s := vstate (vstep 0x61 3 0) [0, 0x21, 0, 0, 0] [2, 2, 2, 2, 2]) (b := vstep 0x61 3 0) (by decide +kernel)

/-- A bank 0 of site 1's engine 0 that is ACTIVE and holds user slot 11, empty of entries. -/
def userBank (s : State) : State := s.withDev fun d => { d with banks := [(4, { st := 4, user := [(11, [])] })] }

/-- The premises of `UserFunctions` are met, with the slot of USER0 there and with the slot of USER4 empty. -/
theorem witness_UserFunctions :
    (∃ (s : State) (b : Bytes) (xs : Nat → List CF), s.VecReady 0 0 0 job0 b {} (vstepOf b).src0 2 ∧ 0x30 ≤ stepOp b ∧ stepOp b ≤ 0x34 ∧
      let bank := s.dev.bank (s.dev.fnActive (job0.site 0) 0)
      let slot := 11 + (stepOp b - 0x30)
      let c := s.vecView 0 0 0 job0 b {} 2 (s.regionOf job0 0 (vstepOf b).src0).2
      bank.user.any (·.1 == slot) = true ∧ (∀ r < 2, c.floats (vstepOf b).src0 r = .ok (xs r)) ∧
      s.dev.mayWrite 0 (cutTiles c fun r =>
        [c.put (vstepOf b).dst r ((funcRow (fun _ => (userSlot (tget [] bank.user slot)).eval) c (xs r)).map Prod.fst)])) ∧
    ∃ (s : State) (b : Bytes), s.VecReady 0 0 0 job0 b {} (vstepOf b).src0 2 ∧ 0x30 ≤ stepOp b ∧ stepOp b ≤ 0x34 ∧
      (s.dev.bank (s.dev.fnActive (job0.site 0) 0)).user.any (·.1 == 11 + (stepOp b - 0x30)) = false := by
  constructor
  · refine ⟨userBank (vstate (vstep 0x30 0 0) [0, 0, 0, 0, 0]), vstep 0x30 0 0, fun _ => okOr [] _, vecReady_of ?_, ?_, ?_, ?_, fun r hr => ok_of ?_, mayWrite_of ?_⟩
    case refine_5 => revert r hr; decide +kernel
    all_goals decide +kernel
  · refine ⟨userBank (vstate (vstep 0x34 0 0) [0, 0, 0, 0, 0]), vstep 0x34 0 0, vecReady_of ?_, ?_⟩ <;> decide +kernel

/-- The premises of `CountedSteps` are met, by an FADD with a count above its maximum of 1 and with a count of zero. -/
theorem witness_CountedSteps : ∃ x ∈ vecCmds, ∃ (s t : State) (b : Bytes),
    (∀ u ∈ [s, t], u.w.headStep 0 0 8 = some (job0, b) ∧
      tokensReady (u.dev.die (job0.site 0)).tokens ((job0.queue 0 8).needs (stepWaits b)) = true) ∧
    stepKind b = 2 ∧ x.2 b = true ∧ stepCount b = some 31 ∧ (vstepOf b).cmax < tget 0 (t.dev.die (job0.site 0)).counts 31 ∧
    tget 0 (s.dev.die (job0.site 0)).counts 31 = 0 := by
  refine ⟨(Instr.fadd, opIs 0x01), List.mem_append_left _ (List.mem_cons_self ..), vstate (counted (vstep 0x01 0 0)) [0, 0, 0, 0, 0],
    (vstate (counted (vstep 0x01 0 0)) [0, 0, 0, 0, 0]).withDev fun d => { d with dies := [(1, { stack := 3, counts := [(31, 2)] })] },
    counted (vstep 0x01 0 0), ?_⟩
  decide +kernel

/-- The premises of `StepsStayInside` are met: an FADD, a USER0 and a TRANSFORM each answer a next state. -/
theorem witness_StepsStayInside : ∀ c ∈ [Instr.fadd 0 0 0 {}, .usern 0 0 0 {}, .transform 0 0 {}], ∃ t, exec c (vstate (vstep 0x01 0 0) [0, 0, 0, 0, 0]) = .next t := by
  intro c hc
  simp only [List.mem_cons, List.not_mem_nil, or_false] at hc
  obtain rfl | rfl | rfl := hc <;> exact ⟨_, rfl⟩

end Sys2Proof.Tests

/-! ## The transform unit and the arrays -/

namespace Sys2Proof.Tests

/-- An ARRAY step: one pass of `ks` over a tile of one row and one column, `first` and `last` as given, operands 0 and 1, result 2. -/
def astep (op ks out : Nat) (first last : Bool) : Bytes :=
  put 32 [(0, 8, op + 256), (8, 2, 0), (0xA, 2, 1), (0xC, 2, 2), (0x18, 4, ks), (0x1C, 4, out + (if first then 2 ^ 12 else 0) + (if last then 2 ^ 13 else 0))]

/-- The state of a test of an ARRAY step on logical array 7: operand rows of `ks` elements, of which A's first element is 1.0 or so. -/
def astate (b : Bytes) (fmt ks out : Nat) : State :=
  (oneStep 7 b [tileD fmt 1 ks 64 0x100, tileD fmt 1 ks 64 0x200, tileD out 1 1 64 0x300]).withMem (spBase 1 + 0x100) [0x80, 0x3F]

/-- `PassReady` on array 7 with a tile of one element, as a test. -/
abbrev PassOk (s : State) (op : ArrOp) (b : Bytes) : Prop :=
  let A := s.dev.array 1 (s.dev.physOf 1 7)
  let w := s.issued 0 0 7 job0 b {}
  (s.mem.wf = true ∧ s.w.headStep 0 0 7 = some (job0, b) ∧ tokensReady (s.dev.die (job0.site 0)).tokens ((job0.queue 0 7).needs (stepWaits b)) = true) ∧
    (stepKind b = 1 ∧ stepOp b = op.code) ∧ (w.passDims job0 0 A b (passOf b) == .ok (1, 1)) = true ∧
    (w.passOperands 0 job0 0 (passOf b) A 1 1).toBool = true

/-- The operands of a test's pass. -/
def passRows (s : State) (b : Bytes) : List OpRow × List OpRow :=
  okOr ([], []) ((s.issued 0 0 7 job0 b {}).passOperands 0 job0 0 (passOf b) (s.dev.array 1 (s.dev.physOf 1 7)) 1 1)

theorem passReady_of {s : State} {op : ArrOp} {b : Bytes} (h : PassOk s op b) : PassReady s op 0 0 7 job0 b {} 1 1 (passRows s b).1 (passRows s b).2 where
  ready := ⟨h.1.1, h.1.2.1, h.1.2.2, rfl⟩
  kind := h.2.1.1
  code := h.2.1.2
  array := by decide
  rows := by decide
  cols := by decide
  dims := beq_iff_eq.mp h.2.2.1
  reads := ok_of h.2.2.2

/-- What a test's pass computes where the arrays form `errs` wrongly, and what it writes. -/
def passWrites (op : ArrOp) (s : State) (b : Bytes) (errs : List (Nat × BlkErr)) : List (Nat × Bytes) :=
  let P := passOf b
  let r := passCompute op (s.w.tile job0 0 P.a).f (s.w.tile job0 0 P.b).f (job0.ftzOf 0) P 1 1 (s.dev.array 1 (s.dev.physOf 1 7)) (passRows s b).1 (passRows s b).2 errs
  r.rows.zipIdx.map fun (c, i) => (job0.rowAddr (s.w.tile job0 0 P.res) i, pack (s.w.tile job0 0 P.res).f.w c)

/-- Array operations with operand format, K and output format. -/
def arrOps : List (ArrOp × Nat × Nat × Nat) :=
  [(.matmul, 1, 16, 0), (.distL2sq, 1, 16, 0), (.distL1, 1, 16, 0), (.maxplus, 1, 16, 0), (.minplus, 1, 16, 0), (.hamming, 0x23, 512, 0x21), (.cmpcount, 1, 16, 0x21)]

/-- The premises of `ArrayPasses` are met by each operation, at the only pass of a tile and at one that is not the last. -/
theorem witness_ArrayPasses : ∀ x ∈ arrOps, ∀ last ∈ [true, false], ∃ (s : State) (b : Bytes),
    PassReady s x.1 0 0 7 job0 b {} 1 1 (passRows s b).1 (passRows s b).2 ∧ s.dev.mayWrite 0 (passWrites x.1 s b []) ∧ (passOf b).last = last := by
  have h : ∀ x ∈ arrOps, ∀ last ∈ [true, false],
      let b := astep x.1.code x.2.2.1 x.2.2.2 true last
      let s := astate b x.2.1 x.2.2.1 x.2.2.2
      PassOk s x.1 b ∧ writable s.dev (passWrites x.1 s b []) = true ∧ (passOf b).last = last := by decide +kernel
  exact fun x hx last hl => ⟨_, _, passReady_of (h x hx last hl).1, mayWrite_of (h x hx last hl).2.1, (h x hx last hl).2.2⟩

/-- The same of `MismatchHoldsThePass`, for a checksum column whose sum is one too large. -/
theorem witness_MismatchHoldsThePass : ∀ x ∈ arrOps, ∃ (s : State) (b : Bytes) (ck : List ArrErr),
    PassReady s x.1 0 0 7 job0 b {} 1 1 (passRows s b).1 (passRows s b).2 ∧ (∀ e ∈ ck, e.back = 0) ∧
    passChecks x.1 (s.w.tile job0 0 (passOf b).a).f (s.w.tile job0 0 (passOf b).b).f (job0.ftzOf 0) (passOf b) (passRows s b).1 (passRows s b).2
      (ck.map fun e => (e.j, e.err)) ≠ [] ∧
    s.dev.mayWrite 0 (passWrites x.1 s b (ck.map fun e => (e.j, e.err))) := by
  have h : ∀ x ∈ arrOps,
      let b := astep x.1.code x.2.2.1 x.2.2.2 true true
      let s := astate b x.2.1 x.2.2.1 x.2.2.2
      PassOk s x.1 b ∧ passChecks x.1 (s.w.tile job0 0 (passOf b).a).f (s.w.tile job0 0 (passOf b).b).f (job0.ftzOf 0) (passOf b) (passRows s b).1
        (passRows s b).2 [(0, .column 0 1)] ≠ [] ∧ writable s.dev (passWrites x.1 s b [(0, .column 0 1)]) = true := by decide +kernel
  exact fun x hx => ⟨_, _, [{ j := 0, err := .column 0 1 }], passReady_of (h x hx).1, by decide, (h x hx).2.1, mayWrite_of (h x hx).2.2⟩

/-- The premises of `TilesOverTwoPasses` are met: a row of 64 elements, with and without scales, split after its first block of 32. -/
theorem witness_TilesOverTwoPasses : ∀ sc ∈ [[], [5, 6]],
    let r : OpRow := { codes := List.replicate 64 3, scales := sc ++ sc }
    let h : OpRow := { codes := List.replicate 32 3, scales := sc }
    SplitRows (kBlock .matmul (fmtD 0x20) (fmtD 0x20)) 1 [r] [h] [h] ∧ [r].length = 1 := by
  intro sc hs
  refine ⟨⟨rfl, rfl, ?_⟩, rfl⟩
  rintro (_ | i) a b c ha hb hc
  · simp only [List.getElem?_cons_zero, Option.some.injEq] at ha hb hc
    subst ha hb hc
    simp only [List.mem_cons, List.not_mem_nil, or_false] at hs
    obtain rfl | rfl := hs
    · exact ⟨by decide, by decide, rfl, Or.inr rfl⟩
    · exact ⟨by decide, by decide, rfl, Or.inl (by decide)⟩
  · simp at ha

/-- The premises of `NanDecides` are met, by a NaN of either operand. -/
theorem witness_NanDecides :
    let x : Blk := { vals := [.num false 1 0, .nan], sigs := [1, 0], lsb := 0, g := .num false 1 0, special := true, fl := 0, keep := 0 }
    let y : Blk := { vals := [.num true 3 0, .inf false], sigs := [-3, 0], lsb := 0, g := .num false 1 0, special := true, fl := 0, keep := 0 }
    [x][0]? = some x ∧ [y][0]? = some y ∧ x.vals[1]? = some .nan ∧ y.vals[1]? = some (.inf false) ∧ ArrOp.matmul ≠ .hamming ∧ ArrOp.matmul ≠ .cmpcount ∧
      (FV.nan = .nan ∧ x.special = true) := by
  decide

/-- A TRANSFORM step into WB16-E4M3 with a smoothing offset and a rotation of 32. -/
def tstep : Bytes := put 32 [(0, 8, 1 + 256 * 3), (8, 2, 0), (0xA, 2, 1), (0x10, 8, 1), (0x18, 4, 2 ^ 15 + 0x10 * 2 ^ 18)]
def tstate : State :=
  (oneStep 10 tstep [tileD 0 1 32 128 0x100, tileD 0x10 1 32 64 0x200]).withMem (spBase 1 + 0x102) [0x80, 0x3F]

/-- The premises of `TransformSteps` are met. -/
theorem witness_TransformSteps :
    let s := tstate
    let b := tstep
    let src := s.w.tile job0 0 (fld b 8 2)
    let dst := s.w.tile job0 0 (fld b 0xA 2)
    ∃ xs : Nat → List Nat, s.Ready 0 0 10 job0 b {} ∧ stepKind b = 3 ∧ s.rowsAre job0 0 b src.rows (fld b 0xC 2 + 1) 1 ∧
      s.w.ownTiles job0 0 [fld b 8 2, fld b 0xA 2] = true ∧
      (∀ r < 1, (s.issued 0 0 10 job0 b {}).rowCodes 0 job0 src (if src.rows = 1 then 0 else r) = .ok (xs r)) ∧
      let res := fun r => transformRow (job0.ftzOf 2) false (fmtD 0x10) none (gsizeOf 1) false (lfsrSigns src.cols (fld b 0x10 8))
        ((xs r).map (widenCode src.f (job0.ftzOf 2)))
      s.dev.mayWrite 0 ((chunksOf 64 (ceilDiv 1 64) (List.range 1)).flatMap fun tile => colTiles (64 * dst.f.w) (tile.map fun r =>
        (job0.rowAddr dst r, pack dst.f.w (res r).1) ::
          (if (res r).2.1.isEmpty then [] else [(job0.scaleAddr dst r, (res r).2.1.map (BitVec.ofNat 8 ·))]))) := by
  refine ⟨fun r => okOr [] ((tstate.issued 0 0 10 job0 tstep {}).rowCodes 0 job0 (tstate.w.tile job0 0 0) (if (tstate.w.tile job0 0 0).rows = 1 then 0 else r)),
    ⟨?_, ?_, ?_, rfl⟩, ?_, ?_, ?_, fun r hr => ok_of ?_, mayWrite_of ?_⟩
  case refine_7 => revert r hr; decide +kernel
  case refine_5 => rfl
  case refine_1 => exact (by decide +kernel : tstate.mem.wf = true)
  all_goals decide +kernel

end Sys2Proof.Tests

/-! ## Power, resets and every command -/

namespace Sys2Proof.Tests

def s0Aon (f : Aon → Aon) : State := s0.withDev fun d => { d with aon := f d.aon }

/-- The premises of `PowerUp`'s clauses: reset; a powered device; and devices whose CORE_OK, clock or PERST# comes last, or comes before another. -/
theorem witness_PowerUp :
    State.reset.dev.aon.rail33 = false ∧ s0.dev.aon.rail33 = true ∧
    (∀ f ∈ [fun (A : Aon) => { A with coreOk := false }, fun A => { A with refclk := false }, fun A => { A with perst := true }, fun A => A],
      let s := (s0Aon f).withDev fun d => { d with sec := {} }
      s.dev.aon.rail33 = true ∧ s.dev.aon.rail12 = true ∧ s.dev.aon.hubTrip = false ∧ s.dev.aon.tripHold = false ∧ s.dev.sec.boot = 0) ∧
    (let A := (s0Aon fun A => { A with coreOk := false }).dev.aon
     A.refclk = true ∧ A.perst = false) ∧
    (let A := (s0Aon fun A => { A with refclk := false }).dev.aon
     A.coreOk = true ∧ A.perst = false) ∧
    (let A := (s0Aon fun A => { A with perst := true }).dev.aon
     A.coreOk = true ∧ A.refclk = true) := by
  decide +kernel

theorem witness_DeviceResets :
    s0.dev.aon.rail33 = true ∧ s0.dev.aon.rail12 = true ∧ s0.dev.aon.perst = false ∧ s0.dev.aon.refclk = true ∧ s0.dev.aon.linkUp = true ∧
      s0.dev.aon.powered = true ∧ s0.dev.aon.tripHold = false := by
  decide +kernel

/-- Each kind of sensor that the device has. -/
theorem witness_ThermalTrips :
    s0.dev.aon.rail33 = true ∧ s0.dev.aon.rail12 = true ∧
      ∀ k ∈ [Sensor.hubDie, .computeDie 1, .dramDie 1, .linkDie 0], s0.dev.hasSensor k = true ∧ (sensorTrip k).isSome = true := by
  decide +kernel

def queued (c : Instr) (s : State) : State := { s with pending := [c] }

theorem witness_StepRunsFront : (queued (.vfEnable 2) s0).pending = .vfEnable 2 :: [] := rfl

/-- The hub counter counts, and stands still without its clock. -/
theorem witness_IdleTick :
    s0.pending = [] ∧ s0.dev.aon.rail33 = true ∧ s0.dev.aon.refclk = true ∧ State.reset.pending = [] ∧
      State.reset.dev.aon.refclk = false := by
  decide

/-- A step from a state in canonical form that answers. -/
theorem witness_MemoryStaysCanonical : ∃ t, s0.memOk ∧ step (queued (.vfEnable 2) s0) = .next t := ⟨_, rfl, rfl⟩

theorem witness_FusesOnlyBlow :
    ∃ t, step (queued (.vfEnable 2) s0) = .next t ∧ exec (.vfEnable 2) s0 = .next t ∧ burns (.vfEnable 2) = false ∧ s0.dev.sec.pulses = [] ∧
      ∀ ok, Instr.vfEnable 2 ≠ .fuseProgramComplete ok :=
  ⟨_, rfl, rfl, rfl, rfl, by simp⟩

end Sys2Proof.Tests

/-! ## The security processor -/

namespace Sys2Proof.Tests

def State.sec (s : State) (f : Sec → Sec) : State := s.withDev fun d => { d with sec := f d.sec }

/-- The public key of the private key 1. -/
def key1 : Bytes := toBe 48 p384G.1 ++ toBe 48 p384G.2
/-- The signed part of the header of a firmware image of 4 KiB with six empty stages, for each variant, of SVN 0. -/
def fwHead : Bytes :=
  put 0x120 ([(0, 4, 0x4D524946), (4, 2, 2), (6, 2, 7), (0x12, 1, 6), (0x18, 4, 0x1000)] ++ (List.range 6).flatMap fun i => [(0x20 + 16 * i, 1, i + 1), (0x24 + 16 * i, 4, 0x200)]) ++
    key1 ++ zeros 0x20
/-- The digest of its signed part. -/
def fwZ : Nat := 0x315cd352ead230a11a1565cc049f00e081e01744e3c52bdd3c701fa143257165f4c39cc9708ca20c14acaaaea0c5dfd0
/-- Its signature by the key's secret number 1. -/
def fwSig : Bytes := toBe 48 (p384G.1 % p384N) ++ toBe 48 ((fwZ + p384G.1) % p384N)
def fwImage : Bytes := fwHead ++ fwSig
/-- `m` steps of `ecMul` from bit `n + m`, so that a long one is computed in parts. -/
def ecRun (k : Nat) (p : EcPoint) (n : Nat) : Nat → EcPoint → EcPoint
  | 0, acc => acc
  | m + 1, acc => ecRun k p n m (if k.testBit (n + m) then ecAdd (ecAdd acc acc) p else ecAdd acc acc)

theorem ecMul_run (k : Nat) (p : EcPoint) (n m : Nat) (acc : EcPoint) : ecMul k p (n + m) acc = ecMul k p n (ecRun k p n m acc) := by
  induction m generalizing acc with
  | zero => rfl
  | succ m ih => exact ih _

def fwU1 : Nat := 0xd8ea38f5008bb817ce0f51d95f1a0281959cf175003d015b924e1d0aa802cd1215ae2d6b323825875919b5b9c3bc103f
def fwU2 : Nat := 0x2715c70aff7447e831f0ae26a0e5fd7e6a630e8affc2fea4351530774c3460cd426be047167881f393d263b109091935
def fwA1 : EcPoint := some (0x5ffa16bf54a819444520e907cb18dd2be46e38e0e151192e1a70f760908a8cc1ed806c06426032c7c8106f0a607f7884,
      0x418e2362edd748ee6d0cf4a7192557a51fe233028642538a4ffe9a67e8b02046e06033f8f838c29b069acbf186856846)
def fwA2 : EcPoint := some (0x4b47028ff669b9817b279ccd9539b56dd5bbc0a3c5ae1793c702ab3e6aa10ff33041ca6c4f454b3c49cd4e752bb4e38b,
      0x3a9db5c1d7f543068b392a9dd288d6ff8fc3b5052636ec473dd1c254126f057a3e87595731c2508853653d46a997e4ec)
def fwA3 : EcPoint := some (0x8dcbe9f78a635e0edd3e48994d9e9ecb005543f78b10176a19f28bc7c8848b9f45f64fe3cba808ad62c7cf8debfde167,
      0x5f0deefb3f23e23a2b2e6835834bb01c7f23a9874c744fea1a6c1af0f3b7b3e90838a788457a8d5a1f59d5db275a9103)
def fwA4 : EcPoint := some (0x8b70c8d7e3babde795748c16201227eb2c521a8cc5c1134a1dcbc7cdee0d46146c6c7367be90dff7df5c686508b1eb6d,
      0x4938ecf4f1dc56e04eff32d24eeb24ce3e7ef8e5048a4e3a223ae2674280fa6e7afe12348c65ebd820d313ac2712b784)
def fwA5 : EcPoint := some (0x4d10eb0136bdfee6c994b6056aca856532e9ef7b0d2d0ce72755991feb8881ca2beef5973b6805fb54f231951edd0ff4,
      0x415accf0230aa2a787312291bf085ae7245b71d4e37703d5a74517eda005b5398796897157da4bcdd7edb9d712169cd9)
def fwA6 : EcPoint := some (0xa0bb907ccdf17b03cb4eb7a625b05ab81637eb8781884edfca5f95739f921d59639200996ceed165a94429182882257a,
      0xcecdbcd98e6c2a45f80dabd8bba597218d8a613e72d77b06866e1c54e2d07733b6d5939e7b91c0194c9a1494a0065514)
theorem fwA_1 : ecRun fwU1 (some p384G) 320 64 none = fwA1 := by decide +kernel
theorem fwA_2 : ecRun fwU1 (some p384G) 256 64 fwA1 = fwA2 := by decide +kernel
theorem fwA_3 : ecRun fwU1 (some p384G) 192 64 fwA2 = fwA3 := by decide +kernel
theorem fwA_4 : ecRun fwU1 (some p384G) 128 64 fwA3 = fwA4 := by decide +kernel
theorem fwA_5 : ecRun fwU1 (some p384G) 64 64 fwA4 = fwA5 := by decide +kernel
theorem fwA_6 : ecRun fwU1 (some p384G) 0 64 fwA5 = fwA6 := by decide +kernel
theorem fwA_all : ecMul fwU1 (some p384G) 384 none = fwA6 := by
  rw [ecMul_run _ _ 320 64, fwA_1, ecMul_run _ _ 256 64, fwA_2, ecMul_run _ _ 192 64, fwA_3, ecMul_run _ _ 128 64, fwA_4, ecMul_run _ _ 64 64, fwA_5, ecMul_run _ _ 0 64, fwA_6]
  rfl
def fwB1 : EcPoint := some (0x18b4bff3a63fc06a2d54b16893be264ef5eff44ef94255ad93ae069d1eca58400704fad60c90a729a8b60e028d264792,
      0x38649c8e1d67899bd2034742b88dc6418f6f7f73b49b90cf38bcbb58eb12be313e992591779e46a2a9b4351d011187a2)
def fwB2 : EcPoint := some (0xbc461430c72c6a2073a0c1e9bb61ab3db60a95e80c9b7ccd50e44fdb3bddcf7c6644d5ba360cb59b6a44d0342dda56c6,
      0xf995e2cffbb6bd1233e88045428b26b098c3686e1480ba0684e911428abb32e5b1198de1a35897896173dbd5c8a23a46)
def fwB3 : EcPoint := some (0x36013522ebc8e1bc290661e5df0d6b5cfd4a72ea5af68a99b6b0db922198793c45d044d8e8db15ce7d7f13e5da6b077b,
      0xcb5c1592e4512d45e357ca9b77a3bb8696b62a9419d0c6205a9401f39e6b6d30658bffcc49a3f545ce3515dbd4d1edd7)
def fwB4 : EcPoint := some (0x9fc592f2d8e3ee8ad4e313c05a2f0c984630a9a056faacc9a2860fd9b2b9c0ba34ea7f4fcc91092b2fe295b02c0bd78c,
      0x58b8190f78caf92619564ccb5860fa1135db4abdbdefb3f9f85eb402b610635ce2592065a03afdbd5dbdd815bee65291)
def fwB5 : EcPoint := some (0x1eeaf4190bdef9cdaac879678dd25da4412004e76133eb4fdf5b5cfec3ee2f116bdc30b68fe5c4b08752e0ed8f06d0db,
      0x6e2e8703ac0351b213e5254461884dbb40493900f8a756200ac56bb880ef7bce31a2a0db9ae899c437fb6da2d984b59f)
def fwB6 : EcPoint := some (0xb53c41500102bbb0a74832e1df8c216960f94b563145e58f3cd8bb4c7ab73ee84df68b11bd3ed6eba655b026544d8c5e,
      0x622b2369b51906dec90b123ff7259ac2ca66051ded6183ad26515c2d7a5a88000116adf5ce16d3128a133c366791d159)
theorem fwB_1 : ecRun fwU2 (some p384G) 320 64 none = fwB1 := by decide +kernel
theorem fwB_2 : ecRun fwU2 (some p384G) 256 64 fwB1 = fwB2 := by decide +kernel
theorem fwB_3 : ecRun fwU2 (some p384G) 192 64 fwB2 = fwB3 := by decide +kernel
theorem fwB_4 : ecRun fwU2 (some p384G) 128 64 fwB3 = fwB4 := by decide +kernel
theorem fwB_5 : ecRun fwU2 (some p384G) 64 64 fwB4 = fwB5 := by decide +kernel
theorem fwB_6 : ecRun fwU2 (some p384G) 0 64 fwB5 = fwB6 := by decide +kernel
theorem fwB_all : ecMul fwU2 (some p384G) 384 none = fwB6 := by
  rw [ecMul_run _ _ 320 64, fwB_1, ecMul_run _ _ 256 64, fwB_2, ecMul_run _ _ 192 64, fwB_3, ecMul_run _ _ 128 64, fwB_4, ecMul_run _ _ 64 64, fwB_5, ecMul_run _ _ 0 64, fwB_6]
  rfl

theorem ecdsaVerify_of {key sig msg : Bytes} {q : Nat × Nat} {r s u1 u2 : Nat} {a b : EcPoint} {c : Nat × Nat} (hq : be (slice key 0 48) = q.1 ∧ be (slice key 48 48) = q.2)
    (hs : be (slice sig 0 48) = r ∧ be (slice sig 48 48) = s) (ok : ¬ (r = 0 ∨ s = 0 ∨ r ≥ p384N ∨ s ≥ p384N ∨ (!(ecOnCurve q.1 q.2)) = true))
    (h1 : be (sha384 msg) * invMod s p384N % p384N = u1) (h2 : r * invMod s p384N % p384N = u2) (ha : ecMul u1 (some p384G) 384 none = a)
    (hb : ecMul u2 (some q) 384 none = b) (hc : ecAdd a b = some c) (hx : c.1 % p384N = r) : ecdsaVerify key sig msg = true := by
  unfold ecdsaVerify
  simp only [hq.1, hq.2, hs.1, hs.2, h1, h2, ha, hb, hc]
  rw [if_neg ok]
  simp [hx]

theorem fw_digest : be (sha384 (fwHead ++ zeros 0xE00)) = fwZ := by decide +kernel
theorem fw_verifies : ecdsaVerify key1 fwSig (fwHead ++ zeros 0xE00) = true := by
  refine ecdsaVerify_of (q := p384G) (r := p384G.1 % p384N) (s := (fwZ + p384G.1) % p384N) (u1 := fwU1) (u2 := fwU2) (c := p384G) (by decide +kernel)
    (by decide +kernel) (by decide +kernel) ?_ (by decide +kernel) fwA_all fwB_all (by decide +kernel) (by decide +kernel)
  rw [fw_digest]
  decide +kernel

/-- The boot ROM verifies that image. -/
def fwState : State :=
  (rom.withDev fun d => { d with sec := { d.sec with boot := 2, cmdLen := 0x1000 }, aon := { d.aon with shadow := { signerDig := [be (sha384 key1)] } } }).withMem storeBase fwImage

/-- SEC_BOOT_CMD in WAIT and in another state; an image whose push stopped; an image to be started. -/
theorem witness_FirmwareLoad :
    rom.dev.aon.linkUp = true ∧ rom.dev.sec.boot = 1 ∧ s0.dev.aon.linkUp = true ∧ s0.dev.sec.boot ≠ 1 ∧
    (let s := State.sec rom fun S => { S with boot := 2, pushBad := true }
     s.dev.sec.boot = 2 ∧ s.dev.sec.verified = false ∧ ¬ s.dev.sec.pushBad = false) ∧
    (let s := State.sec rom fun S => { S with boot := 2, verified := true }
     s.dev.sec.boot = 2 ∧ s.dev.sec.verified = true) := by
  decide +kernel

/-- An image that passes every check of R392. -/
theorem witness_FirmwareLoad_passes :
    let s := fwState
    let h := s.mem.read storeBase 0x200
    let f := s.dev.aon.shadow
    let k := fld h 0x11 1 % 4
    s.dev.sec.boot = 2 ∧ s.dev.sec.verified = false ∧ s.dev.sec.pushBad = false ∧ fwHeaderOk h = true ∧ fld h 0x18 4 = s.dev.sec.cmdLen ∧
      0x1000 ≤ fld h 0x18 4 ∧ fld h 0x18 4 ≤ storeSize ∧ fld h 0x18 4 % 64 = 0 ∧ (fld h 6 2).testBit s.dev.variant = true ∧ f.signerRev.testBit k = false ∧
      be (sha384 (slice h 0x120 96)) = lget 0 f.signerDig k ∧
      ecdsaVerify (slice h 0x120 96) (slice h 0x1A0 96) (h.take 0x1A0 ++ s.mem.read (storeBase + 0x200) (fld h 0x18 4 - 0x200)) = true ∧
      svnCount f.svn ≤ fld h 0x10 1 ∧ fld h 0x10 1 ≤ 128 := by
  have hk : slice (fwState.mem.read storeBase 0x200) 0x120 96 = key1 := by decide +kernel
  have hs : slice (fwState.mem.read storeBase 0x200) 0x1A0 96 = fwSig := by decide +kernel
  have hm : (fwState.mem.read storeBase 0x200).take 0x1A0 ++
      fwState.mem.read (storeBase + 0x200) (fld (fwState.mem.read storeBase 0x200) 0x18 4 - 0x200) = fwHead ++ zeros 0xE00 := by decide +kernel
  intro s h f k
  iterate 11 refine ⟨by decide +kernel, ?_⟩
  refine ⟨?_, by decide +kernel⟩
  show ecdsaVerify (slice (fwState.mem.read storeBase 0x200) 0x120 96) (slice (fwState.mem.read storeBase 0x200) 0x1A0 96) _ = true
  rw [hk, hs, hm]
  exact fw_verifies

theorem secReady_s0 : SecReady s0 := ⟨by decide +kernel, by decide +kernel, by decide +kernel⟩
theorem secReady_bare (f : Sec → Sec) (h1 : (f bare.dev.sec).busy = false) (h2 : (f bare.dev.sec).boot = 3) : SecReady (State.sec bare f) :=
  ⟨rfl, h1, by show ((f bare.dev.sec).boot == 3) = true; rw [h2]; rfl⟩

/-- The signed part of a service token of type `ty` for the device with no DeviceID key, at nonce 0. -/
def tokHead (ty : Nat) : Bytes := put 8 [(0, 4, 0x4E4B5454), (4, 2, 2), (6, 1, ty)] ++ sha384 [] ++ zeros 0x28
/-- The token under key (x, y), whose signature is the digest twice. -/
def token (ty x y : Nat) : Bytes := tokHead ty ++ sha384 (tokHead ty) ++ sha384 (tokHead ty) ++ toBe 48 x ++ toBe 48 y
/-- Keys under which those signatures verify. -/
def dbgX : Nat := 0x3E7A8BD946D8F1FDCA3867434A01A7924DC05BDDE901FA686922FF9C00364C09619AE249A50B655FD40EA2915C8A6FF8
def dbgY : Nat := 0x1DC06C3FFB30638256E81D4B01D27CA88E400620CFA5CF9F40B276E553184FDB357238BD9B91B2736817BB0333716D4
def retX : Nat := 0x5C5C8AF3D6FBCBC3E65A419D94080609B51CC7405A071AEB760FD7CD0CB63D3DAFF34E7F990466C8A1FAE7F7DE8C139A
def retY : Nat := 0x669649D92AE760DCF58EB16569AE41E2889CB327CCEF5AF6BBB76BD4B984595B69359C27DD5ACFDCF0276D9BE30D447
/-- A device in service that trusts such a key. -/
def tokState (x y : Nat) : State := bare.withDev fun d => { d with aon := { d.aon with shadow := { serviceDig := be (sha384 (toBe 48 x ++ toBe 48 y)) } } }

/-- SVN 1 on an image of SVN 1, SVN 0, and a life cycle past SECURED; each life-cycle command where its gate allows it and where it does not; pulses of two kinds. -/
theorem witness_FuseCommands :
    (let s := State.sec bare fun S => { S with svnImage := 1 }
     s.dev.sec.lc = 1 ∧ svnCount s.fuses.svn < 1 % 256 ∧ 1 % 256 ≤ s.dev.sec.svnImage ∧ 0 % 256 ≤ svnCount s.fuses.svn ∧ s.dev.allEmpty = true) ∧
    (let s := (State.sec bare fun S => { S with lc := 0 }).withDev fun d => { d with aon := { d.aon with shadow := { certWritten := true } } }
     s.dev.allEmpty = true ∧ s.dev.sec.lc = 0 ∧ s.dev.aon.shadow.certWritten = true) ∧
    (let s := State.sec bare fun S => { S with lc := 2 }
     2 ≤ s.dev.sec.lc ∧ s.dev.sec.lc ≠ 0) ∧
    ((tokState retX retY).dev.allEmpty = true ∧ (tokState retX retY).dev.sec.lc = 1 ∧ (tokState retX retY).dev.tokenOk (token 2 retX retY) 2 = true) ∧
    bare.dev.tokenOk [] 2 = false ∧ s0.dev.allEmpty = false ∧
    (State.sec bare fun S => { S with pulses := [.svn 0] }).dev.sec.pulses = FusePulse.svn 0 :: [] ∧
    (State.sec bare fun S => { S with pulses := [.repair 0 1] }).dev.sec.pulses = FusePulse.repair 0 1 :: [] := by
  decide +kernel

/-- Those states are ready for a command. -/
theorem witness_FuseCommands_ready : SecReady s0 ∧ SecReady (State.sec bare fun S => { S with svnImage := 1 }) ∧ SecReady (tokState retX retY) :=
  ⟨secReady_s0, secReady_bare _ rfl rfl, ⟨rfl, rfl, rfl⟩⟩

theorem witness_FieldDebug :
    let s := tokState dbgX dbgY
    SecReady s ∧ s.memOk ∧ s.dev.allEmpty = true ∧ s.dev.sec.lc = 1 ∧ s.dev.tokenOk (token 1 dbgX dbgY) 1 = true :=
  ⟨⟨rfl, rfl, rfl⟩, rfl, rfl, rfl, by decide +kernel⟩

/-- A responder that has negotiated up to `phase`, with one open session, one that waits for FINISH, a chain of 8 bytes and a key for stream 4. -/
def talker (phase : Nat) : State := State.sec bare fun S =>
  { S with spdm := [(0, { phase := phase, ver := 0x13 })], chain := toLe 8 1, ide := [(4, 9, true)]
           sessions := [{ fn := 0, id := 5, opened := true }, { fn := 0, id := 6 }] }

theorem witness_SpdmAnswers :
    (∀ ph ∈ [0, 1, 2, 3], (talker ph).dev.doeOk 0 = true ∧ ph ≤ ((talker ph).dev.spdm 0).phase) ∧
    ((talker 3).dev.openSession 0 5).isSome = true ∧ 7 < (talker 3).dev.sec.chain.length ∧
    ((talker 3).dev.measurements 0 (zeros 32) 0).filter (·.1 == 1) ≠ [] ∧ ((talker 2).dev.spdm 0).phase < 3 := by
  decide +kernel

/-- A request within that session; outside any session there is nothing to show. -/
theorem witness_SpdmAnswers_within : within (talker 3) 0 (some 5) ∧ within (talker 3) 0 none :=
  ⟨fun _ h => by cases h; decide, fun _ h => by cases h⟩

theorem witness_SpdmSessions :
    (talker 3).dev.doeOk 0 = true ∧ 3 ≤ ((talker 3).dev.spdm 0).phase ∧
    ((State.sec (talker 3) fun S => { S with sessions := [] }).dev.sec.sessions.filter (·.fn == 0)).length < 2 ∧
    2 ≤ ((talker 3).dev.sec.sessions.filter (·.fn == 0)).length ∧
    ((talker 3).dev.sec.sessions.find? fun x => x.fn == 0 && x.id == 6 && !x.opened).isSome = true ∧
    ((talker 3).dev.openSession 0 5).isSome = true ∧ (talker 3).dev.openSession 0 6 = none ∧
    (talker 3).dev.sec.ide.find? (fun x => x.1 == 4) = some (4, 9, true) ∧
    (let s := (State.sec bare fun S => { S with spdm := [(1, { phase := 3 })], sessions := [{ fn := 1, id := 5, opened := true }] }).withDev fun d =>
       { d with hub := { d.hub with numVfs := 1 } }
     s.dev.doeOk 1 = true ∧ 3 ≤ (s.dev.spdm 1).phase ∧ (s.dev.openSession 1 5).isSome = true) := by
  decide +kernel

end Sys2Proof.Tests

/-! ## Rings -/

namespace Sys2Proof.Tests

/-- SUBMIT ring 0 five entries behind the wrap of its index and two from it; a device-filled ring 1; a ring 5 that is off. -/
def ringS : State := (s0.withRing 0 fun R => { R with tail := 2 ^ 32 - 2, head := 2 ^ 32 - 5 }).withRing 1 fun R => { R with head := 3, tail := 9 }

/-- Each clause at the ends of its range: no advance, one behind, 2^31 ahead, one ahead, a full ring, one more. -/
theorem witness_Doorbells :
    ringS.dev.hostReach 0 = true ∧ ringS.dev.running = true ∧ ringS.dev.reachesPfD 0 (ringS.dev.ringPol 0) = true ∧ ringS.dev.reachesPfD 0 (ringS.dev.ringPol 5) = true ∧
    (let s := ringS.withDev fun d => { d with hub := { d.hub with numVfs := 2 } }
     s.dev.hostReach 2 = true ∧ s.dev.reachesPfD 2 (s.dev.ringPol 0) = false) ∧
    (ringS.dev.ring 5).st ≠ 1 ∧
    (let R := ringS.dev.ring 0
     R.st = 1 ∧ R.hostFills = true ∧ sub32 (2 ^ 32 - 2) R.tail = 0 ∧ 2 ^ 31 ≤ sub32 (2 ^ 32 - 3) R.tail ∧ sub32 (2 ^ 31 - 3) R.tail = 2 ^ 31 - 1 ∧
       2 ^ 31 ≤ sub32 (2 ^ 31 - 2) R.tail ∧ 0 < sub32 (2 ^ 32 - 1) R.tail ∧ sub32 11 R.tail < 2 ^ 31 ∧ sub32 11 R.head ≤ R.size ∧ R.size < sub32 12 R.head ∧
       sub32 12 R.tail < 2 ^ 31) ∧
    (let R := ringS.dev.ring 1
     R.st = 1 ∧ R.hostFills = false ∧ R.kind ≠ 4 ∧ sub32 3 R.head = 0 ∧ 2 ^ 31 ≤ sub32 2 R.head ∧ 0 < sub32 9 R.head ∧ sub32 R.tail 9 ≤ R.size ∧
       0 < sub32 10 R.head ∧ R.size < sub32 R.tail 10) ∧
    64 / 64 = 1 ∧ (8 : Nat) ≠ 4 := by
  decide +kernel

/-- A ring of 16 entries with 5 to fetch, the last at the end of its memory; reads of entries and of data in flight. -/
theorem witness_EntriesAndReads :
    let s := s0.withRing 0 fun R => { R with tail := 20, head := 15 }
    let t := after (.entryFetch 0) s
    let u := s0.withDev fun d => { d with hub := { d.hub with reads := [{ tag := 0, addr := 64, len := 64, purpose := .descData 0 }] } }
    s.dev.mayFetch 0 = true ∧
    (t.dev.hread 0 = some { tag := 0, addr := 0x10000 + 64 * 15, len := 64, purpose := .entries 0 15 1 } ∧ t.dev.aon.linkUp = true ∧ (t.dev.ring 0).st = 1 ∧
      (t.dev.ring 0).kind ≠ 4 ∧ (zeros 64).length = 64) ∧
    (u.dev.hread 0 = some { tag := 0, addr := 64, len := 64, purpose := .descData 0 }) ∧
      ∀ n ∈ [0, 1, 16], ReadFor.descData 0 ≠ .entries 0 n n := by
  decide +kernel

/-- The fields of RING_CTRL: KIND, LOG2SIZE and CQ. -/
def ctrl (kind log2 cq : Nat) : Nat := kind + log2 * 2 ^ 8 + cq * 2 ^ 16
def ringSet (v : Nat) (R : Ring) : Ring := { R with kind := bits v 2 0, cq := if bits v 2 0 = 0 then bits v 28 16 else 0, log2 := bits v 11 8 }
/-- Ring 0 is off; its COMPLETE ring is on. -/
def offS : State := s0.withDev fun d => { d with rings := [(1, { kind := 1, st := 1, log2 := 4, base := 0x30000 })] }

/-- SUBMIT rings of the least and of the greatest size that the field can say. -/
theorem witness_RingLifeCycle_enables : ∀ v ∈ [ctrl 0 6 1, ctrl 0 15 1], (offS.dev.ring 0).st = 0 ∧ bits v 2 0 ≤ 4 ∧ Enables (offS.w.modRing 0 (ringSet v)).d 0 := by
  intro v hv
  simp only [List.mem_cons, List.not_mem_nil, or_false] at hv
  rcases hv with rfl | rfl <;>
    exact ⟨by decide +kernel, by decide +kernel, by decide +kernel, by decide +kernel, (rfl : (offS.dev.pol 0).hasCtx 0 = true), by decide +kernel, by decide +kernel⟩

/-- A ring too small, and one whose COMPLETE ring is itself. -/
theorem witness_RingLifeCycle_refused : ¬ Enables (offS.w.modRing 0 (ringSet (ctrl 0 5 1))).d 0 ∧ ¬ Enables (offS.w.modRing 0 (ringSet (ctrl 0 6 0))).d 0 :=
  ⟨fun h => absurd h.size (by decide +kernel), fun h => absurd h.cq (by decide +kernel)⟩

theorem witness_RingLifeCycle :
    Reaches offS 0 (offS.dev.ringPol 0) ∧ Reaches s0 0 (s0.dev.ringPol 0) ∧ Reaches s0 0 (s0.dev.ringPol 1) ∧
    (let R := s0.dev.ring 1
     R.st = 1 ∧ R.kind = 1 ∧ R.log2 < 16 ∧ R.cq < 8192 ∧ s0.dev.cqBusy 1 = true) ∧
    (let R := s0.dev.ring 0
     R.st = 1 ∧ R.kind ≤ 4 ∧ R.kind ≠ 1 ∧ R.kind ≠ 4 ∧ R.waits = false) ∧
    (let s := after (.ringDisable 0 0) s0
     (s.dev.ring 0).st = 2 ∧ (s.dev.ring 0).desc = none) ∧
    s0.dev.hostReach 0 = true ∧ s0.dev.running = true ∧ (tget (0x20, false) s0.dev.hub.ifSel 0).2 = false ∧
    (let s := s0.withDev fun d => { d with hub := { d.hub with ifSel := [(0, (0x21, true))] } }
     (tget (0x20, false) s.dev.hub.ifSel 0).2 = true) := by
  (repeat' apply And.intro) <;> decide +kernel

/-! ## Descriptors -/

/-- A descriptor of type `ty` and version 2.0 with fields. -/
def ent (ty : Nat) (l : List (Nat × Nat × Nat)) : Bytes := put 64 ((0, 1, ty) :: (1, 1, 0x20) :: l)
/-- Ring 0 of `s` holds the entry `e`. -/
def holds (e : Bytes) (s : State) : State := s.withRing 0 fun R => { R with tail := 1, batch := [e] }

theorem takes_of {s : State} {r : Nat} {e : Bytes} (h : (s.dev.takeable r == some e && (s.dev.ring (s.dev.ring r).cq).kind == 1) = true) : Takes s r e := by
  simp only [Bool.and_eq_true, beq_iff_eq] at h
  exact ⟨h.1, h.2⟩
theorem passes_of {s : State} {r : Nat} {e : Bytes} {l : Bool} (h : (s.dev.verOk (s.dev.ringFn r) (dVer e) && headOk e && l) = true) : Passes s r e l := by
  simp only [Bool.and_eq_true] at h
  exact ⟨h.1.1, h.1.2, h.2⟩

/-- The entry `e`, of layout `l`, is taken from ring 0 of `s` and passes steps 1 and 2 of R208. -/
def taken (s : State) (e : Bytes) (l : Bool) : Bool :=
  s.dev.takeable 0 == some e && (s.dev.ring (s.dev.ring 0).cq).kind == 1 && (s.dev.verOk (s.dev.ringFn 0) (dVer e) && headOk e && l)
theorem taken_of {s : State} {e : Bytes} {l : Bool} (h : taken s e l = true) : Takes s 0 e ∧ Passes s 0 e l := by
  simp only [taken, Bool.and_eq_true] at h
  exact ⟨takes_of (by simp only [Bool.and_eq_true]; exact h.1), passes_of (by simp only [Bool.and_eq_true]; exact h.2)⟩

theorem taken_iff {s : State} {e : Bytes} {l : Bool} : (Takes s 0 e ∧ Passes s 0 e l) ↔ taken s e l = true := by
  refine ⟨fun h => ?_, taken_of⟩
  simp only [taken, Bool.and_eq_true, beq_iff_eq]
  exact ⟨⟨h.1.able, h.1.cq⟩, ⟨h.2.1, h.2.2.1⟩, h.2.2.2⟩

/-- A descriptor of another version, and one with a reserved bit of its header set, of every type. -/
theorem witness_DescriptorsRefused :
    ∀ ty ∈ [0, 2, 3, 4, 5, 6, 7],
      let e := put 64 [(0, 1, ty), (1, 1, 0x10)]
      let g := put 64 [(0, 1, ty), (1, 1, 0x20), (3, 1, 0x80)]
      ((holds e s0).dev.takeable 0 == some e) = true ∧ ((descCmds 0 (.ok [])).any fun x => x.2.1 e) = true ∧ (holds e s0).dev.verOk 0 (dVer e) = false ∧
      ((holds g s0).dev.takeable 0 == some g) = true ∧ (holds g s0).dev.verOk 0 (dVer g) = true ∧ headOk g = false ∧
      (s0.dev.ring (s0.dev.ring 0).cq).kind = 1 := by
  decide +kernel

end Sys2Proof.Tests

namespace Sys2Proof.Tests

/-- Sluice 3 holds 7 and belongs to context 0, that of ring 0; ring 2 waits on sluice 5 for 9. -/
def sluS : State :=
  (s0.withDev fun d => { d with sluices := [(3, { value := 7, valid := true }), (5, { value := 7, valid := true })] }).withRing 2 fun _ =>
    { kind := 0, st := 1, cq := 1, log2 := 4, base := 0x40000, desc := some { bytes := ent 2 [(8, 8, 5), (0x10, 8, 9)], seq := 0, waiting := true } }
def sluAddr (i : Nat) : Nat := 0x220000000000 + 64 * i
def waitE (i v : Nat) : Bytes := ent 2 [(8, 8, i), (0x10, 8, v)]
def sigE (set chip i n : Nat) : Bytes := ent 3 [(8, 8, chip * 2 ^ 48 + sluAddr i), (0x10, 8, n), (0x18, 8, set)]

/-- Ring 0 takes the entry `e` of type `ty` and layout `l`, which passes steps 1 and 2 of R208. -/
def Fits (s : State) (e : Bytes) (ty : Nat) (l : Bytes → Bool) : Prop := (Takes s 0 e ∧ Passes s 0 e (l e)) ∧ dType e = ty
def waitOk (e : Bytes) : Bool := fld e 8 8 / 2 ^ 13 == 0 && isZero e 0x18 0x28

/-- NOP; WAIT at, below and without its threshold and without the right; SIGNAL and SET of sluices without the right, with it, and with a ring that waits for
9, which the new value reaches or does not. -/
theorem witness_SluiceDescriptors :
    Fits (holds (ent 0 []) sluS) (ent 0 []) 0 (fun e => isZero e 8 0x38) ∧
    (let e := waitE 4 0
     let s := holds e sluS
     Fits s e 2 waitOk ∧ s.dev.granted (fld e 8 8 % 2 ^ 13) (s.dev.ring 0).owner .wait = false) ∧
    (let e := waitE 3 7
     let s := holds e sluS
     Fits s e 2 waitOk ∧ s.dev.granted (fld e 8 8 % 2 ^ 13) (s.dev.ring 0).owner .wait = true ∧ fld e 0x10 8 ≤ (s.dev.sluice (fld e 8 8 % 2 ^ 13)).value) ∧
    (let e := waitE 3 8
     let s := holds e sluS
     Fits s e 2 waitOk ∧ s.dev.granted (fld e 8 8 % 2 ^ 13) (s.dev.ring 0).owner .wait = true ∧ (s.dev.sluice (fld e 8 8 % 2 ^ 13)).value < fld e 0x10 8) ∧
    (∀ set ∈ [0, 1], ∀ x ∈ [(4, 0), (3, 0), (3, 2 ^ 64 - 1), (5, 1), (5, 2), (5, 9)],
      let e := sigE set 0 x.1 x.2
      let s := holds e sluS
      let may := s.dev.granted x.1 (s.dev.ring 0).owner (if set = 1 then .set else .signal)
      Fits s e 3 signalLayoutOk ∧ isSet e = (set == 1) ∧ fld e 8 8 / 2 ^ 48 = s.dev.hub.chip ∧ sluiceAt (fld e 8 8 % 2 ^ 48) = some x.1 ∧ (may == (x.1 != 4)) = true ∧
        (if x.1 = 3 then s.dev.waiters x.1 = []
          else if x.1 = 5 then s.dev.waiters x.1 = [2] ∧ (s.dev.ring 2).desc = some { bytes := ent 2 [(8, 8, 5), (0x10, 8, 9)], seq := 0, waiting := true } ∧
            (s.dev.ring (s.dev.ring 2).cq).kind = 1 ∧ (s.dev.ring 2).kind = 0
          else s.dev.waiters x.1 = [])) := by
  simp only [Fits, taken_iff]
  decide +kernel

/-- A target that is no sluice; targets on chip 9 with no key, with the key of another polder and with its own. -/
theorem witness_SluiceDescriptors_remote :
    (let e := ent 3 [(8, 8, 64), (0x10, 8, 1)]
     Fits (holds e s0) e 3 signalLayoutOk ∧ s0.dev.ringPol 0 = some 0 ∧ fld e 8 8 / 2 ^ 48 = s0.dev.hub.chip ∧ sluiceAt (fld e 8 8 % 2 ^ 48) = none) ∧
    ∀ k ∈ [none, some 3, some 4], ∀ set ∈ [0, 1],
      let e := sigE set 9 3 1
      let s := holds e (s0.withPol fun P => { P with fabKeyed := k.isSome, fabSlot := k.getD 0 })
      Fits s e 3 signalLayoutOk ∧ s.dev.ringPol 0 = some 0 ∧ fld e 8 8 / 2 ^ 48 ≠ s.dev.hub.chip ∧ (s.dev.pol 0).keyNow = k ∧
        ((s.dev.pol 0).hasKey 3 = true ∧ (s.dev.pol 0).hasKey 4 = false) := by
  simp only [Fits, taken_iff]
  decide +kernel

def keyE (slot op len : Nat) : Bytes := ent 7 [(8, 2, slot), (0xA, 1, op), (0xC, 4, len)]
/-- A key blob for slot 3 under session 5, whose exported secret is empty: counter 1, key 0xABCD; ciphertext and tag computed by hand from the standards. -/
def keyBlob : Bytes := put 0x20 [(0, 4, 0x4B4C4257), (4, 2, 2), (8, 4, 5), (0xC, 2, 3), (0x10, 8, 1)] ++
  toBe 48 0xCC1A92ACD944CDE3C8C6335F383DEE96965D537921946F951EBAA6DF64BCC6029F03B8ACBABD744150C59B217608AEF3
def keyS : State := s0.withDev fun d => { d with sec := { d.sec with sessions := [{ fn := 0, id := 5, opened := true }] } }

/-- Slots of the polder and of another, with a job running and without, a length that is no blob's, and blobs that do not unwrap; each with the other premises. -/
theorem witness_KeyDescriptors :
    (∀ slot ∈ [3, 4], ∀ op ∈ [0, 1], ∀ len ∈ [79, 80], ∀ job ∈ [none, some job0],
      let e := keyE slot op (if op = 0 then len else 0)
      let s := holds e (keyS.withPol fun P => { P with job := job })
      Fits s e 7 keyLayoutOk ∧ s.dev.ringPol 0 = some 0 ∧ fld e 0xA 1 = op ∧ (fld e 0xC 4 = 80 ↔ op = 0 ∧ len = 80) ∧
        ((s.dev.pol 0).hasKey (fld e 8 2 % 2 ^ 10) == (slot == 3)) = true ∧ (s.dev.pol 0).job = job ∧
        s.dev.unwrap (s.dev.driver 0) (fld e 8 2 % 2 ^ 10) (zeros 80) = none) := by
  simp only [Fits, taken_iff]
  decide +kernel

/-- A blob that unwraps (R402, with HKDF (RFC 5869) and AES-256-GCM (SP 800-38D)). -/
theorem witness_KeyDescriptors_unwrap :
    (holds (keyE 3 0 80) keyS).dev.unwrap ((holds (keyE 3 0 80) keyS).dev.driver 0) (fld (keyE 3 0 80) 8 2 % 2 ^ 10) keyBlob = some (5, 1, 0xABCD) := by
  decide +kernel

/-! ## Copies, channels and apertures -/

def copyE (ch mode len src dst : Nat) : Bytes := ent 4 [(8, 1, ch), (9, 1, mode), (0xC, 4, len), (0x10, 8, src), (0x18, 8, dst)]
/-- Where the tests' copies go. -/
def at1 : Nat := stackBase 1 + 0x20000
/-- Channel 1 is `C`. -/
def chanS (C : Chan) : State := s0.withDev fun d => { d with chans := [(1, C)] }
def copyCh : Chan := { ptr := at1, limit := at1 + 64, st := 1, mode := 2 }

/-- COPYs of nothing, within the device, on a channel that is not allotted, on one that refuses it, and on one that begins it in each direction. -/
theorem witness_CopyDescriptors :
    (let e := copyE 0 2 0 at1 at1
     Fits (holds e (chanS copyCh)) e 4 copyLayoutOk ∧ fld e 0xC 4 = 0) ∧
    (let e := copyE 0 2 64 at1 (at1 + 64)
     Fits (holds e (chanS copyCh)) e 4 copyLayoutOk ∧ fld e 0xC 4 ≠ 0 ∧ fld e 9 1 = 2) ∧
    (let e := copyE 9 0 64 0x4000 0
     let s := holds e (chanS copyCh)
     Fits s e 4 copyLayoutOk ∧ fld e 0xC 4 ≠ 0 ∧ fld e 9 1 < 2 ∧ s.dev.ringPol 0 = some 0 ∧ (s.dev.pol 0).hasChan (fld e 8 1) = false) ∧
    ∀ mode ∈ [0, 1], ∀ n ∈ [64, 68],
      let e := copyE 1 mode n (if mode = 0 then 0x4000 else 0) (if mode = 0 then 0 else 0x4000)
      let s := holds e (chanS copyCh)
      Fits s e 4 copyLayoutOk ∧ fld e 0xC 4 ≠ 0 ∧ fld e 9 1 = mode ∧ s.dev.ringPol 0 = some 0 ∧ (s.dev.pol 0).hasChan (fld e 8 1) = true ∧
        noCopy s (fld e 8 1) ∧ (s.dev.copyRefused 0 e = none ↔ n = 64) := by
  simp only [Fits, taken_iff, noCopy]
  decide +kernel

/-- Ring 0 has the COPY `e` in progress, what it read from the host having come back as `bs`. -/
def copying (e : Bytes) (bs : Bytes) : State :=
  ((chanS copyCh).withRing 0 fun R => { R with desc := some { bytes := e, seq := 0, tag := some 0 } }).withDev fun d =>
    { d with hub := { d.hub with reads := if bs = [] then [] else [{ tag := 0, addr := 0x4000, len := 64, purpose := .descData 0, res := some (.ok bs) }] } }

/-- What every clause on the end of a COPY asks for. -/
def Copying (s : State) (e : Bytes) : Prop :=
  (s.dev.ring 0).desc = some { bytes := e, seq := 0, tag := some 0 } ∧ dType e = 4 ∧ (s.dev.ring (s.dev.ring 0).cq).kind = 1 ∧ (s.dev.ring 0).kind = 0 ∧
    s.dev.ringPol 0 = some 0 ∧ dQuiet e = false

theorem witness_CopyDescriptors_complete :
    (let e := copyE 0 2 64 at1 (at1 + 64)
     let s := copying e []
     Copying s e ∧ fld e 9 1 = 2 ∧ s.dev.descReads 0 = [] ∧ s.dev.reach .copy 0 (fld e 0x10 8) (fld e 0xC 4) false = (fld e 0xC 4, none) ∧
       s.dev.reach .copy 0 (fld e 0x18 8) (fld e 0xC 4) true = (fld e 0xC 4, none)) ∧
    (let e := copyE 1 0 64 0x4000 0
     let s := copying e (zeros 64)
     Copying s e ∧ fld e 9 1 = 0 ∧ onlyCopy s (fld e 8 1) 0 ∧ (∀ x ∈ s.dev.descReads 0, x.res.isSome = true) ∧
       arrivedData (s.dev.descReads 0) = (zeros 64, none) ∧ (zeros 64).length = fld e 0xC 4 ∧
       s.dev.reach .copy 0 (s.dev.chan (fld e 8 1)).ptr (fld e 0xC 4) true = (fld e 0xC 4, none)) ∧
    (let e := copyE 1 1 64 0 0x4000
     let s := copying e []
     Copying s e ∧ fld e 9 1 = 1 ∧ onlyCopy s (fld e 8 1) 0 ∧ s.dev.descReads 0 = [] ∧
       s.dev.reach .copy 0 (s.dev.chan (fld e 8 1)).ptr (fld e 0xC 4) false = (fld e 0xC 4, none)) := by
  simp only [Copying, onlyCopy]
  decide +kernel

/-- What R226 asks of the range of channel `c`. -/
def RangeOk (s : State) (c : Nat) : Prop :=
  ∃ p, s.dev.chanPol c = some p ∧ (s.dev.chan c).ptr ≤ (s.dev.chan c).limit ∧
    ((s.dev.chan c).ptr = (s.dev.chan c).limit ∨ s.dev.reachAll .copy p (s.dev.chan c).ptr ((s.dev.chan c).limit - (s.dev.chan c).ptr) false = none)

/-- Channel 1 OFF with a range of 64 bytes, of none, and with its pointer beyond its limit; ON; and a channel that no polder has. -/
theorem witness_ChannelsAndApertures :
    (∀ n ∈ [0, 64], let s := chanS { ptr := at1, limit := at1 + n }
      Reaches s 0 (s.dev.chanPol 1) ∧ (s.dev.chan 1).st = 0 ∧ RangeOk s 1) ∧
    (let s := chanS { ptr := at1 + 65, limit := at1 + 64 }
     Reaches s 0 (s.dev.chanPol 1) ∧ (s.dev.chan 1).st = 0 ∧ ¬ RangeOk s 1) ∧
    (Reaches s0 0 (s0.dev.chanPol 255) ∧ (s0.dev.chan 255).st = 0 ∧ ¬ RangeOk s0 255) ∧
    (let s := chanS copyCh
     Reaches s 0 (s.dev.chanPol 1) ∧ (s.dev.chan 1).st ≠ 0 ∧ (s.dev.chan 1).mode < 4 ∧ noCopy s 1) := by
  have reach (s : State) (c : Nat) (h : s.dev.hostReach 0 = true ∧ s.dev.running = true ∧ s.dev.reachesPfD 0 (s.dev.chanPol c) = true) :
      Reaches s 0 (s.dev.chanPol c) := h
  refine ⟨?_, ⟨reach _ _ (by decide +kernel), by decide +kernel, ?_⟩, ⟨reach _ _ (by decide +kernel), by decide +kernel, ?_⟩,
    reach _ _ (by decide +kernel), ?_⟩
  · intro n hn
    simp only [List.mem_cons, List.not_mem_nil, or_false] at hn
    rcases hn with rfl | rfl <;> exact ⟨reach _ _ (by decide +kernel), by decide +kernel, 0, by decide +kernel⟩
  · rintro ⟨p, -, h, -⟩
    exact absurd h (by decide +kernel)
  · rintro ⟨p, h, -⟩
    exact absurd h (by rw [show s0.dev.chanPol 255 = none by decide +kernel]; simp)
  · simp only [noCopy]
    decide +kernel

/-- The aperture of channel 1: stopped, in another mode, writing up to its limit and beyond it, and reading. -/
theorem witness_ChannelsAndApertures_data :
    (∀ C ∈ [{ ptr := at1, limit := at1 + 2, st := 1 }, { ptr := at1, limit := at1 + 2, st := 2 }, { ptr := at1, limit := at1 + 2, st := 1, mode := 1 },
        { ptr := at1, limit := at1 + 2, st := 2, mode := 1 }, (copyCh : Chan)],
      let s := chanS C
      s.dev.hostReach 0 = true ∧ s.dev.running = true ∧ s.dev.apChan 0 1 = some 1 ∧ s.dev.chanPol 1 = some 0 ∧ s.dev.chan 1 = C ∧
        s.dev.reach .copy 0 (s.dev.chan 1).ptr 2 true = (2, none) ∧ s.dev.reach .copy 0 (s.dev.chan 1).ptr 2 false = (2, none) ∧
        (C.ptr + [(1 : Byte), 2].length ≤ C.limit ∧ (C.limit < C.ptr + [(1 : Byte), 2, 3].length ∨ C = copyCh))) ∧
    rom.dev.hostReach 0 = true ∧ rom.dev.running = false ∧ (rom.dev.chan 0).st = 1 ∧ (rom.dev.chan 0).ptr + [(1 : Byte)].length ≤ (rom.dev.chan 0).limit := by
  decide +kernel

/-! ## Functions, grants, contexts -/

/-- Two VFs are on, VF 2 drives nothing; sluice 3 belongs to context 1 of polder 0, which VF 1 drives. -/
def grantS : State := s0.withDev fun d => { d with hub := { d.hub with numVfs := 2 }, sluices := [(3, { value := 7, valid := true, sat := true, ctx := 1 })] }
def grantV (slu ctx x : Nat) : Nat := slu + ctx * 2 ^ 16 + 2 ^ 63 + x

theorem witness_FunctionsAndGrants :
    s0.dev.aon.linkUp = true ∧ s0.dev.running = true ∧ rom.dev.aon.linkUp = true ∧ rom.dev.running = false ∧
    (∀ pend ∈ [true, false], let s := s0.withDev fun d => { d with hub := { d.hub with vecs := [(2047, { masked := true, pend := pend })] } }
     s.dev.hostReach 0 = true ∧ 2047 < vecCount 0 ∧ (s.dev.vec 0 2047).pend = pend ∧ s.dev.fnMasked 0 = false) ∧
    (let S := grantS.dev.sluice 3
     (true = S.valid ∧ bits (2 ^ 31 + 1) 11 0 = S.ctx ∧ (2 ^ 31 + 1).testBit 31 = true) ∧ (grantS.dev.pol 0).hasCtx 3 = true ∧ grantS.dev.waiters 3 = [] ∧
       bits (2 ^ 31 + 3) 11 0 ≠ S.ctx ∧ (grantS.dev.pol 0).hasCtx (bits (2 ^ 31 + 4) 11 0) = false ∧ grantS.dev.sluPol 3 = some 0) ∧
    Reaches grantS 0 (grantS.dev.sluPol 3) ∧ Reaches grantS 0 (some (255 / 256)) ∧ Reaches grantS 1 (some (255 / 256)) ∧
    (∀ x ∈ [(grantV 3 3 (2 ^ 50), true), (grantV 3 4 (2 ^ 50), false), (grantV 4 1 (2 ^ 48), false), (grantV 3 1 (2 ^ 51), false)],
      let e := grantFields x.1
      (decide (0 + 1 = 1 ∧ e.testBit 51 = false ∧ (grantS.dev.sluice (e % 2 ^ 13)).valid = true ∧ grantS.dev.sluPol (e % 2 ^ 13) = some 0 ∧
        (grantS.dev.pol 0).hasCtx (grantS.dev.sluice (e % 2 ^ 13)).ctx = true ∧ (grantS.dev.pol 0).hasCtx (bits e 28 16) = true) = x.2)) ∧
    (grantFields (grantV 3 1 (2 ^ 48 + 2 ^ 51))).testBit 48 = true ∧ (grantFields (grantV 3 1 (2 ^ 48 + 2 ^ 51))).testBit 51 = true := by
  (repeat' apply And.intro) <;> decide +kernel

/-- Context 2 of polder 0 is `C`; ring 4 is its. -/
def ctxS (C : Ctx) : State := (s0.withDev fun d => { d with ctxs := [(2, C)] }).withRing 4 fun _ => { kind := 0, st := 1, owner := 2, log2 := 4 }
/-- Its save record has been read as `res`. -/
def loadS (res : ReadRes) : State := (ctxS { enable := true, res := 2, record := some [1, 2, 3] }).withDev fun d =>
  { d with hub := { d.hub with reads := [{ tag := 4, addr := 0, len := 3, purpose := .saveRec 2, res := some res }] } }

theorem witness_Contexts :
    (∀ st ∈ [2, 3], let s := (ctxS { tenant := 5 }).withPol fun P => { P with st := st }
     Reaches s 0 (s.dev.ctxPol 2) ∧ s.dev.ctxPol 2 = some 0 ∧ (s.dev.ctx 2).enable = false ∧ 5 % 2 ^ 16 = (s.dev.ctx 2).tenant ∧ (s.dev.pol 0).st = st ∧
       (s.dev.pol 0).svc.st = 0) ∧
    (∀ st ∈ [0, 1], let s := (ctxS { tenant := 2 ^ 16 - 1, enable := true, res := 2 }).withRing 4 fun R => { R with st := st }
     Reaches s 0 (s.dev.ctxPol 2) ∧ s.dev.ctxPol 2 = some 0 ∧ (s.dev.ctx 2).enable = true ∧ (s.dev.ctx 2).tenant < 2 ^ 16 ∧
       ((∀ r ∈ s.dev.ctxRings 0 2, (s.dev.ring r).st = 0) ↔ st = 0)) ∧
    (∀ res ∈ [.ok [1, 2, 3], .ok [1, 2, 4], .err 1], let s := loadS res
      (s.dev.ctx 2).res = 2 ∧ s.dev.ctxPol 2 = some 0 ∧ (s.dev.hub.reads.find? (fun x => x.purpose == .saveRec 2)).bind (·.res) = some res ∧
        4 ∈ s.dev.ctxRings 0 2 ∧ (s.dev.ring 4).st = 1 ∧ (s.dev.ring 4).kind ≠ 4) := by
  simp only [Reaches]
  decide +kernel

end Sys2Proof.Tests

/-! ## Tables -/

namespace Sys2Proof.Tests

/-- Polder 0's banks on site 1: vector engine 0's and 1's bank 1 EMPTY, their bank 0 ACTIVE with tag 3, the smoothing banks, the page-table banks. -/
def bankS : State := s0.withDev fun d =>
  { d with banks := [(4, { st := 4, tag := 3 }), (5, { st := 1 }), (6, { st := 4, tag := 3 }), (7, { st := 1 }), (102, { st := 4 }), (103, { st := 1 }), (150, { st := 4 }), (151, { st := 1 })] }
def loadE (target bank len : Nat) : Bytes := ent 5 [(8, 1, target), (9, 1, bank), (0xA, 2, 9), (0x10, 8, 0x40000), (0x18, 4, len)]
def actE (target tag : Nat) : Bytes := ent 6 [(8, 1, target), (0xA, 2, tag)]

/-- What every clause on the start of a load asks for. -/
def LoadFits (s : State) (e : Bytes) : Prop :=
  Fits s e 5 tableLoadOk ∧ s.dev.ringPol 0 = some 0 ∧ (tTarget e < 2 → sameTenant s 0 (s.dev.ring 0).owner)

/-- Loads that begin, with a source and without, of a page table, a bank of functions and one of smoothing values; two that a bank refuses; one that waits. -/
theorem witness_TableLoads :
    (let e := loadE 1 1 8
     let s := holds e (bankS.withPol fun P => { P with job := some job0, tenant := some 5 })
     Fits s e 5 tableLoadOk ∧ s.dev.ringPol 0 = some 0 ∧ s.dev.tableWaits 0 0 e = true) ∧
    (∀ e ∈ [loadE 2 0 16, loadE 0 0 16],
      let s := holds e bankS
      LoadFits s e ∧ s.dev.tableWaits 0 0 e = false ∧ (s.dev.loadRefusal (s.dev.targetBanks 0 (tTarget e) (tBank e))).isSome = true) ∧
    (∀ e ∈ [loadE 2 1 16, loadE 1 1 8, loadE 0 1 64, (loadE 0 1 0).take 0x10 ++ zeros 48],
      let s := holds e bankS
      LoadFits s e ∧ s.dev.tableWaits 0 0 e = false ∧ s.dev.loadRefusal (s.dev.targetBanks 0 (tTarget e) (tBank e)) = none) ∧
    tLen (loadE 0 1 64) ≠ 0 ∧ tLen ((loadE 0 1 0).take 0x10 ++ zeros 48) = 0 := by
  simp only [LoadFits, Fits, taken_iff, sameTenant]
  decide +kernel

/-- Ring 0 has the load `e` in progress, what it read having come back as `res`. -/
def loading (e : Bytes) (res : ReadRes) : State :=
  (bankS.withRing 0 fun R => { R with desc := some { bytes := e, seq := 0, tag := some 0 } }).withDev fun d =>
    { d with hub := { d.hub with reads := [{ tag := 0, addr := 0x40000, len := tLen e, purpose := .descData 0, res := some res }] } }

theorem loading_loads (e : Bytes) (res : ReadRes) (h : dType e = 5) :
    Loading (loading e res) 0 0 { bytes := e, seq := 0, tag := some 0 } res ((loading e res).w.dropRead 0) where
  busy := ⟨rfl, rfl, rfl⟩
  pol := by show bankS.dev.ringPol 0 = some 0; decide +kernel
  type := h
  held := rfl
  src := Or.inl ⟨0, rfl, rfl, rfl⟩
  idle := fun j hj => by cases hj

/-- A user table of no slots. -/
def userTab : Bytes :=
  let h := put 0x3C [(0, 4, 0x54425355), (4, 2, 2), (0x38, 4, 64)]
  h ++ toLe 4 (crc32c h)
/-- Two smoothing values of 1.0. -/
def smoothTab : Bytes := toLe 4 0x3F800000 ++ toLe 4 0x3F800000
/-- The same, the smoothing bank that is loaded holding 1.0 everywhere. -/
def smoothing (res : ReadRes) : State := (loading (loadE 1 1 8) res).withDev fun d => { d with banks := tmod {} d.banks 103 fun B => { B with dflt := 0x3F800000 } }

theorem smoothing_loads (res : ReadRes) :
    Loading (smoothing res) 0 0 { bytes := loadE 1 1 8, seq := 0, tag := some 0 } res ((smoothing res).w.dropRead 0) where
  busy := ⟨rfl, rfl, rfl⟩
  pol := by show bankS.dev.ringPol 0 = some 0; decide +kernel
  type := by decide
  held := rfl
  src := Or.inl ⟨0, rfl, rfl, rfl⟩
  idle := fun j hj => by cases hj

/-- A read that failed; a user table that is right and one that is not; smoothing values that are and that are not; page-table entries that are right, one that
is not, and as many as the table cannot hold. -/
theorem witness_TableLoadsEnd :
    (∃ w, Loading (loading (loadE 2 1 16) (.err 1)) 0 0 { bytes := loadE 2 1 16, seq := 0, tag := some 0 } (.err 1) w) ∧
    (∃ w user, Loading (loading (loadE 0 1 64) (.ok userTab)) 0 0 { bytes := loadE 0 1 64, seq := 0, tag := some 0 } (.ok userTab) w ∧
      tTarget (loadE 0 1 64) = 0 ∧ tLen (loadE 0 1 64) ≠ 0 ∧ userTable userTab = some user) ∧
    (∃ w, Loading (loading (loadE 0 1 64) (.ok (zeros 64))) 0 0 { bytes := loadE 0 1 64, seq := 0, tag := some 0 } (.ok (zeros 64)) w ∧
      tTarget (loadE 0 1 64) = 0 ∧ tLen (loadE 0 1 64) ≠ 0 ∧ userTable (zeros 64) = none) ∧
    (∃ w, Loading (smoothing (.ok smoothTab)) 0 0 { bytes := loadE 1 1 8, seq := 0, tag := some 0 } (.ok smoothTab) w ∧ tTarget (loadE 1 1 8) = 1 ∧
      (w.loadSmooth 0 (loadE 1 1 8) (wordsOf 4 (tLen (loadE 1 1 8) / 4) smoothTab)).isSome = true) ∧
    (∃ w, Loading (smoothing (.ok (zeros 8))) 0 0 { bytes := loadE 1 1 8, seq := 0, tag := some 0 } (.ok (zeros 8)) w ∧ tTarget (loadE 1 1 8) = 1 ∧
      (w.loadSmooth 0 (loadE 1 1 8) (wordsOf 4 (tLen (loadE 1 1 8) / 4) (zeros 8))).isNone = true) ∧
    ∀ x ∈ [(zeros 8, true), (toLe 8 (2 ^ 46 + 2 ^ 48), false)],
      let s := loading (loadE 2 1 8) (.ok x.1)
      let src := wordsOf 8 (tLen (loadE 2 1 8) / 8) x.1
      (∃ w, Loading s 0 0 { bytes := loadE 2 1 8, seq := 0, tag := some 0 } (.ok x.1) w) ∧ 2 ≤ tTarget (loadE 2 1 8) ∧
        ((tOff (loadE 2 1 8) + src.length ≤ (s.dev.pol 0).ptEntries ∧ ∀ y ∈ src, s.dev.ptOk 0 y = true) ↔ x.2 = true) := by
  refine ⟨⟨_, loading_loads _ _ (by decide)⟩, ⟨_, _, loading_loads _ _ (by decide), by decide, by decide, rfl⟩, ⟨_, loading_loads _ _ (by decide), by decide, by decide, by decide +kernel⟩,
    ⟨_, smoothing_loads _, by decide, ?_⟩, ⟨_, smoothing_loads _, by decide, ?_⟩, ?_⟩
  · decide +kernel
  · decide +kernel
  · intro x hx
    refine ⟨⟨_, loading_loads _ _ (by decide)⟩, by decide, ?_⟩
    revert x hx
    decide +kernel

/-- A load without a source, and what it reads. -/
theorem witness_TableLoadsEnd_empty : ∃ s, Loading s 0 0 { bytes := loadE 0 1 0, seq := 0 } (.ok []) s.w ∧ tLen (loadE 0 1 0) = 0 :=
  ⟨bankS.withRing 0 fun R => { R with desc := some { bytes := loadE 0 1 0, seq := 0 } },
    ⟨⟨rfl, rfl, rfl⟩, rfl, by decide, rfl, Or.inr ⟨rfl, rfl, rfl⟩, fun j hj => by cases hj⟩, by decide⟩

/-- Both engines' bank 1 is READY with tag 9; the other page-table bank with tag 8. -/
def readyS : State := s0.withDev fun d =>
  { d with banks := [(4, { st := 4, tag := 3 }), (5, { st := 3, tag := 9 }), (6, { st := 4, tag := 3 }), (7, { st := 3, tag := 9 }), (150, { st := 4 }), (151, { st := 3, tag := 8 })] }
def isRefused : Act → Bool
  | .refused _ => true
  | _ => false

/-- What an activation of tag `tag` by target `target` does to each bank. -/
def actsOf (s : State) (e : Bytes) : List Act := (s.dev.targetBanks 0 (tTarget e) 0).map fun i => s.dev.activation i (tTag e)

/-- Activations of a tag that is READY everywhere, ACTIVE everywhere, and nowhere; one while a job is in progress; banks of each kind that have drained. -/
theorem witness_TableActivations :
    (∀ x ∈ [(0, 9, true), (0, 3, true), (2, 8, true), (0, 7, false), (2, 5, false)],
      let e := actE x.1 x.2.1
      let s := holds e readyS
      Fits s e 6 tableActOk ∧ s.dev.ringPol 0 = some 0 ∧ (s.dev.pol 0).job = none ∧ (tTarget e < 2 → sameTenant s 0 (s.dev.ring 0).owner) ∧
        ((actsOf s e).all (fun a => !isRefused a) == x.2.2) = true ∧ ((actsOf s e)[0]?.map isRefused == some (!x.2.2)) = true) ∧
    (let e := actE 0 9
     let s := holds e (readyS.withPol fun P => { P with job := some job0 })
     Fits s e 6 tableActOk ∧ s.dev.ringPol 0 = some 0 ∧ (s.dev.pol 0).job ≠ none) ∧
    ∀ n ∈ [5, 102, 151], let s := s0.withDev fun d => { d with banks := [(n, { st := 5, tag := 4 })] }
      (s.dev.bank n).st = 5 ∧ (150 ≤ n → (s.dev.pol ((n - 150) / 2)).svc.ptDelta = []) := by
  simp only [Fits, taken_iff, sameTenant]
  decide +kernel

/-- The step that activates tag `tag`. -/
def actB (tag : Nat) : Bytes := put 32 [(1, 1, 5), (8, 2, tag)]
/-- It stands on queue `q`, the banks of vector engine 0 and of the transform unit READY with tag 9, flavour `fl`. -/
def actStep (q tag fl : Nat) : State := (oneStep q (actB tag) []).withDev fun d =>
  { d with banks := [(4, { st := 4, tag := 3 }), (5, { st := 3, tag := 9, flavour := fl }), (102, { st := 4, tag := 3 }), (103, { st := 3, tag := 9 })] }

/-- Steps of both kinds, of a tag that is ACTIVE, READY in either flavour, and nowhere. -/
theorem witness_TableActivations_steps :
    ∀ q ∈ [8, 10], ∀ tag ∈ [3, 7, 9], ∀ fl ∈ [0, 1],
      let s := actStep q tag fl
      let b := actB tag
      let a := s.dev.activation (if q = 8 then fnBank (job0.site 0) 0 0 else smBank (job0.site 0) 0) (fld b 8 2)
      s.w.headStep 0 0 q = some (job0, b) ∧ tokensReady (s.dev.die (job0.site 0)).tokens ((job0.queue 0 q).needs (stepWaits b)) = true ∧ stepKind b = 5 ∧
        (if tag = 3 then a = .already else if tag = 9 then a = (if q = 8 then .exchange 5 4 else .exchange 103 102) else isRefused a = true) ∧
        ((s.dev.bank 5).flavour = b2n job0.compat ↔ fl = 0) := by
  decide +kernel

/-! ## Jobs -/

/-- The nonzero bytes of an image of one die and one stack at `imgAt`, of one segment with one NOP step in queue 11: header, die table at 0x100, segment table
at 0x120, descriptors at 0x140, stream table at 0x180, steps at 0x200; its CRC is the four bytes at 0xFC. -/
def nopCells (crc : Nat) : Mem :=
  [(0x2000010000, 0x53), (0x2000010001, 0x43), (0x2000010002, 0x49), (0x2000010003, 0x4d), (0x2000010004, 0x2), (0x2000010010, 0x20),
   (0x2000010011, 0x2), (0x2000010018, 0x1), (0x2000010019, 0x1), (0x200001001a, 0x1), (0x2000010025, 0x1), (0x2000010028, 0x20),
   (0x2000010029, 0x1), (0x20000100fc, BitVec.ofNat 8 (crc / 2 ^ 0)), (0x20000100fd, BitVec.ofNat 8 (crc / 2 ^ 8)), (0x20000100fe, BitVec.ofNat
   8 (crc / 2 ^ 16)), (0x20000100ff, BitVec.ofNat 8 (crc / 2 ^ 24)), (0x2000010100, 0x40), (0x2000010101, 0x1), (0x2000010104, 0x2),
   (0x2000010120, 0x80), (0x2000010121, 0x1), (0x2000010145, 0x1), (0x200001014c, 0x40), (0x2000010150, 0xf), (0x2000010165, 0x2),
   (0x200001016c, 0x40), (0x2000010170, 0xf), (0x20000101d9, 0x2), (0x20000101dc, 0x1)]
def nopCrc : Nat := 0x37C88C6B
def jobE : Bytes := ent 1 [(8, 8, imgAt), (0x10, 8, 0x50000)]
/-- The job as it is when its image is to be validated. -/
def jobV : Job := { ring := some 0, img := imgAt, len := 0, stage := .validating, number := 1, args := jobArgs jobE (zeros 128) }
def jobsS : State := holds jobE { s0 with mem := nopCells 0 }

/-- A JOB whose argument block comes from the host, as its ring's head. -/
theorem witness_JobsTaken :
    Fits jobsS jobE 1 jobLayoutOk ∧ jobsS.dev.ringPol 0 = some 0 ∧ jobsS.dev.nextCtx 0 = some (0, true) ∧ jobsS.dev.nextRing 0 0 = some 0 ∧
    jobsS.dev.jobFree 0 = true ∧ jobArgi jobE = false ∧ (ReadRes.ok (zeros 128)) = .ok (zeros 128) ∧
    ((jobsS.w.switchCtx 0 0).d.pol 0).imgs.find? (·.addr == fld jobE 8 8 % 2 ^ 48) = none ∧ ((jobsS.w.switchCtx 0 0).d.pol 0).imgs.length < 32 := by
  simp only [Fits, taken_iff]
  decide +kernel

/-- Polder 0 is validating that image. -/
def valid (crc : Nat) : State := State.withPol { s0 with mem := nopCells crc } fun P => { P with job := some jobV }

/-- An image that could not be read, one that validation refuses, here for its CRC, and one that it accepts, which then runs. -/
theorem witness_ImageValidation :
    (((valid nopCrc).dev.pol 0).job = some jobV ∧ jobV.stage = .validating ∧ MemFail.code (.stackUE imgAt) ≠ none) ∧
    (((valid (nopCrc + 1)).dev.pol 0).job = some jobV ∧ (valid (nopCrc + 1)).w.validate 0 jobV.img ≠ none) ∧
    (let s := valid nopCrc
     let len := le (s.mem.read (jobV.img + 0x10) 4)
     let img := s.mem.read jobV.img len
     (s.dev.pol 0).job = some jobV ∧ s.w.validate 0 jobV.img = none ∧ s.dev.binding 0 (imDies img) (imStacks img) = some [1] ∧ s.dev.badArg 0 img jobV.args = none ∧
       sameTenant s 0 jobV.ctx ∧ imActivates img = false ∧ (∀ i ∈ [1], (s.dev.bank (s.dev.fnActive i 0)).flavour = b2n ((fld img 0x20 4).testBit 0) ∧
         (s.dev.bank (s.dev.fnActive i 1)).flavour = b2n ((fld img 0x20 4).testBit 0)) ∧
       jobV.key = none ∧ (s.dev.pol 0).warm = none ∧ (s.dev.pol 0).ports = 0 ∧
       (fld (s.w.segEntry jobV (s.w.imgFld jobV 0x1E 2)) 0xA 1).testBit 0 = false) := by
  simp only [sameTenant]
  decide +kernel

/-- Tables of an image whose one segment has the bytes `seg`, no step, the next segment's bytes `seg2`, one selector and one warm-up entry. -/
def bareImage (seg seg2 sel warm : Bytes) : Bytes :=
  put 0x40 [(0x18, 1, 1), (0x19, 1, 1), (0x24, 4, 0x40), (0x28, 4, 0x60), (0x2C, 4, 0xA0), (0x30, 4, 0xE0), (0x34, 1, 1)] ++ zeros 0x20 ++ seg ++ seg2 ++ sel ++ warm ++ zeros 0x120
def segS (kind next : Nat) (seg2 sel warm : Bytes) : State :=
  (s0.withMem imgAt (bareImage (put 0x20 [(0, 4, 0x100), (4, 1, kind), (6, 2, next)]) seg2 sel warm)).withPol fun P => { P with job := some job0 }
def warmE (page n : Nat) : Bytes := put 16 [(4, 4, n), (12, 4, page)]

/-- The next job of ring 0 has an image of one warm-up entry: 64 bytes of its first argument into the scratchpad. -/
def warmS : State := ((holds jobE (segS 0 0 (zeros 32) (zeros 64) (warmE 0 64))).withPol fun P => { P with imgs := [{ addr := imgAt, len := 0x200 }] }).withDev fun d =>
  { d with ctxs := [(0, { enable := true, res := 3, budget := 1 })] }
def warmArgs : Bytes := toLe 8 at1 ++ zeros 120

/-- A warm-up that begins; an entry that is read and one that may not be; a warm-up that another entry ended; and one that ends. -/
theorem witness_WarmUp :
    (let image := warmS.mem.read imgAt 0x200
     let a := jobArgs jobE warmArgs
     warmS.dev.runningJob 0 = some job0 ∧ (warmS.dev.pol 0).warm = none ∧ job0.ring = some 0 ∧ (warmS.dev.ring 0).batch.head? = some jobE ∧
       (warmS.dev.ring 0).st = 1 ∧ dType jobE = 1 ∧ (warmS.dev.ring 0).owner = job0.ctx ∧ warmS.dev.descRefused 0 jobE (jobLayoutOk jobE) = none ∧
       (warmS.dev.ctx job0.ctx).hasBudget = true ∧
       (warmS.dev.pol 0).imgs.find? (·.addr == fld jobE 8 8 % 2 ^ 48) = some { addr := imgAt, len := 0x200 } ∧
       warmS.dev.binding 0 (imDies image) (imStacks image) = some [1] ∧ fld (warmS.w.segEntry job0 job0.seg) 4 1 % 4 = 0 ∧ warmS.w.drained job0 = true ∧
       job0.faults = [] ∧ warmS.dev.badArg 0 image a = none ∧ 0 < imWarms image) ∧
    (∀ arg ∈ [at1, 64],
      let image := warmS.mem.read imgAt 0x200
      let o := imWarmAt image 0
      let src := lget 0 [arg] (fld image o 1 % 16) + 4096 * fld image (o + 12) 4
      ({ ring := 0, img := imgAt, args := [arg] } : Warm).status = 0 ∧ (warmS.dev.reachAll .dma 0 src (fld image (o + 4) 4) false = none ↔ arg = at1) ∧
        (MemFx.fail {}) = .none) ∧
    ({ ring := 0, img := imgAt, args := [], status := 7 } : Warm).status ≠ 0 ∧
    (let s := s0.withPol fun P => { P with warm := some { ring := 0, img := imgAt, args := [] } }
     let x : Warm := { ring := 0, img := imgAt, args := [] }
     (s.dev.pol 0).warm = some x ∧ x.done = false ∧ x.status = 0 ∧ (s.dev.pol 0).job = none) := by
  decide +kernel

/-- Job 0 stands at the barrier of a segment whose table entry says `kind` and `next`. -/
def AtBarrier (s : State) (kind next : Nat) : Prop :=
  s.dev.runningJob 0 = some job0 ∧ s.w.atBarrier 0 job0 = true ∧ fld (s.w.segEntry job0 job0.seg) 4 1 % 4 = kind ∧ fld (s.w.segEntry job0 job0.seg) 6 2 = next
def segB (kind next : Nat) (seg2 sel : Bytes) : State :=
  (segS kind next seg2 sel (zeros 16)).withDev fun d => { d with banks := [(150, { st := 4 }), (151, { st := 3, tag := 8 })] }

/-- Barriers of segments that name a successor, plain or one that activates a page-table bank; that select one, or find no summary; and that end the job. -/
theorem witness_SegmentsAndEnds :
    (let s := segB 1 1 (zeros 32) (zeros 64)
     AtBarrier s 1 1 ∧ (fld (s.w.segEntry job0 1) 0xA 1).testBit 0 = false) ∧
    (let s := segB 1 1 (put 32 [(8, 2, 8), (0xA, 1, 1)]) (zeros 64)
     AtBarrier s 1 1 ∧ (fld (s.w.segEntry job0 1) 0xA 1).testBit 0 = true ∧ s.dev.activation (ptBank 0 0) (fld (s.w.segEntry job0 1) 8 2) = .exchange 151 150) ∧
    (let s := segB 2 0 (zeros 32) (put 64 [(0x38, 2, 1)])
     AtBarrier s 2 0 ∧ s.w.select job0 0 = some 1 ∧ (fld (s.w.segEntry job0 1) 0xA 1).testBit 0 = false) ∧
    (let s := segB 2 0 (zeros 32) (put 64 [(0, 1, 1)])
     AtBarrier s 2 0 ∧ s.w.select job0 0 = none) ∧
    AtBarrier (segB 0 0 (zeros 32) (zeros 64)) 0 0 := by
  simp only [AtBarrier]
  decide +kernel

def fault1 : StepFault := { die := 0, queue := 11, pos := 0, status := 5, detail := 6 }
/-- A job with a fault and nothing left to issue. -/
theorem witness_SegmentsAndEnds_fault :
    let j : Job := { job0 with faults := [fault1] }
    let s := (segS 0 0 (zeros 32) (zeros 64) (zeros 16)).withPol fun P => { P with job := some j }
    s.dev.runningJob 0 = some j ∧ deciding j.faults = some fault1 ∧
      ∀ d, d < j.dies.length → ∀ q, q < 15 → (j.queue d q).busy = false ∧ (j.queue d q).flights = [] ∧ s.w.canIssue 0 d q = false := by
  decide +kernel

/-- A DMA queue whose step has done its work; the second of two passes of an array in flight, which no episode holds; a NOP step. -/
theorem witness_StepsRelease :
    (let j : Job := { job0 with qs := [(11, { busy := true })] }
     let s := (oneStep 11 (zeros 32) []).withPol fun P => { P with job := some j }
     s.dev.runningJob 0 = some j ∧ 0 < j.dies.length ∧ (j.queue 0 11).busy = true ∧ (j.queue 0 11).ops = [] ∧ (j.queue 0 11).coll = false) ∧
    (let f (pos : Nat) (held : Bool) : Flight := { pos := pos, bank := pos, mt := 1, nt := 1, held := held, before := {}, flags := 0 }
     let j : Job := { job0 with qs := [(7, { pos := 2, taken := 2, flights := [f 0 true, f 1 false] })] }
     let s := (oneStep 7 (zeros 32) []).withPol fun P => { P with job := some j }
     s.dev.runningJob 0 = some j ∧ 0 < j.dies.length ∧ (j.queue 0 7).flights[1]? = some (f 1 false) ∧ (f 1 false).held = false) ∧
    (let s := oneStep 11 (zeros 32) []
     s.w.headStep 0 0 11 = some (job0, zeros 32) ∧ tokensReady (s.dev.die (job0.site 0)).tokens ((job0.queue 0 11).needs (stepWaits (zeros 32))) = true ∧
       stepKind (zeros 32) = 0) := by
  decide +kernel

def moveB : Bytes := put 32 [(0, 8, 4 * 256 + 1), (8, 2, 0), (0xA, 2, 1)]
def moveS : State := (oneStep 11 moveB [tileD 0 1 16 64 0x100, tileD 0 1 16 64 0x200]).withMem (spBase 1 + 0x100) [1, 2, 3, 4]
def sigB (n : Nat) : Bytes := put 32 [(0, 1, 2), (1, 1, 4), (0x10, 8, n)]
/-- A DMA SIGNAL of `n` at target `target`; sluice 3 holds 2^64 − 4. -/
def dmaS (target n : Nat) : State := ((oneStep 11 (sigB n) []).withPol fun P => { P with job := some { job0 with args := [target] } }).withDev fun d =>
  { d with sluices := [(3, { value := 2 ^ 64 - 4, valid := true })] }

/-- The signal names count slot 31, which holds `v`. -/
def dmaCount (v : Nat) : State := (((oneStep 11 (counted (sigB 1)) []).withPol fun P => { P with job := some { job0 with args := [sluAddr 3] } })).withDev fun d =>
  { d with dies := [(1, { stack := 3, counts := [(31, v)] })], sluices := [(3, { value := 5, valid := true })] }

/-- A MOVE between two tiles. -/
theorem witness_MovesAndSignals :
    let s := moveS
    let src := s.w.tile job0 0 (fld moveB 8 2)
    let dst := s.w.tile job0 0 (fld moveB 0xA 2)
    s.Ready 0 0 11 job0 moveB {} ∧ stepKind moveB = 4 ∧ stepOp moveB = 1 ∧ s.rowsAre job0 0 moveB src.rows (fld moveB 0xC 2 + 1) 1 ∧ src.paged = false ∧
      dst.paged = false ∧ src.base < 2 ∧ dst.base < 2 ∧
      ∀ x ∈ moveRuns job0 src dst (gsizeOf (fld moveB 0x10 1 % 4)) 1, x.1 < 2 ^ 48 ∧ x.2.1 < 2 ^ 48 ∧ s.dev.reach .dma 0 x.1 x.2.2 false = (x.2.2, none) ∧
        s.dev.reach .dma 0 x.2.1 x.2.2 true = (x.2.2, none) := by
  simp only [ready_iff, rowsAre_iff]
  decide +kernel

/-- The job of a signal at `target`. -/
def sigJob (target : Nat) : Job := { job0 with args := [target] }
/-- What every clause on a DMA SIGNAL at `target` asks for. -/
def Signals (s : State) (b : Bytes) (target : Nat) : Prop :=
  s.w.headStep 0 0 11 = some (sigJob target, b) ∧
    tokensReady (s.dev.die ((sigJob target).site 0)).tokens (((sigJob target).queue 0 11).needs (stepWaits b)) = true ∧ stepKind b = 4 ∧ stepOp b = 2 ∧
    (sigJob target).arg (fld b 0xF 1 / 16) = target

/-- Signals without a count of a sluice with the right, up to saturation and past it, without the right, of what is no sluice, and of another chip. -/
theorem witness_MovesAndSignals_signals :
    (∀ n ∈ [3, 4], let s := dmaS (sluAddr 3) n
      Signals s (sigB n) (sluAddr 3) ∧ s.rowsAre (sigJob (sluAddr 3)) 0 (sigB n) 1 (fld (sigB n) 0xC 2 + 1) 1 ∧ sluAddr 3 / 2 ^ 48 = s.dev.hub.chip ∧
        sluiceAt (sluAddr 3 % 2 ^ 48) = some 3 ∧ s.dev.granted 3 (sigJob (sluAddr 3)).ctx .signal = true ∧ s.dev.waiters 3 = []) ∧
    (let s := dmaS (sluAddr 4) 1
     Signals s (sigB 1) (sluAddr 4) ∧ s.rowsAre (sigJob (sluAddr 4)) 0 (sigB 1) 1 (fld (sigB 1) 0xC 2 + 1) 1 ∧ sluAddr 4 / 2 ^ 48 = s.dev.hub.chip ∧
       sluiceAt (sluAddr 4 % 2 ^ 48) = some 4 ∧ s.dev.granted 4 (sigJob (sluAddr 4)).ctx .signal = false) ∧
    (let s := dmaS 64 1
     Signals s (sigB 1) 64 ∧ s.rowsAre (sigJob 64) 0 (sigB 1) 1 (fld (sigB 1) 0xC 2 + 1) 1 ∧ 64 / 2 ^ 48 = s.dev.hub.chip ∧ sluiceAt (64 % 2 ^ 48) = none) ∧
    (let x := sluAddr 3 + 9 * 2 ^ 48
     let s := dmaS x 1
     Signals s (sigB 1) x ∧ s.rowsAre (sigJob x) 0 (sigB 1) 1 (fld (sigB 1) 0xC 2 + 1) 1 ∧ x / 2 ^ 48 ≠ s.dev.hub.chip) := by
  simp only [Signals, rowsAre_iff]
  decide +kernel

/-- Signals with a count of none, of one and of two. -/
theorem witness_MovesAndSignals_counts :
    ∀ v ∈ [0, 1, 2], let s := dmaCount v
      let b := counted (sigB 1)
      Signals s b (sluAddr 3) ∧ stepCount b = some 31 ∧ tget 0 (s.dev.die ((sigJob (sluAddr 3)).site 0)).counts 31 = v ∧ (fld b 0xC 2 + 1 < v ↔ v = 2) ∧
        (s.rowsAre (sigJob (sluAddr 3)) 0 b 1 (fld b 0xC 2 + 1) v ↔ v ≠ 2) ∧ sluAddr 3 / 2 ^ 48 = s.dev.hub.chip ∧ sluiceAt (sluAddr 3 % 2 ^ 48) = some 3 ∧
        s.dev.granted 3 (sigJob (sluAddr 3)).ctx .signal = true ∧ s.dev.waiters 3 = [] := by
  simp only [Signals, rowsAre_iff]
  decide +kernel

end Sys2Proof.Tests

/-! ## Frames that arrive -/

namespace Sys2Proof.Tests

/-- Port 0 is UP and expects frame 5; chip 9 is reached through it; window 0 of polder 0 lets chip 9 read and write 4 KiB of it. -/
def fabS : State := (s0.withDev fun d => { d with hub := { d.hub with chip := 4 } }).withFabric fun _ =>
  { ports := [(0, { enable := true, st := 2, rxSeq := 5 })], route := [(2, 0x80 * 2 ^ 8)], winLo := [(0, 2 ^ 63 + 2 ^ 62 + 2 ^ 61 + stackBase 1 + 0x3000000)], winHi := [(0, 9 + 16 * 2 ^ 32)] }
def pay8 : Bytes := toLe 8 0x1122334455667788
/-- A frame of chip 9 that comes next. -/
def fr (kind addr : Nat) (p : Bytes) : Frame :=
  { kind := kind, hseq := 5, hack := 0, dst := 4, src := 9, srcPol := 2, srcPort := 1, tag := 33, addr := addr, payload := p, trailer := codeOf p }
/-- Address `a` of chip 4. -/
def here (a : Nat) : Nat := a + 4 * 2 ^ 48
def winAt : Nat := here (stackBase 1 + 0x3000100)

/-- `Arrives` and `Waits`, so that a test can evaluate them. -/
theorem arrives_iff {s : State} {n : Nat} {f : Frame} : Arrives s n f ↔
    ((s.dev.port n).st = 2 ∧ (s.dev.port n).mode = 0) ∧ (badFrame f = none ∧ f.hseq = (s.dev.port n).rxSeq) ∧ f.dst = s.dev.hub.chip ∧ f.enc = false :=
  ⟨fun h => ⟨⟨h.up, h.direct⟩, ⟨h.good, h.order⟩, h.here, h.plain⟩, fun h => ⟨h.1.1, h.1.2, h.2.1.1, h.2.1.2, h.2.2.1, h.2.2.2⟩⟩
theorem waits_iff {s : State} {o : ROp} {src num : Nat} : Waits s o src num ↔
    (o.sent = true ∧ o.chip = src ∧ o.tag = num ∧ o.key = none) ∧
      (∀ x ∈ s.dev.fabric.ops, x.sent = true → x.chip = src → x.tag = num → x = o) ∧ o ∈ s.dev.fabric.ops :=
  ⟨fun h => ⟨⟨h.sent, h.chip, h.tag, h.plain⟩, h.only, h.known⟩, fun h => ⟨h.1.1, h.1.2.1, h.1.2.2.1, h.1.2.2.2, h.2.1, h.2.2⟩⟩

def jobF : Job := { ring := some 0, dies := [1], img := imgAt, len := 0 }
def opRead : ROp := { id := 3, issuer := .dma 0 0 11, kind := .read [(0x100, 16, stackBase 1 + 0x100)], chip := 9, addr := 9 * 2 ^ 48 + 0x100, tag := 33, sent := true }
/-- A job waits for operation `o`. -/
def waiting (o : ROp) : State := (fabS.withPol fun P => { P with job := some jobF }).withFabric fun F => { F with ops := [o] }

/-- What every clause on a WRITE asks for. -/
def Writes (s : State) (f : Frame) : Prop :=
  Arrives s 0 f ∧ f.kind = 1 ∧ f.payload ≠ [] ∧ s.dev.targetPol (f.addr % 2 ^ 48) = some 0 ∧ f.addr % 2 ^ 48 % 4096 + f.payload.length ≤ 4096

/-- A WRITE to a polder that is not READY, to an address that is none, outside the window; one that lands, and one with a wrong code, the first time and again. -/
theorem witness_RemoteReadsAndWrites :
    (let s := fabS.withDev fun d => { d with dies := [(1, { stack := 2 })] }
     Writes s (fr 1 winAt pay8) ∧ s.dev.polReady 0 = false) ∧
    (let f := fr 1 (winAt + 2 ^ 61) pay8
     Writes fabS f ∧ fabS.dev.polReady 0 = true ∧ (fabS.dev.addressBad f.addr 8 true).isSome = true) ∧
    (let f := fr 1 (here (stackBase 1 + 0x4000000)) pay8
     Writes fabS f ∧ fabS.dev.polReady 0 = true ∧ fabS.dev.addressBad f.addr 8 true = none ∧ fabS.dev.windowOk 0 9 none true (f.addr % 2 ^ 48) 8 = false) ∧
    (∀ good ∈ [true, false], ∀ again ∈ [true, false],
      let f := { fr 1 winAt pay8 with trailer := if good then codeOf pay8 else [1, 2, 3, 4] }
      let s := fabS.withFabric fun F => { F with checkRetry := if again then [(9, 33)] else [] }
      Writes s f ∧ s.dev.polReady 0 = true ∧ s.dev.addressBad f.addr 8 true = none ∧ s.dev.windowOk 0 f.src none true (f.addr % 2 ^ 48) 8 = true ∧
        codeRight f = good ∧ ((f.src, f.tag) ∈ s.dev.fabric.checkRetry ↔ again = true)) := by
  simp only [Writes, arrives_iff]
  and_intros <;> decide +kernel

/-- A READ_REQ, a block of 4,096 bytes, an ACK, and a NAK of each reason. -/
theorem witness_RemoteReadsAndWrites_answers :
    (let f := fr 2 winAt []
     Arrives fabS 0 f ∧ f.kind = 2 ∧ f.payload = [] ∧ fabS.dev.targetPol (f.addr % 2 ^ 48) = some 0 ∧ fabS.dev.polReady 0 = true ∧
       fabS.dev.addressBad (f.addr / 4096 * 4096) 4096 false = none ∧ fabS.dev.windowOk 0 f.src none false (f.addr % 2 ^ 48 / 4096 * 4096) 4096 = true) ∧
    (let f := fr 3 0 (List.replicate 4096 7)
     let s := waiting opRead
     Arrives s 0 f ∧ f.kind = 3 ∧ Waits s opRead f.src f.tag ∧ opRead.kind = .read [(0x100, 16, stackBase 1 + 0x100)] ∧ opRead.issuer = .dma 0 0 11 ∧
       f.payload.length = 4096 ∧ codeRight f = true) ∧
    (let f := fr 6 0 (toLe 4 33)
     let o := { opRead with kind := .write }
     Arrives (waiting o) 0 f ∧ f.kind = 6 ∧ codeRight f = true ∧ f.payload = toLe 4 33 ∧ Waits (waiting o) o f.src (u32 33) ∧ isRead o.kind = false) ∧
    ∀ r ∈ [1, 2, 3, 4, 5, 6, 7, 8, 10],
      let f := fr 7 0 (toLe 4 33 ++ toLe 1 r ++ toLe 3 0)
      let o := { opRead with kind := .write }
      Arrives (waiting o) 0 f ∧ f.kind = 7 ∧ codeRight f = true ∧ f.payload.length = 8 ∧ fld f.payload 6 2 = 0 ∧ fld f.payload 4 1 = r ∧
        Waits (waiting o) o f.src (fld f.payload 0 4) ∧ isRead o.kind = false ∧ ((nakFails r (fld f.payload 5 1)).isSome = true ∨ r = 3 ∨ r = 7) := by
  simp only [arrives_iff, waits_iff]
  and_intros <;> decide +kernel

/-- Chip 9 may signal and set sluice 3, the last TAG of its polder 2 being `tag`. -/
def remS (tag : Nat) : State := (fabS.withDev fun d => { d with sluices := [(3, { value := 2 ^ 64 - 1, valid := true })], grants := [(0, 3 + 2 ^ 63 + 2 ^ 49 + 2 ^ 50 + 2 ^ 51 + 9 * 2 ^ 16)] }).withFabric fun F =>
  { F with lastTag := [(9 * 32 + 2, (tag, 0))] }
/-- SWITCHED connections to chip 9: of traffic class 0 in HELLO, of class 1 with one frame unacknowledged, resent `n` times. -/
def connS (n : Nat) : State := fabS.withFabric fun F =>
  { F with ports := [(0, { enable := true, st := 2, mode := 1 })]
           conns := [(connKey 0 9 0, { st := 1 }), (connKey 0 9 1, { st := 2, unacked := [fr 1 winAt pay8], retx := n })] }

/-- What every clause on a frame that adds to or sets a sluice asks for. -/
def Sluices (s : State) (f : Frame) : Prop :=
  Arrives s 0 f ∧ f.payload.length = 8 ∧ f.addr / 2 ^ 48 = s.dev.hub.chip ∧ f.addr / 2 ^ 61 = 0 ∧ sluiceAt (f.addr % 2 ^ 48) = some 3 ∧
    s.dev.sluPol 3 = some 0 ∧ s.dev.targetPol (f.addr % 2 ^ 48) = some 0 ∧ s.dev.polReady 0 = true

def sluF (kind : Nat) : Frame := fr kind (here (sluAddr 3)) pay8
def sluKinds : List (Nat × Right) := [(4, .signal), (5, .set)]
/-- No polder of chip 9 has a TAG on record. -/
def newS : State := (remS 33).withFabric fun F => { F with lastTag := [] }

/-- Frames without the right; with it, resent, new, and of a polder that has no TAG on record; operations that time out or that were told to wait; connections
in HELLO, with frames to send again, and that have failed. -/
theorem witness_RemoteSluicesAndTimers :
    (∀ x ∈ sluKinds, Sluices fabS (sluF x.1) ∧ fabS.dev.grantedRemote 3 (sluF x.1).src none x.2 = false) ∧
    (∀ x ∈ sluKinds, Sluices (remS 33) (sluF x.1) ∧ (remS 33).dev.grantedRemote 3 (sluF x.1).src none x.2 = true ∧ codeRight (sluF x.1) = true ∧
      tfind (remS 33).dev.fabric.lastTag ((sluF x.1).src * 32 + (sluF x.1).srcPol) = some ((sluF x.1).tag, 0)) ∧
    (∀ x ∈ sluKinds, Sluices (remS 32) (sluF x.1) ∧ (remS 32).dev.grantedRemote 3 (sluF x.1).src none x.2 = true ∧ codeRight (sluF x.1) = true ∧
      tfind (remS 32).dev.fabric.lastTag ((sluF x.1).src * 32 + (sluF x.1).srcPol) = some (32, 0) ∧ (sluF x.1).tag = 33) ∧
    (∀ x ∈ sluKinds, Sluices newS (sluF x.1) ∧ newS.dev.grantedRemote 3 (sluF x.1).src none x.2 = true ∧ codeRight (sluF x.1) = true ∧
      tfind newS.dev.fabric.lastTag ((sluF x.1).src * 32 + (sluF x.1).srcPol) = none ∧ newS.dev.fabric.lastTag.length < 16384) ∧
    (waiting opRead).dev.fabric.ops.find? (fun x => x.id == opRead.id && x.sent) = some opRead ∧
    (let o := { opRead with sent := false, waitNak := true }
     (waiting o).dev.fabric.ops.find? (fun x => x.id == o.id && x.waitNak) = some o ∧ o.issuer = .dma 0 0 11) ∧
    (let o := { opRead with sent := false, waitNak := true }
     let s := fabS.withFabric fun F => { F with ctls := [o] }
     s.dev.fabric.ops.find? (fun x => x.id == o.id && x.waitNak) = none ∧ s.dev.fabric.ctls.find? (fun x => x.id == o.id && x.waitNak) = some o) ∧
    (((connS 7).dev.conn 0 9 0).st = 1 ∧ (connS 7).dev.member 0 ((connS 7).dev.connFrame 9) = some 0) ∧
    (let C := (connS 7).dev.conn 0 9 1
     C.st ≠ 1 ∧ C.unacked ≠ [] ∧ C.retx < (connS 7).dev.fabric.limit ∧ ∀ f ∈ C.unacked, (connS 7).dev.member 0 f = some 0) ∧
    (((connS 8).dev.conn 0 9 1).st ≠ 0 ∧ (connS 8).dev.fabric.limit ≤ ((connS 8).dev.conn 0 9 1).retx) := by
  simp only [Sluices, arrives_iff]
  and_intros <;> decide +kernel

/-! ## Collectives -/

/-- A table of one collective of OP `op` on two members, chips 4 and 9, its polder 0 rank 0, two segments of 64 bytes. -/
def collTab (op : Nat) : Bytes := put 64 [(0, 1, op), (3, 1, 1), (4, 2, 1), (8, 4, 64), (0xC, 2, 2), (0x18, 8, stackBase 1 + 0x9000)]
def collMem (op : Nat) : State := (fabS.withMem (stackBase 1 + 0x8000) (collTab op)).withMem (stackBase 1 + 0x9000) (toLe 4 4 ++ toLe 4 (9 + 2 ^ 16))
def collV : Nat := stackBase 1 + 0x8000 + 2 ^ 63
/-- What a write of POL_COLL does first. -/
def collW (s : State) : W := s.w.modPol 0 fun P => { P with coll := { P.coll with valid := false, ranges := [], count := 0, base := bits collV 47 0 } }

theorem drives_iff {s : State} {fn p : Nat} : Drives s fn p ↔ (s.dev.hostReach fn = true ∧ s.dev.running = true) ∧ p < 16 ∧ s.dev.driver p = fn :=
  ⟨fun h => ⟨⟨h.reach, h.running⟩, h.pol, h.mine⟩, fun h => ⟨h.1.1, h.1.2, h.2.1, h.2.2⟩⟩

/-- A write that turns the table off; tables that pass and that do not; and a write while a job runs. -/
theorem witness_Collectives_table :
    (∀ v ∈ [stackBase 1, collV], Drives (collMem 1) 0 0 ∧ ((collMem 1).dev.pol 0).job = none ∧ v < 2 ^ 64 ∧ (v.testBit 63 = true ↔ v = collV)) ∧
    (∀ op ∈ [1, 6],
      let s := collMem op
      Drives s 0 0 ∧ (s.dev.pol 0).job = none ∧ collV.testBit 63 = true ∧ bits collV 47 0 % 64 = 0 ∧ bits collV 59 48 + 1 = 1 ∧
        region (bits collV 47 0) = .stack 1 0x8000 ∧ (collW s).d.reachAll .dma 0 (bits collV 47 0) (64 * 1) false = none ∧
        ((collW s).centErr 0 ((collW s).cent 0 0) = 0 ↔ op = 1)) ∧
    (Drives (waiting opRead) 0 0 ∧ ((waiting opRead).dev.pol 0).job ≠ none) := by
  simp only [drives_iff]
  and_intros <;> decide +kernel

/-- The step of collective `c`, segment `seg`, between two tiles of 64 bytes; the table of `op` is VALID. -/
def collB (c seg : Nat) : Bytes := put 32 [(0, 8, 4 * 256 + 3), (8, 2, 0), (0xA, 2, 1), (0x10, 2, c), (0x12, 2, seg)]
def collS (op c seg : Nat) : State :=
  let t := tables 11 (collB c seg) [tileD 0 1 16 64 0x100, tileD 0 1 (if op = 3 then 32 else 16) (if op = 3 then 128 else 64) 0x200]
  ((after (.polColl 0 0 collV) (collMem op)).withMem imgAt t).withPol fun P => { P with job := some job0 }

/-- A step of a collective, ready. -/
def Collects (s : State) (b : Bytes) : Prop :=
  s.w.headStep 0 0 11 = some (job0, b) ∧ tokensReady (s.dev.die (job0.site 0)).tokens ((job0.queue 0 11).needs (stepWaits b)) = true ∧ stepKind b = 4 ∧
    stepOp b = 3 ∧ s.rowsAre job0 0 b 1 (fld b 0xC 2 + 1) 1
/-- The same of BROADCAST, this member not the root, and its segment of no bytes of its own to send. -/
def leafS : State :=
  ((after (.polColl 0 0 collV) ((collMem 5).withMem (stackBase 1 + 0x8006) [1, 0])).withMem imgAt (tables 11 (collB 0 0) [tileD 0 1 16 64 0x100, tileD 0 1 16 64 0x200])).withPol
    fun P => { P with job := some job0 }

/-- Steps that send to an owner, as the root, to every member and as no root; and one of a collective that there is not. -/
theorem witness_Collectives_steps :
    (∀ x ∈ [(collS 1 0 0, 0), (collS 1 0 1, 1), (collS 5 0 0, 0), (collS 3 0 1, 1), (leafS, 0)],
      let s := x.1
      let b := collB 0 x.2
      let K := (s.dev.pol 0).coll
      let e := s.w.cent 0 0
      let src := s.w.tile job0 0 (fld b 8 2)
      let dst := s.w.tile job0 0 (fld b 0xA 2)
      Collects s b ∧ fld b 0x10 2 = 0 ∧ fld b 0x12 2 = x.2 ∧ (K.valid = true ∧ 0 ≤ K.count ∧ x.2 < e.nseg ∧ collTileOk src e.fmt e.seg = true ∧
        collTileOk dst e.outFmt e.recvSlot = true) ∧ K.failed.find? (·.1 == 0) = none ∧ (s.w.endOf job0 src).chip = none ∧ (s.w.endOf job0 dst).chip = none ∧
        ((e.op = 5 ∧ e.me ≠ e.root) ∨ (e.op ≠ 5 ∨ e.me = e.root) ∧ (s.w.readTile 0 job0 src (job0.tileAddr src % 2 ^ 48) e.seg).toBool = true)) ∧
    (let s := leafS
     (s.w.cent 0 0).op = 5 ∧ (s.w.cent 0 0).me ≠ (s.w.cent 0 0).root) ∧
    (Collects (collS 1 1 0) (collB 1 0) ∧ fld (collB 1 0) 0x10 2 = 1 ∧ ¬ (1 ≤ ((collS 1 1 0).dev.pol 0).coll.count)) := by
  simp only [Collects, rowsAre_iff]
  and_intros <;> decide +kernel

/-- Part `num` of rank `r`'s contribution to segment `seg`. -/
def collF (seg r num : Nat) (last good : Bool) : Frame :=
  let p : Bytes := List.replicate 64 0x3F
  { fr 8 (seg * 2 ^ 16 + r * 2 ^ 32 + num * 2 ^ 48) p with
    last := last
    trailer := codeOf p ++ if last then toLe 8 (if good then crc64 p else 1) ++ toLe 1 2 ++ toLe 3 0 ++ toLe 4 ((collS 1 0 0).w.collSig ((collS 1 0 0).w.cent 0 0)) else [] }
def ctlF (kind v : Nat) : Frame := fr kind 0 (toLe 8 v)

/-- What every clause on a part asks for. -/
def Parts (s : State) (f : Frame) : Prop :=
  Arrives s 0 f ∧ s.dev.collReady f.dstPol = true ∧ codeRight f = true ∧ f.kind = 8 ∧ bits f.addr 47 45 = 0 ∧
    (∀ x ∈ (s.dev.pol f.dstPol).coll.failed, x.1 ≠ f.addr % 2 ^ 16) ∧ (lastTrailer f).length = (if f.last then 16 else 0) ∧
    (f.last = true → fld (lastTrailer f) 9 3 = 0)

/-- A part of a segment that there is not; parts that are not the last, and the last with a right and a wrong digest. -/
theorem witness_Collectives_frames :
    (Parts (collS 1 0 0) (collF 7 1 0 false true) ∧ (collS 1 0 0).w.collFrameOk 0 (collF 7 1 0 false true) = false) ∧
    ∀ x ∈ [(false, true), (true, true), (true, false)],
      let s := collS 1 0 0
      let f := collF 0 1 0 x.1 x.2
      Parts s f ∧ f.dstPol = 0 ∧ s.w.collFrameOk 0 f = true ∧ s.dev.hasLanded 0 (f.addr % 2 ^ 16) (bits f.addr 31 16) (bits f.addr 44 44) (bits f.addr 43 32) = false ∧
        (s.dev.pol 0).coll.landings = [] ∧ f.last = x.1 ∧ bits f.addr 63 48 = 0 ∧ s.mem.wf = true ∧
        (f.last = true → (crc64 f.payload = fld (lastTrailer f) 0 8 ↔ x.2 = true)) := by
  simp only [Parts, arrives_iff]
  and_intros <;> decide +kernel

/-- A credit; aborts of both kinds. -/
theorem witness_Collectives_controls :
    (let s := collS 1 0 0
     let f := ctlF 9 0
     Arrives s 0 f ∧ s.dev.collReady f.dstPol = true ∧ codeRight f = true ∧ f.kind = 9 ∧ f.payload.length = 8 ∧ fld f.payload 0 8 / 2 ^ 45 = 0) ∧
    ∀ st ∈ [stMEMBER_LOST, stCONTRIBUTION_BAD],
      let s := collS 1 0 0
      let f := ctlF 0x0A (st * 2 ^ 16 + 9 * 2 ^ 32 + 3 * 2 ^ 48)
      let v := fld f.payload 0 8
      Arrives s 0 f ∧ s.dev.collReady f.dstPol = true ∧ codeRight f = true ∧ f.kind = 0x0A ∧ f.payload.length = 8 ∧ (s.dev.pol 0).coll.valid = true ∧
        bits v 47 45 = 0 ∧ v / 2 ^ 56 = 0 ∧ v % 2 ^ 16 ≤ (s.dev.pol 0).coll.count ∧ bits v 31 16 = st := by
  simp only [arrives_iff]
  and_intros <;> decide +kernel

/-- Both contributions to segment 0, whose owner this member is, have landed. -/
def sumS : State := after (.collData 0 (collF 0 1 0 true true) {}) (after (.coll 0 0 11 {}) (collS 1 0 0))
theorem witness_Collectives_sums :
    let s := sumS
    let e := s.w.cent 0 0
    (s.dev.runningJob 0).isSome = true ∧ (s.dev.pol 0).coll.valid = true ∧ 0 ≤ (s.dev.pol 0).coll.count ∧ e.op = 1 ∧ 0 % e.n = e.me ∧
      (∀ r, r < e.n → s.dev.hasLanded 0 0 0 0 r = true) ∧ s.dev.mayLand 0 0 e 1 e.me 0 = true := by
  decide +kernel

end Sys2Proof.Tests

/-! ## Checks of arrays, polders, ports, power -/

namespace Sys2Proof.Tests

/-- A pass of array 7 of the die at site 1 whose checksum column came out one too large, and its episode. -/
def heldS : State := after (.matmul 0 0 7 {} [{ j := 0, err := .column 0 1 }]) (astate (astep ArrOp.matmul.code 16 0 true true) 1 16 0)
def heldJob : Job := (heldS.dev.runningJob 0).getD job0
def epi : Episode := (heldS.dev.episode 1).getD { polder := 9, ldie := 0, logical := 0, phys := 0, pos := 0, j := 0, recs := [], capture := false }
/-- The episode changed by `f`, its die by `g`. -/
def epiS (f : Episode → Episode) (g : Die → Die := id) : State := heldS.withDev fun d =>
  { d with dies := tmod {} d.dies 1 fun D => g { D with episodes := D.episodes.map f } }
def evid0 : Evid := { site := 1, phys := 2, sub := 8, seq := 0, head := zeros 256, area := [] }

theorem serves_of {s : State} {e : Episode} {j : Job} {errs : List BlkErr} {good : Bool}
    (h : s.dev.episode 1 = some e ∧ s.dev.runningJob e.polder = some j ∧ ((s.w.epBlk j e).any fun x => (x.records errs).isEmpty == good) = true) :
    ∃ x, Serves s 1 e j x ∧ (x.records errs = [] ↔ good = true) := by
  rcases hx : s.w.epBlk j e with _ | x
  · have h := h.2.2
    simp [hx] at h
  · have hr := h.2.2
    simp only [hx, Option.any_some, beq_iff_eq] at hr
    exact ⟨x, ⟨h.1, h.2.1, hx⟩, by rw [← hr]; exact List.isEmpty_iff.symm⟩

/-- A repeat that meets no mismatch and one that does; a substitute that is the spare and, the spare quarantined, array 0; substitutes of both kinds that meet
none and that do, at both stages; and a record that waits for one targeted test. -/
theorem witness_CheckEpisodes :
    (∀ good ∈ [true, false], epi.stage = .repeatP ∧ ∃ x, Serves heldS 1 epi heldJob x ∧ (x.records (if good then [] else [.column 0 1]) = [] ↔ good = true)) ∧
    (let f : Episode → Episode := fun e => { e with stage := .waitSub }
     let s := epiS f
     s.dev.episode 1 = some (f epi) ∧ (f epi).stage = .waitSub ∧ s.dev.logicalOf 1 8 = none ∧ epi.phys ≠ 8 ∧ (s.dev.die 1).quar.testBit 8 = false ∧
       (s.dev.die 1).chkq.testBit 8 = false) ∧
    (let f : Episode → Episode := fun e => { e with stage := .waitSub }
     let s := epiS f fun D => { D with quar := 2 ^ 8 + 1 }
     let D := s.dev.die 1
     s.dev.episode 1 = some (f epi) ∧ (f epi).stage = .waitSub ∧ D.quar.testBit 8 = true ∧ (s.dev.logicalOf 1 1).isSome = true ∧ 1 ≠ epi.phys ∧
       D.quar.testBit 1 = false ∧ D.chkq.testBit 1 = false ∧
       ∀ m, m < 1 → m = epi.phys ∨ D.quar.testBit m = true ∨ D.chkq.testBit m = true ∨ s.dev.logicalOf 1 m = none) ∧
    (∀ st ∈ [EpStage.compS, .compS2], ∀ sub ∈ [8, 0], ∀ good ∈ [true, false],
      let f : Episode → Episode := fun e => { e with stage := st, sub := sub }
      ((f epi).stage = st ∧ (f epi).logical < 8 ∧ ((f epi).sub = 8 ∧ (epiS f).dev.logicalOf 1 8 = none ↔ sub = 8)) ∧
        ∃ x, Serves (epiS f) 1 (f epi) heldJob x ∧ (x.records (if good then [] else [.column 0 1]) = [] ↔ good = true)) ∧
    (let s := (epiS id fun D => { D with test := 4 }).withDev fun d => { d with evids := [evid0] }
     s.dev.evids = [evid0] ∧ evid0.waitPhys = true ∧ evid0.waitSub = false ∧ (s.dev.die 1).test.testBit 2 = true ∧ testFree s 1 2) := by
  have h : ∀ st ∈ [EpStage.compS, .compS2], ∀ sub ∈ [8, 0], ∀ good ∈ [true, false],
      let f : Episode → Episode := fun e => { e with stage := st, sub := sub }
      ((f epi).stage = st ∧ (f epi).logical < 8 ∧ ((f epi).sub = 8 ∧ (epiS f).dev.logicalOf 1 8 = none ↔ sub = 8)) ∧
        (epiS f).dev.episode 1 = some (f epi) ∧ (epiS f).dev.runningJob (f epi).polder = some heldJob ∧
          (((epiS f).w.epBlk heldJob (f epi)).any fun x => (x.records (if good then [] else [.column 0 1])).isEmpty == good) = true := by decide +kernel
  refine ⟨fun good hg => ⟨by decide +kernel, serves_of ⟨by decide +kernel, by decide +kernel, ?_⟩⟩, by decide +kernel, by decide +kernel,
    fun st hs sub hb good hg => ⟨(h st hs sub hb good hg).1, serves_of (h st hs sub hb good hg).2⟩, ?_⟩
  · revert good
    decide +kernel
  · simp only [testFree]
    decide +kernel

/-- Polder 0 is EMPTY, its resources laid out. -/
def emptyPol (f : Pol → Pol) : State := (s0.withDev fun d => { d with pols := [(0, f { pol0 with enable := false, st := 0, home := 0 })], rings := [], ctxs := [], banks := [] })
/-- Polder 0 has no context. -/
def noCtx (f : Pol → Pol) : State := State.withPol (s0.withDev fun d => { d with ctxs := [] }) f
def withVfs (s : State) : State := s.withDev fun d => { d with hub := { d.hub with numVfs := 16 } }

/-- The host reaches function 0, and firmware is RUNNING. -/
def byPf (s : State) : Prop := s.dev.hostReach 0 = true ∧ s.dev.running = true

/-- A polder that can be formed and one that cannot; one READY with contexts and without; FORMING with its stacks CLEAN; DISSOLVING; resets by the register and by a
function, where there is something to reset and where there is not; a stack that is scrubbed and one that is patrolled, with and without an error. -/
theorem witness_Polders :
    (∀ ok ∈ [true, false], let s := emptyPol fun P => { P with dies := if ok then P.dies else 0 }
      byPf s ∧ (s.dev.pol 0).st = 0 ∧ (s.dev.formRefused 0 = none ↔ ok = true)) ∧
    (byPf s0 ∧ (s0.dev.pol 0).st = 2 ∧ s0.dev.polCtxs 0 ≠ [] ∧ s0.dev.driver 0 = 0) ∧
    (byPf (noCtx id) ∧ ((noCtx id).dev.pol 0).st = 2 ∧ (noCtx id).dev.polCtxs 0 = [] ∧ ((noCtx id).dev.pol 0).job = none ∧ ((noCtx id).dev.pol 0).warm = none) ∧
    (let s := noCtx fun P => { P with st := 1 }
     (s.dev.pol 0).st = 1 ∧ s.dev.allClean 0 = true) ∧
    ((noCtx fun P => { P with st := 3 }).dev.pol 0).st = 3 ∧ (byPf s0 ∧ (s0.dev.pol 15).st = 0) ∧
    (let s := withVfs s0
     (s.dev.hostReach 1 = true ∧ s.dev.running = true ∧ vfPol 1 = 0 ∧ (s.dev.pol (vfPol 1)).st = 2) ∧
       s.dev.hostReach 16 = true ∧ (s.dev.pol (vfPol 16)).st = 0) ∧
    (let s := s0.withDev fun d => { d with dies := [(1, { stack := 2 })] }
     (s.dev.die 1).stack = 2 ∧ s.mem.wf = true) ∧
    (s0.dev.sitePol 1 = some 0 ∧ (s0.dev.die 1).stack = 3 ∧ 4096 * (stackSize / 4096 - 1) < stackSize ∧ MemFail.code (MemFail.stackUE 5) ≠ none) := by
  simp only [byPf]
  decide +kernel

/-! ### Ports -/

/-- Port 0 of the bare device is `P`. -/
def portS (P : Port) : State := bare.withFabric fun F => { F with ports := [(0, P)] }
def upPort : Port := { enable := true, st := 2, txSeq := 7, rxSeq := 5, replays := 16 }
def portF (kind : Nat) (p : Bytes) : Frame :=
  { kind := kind, hseq := 5, hack := 0, dst := 0, src := 9, srcPol := 0, srcPort := 0, tag := 0, addr := 0, payload := p }

/-- Ports that are enabled, refused and disabled; a lock in each mode; UP and EXCLUDED ports at each of their events. -/
theorem witness_PortStates :
    (∀ v ∈ [0, 2 ^ 21], (bare.dev.hostReach 0 = true ∧ bare.dev.running = true ∧ 0 < bare.dev.numPorts) ∧ (bare.dev.port 0).enable = false ∧
      (bare.dev.portEnableOk 0 ((bare.dev.port 0).withCtrl (v % 2 ^ 31 + 2 ^ 31)) = true ↔ v = 2 ^ 21)) ∧
    (let s := portS upPort
     s.dev.hostReach 0 = true ∧ s.dev.running = true ∧ 0 < s.dev.numPorts ∧ (s.dev.port 0).enable = true) ∧
    (∀ m ∈ [0, 1], let s := portS { upPort with st := 1, mode := m }
      (s.dev.port 0).enable = true ∧ (s.dev.port 0).st = 1 ∧ (s.dev.port 0).lit = true ∧ (s.dev.port 0).mode = m) ∧
    (∀ st ∈ [2, 4], let s := portS { upPort with st := st }
      linked s 0 ∧ 16 ≤ (s.dev.port 0).replays ∧ (s.dev.port 0).mode = 0 ∧ (s.dev.port 0).held = [] ∧
        ∀ x ∈ s.dev.fabric.ports, x.2.pausing = 0 ∧ x.2.held = []) := by
  simp only [linked]
  decide +kernel

/-- Frames that are not whole, not in order, and in order but not well formed, on a DIRECT port; one that is not well formed on a SWITCHED port. -/
theorem witness_PortStates_discards :
    (let f := { portF 1 [1] with fcsOk := false }
     ((portS upPort).dev.port 0).st = 2 ∧ ((portS upPort).dev.port 0).mode = 0 ∧ badFrame f = some 2 ∧ f.fcsOk = false) ∧
    (∀ h ∈ [5, 6], let f := { portF 1 [1] with ver := 3, hseq := h }
      ((portS upPort).dev.port 0).st = 2 ∧ ((portS upPort).dev.port 0).mode = 0 ∧ badFrame f = some 5 ∧ f.fcsOk = true ∧ f.kind ≠ 0x11 ∧
        (f.hseq = ((portS upPort).dev.port 0).rxSeq ↔ h = 5)) ∧
    (let s := portS { upPort with mode := 1 }
     (s.dev.port 0).st = 2 ∧ (s.dev.port 0).mode = 1 ∧ badFrame (portF 0x3F [1]) = some 5) := by
  decide +kernel

/-- HELLO where none is expected, of the neighbour that was expected and of another; GOODBYE; LL_ACK that asks for a replay and one that does not; HELLO of a
SWITCHED port that has said HELLO itself and of one that has not; a site whose fibre latch moves. -/
theorem witness_PortStates_frames :
    (∀ x ∈ [(false, 9), (true, 9), (true, 8)],
      let s := portS { upPort with expValid := x.1, expChip := x.2, expPort := 2 }
      let f := portF 0x10 (toLe 8 (9 + 2 * 2 ^ 13) ++ zeros 8)
      let v := fld f.payload 0 4
      Arrives s 0 f ∧ f.kind = 0x10 ∧ (s.dev.port 0).expValid = x.1 ∧
        (bits v 12 0 = (s.dev.port 0).expChip ∧ bits v 18 13 = (s.dev.port 0).expPort ↔ x.2 = 9)) ∧
    (Arrives (portS upPort) 0 (portF 0x12 []) ∧ (portF 0x12 []).kind = 0x12) ∧
    (∀ b ∈ [0, 1], let f := portF 0x11 (toLe 4 b)
      linked (portS upPort) 0 ∧ ((portS upPort).dev.port 0).mode = 0 ∧ badFrame f = none ∧ f.kind = 0x11 ∧ (fld f.payload 0 4).testBit 0 = (b == 1)) ∧
    (∀ tc ∈ [0, 1], let s := (portS { upPort with mode := 1 }).withFabric fun F => { F with conns := [(connKey 0 9 1, { st := 1 })] }
      let f := portF 0x10 (toLe 4 9 ++ toLe 4 44 ++ toLe 8 tc)
      ((s.dev.port 0).st = 2 ∧ (s.dev.port 0).mode = 1 ∧ badFrame f = none ∧ f.kind = 0x10 ∧ f.dst = s.dev.hub.chip ∧ f.eackv = false ∧
        (fld f.payload 8 1).testBit 1 = false) ∧ fld f.payload 8 1 % 2 = tc ∧ ((s.dev.conn (s.dev.port 0).lport f.src tc).st = 1 ↔ tc = 1) ∧
        bits (fld f.payload 0 4) 12 0 = f.src ∧ bits (fld f.payload 0 4) 22 19 = (s.dev.port 0).lport) ∧
    (bare.dev.linkSites ≠ [] ∧ bare.dev.linkSites.findIdx? (· == bare.dev.linkSites.headD 0) = some 0) := by
  simp only [arrives_iff, linked]
  and_intros <;> decide +kernel

/-! ### Power -/

/-- Two polders, whose dies share port groups. -/
def twoPols : State := s0.withDev fun d => { d with pols := [(0, { pol0 with ports := 7 }), (3, { pol0 with dies := 0x3F8, home := 3, ports := 7 })] }

/-- The premises of each clause: shares that fit the budget; grants; limits that are right, at the ends of their ranges, and wrong; modes with ports shared and
not; and sensors of each kind, of an optical engine whose laser is on and of one whose laser is not. -/
theorem witness_PowerControl :
    clocked s0 ∧ (s0.dev.pol 0).st ≠ 0 ∧
    (let d := { twoPols.dev with power := { twoPols.dev.power with cap := 10400 } }
     let idle := d.computeSites.filter fun s => (d.sitePol s).isNone
     d.formed ≠ [] ∧ (∀ p ∈ d.formed, 0 < d.power.weightOf p) ∧
       reserve d.variant + (sumOf (idle.map d.floorOf) + d.testExtra idle) + sumOf (d.formed.map fun p => sumOf ((d.polSites p).map d.floorOf)) ≤ d.power.cap) ∧
    (let l : List Want := [{ key := 0, kind := 0, want := 30, lo := minGrant 0, ceil := 1500, floorF := 0, point := none }]
     (∀ x ∈ l, minGrant x.kind ≤ x.lo ∧ x.lo ≤ x.want) ∧ sumOf (l.map fun x => minGrant x.kind) ≤ minGrant 0) ∧
    (byPf s0 ∧ s0.dev.portsShared = false ∧ byPf twoPols ∧ twoPols.dev.portsShared = true ∧ (2 ^ 31).testBit 31 = true ∧ (0 : Nat).testBit 31 = false ∧
      bits (3 * 2 ^ 28) 30 28 ≤ 3) ∧
    (∀ x ∈ [(499, 0, false), (500, 0, true), (1650, 500, true), (1650, 1650, true), (1650, 1675, false), (1675, 0, false), (510, 0, false)],
      (x.1 * 2 ^ 16 + x.2.1 < 2 ^ 32 ∧ (x.1 * 2 ^ 16 + x.2.1) / 2 ^ 16 = x.1 ∧ (x.1 * 2 ^ 16 + x.2.1) % 2 ^ 16 = x.2.1) ∧
      decide (rangeMin 0 ≤ x.1 ∧ x.1 ≤ rangeMax 0 ∧ x.1 % 25 = 0 ∧ (x.2.1 = 0 ∨ rangeMin 0 ≤ x.2.1 ∧ x.2.1 ≤ x.1 ∧ x.2.1 % 25 = 0)) = x.2.2) ∧
    ((s0.dev.pol 15).st = 0 ∧ 1 ∈ s0.dev.polSites 0 ∧ 0 ∈ varIslands ∧ islKind 0 = some 0) ∧
    (s0.dev.aon.rail33 = true ∧ s0.dev.aon.tripHold = false ∧ s0.dev.isCompute 1 = true ∧ s0.dev.isStacked 1 = true ∧ s0.dev.isLink (s0.dev.linkSites.headD 0) = true) ∧
    ∀ phy ∈ [false, true], let s := portS { upPort with phy := phy }
      s.dev.aon.rail33 = true ∧ s.dev.aon.tripHold = false ∧ 0 < s.dev.numPorts ∧ (s.dev.port 0).laser = phy := by
  simp only [clocked, byPf]
  and_intros <;> decide +kernel

end Sys2Proof.Tests

/-! ## Service mode -/

namespace Sys2Proof.Tests

def svcImg (k : Nat) : Nat := stackBase 1 + 0x4000000 + 0x2000000 * k
/-- A service block of role `role`: images 0 and, in role 0, 1 as its prefill image; 1,000 page-table entries, 4 sequences of 4 pages, 16 frames. -/
def svcBlk (role prefill : Nat) : Bytes :=
  put 512 [(0, 4, 0x53435653), (4, 2, 2), (6, 1, role), (8, 8, svcImg 0), (0x10, 8, prefill), (0x18, 8, stackBase 1 + 0x1000000), (0x28, 8, stackBase 1 + 0x1100000),
    (0x30, 8, stackBase 1 + 0x1200000), (0x38, 8, stackBase 1 + 0x1300000), (0x40, 4, 1000), (0x44, 2, 4), (0x46, 2, 4), (0x48, 4, 64), (0x4C, 2, 16), (0x4E, 1, 1),
    (0x50, 4, 4), (0x54, 2, 7), (0x56, 2, 32), (0x58, 2, 1), (0x5A, 1, 0xFF), (0xC0, 8, 1000 + 16 * 2 ^ 19)]
/-- The nonzero bytes of the first such block, with its CRC, at 32 MiB of stack 1. -/
def svcCells : Mem :=
  [(0x2002000000, 83), (0x2002000001, 86), (0x2002000002, 67), (0x2002000003, 83), (0x2002000004, 2), (0x200200000B, 4), (0x200200000C, 32),
   (0x2002000013, 6), (0x2002000014, 32), (0x200200001B, 1), (0x200200001C, 32), (0x200200002A, 16), (0x200200002B, 1), (0x200200002C, 32),
   (0x2002000032, 32), (0x2002000033, 1), (0x2002000034, 32), (0x200200003A, 48), (0x200200003B, 1), (0x200200003C, 32), (0x2002000040, 232),
   (0x2002000041, 3), (0x2002000044, 4), (0x2002000046, 4), (0x2002000048, 64), (0x200200004C, 16), (0x200200004E, 1), (0x2002000050, 4), (0x2002000054,
   7), (0x2002000056, 32), (0x2002000058, 1), (0x200200005A, 255), (0x20020000C0, 232), (0x20020000C1, 3), (0x20020000C2, 128), (0x20020001FC, 27),
   (0x20020001FD, 96), (0x20020001FE, 231), (0x20020001FF, 133)]
def svcAt : Nat := stackBase 1 + 0x2000000
/-- Polder 0 is a service polder whose loop is as `S` says. -/
def svcS (S : Svc) : State := s0.withPol fun P => { P with service := true, svc := S }
/-- The block stands where POL_SVC_BASE points. -/
def runS : State := State.withPol { s0 with mem := svcCells } fun P => { P with service := true, svc := { base := svcAt } }

theorem read_of {s : State} {ok : Bool} (h : (s.w.svcRead 0).any (fun x => svcBlockOk x.1 x.2 == ok) = true) :
    ∃ b x, s.w.svcRead 0 = some (b, x) ∧ svcBlockOk b x = ok := by
  obtain ⟨y, hy, hk⟩ := (Option.any_eq_true _ _).mp h
  exact ⟨y.1, y.2, hy, eq_of_beq hk⟩

/-- RUN and its end in a polder of no service; RUN of one whose block is nowhere, of one whose block is wrong and of one whose block is right; and the end of a loop that runs. -/
theorem witness_ServiceLoop_run :
    (Drives s0 0 0 ∧ s0.dev.svcReached 0 = false) ∧
    (Drives (svcS {}) 0 0 ∧ (svcS {}).dev.svcReached 0 = true ∧ ((svcS {}).dev.pol 0).svc.st = 0 ∧
      (svcS {}).w.svcRead 0 = none) ∧
    (let s := svcS { base := svcAt }
     Drives s 0 0 ∧ s.dev.svcReached 0 = true ∧ (s.dev.pol 0).svc.st = 0 ∧ ∃ b x, s.w.svcRead 0 = some (b, x) ∧ svcBlockOk b x = false) ∧
    (Drives runS 0 0 ∧ runS.dev.svcReached 0 = true ∧ (runS.dev.pol 0).svc.st = 0 ∧ ∃ b x, runS.w.svcRead 0 = some (b, x) ∧ svcBlockOk b x = true) ∧
    (Drives (svcS { st := 2 }) 0 0 ∧ (svcS { st := 2 }).dev.svcReached 0 = true ∧ ((svcS { st := 2 }).dev.pol 0).svc.st = 2) := by
  simp only [drives_iff]
  refine ⟨by decide +kernel, by decide +kernel, ⟨by decide +kernel, by decide +kernel, by decide +kernel, ?_⟩, ⟨by decide +kernel, by decide +kernel, by decide +kernel, ?_⟩, by decide +kernel⟩
  · exact read_of (by decide +kernel)
  · exact read_of (by decide +kernel)

/-- The loop starts: its images registered already, or not there. -/
def startS (imgs : List Img) : State := (svcS { st := 1, base := svcAt, block := svcBlk 0 (svcImg 1) }).withPol fun P => { P with imgs := imgs }
theorem witness_ServiceLoop_starts :
    (∀ there ∈ [true, false], let s := startS (if there then [{ addr := svcImg 0, len := 256 }, { addr := svcImg 1, len := 256 }] else [])
      (s.dev.pol 0).svc.st = 1 ∧ ((s.w.svcRefused 0).isNone = there)) ∧
    ∀ x ∈ ((startS []).dev.pol 0).svc.pairs, prDonate x.entry = 0 := by
  decide +kernel

/-- A sequence in slot 0 that was admitted under number `a`. -/
def startE : Bytes := put 128 [(0, 1, 1), (1, 1, 0x20), (6, 2, 3), (8, 8, 77), (0x18, 8, 0x7000), (0x20, 4, 8), (0x24, 4, 4), (0x34, 4, 0x3F800000), (0x3C, 4, 0x3F800000), (0x41, 1, 1)]
def sq0 (ph : SeqPhase) : Sq := { slot := 0, entry := startE, ring := 2, admission := 0, phase := ph }
def frames16 : List Nat := (List.range 16).map (524288 + 1000 + ·)
/-- The loop runs with sequences `l` and no job. -/
def loopS (role prefill : Nat) (l : List Sq) (last : Bool := false) : State :=
  svcS { st := 2, base := svcAt, block := svcBlk role prefill, free := frames16, seqs := l, lastPrefill := last }

/-- What a pass finds when firmware has donated what it may. -/
def passW (s : State) : W := (s.w.modSvc 0 Svc.endPass).donateAll 0
def passV (s : State) : Svc := ((passW s).d.pol 0).svc
def decodable (s : State) : Prop := (W.pickDecode 0 (passV s).decodeOrder (passW s) [] []).2 ≠ []
theorem looping_iff {s : State} {p : Nat} :
    Looping s p ↔ ((s.dev.pol p).svc.st = 2 ∧ (s.dev.pol p).svc.job = none) ∧ s.dev.polReady p = true ∧ s.dev.running = true :=
  ⟨fun h => ⟨⟨h.st, h.job⟩, h.ready, h.running⟩, fun h => ⟨h.1.1, h.1.2, h.2.1, h.2.2⟩⟩
/-- A prompt that is outstanding. -/
def waits : Sq := { sq0 .prompt with admission := 1, slot := 1 }

/-- Passes that prefill: in the role of prefill, and in that of decode after a decode, and after a prefill where nothing can be decoded; and passes that decode: after a
prefill, and where no prompt is outstanding. -/
theorem witness_ServiceLoop_passes :
    ∀ x ∈ [(1, [sq0 .prompt], false, false), (0, [sq0 .prompt, { waits with phase := .ready }], false, true), (0, [sq0 .prompt], true, false),
        (0, [waits, sq0 .ready], true, true), (0, [sq0 .ready], false, true)],
      let s := loopS x.1 (if x.1 = 0 then svcImg 1 else 0) x.2.1 x.2.2.1
      (Looping s 0 ∧ settled s 0 ∧ (passW s).d.jobFree 0 = true) ∧ (decodable s ↔ x.2.2.2 = true) ∧
        svRole (passV s).block = x.1 ∧ (x.1 = 0 → svPrefillImg (passV s).block ≠ 0) ∧ (passV s).lastPrefill = x.2.2.1 ∧
        ((passV s).nextPrompt = none ↔ x.2.1 = [sq0 .ready]) := by
  simp only [looping_iff, settled, decodable]
  decide +kernel

/-- Jobs that end: with an error, a decode, the first part of a prefill and its last; and the end of a loop that stops. -/
theorem witness_ServiceLoop_ends :
    (∀ x ∈ [(stTIMEOUT, true, false), (stOK, false, false), (stOK, true, false), (stOK, true, true)], ∀ st ∈ [2, 3],
      let J : SvcJob := { prefill := x.2.1, rows := [0], chunk := 8, complete := x.2.2, status := some x.1 }
      let S := ((svcS { st := st, block := svcBlk 0 0, seqs := [sq0 .ready], job := some J }).dev.pol 0).svc
      S.job = some J ∧ J.status = some x.1 ∧ S.st = st ∧ J.rows = [0]) ∧ stTIMEOUT ≠ stOK ∧
    (let S := ((svcS { st := 3 }).dev.pol 0).svc
     S.st = 3 ∧ S.job = none ∧ S.seqs = []) := by
  decide +kernel

/-- REQUEST ring 2 holds the entry `e`, RESPONSE ring 3 stands by. -/
def askS (e : Bytes) (s : State) : State :=
  (s.withRing 2 fun _ => { kind := 2, st := 1, log2 := 4, batch := [e], tail := 1, base := 0x40000 }).withRing 3 fun _ => { kind := 3, st := 1, log2 := 4, base := 0x60000 }
def askE (op : Nat) (l : List (Nat × Nat × Nat)) : Bytes := put 128 ((0, 1, op) :: (1, 1, 0x20) :: l)

/-- STARTs that are admitted, refused, and without a ring to answer in; CANCEL; SESSION_DROP; NOP. -/
theorem witness_ServiceRequests :
    (let s := askS startE (loopS 0 (svcImg 1) [])
     let S := (s.dev.pol 0).svc
     s.dev.request 2 = some (0, startE) ∧ s.dev.respRingOk 2 startE = true ∧ rqOp startE = 1 ∧ s.dev.startRefused 0 2 startE = none ∧ rqReuse startE = false ∧
       rqRemote startE = false ∧ S.freeSlot = some 0 ∧ S.live.length < svMaxSeq S.block ∧ S.reserveFor startE ≤ S.avail) ∧
    (let e := startE.take 0x34 ++ zeros 76
     let s := askS e (loopS 0 (svcImg 1) [])
     s.dev.request 2 = some (0, e) ∧ rqOp e = 1 ∧ s.dev.respRingOk 2 e = true ∧ (s.dev.startRefused 0 2 e).isSome = true ∧ 0 < (s.dev.ring (rqRing e)).room) ∧
    (let e := askE 1 [(6, 2, 4)]
     let s := askS e (loopS 0 (svcImg 1) [])
     s.dev.request 2 = some (0, e) ∧ rqOp e = 1 ∧ s.dev.respRingOk 2 e = false) ∧
    (let e := askE 2 [(8, 8, 77)]
     let s := askS e (loopS 0 (svcImg 1) [])
     s.dev.request 2 = some (0, e) ∧ rqOp e = 2 ∧ s.dev.smallEntryOk 2 e [(0x10, 8)] = true ∧ svRole (s.dev.pol 0).svc.block ≠ 2) ∧
    (let e := askE 3 [(0x10, 8, 5)]
     let s := askS e (loopS 0 (svcImg 1) [])
     s.dev.request 2 = some (0, e) ∧ rqOp e = 3 ∧ s.dev.smallEntryOk 2 e [(8, 8)] = true ∧ svRole (s.dev.pol 0).svc.block ≠ 1 ∧
       ∀ x ∈ (s.dev.pol 0).svc.sessions, x.id ≠ rqSession e) ∧
    ((askS (askE 0 []) (loopS 0 (svcImg 1) [])).dev.request 2 = some (0, askE 0 []) ∧ rqOp (askE 0 []) = 0) := by
  decide +kernel

/-- A pair whose record ring is at 80 MiB of stack 1, its sluices 0 to 3. -/
def pairE : Bytes := put 64 [(0, 8, stackBase 1 + 0x5000000), (8, 8, stackBase 1 + 0x5010000), (0x10, 2, 0), (0x12, 2, 1), (0x14, 2, 2), (0x16, 2, 3), (0x18, 8, 0x1000), (0x28, 2, 4),
  (0x2A, 2, 5), (0x2C, 2, 6), (0x2E, 2, 7), (0x30, 2, 9)]
def frameA : Nat := 524288 + 1000
/-- A record has come for polder 0, of role `role`: KIND, KEY 5, SESSION 8, the page `frameA` if `n` is 1. -/
def recS (role kind n : Nat) (S : Svc → Svc := id) : State :=
  (State.withDev { s0 with mem := cells (stackBase 1 + 0x5000000) (put 0x48 ([(0, 1, kind), (2, 2, n), (8, 8, 5), (0x10, 8, 8), (0x18, 4, 7), (0x1C, 4, 3)] ++ if n = 1 then [(0x40, 8, frameA + 2 ^ 46)] else [])) } fun d =>
    { d with sluices := [(0, { value := 1, valid := true }), (1, { value := 9, valid := true })] }).withPol fun P =>
      { P with service := true, svc := S { st := 2, block := svcBlk role 0, pairs := [{ entry := pairE, donated := [frameA, frameA + 1] }] } }
/-- `Accepts`, of the record `b` that comes next. -/
def AcceptOk (s : State) (fs : List Nat) (b : Bytes) : Prop :=
  let X := (s.dev.pol 0).svc.pair 0
  (recordFieldsOk b = true ∧ fld b 0x28 4 = X.taken % 2 ^ 32 ∧ roleTakes (svRole (s.dev.pol 0).svc.block) (rcKind b) = true ∧
      (List.range (rcPages b)).map (fun k => s.dev.donatedFrame X (rcEnt b k)) = fs.map some) ∧
    fs.Nodup ∧ rcMore b = false ∧ (X.partKey = none ∧ X.partFrames = []) ∧ X.badKey ≠ some (rcKey b)
/-- The record that comes next has it, and `extra`. -/
def Comes (s : State) (fs : List Nat) (extra : Bytes → Prop) : Prop :=
  0 < (s.dev.pol 0).svc.pairs.length ∧ ∃ b, Accepts s 0 0 b fs ∧ extra b
theorem comes_of {s : State} {fs : List Nat} {extra : Bytes → Prop} (hp : 0 < (s.dev.pol 0).svc.pairs.length)
    (hn : (s.w.nextRecord 0 0).isSome = true) (h : ∀ b, b = (s.w.nextRecord 0 0).getD [] → AcceptOk s fs b ∧ extra b) : Comes s fs extra :=
  let ⟨b, hx⟩ := Option.isSome_iff_exists.mp hn
  let ⟨hb, he⟩ := h b (by rw [hx]; rfl)
  ⟨hp, b, ⟨hx, hb.1.1, hb.1.2.1, hb.1.2.2.1, hb.1.2.2.2, hb.2.1, hb.2.2.1, hb.2.2.2.1, hb.2.2.2.2⟩, he⟩

/-- Sequence 3 waits for KEY 5 and has `n` tokens to make. -/
def fetching (n : Nat) (S : Svc) : Svc := { S with seqs := [{ sq0 .fetching with admission := 3, entry := put 128 [(0x20, 4, 8), (0x24, 4, n)] }], fetches := [(5, 3)] }
/-- A sequence waits for the pages of KEY 5. -/
def joining (S : Svc) : Svc := { S with seqs := [{ sq0 .remoteKv with entry := askE 1 [(8, 8, 5)] }] }
def holding (S : Svc) : Svc := { S with sessions := [{ id := 8, slot := 4, tokens := 3, frames := [], order := 0 }] }

/-- SEQ_PAGES that a sequence waits for, and that none does. -/
theorem witness_Handoffs_seq :
    ∀ f ∈ [joining, id], let s := recS 0 1 1 f
      let S := (s.dev.pol 0).svc
      Comes s [frameA] fun b => rcKind b = 1 ∧
        ((S.live.find? fun q => q.phase == .remoteKv && rqPair q.entry == 0 && rqId q.entry == rcKey b) = none ↔ S.seqs = []) := by
  intro f hf
  refine comes_of (by revert f; decide +kernel) (by revert f; decide +kernel) fun b hb => ?_
  subst hb
  revert f
  simp only [AcceptOk]
  decide +kernel

/-- SESSION_PAGES of the role that stores sessions. -/
theorem witness_Handoffs_store :
    let s := recS 2 2 1
    Comes s [frameA] fun b => rcKind b = 2 ∧ svRole (s.dev.pol 0).svc.block = 2 ∧ ∀ x ∈ (s.dev.pol 0).svc.sessions, x.id ≠ rcSession b := by
  refine comes_of (by decide +kernel) (by decide +kernel) fun b hb => ?_
  subst hb
  simp only [AcceptOk]
  decide +kernel

/-- SESSION_PAGES that were fetched, of a sequence that fits in MAXCTX with them, and of one that does not. -/
theorem witness_Handoffs_fetched :
    ∀ n ∈ [4, 2 ^ 20], let s := recS 0 2 1 (fetching n)
      let S := (s.dev.pol 0).svc
      Comes s [frameA] fun b => rcKind b = 2 ∧ svRole S.block = 0 ∧ S.fetches.find? (·.1 == rcKey b) = some (rcKey b, 3) ∧ (S.seq 3).isSome = true ∧
        ∀ q ∈ S.seq 3, (rcNtok b + rqPlen q.entry + rqMaxNew q.entry ≤ svMaxCtx S.block ↔ n = 4) := by
  intro n hn
  refine comes_of (by revert n; decide +kernel) (by revert n; decide +kernel) fun b hb => ?_
  subst hb
  revert n
  simp only [AcceptOk]
  decide +kernel

/-- FETCH of a session that is there and of one that is not; and MISS. -/
theorem witness_Handoffs_fetches :
    (∀ f ∈ [holding, id], let s := recS 2 3 0 f
      let S := (s.dev.pol 0).svc
      Comes s [] fun b => rcKind b = 3 ∧ (S.sessions.find? (·.id == rcSession b) = none ↔ S.sessions = [])) ∧
    (let s := recS 0 4 0 (fetching 4)
     Comes s [] fun b => rcKind b = 4 ∧ (s.dev.pol 0).svc.fetches.find? (·.1 == rcKey b) = some (rcKey b, 3)) := by
  refine ⟨fun f hf => comes_of (by revert f; decide +kernel) (by revert f; decide +kernel) fun b hb => ?_, comes_of (by decide +kernel) (by decide +kernel) fun b hb => ?_⟩
  · subst hb
    revert f
    simp only [AcceptOk]
    decide +kernel
  · subst hb
    simp only [AcceptOk]
    decide +kernel

theorem serving_iff {s : State} {p : Nat} : Serving s p ↔ (s.dev.pol p).svc.st = 2 ∧ s.dev.polReady p = true ∧ s.dev.running = true :=
  ⟨fun h => ⟨h.st, h.ready, h.running⟩, fun h => ⟨h.1, h.2.1, h.2.2⟩⟩

/-- Handoffs that send pages, send their record, and are done; and the retries of a loop that runs and of one that does not. -/
theorem witness_Handoffs_sends :
    (∀ x ∈ [({ pair := 0, kind := 1, key := 5, session := 0, pagesOut := true } : Send), { pair := 0, kind := 1, key := 5, session := 0 },
        { pair := 0, kind := 1, key := 5, session := 0, lastPosted := true, free := true, frames := [frameA] }],
      let s := recS 1 1 1 fun S => { S with sends := [x] }
      Serving s 0 ∧ 0 < (s.dev.pol 0).svc.pairs.length ∧ (s.dev.pol 0).svc.sends[0]? = some x ∧ x.ops = [] ∧
        (∀ y ∈ (s.dev.pol 0).svc.sends.take 0, y.pair ≠ x.pair) ∧ x.seq = none) ∧
    ((recS 1 1 1 fun S => { S with st := 0 }).dev.pol 0).svc.st ≠ 2 := by
  simp only [serving_iff]
  decide +kernel

/-! ## Self-test and registers -/

def bistS (B : Bist) : State := bare.withDev fun d => { d with bist := B }
/-- A slice of the array slots of the die at site 1. -/
def sliceV : Nat := 3 + 256 * 1 + 2 ^ 24
def slotS (S : Slot) : State := s0.withDev fun d => { d with bist := { d.bist with slots := [(15, S)] } }

/-- A slice that is allowed and one that is not, in slots that are free and DONE; slots of which a slice runs and waits. -/
theorem witness_SelfTest_commands :
    (∀ st ∈ [0, 3], ∀ v ∈ [sliceV, sliceV + 2 ^ 36], let s := slotS { st := st }
      byPf s ∧ (s.dev.slot 15).st = st ∧ v < 2 ^ 64 ∧ (s.dev.sliceRefuse v = 0 ↔ v = sliceV)) ∧
    (∀ st ∈ [1, 2], let s := slotS { st := st }
      byPf s ∧ (s.dev.slot 15).st = st) ∧
    (let s := after (.bistSliceCmd 0 15 sliceV) s0
     s.dev.running = true ∧ s.dev.sliceReady 15 = true) := by
  simp only [byPf]
  decide +kernel

/-- A slice of the array slots of its die runs, its island at `f` MHz. -/
def runningSlice (f : Nat) : State := (slotS { st := 2, cmd := sliceV }).withDev fun d => { d with power := { d.power with isl := [(16 + 12, { target := f })] } }
/-- A slice that found nothing and one that found a fault; one whose island is off its test point. -/
theorem witness_SelfTest_ends :
    (∀ r ∈ [0, 1], let s := runningSlice 2000
      let found := s.dev.sliceFound 15 s.dev.bist.patterns.length [{ result := r }] []
      ((s.dev.slot 15).st = 2 ∧ s.dev.offPoint 15 = false ∧ scRepair (s.dev.slot 15).cmd = false ∧ scBlock (s.dev.slot 15).cmd = 3) ∧
        ((∀ x ∈ found, x.result = 0) ↔ r = 0) ∧ ((∃ x ∈ found, x.result ≠ 0) ↔ r = 1)) ∧
    (((runningSlice 1975).dev.slot 15).st = 2 ∧ (runningSlice 1975).dev.offPoint 15 = true) := by
  decide +kernel

theorem witness_SelfTest_starts :
    (let s := bistS { packSt := 1 }
     byPf s ∧ s.dev.bist.packSt = 1) ∧ (byPf bare ∧ bare.dev.bist.packSt ≠ 1 ∧ bare.dev.packInUse = false) ∧
    (let s := bistS { repSt := 1 }
     byPf s ∧ s.dev.bist.repSt = 1) ∧ (bare.dev.bist.repSt ≠ 1 ∧ bare.dev.allEmpty = true) ∧ (byPf s0 ∧ s0.dev.allEmpty = false) := by
  simp only [byPf]
  decide +kernel

/-- A repair list without an entry, its CRC-32C computed by hand, and one whose CRC is wrong. -/
def repairList (crc : Nat) : Bytes := put 16 [(0, 4, 0x52504552), (4, 2, 2), (0xC, 4, crc)]
def readS (B : Bist) (res : ReadRes) : State := (bistS B).withDev fun d => { d with hub := { d.hub with reads := [{ tag := 0, addr := 0, len := 16, purpose := .pack, res := some res }] } }
/-- A fuse entry that withdraws the die at site 8. -/
def fuseV : Nat := 1 + 256 * 1 + 2 ^ 16 * 8
def fuseS (repair : Nat) : State := State.withDev { bare with fuses := { bare.fuses with repair := repair } } fun d => { d with sec := { d.sec with lc := 0 } }

theorem witness_SelfTest_loads :
    (let s := readS { packSt := 1 } (.err 1)
     s.dev.bist.packSt = 1 ∧ (s.dev.hread s.dev.bist.packTag).bind (·.res) = some (.err 1)) ∧
    (let b := zeros 0xA0
     let s := readS { packSt := 1 } (.ok b)
     s.dev.bist.packSt = 1 ∧ (s.dev.hread s.dev.bist.packTag).bind (·.res) = some (.ok b) ∧ s.w.packResult b ≠ 0) ∧
    (∀ c ∈ [0xED570AE3, 1], let b := repairList c
      let s := readS { repSt := 1 } (.ok b)
      (s.dev.bist.repSt = 1 ∧ (s.dev.hread s.dev.bist.repTag).bind (·.res) = some (.ok b)) ∧ (s.w.repairResult b = 0 ↔ c ≠ 1) ∧
        ∀ e ∈ listEntries b, 3 ≤ (repairOf e).kind) ∧
    (∀ full ∈ [false, true], ∀ v ∈ [fuseV, fuseV + 64],
      let s := fuseS (if full then 2 ^ 2048 - 1 else 0)
      (byPf s ∧ v < 2 ^ 64 ∧ s.dev.bist.fuseBusy = false) ∧ s.dev.sec.lc = 0 ∧ s.dev.allEmpty = true ∧
        (fuseNext s.fuses.repair = if full then none else some 0) ∧ (s.dev.repairOk v = true ↔ v = fuseV)) ∧
    (byPf bare ∧ fuseV < 2 ^ 64 ∧ bare.dev.bist.fuseBusy = false ∧ bare.dev.sec.lc = 1) := by
  simp only [byPf]
  decide +kernel

/-- Registers of both widths at aligned and other offsets; those whose rule allows a value and does not, at the ends of their ranges. -/
theorem witness_Registers :
    s0.dev.hostReach 0 = true ∧ s0.dev.running = true ∧ 0x1A % 4 ≠ 0 ∧ (regAt 0 0x18).map (fun r => (r.wide, r.ro)) = some (false, false) ∧
    (regAt 0 0x40).map (fun r => (r.wide, r.wo64, r.w1c64, r.ro)) = some (true, false, false, false) ∧ (regAt 0 0).map (·.ro) = some true ∧
    (∀ off ∈ [0x18, 0x40], ((regAt 0 off).map fun r => s0.dev.pathWrite 0 (s0.dev.regPath r)) = some true) ∧
    (bare.dev.allEmpty = true ∧ bare.dev.portsOff = true ∧ s0.dev.allEmpty = false) ∧
    (minCap 1 % 2 ^ 16 = minCap 1 ∧ maxCap 1 + 1 < 2 ^ 16 ∧ minCap 1 ≤ maxCap 1 ∧ s0.dev.variant = 1) ∧
    (255 % 256 ≠ 0 ∧ (s0.dev.pol 15).st = 0 ∧ (s0.dev.pol 0).st ≠ 0 ∧ (s0.dev.ring 8191).st = 0 ∧ (s0.dev.ring 0).st ≠ 0 ∧ (s0.dev.chan 255).st = 0 ∧ 2047 < vecCount 0 ∧
      (tget {} s0.dev.hub.vecs (vecKey 0 2047)).addr < 2 ^ 64) := by
  (repeat' apply And.intro) <;> decide +kernel

end Sys2Proof.Tests

/-! ## Well-formed commands -/

namespace Sys2Proof.Tests

/-- A frame with nothing in it. -/
def f0 : Frame := { kind := 0, hseq := 0, hack := 0, dst := 0, src := 0, srcPol := 0, srcPort := 0, tag := 0, addr := 0, payload := [] }

/-- Every algorithm the responder knows. -/
def al0 : Algs := ⟨true, true, true, true⟩

/-- A test that found nothing. -/
def te0 : TestEnd := {}

/-- Part 1: each with one operand beyond its range. -/
theorem test_wf_refuses_1 : ([.flrVf 17, .flrVf 0, .polReset 17 15 18446744073709551615, .polReset 16 16 18446744073709551615, .polReset 16 15 18446744073709551616,
     .secBootCmd 17 18446744073709551615, .secBootCmd 16 18446744073709551616, .secSvnCmd 17 18446744073709551615, .secSvnCmd 16 18446744073709551616,
     .lcSecure 17, .lcDebug 17 (.ok []), .lcReturn 17 (.ok []), .lcRetire 17, .getVersion 17, .getCapabilities 17 0, .negotiateAlgorithms 17 al0,
     .getDigests 17 none, .getCertificate 17 none 0 67108863 0, .getCertificate 16 none 0 67108864 0, .challenge 17 none 0 [],
     .getMeasurements 17 none 0 false [], .keyExchange 17 0 0 [], .finish 17 0 false, .keyUpdate 17 0 0, .heartbeat 17 0, .endSession 17 0,
     .ideKm 17 0 .query, .doorbell 17 67108863 0 18446744073709551615, .doorbell 16 67108864 0 18446744073709551615,
     .doorbell 16 67108863 0 18446744073709551616, .entryFetch 8192, .ringEnable 17 8191 18446744073709551615, .ringEnable 16 8192 18446744073709551615,
     .ringEnable 16 8191 18446744073709551616, .ringDisable 17 8191, .ringDisable 16 8192, .ringDrainComplete 8192, .ringIfSel 17 18446744073709551615,
     .ringIfSel 16 18446744073709551616, .nop 8192, .job 8192 (.ok []), .imageValidationDone 16 {}, .sluWait 8192, .sluSignal 8192, .sluSet 8192,
     .copy 8192, .copyComplete 8192 {}, .msixUnmask 17 2047, .msixUnmask 16 2048, .tableLoad 8192, .tableLoadComplete 8192 {}, .tableActivate 8192,
     .keyInstall 8192 (.ok []), .keyErase 8192, .channelEnable 17 255 18446744073709551615, .channelEnable 16 256 18446744073709551615,
     .channelEnable 16 255 18446744073709551616, .channelDisable 17 255, .channelDisable 16 256, .hostWriteAperture 17 255 [] false {}] : List Instr).all (fun c => !c.wf) = true := by decide

/-- Part 2: each with one operand beyond its range. -/
theorem test_wf_refuses_2 : ([.hostWriteAperture 16 256 [] false {}, .hostReadAperture 17 255 0 {}, .hostReadAperture 16 256 0 {}, .vfEnable 17,
     .sluOwner 17 8191 18446744073709551615, .sluOwner 16 8192 18446744073709551615, .sluOwner 16 8191 18446744073709551616,
     .sluGrant 17 4095 18446744073709551615, .sluGrant 16 4096 18446744073709551615, .sluGrant 16 4095 18446744073709551616,
     .ctxEnable 17 4095 18446744073709551615, .ctxEnable 16 4096 18446744073709551615, .ctxEnable 16 4095 18446744073709551616, .ctxDisable 17 4095,
     .ctxDisable 16 4096, .contextLoadComplete 4096, .warmupStart 16 (.ok []) {}, .warmupComplete 16 {}, .segmentBarrier 16, .jobFaultEnd 16,
     .watchdogExpiry 16, .stepRelease 16 19 14 65535, .stepRelease 15 20 14 65535, .stepRelease 15 19 15 65535, .stepRelease 15 19 14 65536,
     .nopStep 16 19 14, .nopStep 15 20 14, .nopStep 15 19 15, .activate 16 19 1, .activate 15 20 1, .activate 15 19 2, .activateSmoothing 16 19,
     .activateSmoothing 15 20, .bankDrainComplete 182, .matmul 16 19 14 {} [], .matmul 15 20 14 {} [], .matmul 15 19 15 {} [], .distL2sq 16 19 14 {} [],
     .distL2sq 15 20 14 {} [], .distL2sq 15 19 15 {} [], .distL1 16 19 14 {} [], .distL1 15 20 14 {} [], .distL1 15 19 15 {} [], .maxplus 16 19 14 {} [],
     .maxplus 15 20 14 {} [], .maxplus 15 19 15 {} [], .minplus 16 19 14 {} [], .minplus 15 20 14 {} [], .minplus 15 19 15 {} [], .hamming 16 19 14 {} [],
     .hamming 15 20 14 {} [], .hamming 15 19 15 {} [], .cmpcount 16 19 14 {} [], .cmpcount 15 20 14 {} [], .cmpcount 15 19 15 {} [], .repeatComplete 25 [],
     .substituteReady 25, .substituteComplete 25 [] [], .targetedSelfTestEnd 25 8 te0, .targetedSelfTestEnd 24 9 te0] : List Instr).all (fun c => !c.wf) = true := by decide

/-- Part 3: each with one operand beyond its range. -/
theorem test_wf_refuses_3 : ([.fadd 16 19 1 {}, .fadd 15 20 1 {}, .fadd 15 19 2 {}, .fsub 16 19 1 {}, .fsub 15 20 1 {}, .fsub 15 19 2 {}, .fmul 16 19 1 {}, .fmul 15 20 1 {},
     .fmul 15 19 2 {}, .fma 16 19 1 {}, .fma 15 20 1 {}, .fma 15 19 2 {}, .fmin 16 19 1 {}, .fmin 15 20 1 {}, .fmin 15 19 2 {}, .fmax 16 19 1 {},
     .fmax 15 20 1 {}, .fmax 15 19 2 {}, .clamp 16 19 1 {}, .clamp 15 20 1 {}, .clamp 15 19 2 {}, .fabs 16 19 1 {}, .fabs 15 20 1 {}, .fabs 15 19 2 {},
     .fneg 16 19 1 {}, .fneg 15 20 1 {}, .fneg 15 19 2 {}, .cmpEq 16 19 1 {}, .cmpEq 15 20 1 {}, .cmpEq 15 19 2 {}, .cmpNe 16 19 1 {}, .cmpNe 15 20 1 {},
     .cmpNe 15 19 2 {}, .cmpLt 16 19 1 {}, .cmpLt 15 20 1 {}, .cmpLt 15 19 2 {}, .cmpLe 16 19 1 {}, .cmpLe 15 20 1 {}, .cmpLe 15 19 2 {},
     .cmpGt 16 19 1 {}, .cmpGt 15 20 1 {}, .cmpGt 15 19 2 {}, .cmpGe 16 19 1 {}, .cmpGe 15 20 1 {}, .cmpGe 15 19 2 {}, .sel 16 19 1 {}, .sel 15 20 1 {},
     .sel 15 19 2 {}, .cvt 16 19 1 {}, .cvt 15 20 1 {}, .cvt 15 19 2 {}, .iadd 16 19 1 {}, .iadd 15 20 1 {}, .iadd 15 19 2 {}, .isub 16 19 1 {},
     .isub 15 20 1 {}, .isub 15 19 2 {}, .imin 16 19 1 {}, .imin 15 20 1 {}, .imin 15 19 2 {}] : List Instr).all (fun c => !c.wf) = true := by decide

/-- Part 4: each with one operand beyond its range. -/
theorem test_wf_refuses_4 : ([.imax 16 19 1 {}, .imax 15 20 1 {}, .imax 15 19 2 {}, .bitAnd 16 19 1 {}, .bitAnd 15 20 1 {}, .bitAnd 15 19 2 {}, .bitOr 16 19 1 {},
     .bitOr 15 20 1 {}, .bitOr 15 19 2 {}, .bitXor 16 19 1 {}, .bitXor 15 20 1 {}, .bitXor 15 19 2 {}, .shl 16 19 1 {}, .shl 15 20 1 {}, .shl 15 19 2 {},
     .shr 16 19 1 {}, .shr 15 20 1 {}, .shr 15 19 2 {}, .exp2 16 19 1 {}, .exp2 15 20 1 {}, .exp2 15 19 2 {}, .exp 16 19 1 {}, .exp 15 20 1 {},
     .exp 15 19 2 {}, .log2 16 19 1 {}, .log2 15 20 1 {}, .log2 15 19 2 {}, .ln 16 19 1 {}, .ln 15 20 1 {}, .ln 15 19 2 {}, .rcp 16 19 1 {},
     .rcp 15 20 1 {}, .rcp 15 19 2 {}, .rsqrt 16 19 1 {}, .rsqrt 15 20 1 {}, .rsqrt 15 19 2 {}, .sqrt 16 19 1 {}, .sqrt 15 20 1 {}, .sqrt 15 19 2 {},
     .tanh 16 19 1 {}, .tanh 15 20 1 {}, .tanh 15 19 2 {}, .erf 16 19 1 {}, .erf 15 20 1 {}, .erf 15 19 2 {}, .sigmoid 16 19 1 {}, .sigmoid 15 20 1 {},
     .sigmoid 15 19 2 {}, .silu 16 19 1 {}, .silu 15 20 1 {}, .silu 15 19 2 {}, .softplus 16 19 1 {}, .softplus 15 20 1 {}, .softplus 15 19 2 {},
     .geluErf 16 19 1 {}, .geluErf 15 20 1 {}, .geluErf 15 19 2 {}, .geluTanh 16 19 1 {}, .geluTanh 15 20 1 {}, .geluTanh 15 19 2 {}] : List Instr).all (fun c => !c.wf) = true := by decide

/-- Part 5: each with one operand beyond its range. -/
theorem test_wf_refuses_5 : ([.sin 16 19 1 {}, .sin 15 20 1 {}, .sin 15 19 2 {}, .cos 16 19 1 {}, .cos 15 20 1 {}, .cos 15 19 2 {}, .usern 16 19 1 {}, .usern 15 20 1 {},
     .usern 15 19 2 {}, .rmax 16 19 1 {}, .rmax 15 20 1 {}, .rmax 15 19 2 {}, .rmin 16 19 1 {}, .rmin 15 20 1 {}, .rmin 15 19 2 {}, .rsum 16 19 1 {},
     .rsum 15 20 1 {}, .rsum 15 19 2 {}, .rssq 16 19 1 {}, .rssq 15 20 1 {}, .rssq 15 19 2 {}, .normRms 16 19 1 {}, .normRms 15 20 1 {},
     .normRms 15 19 2 {}, .normLayer 16 19 1 {}, .normLayer 15 20 1 {}, .normLayer 15 19 2 {}, .softmax 16 19 1 {}, .softmax 15 20 1 {},
     .softmax 15 19 2 {}, .rope 16 19 1 {}, .rope 15 20 1 {}, .rope 15 19 2 {}, .gather 16 19 1 {}, .gather 15 20 1 {}, .gather 15 19 2 {},
     .scatter 16 19 1 {}, .scatter 15 20 1 {}, .scatter 15 19 2 {}, .scatterAdd 16 19 1 {}, .scatterAdd 15 20 1 {}, .scatterAdd 15 19 2 {},
     .topk 16 19 1 {}, .topk 15 20 1 {}, .topk 15 19 2 {}, .quant 16 19 1 {}, .quant 15 20 1 {}, .quant 15 19 2 {}, .dequant 16 19 1 {},
     .dequant 15 20 1 {}, .dequant 15 19 2 {}, .compress 16 19 1 {}, .compress 15 20 1 {}, .compress 15 19 2 {}, .expand 16 19 1 {}, .expand 15 20 1 {},
     .expand 15 19 2 {}, .cntLoad 16 19 1 {}, .cntLoad 15 20 1 {}, .cntLoad 15 19 2 {}] : List Instr).all (fun c => !c.wf) = true := by decide

/-- Part 6: each with one operand beyond its range. -/
theorem test_wf_refuses_6 : ([.cntStore 16 19 1 {}, .cntStore 15 20 1 {}, .cntStore 15 19 2 {}, .smax 16 19 1 {}, .smax 15 20 1 {}, .smax 15 19 2 {}, .smin 16 19 1 {},
     .smin 15 20 1 {}, .smin 15 19 2 {}, .ssum 16 19 1 {}, .ssum 15 20 1 {}, .ssum 15 19 2 {}, .snz 16 19 1 {}, .snz 15 20 1 {}, .snz 15 19 2 {},
     .sfirst 16 19 1 {}, .sfirst 15 20 1 {}, .sfirst 15 19 2 {}, .scnt 16 19 1 {}, .scnt 15 20 1 {}, .scnt 15 19 2 {}, .sample 16 19 1 {},
     .sample 15 20 1 {}, .sample 15 19 2 {}, .transform 16 19 {}, .transform 15 20 {}, .move 16 19 14 {}, .move 15 20 14 {}, .move 15 19 15 {},
     .dmaSignal 16 19 14, .dmaSignal 15 20 14, .dmaSignal 15 19 15, .coll 16 19 14 {}, .coll 15 20 14 {}, .coll 15 19 15 {}, .segmentReduce 16 4095 65535,
     .segmentReduce 15 4096 65535, .segmentReduce 15 4095 65536, .patrolRead 25 0 {}, .stackScrubComplete 25, .polEnable 17 15 18446744073709551615,
     .polEnable 16 16 18446744073709551615, .polEnable 16 15 18446744073709551616, .polDisable 17 15, .polDisable 16 16, .polderReady 16,
     .dissolveComplete 16, .portEnable 17 35 18446744073709551615, .portEnable 16 36 18446744073709551615, .portEnable 16 35 18446744073709551616,
     .portDisable 17 35, .portDisable 16 36, .pcsLock 36, .pcsLoss 36, .silenceTimeout 36, .replayLimit 36, .llAckTimer 36, .helloTimer 36,
     .write 36 f0 {}, .readReq 36 f0 {}] : List Instr).all (fun c => !c.wf) = true := by decide

/-- Part 7: each with one operand beyond its range. -/
theorem test_wf_refuses_7 : ([.readResp 36 f0 {}, .frameSignal 36 f0, .frameSet 36 f0, .ack 36 f0, .nak 36 f0, .collData 36 f0 {}, .collCredit 36 f0, .collAbort 36 f0,
     .hello 36 f0, .llAck 36 f0, .goodbye 36 f0, .pfcFrame 36 7 false, .pfcFrame 35 8 false, .retransmissionTimeout 16 8191 1,
     .retransmissionTimeout 15 8192 1, .retransmissionTimeout 15 8191 2, .connectionFailed 16 8191 1, .connectionFailed 15 8192 1,
     .connectionFailed 15 8191 2, .fibreLatchRelease 25, .fibreLatchEngage 25, .polColl 17 15 18446744073709551615, .polColl 16 16 18446744073709551615,
     .polColl 16 15 18446744073709551616, .railVoltageReached 25, .droopClocking 25 15, .droopClocking 24 16, .clkPolLim 17 63 18446744073709551615,
     .clkPolLim 16 64 18446744073709551615, .clkPolLim 16 63 18446744073709551616, .pwrMode 17 18446744073709551615, .pwrMode 16 18446744073709551616,
     .pwrTrip 17 18446744073709551615, .pwrTrip 16 18446744073709551616, .runStart 17 15, .runStart 16 16, .serviceLoopRunning 16, .runStop 17 15,
     .runStop 16 16, .serviceLoopStopped 16, .serviceLoopPass 16 (.ok []), .start 8192, .cancel 8192, .sessionDrop 8192, .requestNop 8192,
     .serviceJobComplete 16, .handoffSend 16 4095, .handoffSend 15 4096, .seqPages 16 15, .seqPages 15 16, .sessionPages 16 15, .sessionPages 15 16,
     .fetch 16 15, .fetch 15 16, .miss 16 15, .miss 15 16, .donationRetry 16 15, .donationRetry 15 16, .remoteRetry 16 15, .remoteRetry 15 16] : List Instr).all (fun c => !c.wf) = true := by decide

/-- Part 8: each with one operand beyond its range. -/
theorem test_wf_refuses_8 : ([.bistSliceCmd 17 15 18446744073709551615, .bistSliceCmd 16 16 18446744073709551615, .bistSliceCmd 16 15 18446744073709551616, .sliceCancel 17 15,
     .sliceCancel 16 16, .sliceStart 16, .sliceComplete 16 [] [] false, .sliceBudget 16 [] [] 0, .bistPackCmd 17 18446744073709551615,
     .bistPackCmd 16 18446744073709551616, .bistRepairCmd 17 18446744073709551615, .bistRepairCmd 16 18446744073709551616,
     .bistFuseCmd 17 18446744073709551615, .bistFuseCmd 16 18446744073709551616, .registerWrite 17 67108863 0 18446744073709551615,
     .registerWrite 16 67108864 0 18446744073709551615, .registerWrite 16 67108863 0 18446744073709551616, .frameDiscard 36 f0,
     .unsupportedRead 17 67108863 0, .unsupportedRead 16 67108864 0] : List Instr).all (fun c => !c.wf) = true := by decide

/-- Part 1: every operand at the end of its range. -/
theorem test_wf_takes_1 : ([.flrVf 16, .polReset 16 15 18446744073709551615, .secBootCmd 16 18446744073709551615, .secSvnCmd 16 18446744073709551615, .lcSecure 16,
     .lcDebug 16 (.ok []), .lcReturn 16 (.ok []), .lcRetire 16, .getVersion 16, .getCapabilities 16 0, .negotiateAlgorithms 16 al0, .getDigests 16 none,
     .getCertificate 16 none 0 67108863 0, .challenge 16 none 0 [], .getMeasurements 16 none 0 false [], .keyExchange 16 0 0 [], .finish 16 0 false,
     .keyUpdate 16 0 0, .heartbeat 16 0, .endSession 16 0, .ideKm 16 0 .query, .doorbell 16 67108863 0 18446744073709551615, .entryFetch 8191,
     .ringEnable 16 8191 18446744073709551615, .ringDisable 16 8191, .ringDrainComplete 8191, .ringIfSel 16 18446744073709551615, .nop 8191,
     .job 8191 (.ok []), .imageValidationDone 15 {}, .sluWait 8191, .sluSignal 8191, .sluSet 8191, .copy 8191, .copyComplete 8191 {}, .msixUnmask 16 2047,
     .tableLoad 8191, .tableLoadComplete 8191 {}, .tableActivate 8191, .keyInstall 8191 (.ok []), .keyErase 8191,
     .channelEnable 16 255 18446744073709551615, .channelDisable 16 255, .hostWriteAperture 16 255 [] false {}, .hostReadAperture 16 255 0 {},
     .vfEnable 16, .sluOwner 16 8191 18446744073709551615, .sluGrant 16 4095 18446744073709551615, .ctxEnable 16 4095 18446744073709551615,
     .ctxDisable 16 4095, .contextLoadComplete 4095, .warmupStart 15 (.ok []) {}, .warmupComplete 15 {}, .segmentBarrier 15, .jobFaultEnd 15,
     .watchdogExpiry 15, .stepRelease 15 19 14 65535, .nopStep 15 19 14, .activate 15 19 1, .activateSmoothing 15 19, .bankDrainComplete 181,
     .matmul 15 19 14 {} [], .distL2sq 15 19 14 {} [], .distL1 15 19 14 {} [], .maxplus 15 19 14 {} [], .minplus 15 19 14 {} [], .hamming 15 19 14 {} [],
     .cmpcount 15 19 14 {} [], .repeatComplete 24 [], .substituteReady 24, .substituteComplete 24 [] [], .targetedSelfTestEnd 24 8 te0, .fadd 15 19 1 {},
     .fsub 15 19 1 {}, .fmul 15 19 1 {}, .fma 15 19 1 {}, .fmin 15 19 1 {}, .fmax 15 19 1 {}, .clamp 15 19 1 {}, .fabs 15 19 1 {}] : List Instr).all Instr.wf = true := by decide

/-- Part 2: every operand at the end of its range. -/
theorem test_wf_takes_2 : ([.fneg 15 19 1 {}, .cmpEq 15 19 1 {}, .cmpNe 15 19 1 {}, .cmpLt 15 19 1 {}, .cmpLe 15 19 1 {}, .cmpGt 15 19 1 {}, .cmpGe 15 19 1 {}, .sel 15 19 1 {},
     .cvt 15 19 1 {}, .iadd 15 19 1 {}, .isub 15 19 1 {}, .imin 15 19 1 {}, .imax 15 19 1 {}, .bitAnd 15 19 1 {}, .bitOr 15 19 1 {}, .bitXor 15 19 1 {},
     .shl 15 19 1 {}, .shr 15 19 1 {}, .exp2 15 19 1 {}, .exp 15 19 1 {}, .log2 15 19 1 {}, .ln 15 19 1 {}, .rcp 15 19 1 {}, .rsqrt 15 19 1 {},
     .sqrt 15 19 1 {}, .tanh 15 19 1 {}, .erf 15 19 1 {}, .sigmoid 15 19 1 {}, .silu 15 19 1 {}, .softplus 15 19 1 {}, .geluErf 15 19 1 {},
     .geluTanh 15 19 1 {}, .sin 15 19 1 {}, .cos 15 19 1 {}, .usern 15 19 1 {}, .rmax 15 19 1 {}, .rmin 15 19 1 {}, .rsum 15 19 1 {}, .rssq 15 19 1 {},
     .normRms 15 19 1 {}, .normLayer 15 19 1 {}, .softmax 15 19 1 {}, .rope 15 19 1 {}, .gather 15 19 1 {}, .scatter 15 19 1 {}, .scatterAdd 15 19 1 {},
     .topk 15 19 1 {}, .quant 15 19 1 {}, .dequant 15 19 1 {}, .compress 15 19 1 {}, .expand 15 19 1 {}, .cntLoad 15 19 1 {}, .cntStore 15 19 1 {},
     .smax 15 19 1 {}, .smin 15 19 1 {}, .ssum 15 19 1 {}, .snz 15 19 1 {}, .sfirst 15 19 1 {}, .scnt 15 19 1 {}, .sample 15 19 1 {}, .transform 15 19 {},
     .move 15 19 14 {}, .dmaSignal 15 19 14, .coll 15 19 14 {}, .segmentReduce 15 4095 65535, .patrolRead 24 0 {}, .stackScrubComplete 24,
     .polEnable 16 15 18446744073709551615, .polDisable 16 15, .polderReady 15, .dissolveComplete 15, .portEnable 16 35 18446744073709551615,
     .portDisable 16 35, .pcsLock 35, .pcsLoss 35, .silenceTimeout 35, .replayLimit 35, .llAckTimer 35, .helloTimer 35, .write 35 f0 {}] : List Instr).all Instr.wf = true := by decide

/-- Part 3: every operand at the end of its range. -/
theorem test_wf_takes_3 : ([.readReq 35 f0 {}, .readResp 35 f0 {}, .frameSignal 35 f0, .frameSet 35 f0, .ack 35 f0, .nak 35 f0, .collData 35 f0 {}, .collCredit 35 f0,
     .collAbort 35 f0, .hello 35 f0, .llAck 35 f0, .goodbye 35 f0, .pfcFrame 35 7 false, .retransmissionTimeout 15 8191 1, .connectionFailed 15 8191 1,
     .fibreLatchRelease 24, .fibreLatchEngage 24, .polColl 16 15 18446744073709551615, .railVoltageReached 24, .droopClocking 24 15,
     .clkPolLim 16 63 18446744073709551615, .pwrMode 16 18446744073709551615, .pwrTrip 16 18446744073709551615, .runStart 16 15, .serviceLoopRunning 15,
     .runStop 16 15, .serviceLoopStopped 15, .serviceLoopPass 15 (.ok []), .start 8191, .cancel 8191, .sessionDrop 8191, .requestNop 8191,
     .serviceJobComplete 15, .handoffSend 15 4095, .seqPages 15 15, .sessionPages 15 15, .fetch 15 15, .miss 15 15, .donationRetry 15 15,
     .remoteRetry 15 15, .bistSliceCmd 16 15 18446744073709551615, .sliceCancel 16 15, .sliceStart 15, .sliceComplete 15 [] [] false,
     .sliceBudget 15 [] [] 0, .bistPackCmd 16 18446744073709551615, .bistRepairCmd 16 18446744073709551615, .bistFuseCmd 16 18446744073709551615,
     .registerWrite 16 67108863 0 18446744073709551615, .frameDiscard 35 f0, .unsupportedRead 16 67108863 0] : List Instr).all Instr.wf = true := by decide

end Sys2Proof.Tests

/-! ## The spec's worked examples -/

namespace Sys2Proof.Tests

/-- R38: eight values quantised to MX-E2M1, the scale byte 0x7C and the codes; only inexact. -/
theorem test_quant_e2m1 :
    quantBlock (.float fmtE2M1) ([0x3F547AE1, 0xBED1EB85, 0x3E4CCCCD, 0x3D75C28F, 0xBF333333, 0, 0x3EA8F5C3, 0x3E051EB8].map (decodeF fmtFP32)) =
      (0x7C, [7, 0xD, 3, 1, 0xF, 0, 5, 2], fInexact) := by decide +kernel

/-- The BF16 dot product of R45's example, in 32 elements: `x` stands at a[17]. -/
def dotR45 (x : Nat) : AccEl :=
  accPass .matmul true (accInit .matmul)
    (prepRow .matmul (fmtD 1) false 16 { codes := 0x7180 :: List.replicate 15 0 ++ 0x3FC0 :: x :: List.replicate 14 0, scales := [] })
    (prepRow .matmul (fmtD 1) false 16 { codes := 0x7180 :: List.replicate 15 0 ++ 0x4000 :: 0x3F80 :: List.replicate 14 0, scales := [] })

/-- R46, R48: the NaN comes first; without it 2^200 overflows FP32, and E4M3 clamps it or, in its mode, gives NaN. -/
theorem test_matmul_special :
    finishEl .matmul 0 false false none (dotR45 0x7FC1) = (0x7FC00000, 0) ∧
    finishEl .matmul 0 false false none (dotR45 0) = (0x7F800000, fOverflow ||| fInexact) := by decide +kernel

/-- R49: the four K-blocks of a GS-INT4 column against a BF16 row, the group's scale 0.375. -/
def dotR49 : AccEl :=
  let blk (f : Fmt) (s a b : Nat) : Blk := prepBlk .matmul f false s (a :: b :: List.replicate 14 0)
  let a := fmtD 1
  let b := fmtD 0x18
  accPass .matmul true (accInit .matmul) [blk a 0 0x3FC0 0xC000, blk a 0 0x3E80 0x3E00, blk a 0 0x42C0 0xC280, blk a 0 0x3F80 0x3581]
    [blk b 0x2C 3 5, blk b 0x2C 9 2, blk b 0x2C 1 1, blk b 0x2C 0xD 4]

theorem test_group_scale : finishEl .matmul 0 false false none dotR49 = (0x41040002, fInexact) := by decide +kernel

/-- R104 to R106: the rotated segment before its quantisation: 6.25, 4.75, 5.25, 3.75. -/
theorem test_rotate :
    (rotateSeg false 32 false (lfsrSigns 32 0x5A3C91E70B6D2F42) ((0x41A00000 :: 0xC0400000 :: 0x40000000 :: List.replicate 29 0).map fun x => (x, 0))).take 4 =
      [(0x40C80000, 0), (0x40980000, 0), (0x40A80000, 0), (0x40700000, 0)] := by decide +kernel

/-- R349, R352: shares of 4,360; of eight dies whose islands all want their maximum, three give every island one unit more, the fourth arrays 0 to 3. -/
theorem test_grants :
    let l := (List.range 8).flatMap fun s => varIslands.filterMap fun i => (islKind i).map fun k =>
      ({ key := 16 * s + i, kind := k, want := maxGrant k, lo := minGrant k, ceil := rangeMax k, floorF := 0, point := none } : Want)
    let g := (l.zip (allocate 3688 l)).filter fun x => x.1.kind = 0
    (bare.withDev fun d =>
      { d with power := { d.power with cap := 10400 }, pols := [(0, { pol0 with dies := 0x3ee }), (1, { pol0 with dies := 0x1fa800 })] }).dev.shares =
        [(0, 4360), (1, 4360)] ∧
    g.map Prod.snd = List.replicate 28 48 ++ List.replicate 36 47 ∧ (g.map fun x => targetOf x.1 x.2) = List.replicate 28 1400 ++ List.replicate 36 1375 := by
  decide +kernel

/-- R414: the slice of SCRATCH MARCH with REPAIR at site 8, whose word at 0x2000_4001_2348 has bit 37 stuck. -/
def marched : State :=
  after (.sliceComplete 0 [{ unitNo := 0x46, result := 2, nfail := 1, bit := 613, addr := 0x200040012348 }] [] false)
    { s0 with dev := { s0.dev with power := { s0.dev.power with isl := [(16 * 8 + 10, { target := 1500 })] }, bist := { slots := [(0, { st := 2, cmd := 4 + 8 * 2 ^ 8 + 0xFF * 2 ^ 16 + 4 * 2 ^ 24 + 2 ^ 32 + 2 ^ 34 + 16 * 2 ^ 48, logAt := 0x5000 })] } } }

theorem test_slice_result :
    (toLe 16 (marched.dev.slot 0).res).map BitVec.toNat = [4, 8, 0x46, 4, 2, 1, 0x65, 2, 0x48, 0x23, 1, 0x40, 0, 0x20, 0, 0] ∧
      (marched.dev.slot 0).nlog = 2 := by decide +kernel

/-- R415: the list entry that keeps that repair names the same granule. -/
theorem test_repair_entry :
    marched.dev.bist.soft.map granuleOf = [granuleOf (repairOf 0x2000400123000803)] := by decide +kernel

/-- R437, R453: HUB_COUNTS of a WZ25G. -/
theorem test_hub_counts : s0.regValue 0 .hubCounts = 0x8410C400 := by decide +kernel

/-- R439, R452: the worked addresses: ring 201's control, the polder's status and a bank's state in the view of VF 3. -/
theorem test_register_map :
    regAt 3 0x3250 = regAt 0 0x803250 ∧ regAt 0 0x803250 = some (.ringCtrl 201) ∧ regAt 3 0xC4004 = regAt 0 0x1402004 ∧
      regAt 3 0xC3088 = some (.bankState 34) ∧ regAt 0 0x3000088 = some (.bankState 34) := by decide +kernel

/-- R10, R434: a misaligned write of VF 3 is discarded and named in HUB_ERR_ADDR. -/
theorem test_misaligned_write :
    (after (.registerWrite 3 0x3212 4 1) (s0.withDev fun d => { d with hub := { d.hub with numVfs := 16 } })).regValue 0 .hubErrAddr = 0x1C003212 := by
  decide +kernel

/-- R339: the nonce of chip 5's WRITE from port 7 in job 0x31 with NSEQ 0x1F. -/
theorem test_nonce :
    (frameNonce { kind := 0, hseq := 0, hack := 0, dst := 0, src := 5, srcPol := 0, srcPort := 7, tag := 0, addr := 0, payload := [], job := 0x31, nseq := 0x1F }).map
      BitVec.toNat = [0, 0x28, 0, 0, 0, 0x31, 0x1C, 0, 0, 0, 0, 0x1F] := by decide +kernel

/-- R339: the MAC address of port 7 of chip 5. -/
theorem test_mac : (mac 0 5 7).map BitVec.toNat = [0x02, 0x5A, 0, 0, 0x05, 0x07] := by decide +kernel

/-- R455: the worked land. -/
theorem test_land : landName 85 47 = "DJ47" ∧ landAt 85 47 = .fabric 22 1 3 false false := by decide +kernel

/-- The check value of CRC-32C, that of its own definition (R141). -/
theorem test_crc32c : crc32c ([0x31, 0x32, 0x33, 0x34, 0x35, 0x36, 0x37, 0x38, 0x39].map (BitVec.ofNat 8)) = 0xE3069283 := by decide +kernel

/-- R86: 1 + 3 and 2 + 0, by one ADD step from the command to the scratchpad. -/
theorem test_add :
    (after (.fadd 0 0 0 {}) ((vstate (vstep 1 0 0) [0, 0, 0, 0, 0]).withMem (spBase 1 + 0x202) [0x40, 0x40])).mem.read (spBase 1 + 0x400) 8 =
      toLe 4 0x40800000 ++ toLe 4 0x40000000 := by decide +kernel

/-- R87: the largest INT32 plus one saturates, and overflow and inexact stick. -/
theorem test_iadd_saturates :
    let t := after (.iadd 0 0 0 {}) (((vstate (vstep 0x10 0 0x21) [0x21, 0x21, 0x21, 0x21, 0x21]).withMem (spBase 1 + 0x100) [0xFF, 0xFF, 0xFF, 0x7F]).withMem
      (spBase 1 + 0x200) [1])
    t.mem.read (spBase 1 + 0x400) 4 = toLe 4 0x7FFFFFFF ∧ (t.dev.die 1).flags.map Prod.snd = [fOverflow ||| fInexact] := by decide +kernel

/-- R43: one MATMUL pass of a BF16 row and column, 1 × 3 + 2 × 0.5, leaves 4 in FP32. -/
theorem test_matmul :
    (after (.matmul 0 0 7 {} []) (((astate (astep 1 16 0 true true) 1 16 0).withMem (spBase 1 + 0x102) [0, 0x40]).withMem
      (spBase 1 + 0x200) [0x40, 0x40, 0, 0x3F])).mem.read (spBase 1 + 0x300) 4 = toLe 4 0x40800000 := by decide +kernel

end Sys2Proof.Tests

end
end

/-! ## The tick: a step with nothing waiting (entry 11) -/

namespace Sys2Proof.Laws

open Sys2Proof.Machine

theorem hubRuns_iff (d : Dev) : d.hubRuns = true ↔ d.aon.rail33 = true ∧ d.aon.refclk = true := by
  simp [Dev.hubRuns]

theorem step_of_pending_nil {s : State} (h : s.pending = []) : step s = .next s.tick := by
  simp [step, h]

theorem tick_of_hubRuns {s : State} (h : s.dev.hubRuns = true) :
    s.tick = { s with dev := { s.dev with aon := { s.dev.aon with hub := (s.dev.aon.hub + 1) % 2 ^ 64 } } } :=
  if_pos h

theorem tick_of_not_hubRuns {s : State} (h : ¬ s.dev.hubRuns = true) : s.tick = s := if_neg h

/-- Settles O20: an empty queue leaves the step to the tick, which counts exactly where the hub counter runs. -/
theorem idleTick : Obligations.IdleTick := by
  intro s hs
  rw [step_of_pending_nil hs]
  constructor
  · intro hrail hclk
    rw [tick_of_hubRuns ((hubRuns_iff s.dev).mpr ⟨hrail, hclk⟩)]
  · intro hoff
    have hstill : ¬ s.dev.hubRuns = true := by
      rw [hubRuns_iff]
      rintro ⟨hrail, hclk⟩
      rcases hoff with h | h
      · simp [hrail] at h
      · simp [hclk] at h
    rw [tick_of_not_hubRuns hstill]

end Sys2Proof.Laws

/-! ## Special values: what an accumulator has met decides its element (R46) -/

namespace Sys2Proof.Laws

open Sys2Proof.Machine

theorem testBit_foldl_or (l : List Nat) (a i : Nat) :
    (l.foldl (· ||| ·) a).testBit i = (a.testBit i || l.any (·.testBit i)) := by
  induction l generalizing a with
  | nil => simp
  | cons x l ih => simp [ih, Bool.or_assoc]

/-- R46 rule 1 speaks of every operation on floats. -/
theorem specPair_nan {op : ArrOp} {u v : FV} (z gs : Bool) (hh : op ≠ .hamming) (hc : op ≠ .cmpcount) (huv : u = .nan ∨ v = .nan) :
    specPair op z gs u v = 1 := by
  have hnan : (u.isNan || v.isNan) = true := by
    rcases huv with rfl | rfl
    · rfl
    · exact Bool.or_true _
  cases op <;> simp_all [specPair]

/-- A NaN of a K-block meets rule 1 there. -/
theorem specBlk_nan {op : ArrOp} {x y : Blk} {u v : FV} {k : Nat} (hh : op ≠ .hamming) (hc : op ≠ .cmpcount)
    (hu : x.vals[k]? = some u) (hv : y.vals[k]? = some v) (hnan : u = .nan ∧ x.special = true ∨ v = .nan ∧ y.special = true) :
    (specBlk op x y).testBit 0 = true := by
  have hpair : ∀ z gs, 1 ∈ List.zipWith (specPair op z gs) x.vals y.vals := fun z gs =>
    List.mem_of_getElem? (i := k) (by simp [List.getElem?_zipWith, hu, hv, specPair_nan z gs hh hc (hnan.imp And.left And.left)])
  have hspecial : ¬ (!x.special && !y.special) = true := by rcases hnan with ⟨_, h⟩ | ⟨_, h⟩ <;> simp [h]
  simp only [specBlk, if_neg hspecial, testBit_foldl_or, List.any_eq_true, Bool.or_eq_true]
  exact .inr ⟨1, hpair _ _, rfl⟩

/-- The special rules that an accumulator has met after a K-block: those before it and those of the block. -/
theorem accBlk_sp (op : ArrOp) (bx : Bool) (acc : AccEl) (x : Blk × Blk) (dl : Int) :
    (accBlk op bx acc x dl).sp = acc.sp ||| specBlk op x.1 x.2 := by
  cases op with
  | matmul => simp only [accBlk]; split <;> rfl
  | maxplus => simp only [accBlk]; split <;> rfl
  | minplus => simp only [accBlk]; split <;> rfl
  | distL2sq => rfl
  | distL1 => rfl
  | hamming => rfl
  | cmpcount => rfl

theorem foldl_accBlk_sp_testBit (op : ArrOp) (bx : Bool) (dl : Nat → Int) (i : Nat) (l : List ((Blk × Blk) × Nat)) (acc : AccEl) :
    (l.foldl (fun acc x => accBlk op bx acc x.1 (dl x.2)) acc).sp.testBit i =
      (acc.sp.testBit i || l.any fun x => (specBlk op x.1.1 x.1.2).testBit i) := by
  induction l generalizing acc with
  | nil => simp
  | cons x l ih => simp only [List.foldl_cons, ih, accBlk_sp, Nat.testBit_or, List.any_cons, Bool.or_assoc]

/-- What a pass meets stays met: bit `i` of the special rules after it. -/
theorem accPass_sp_testBit (op : ArrOp) (bx : Bool) (acc : AccEl) (a b : List Blk) (dl : Nat → Int) (i : Nat) :
    (accPass op bx acc a b dl).sp.testBit i = (acc.sp.testBit i || (a.zip b).any fun x => (specBlk op x.1 x.2).testBit i) := by
  have hplaces : ((a.zip b).zipIdx.any fun x => (specBlk op x.1.1 x.1.2).testBit i) = ((a.zip b).any fun x => (specBlk op x.1 x.2).testBit i) := by
    have h := congrArg (List.any · id) (map_zipIdx (a.zip b) (fun x => (specBlk op x.1 x.2).testBit i) 0)
    simpa [List.any_map, Function.comp_def] using h
  rw [accPass, foldl_accBlk_sp_testBit, hplaces]

/-- Settles O15: the block's rule 1 stays in the accumulator, and `decide` asks for it first. -/
theorem nanDecides : Obligations.NanDecides := by
  intro op bx acc a b dl i k x y u v hh hc hx hy hu hv hnan
  have hmet : (a.zip b).any (fun p => (specBlk op p.1 p.2).testBit 0) = true :=
    List.any_eq_true.mpr ⟨(x, y), List.mem_of_getElem? (i := i) (by simp [List.getElem?_zip_eq_some, hx, hy]), specBlk_nan hh hc hu hv hnan⟩
  have hsp : (accPass op bx acc a b dl).sp.testBit 0 = true := by rw [accPass_sp_testBit, hmet, Bool.or_true]
  exact if_pos hsp

end Sys2Proof.Laws

/-! ## Flags gathered with OR -/

namespace Sys2Proof.Laws

open Sys2Proof.Machine

theorem foldl_or_start {α : Type} (f : α → Nat) (l : List α) (a b : Nat) :
    l.foldl (fun x y => x ||| f y) (a ||| b) = a ||| l.foldl (fun x y => x ||| f y) b := by
  induction l generalizing b with
  | nil => rfl
  | cons y l ih => simp only [List.foldl_cons, Nat.or_assoc, ih]

theorem foldl_or_append {α : Type} (f : α → Nat) (l k : List α) :
    (l ++ k).foldl (fun x y => x ||| f y) 0 = l.foldl (fun x y => x ||| f y) 0 ||| k.foldl (fun x y => x ||| f y) 0 := by
  rw [List.foldl_append, ← foldl_or_start, Nat.or_zero]

/-- The flags that preparing the K-blocks of some rows raises at once. -/
def readFlags (xs : List (List Blk)) : Nat := (xs.flatMap fun r => r.map (·.keep)).foldl (· ||| ·) 0

theorem readFlags_append (xs ys : List (List Blk)) : readFlags (xs ++ ys) = readFlags xs ||| readFlags ys := by
  rw [readFlags, List.flatMap_append]
  exact foldl_or_append id _ _

theorem readFlags_cons (x : List Blk) (xs : List (List Blk)) : readFlags (x :: xs) = readFlags [x] ||| readFlags xs :=
  readFlags_append [x] xs

theorem readFlags_singleton_append (x y : List Blk) : readFlags [x ++ y] = readFlags [x] ||| readFlags [y] := by
  simpa [readFlags] using foldl_or_append id (x.map (·.keep)) (y.map (·.keep))

/-- Rows cut in two raise what their two parts raise. -/
theorem readFlags_zipWith_append {xs ys : List (List Blk)} (h : xs.length = ys.length) :
    readFlags (List.zipWith (· ++ ·) xs ys) = readFlags xs ||| readFlags ys := by
  induction xs generalizing ys with
  | nil => cases ys with
    | nil => rfl
    | cons y ys => simp at h
  | cons x xs ih => cases ys with
    | nil => simp at h
    | cons y ys =>
      rw [List.zipWith_cons_cons, readFlags_cons, ih (by simpa using h), readFlags_singleton_append, readFlags_cons x xs, readFlags_cons y ys]
      ac_rfl

end Sys2Proof.Laws

/-! ## The K-blocks of a row (R40) -/

namespace Sys2Proof.Laws

open Sys2Proof.Machine Sys2Proof.Claims

theorem lget_eq_getD {α : Type} (d : α) (l : List α) (i : Nat) : lget d l i = l[i]?.getD d := by
  induction l generalizing i with
  | nil => rfl
  | cons x l ih => cases i with
    | zero => rfl
    | succ i => exact ih i

theorem ceilDiv_mul_add {k : Nat} (hk : 0 < k) (m n : Nat) : ceilDiv (k * m + n) k = m + ceilDiv n k := by
  rw [ceilDiv, ceilDiv, show k * m + n + k - 1 = n + k - 1 + k * m by omega, Nat.add_mul_div_left _ _ hk, Nat.add_comm]

theorem ceilDiv_mul {k : Nat} (hk : 0 < k) (m : Nat) : ceilDiv (k * m) k = m := by
  have h0 : ceilDiv 0 k = 0 := Nat.div_eq_of_lt (by omega)
  simpa [h0] using ceilDiv_mul_add hk m 0

/-- Pieces are cut off from the front. -/
theorem chunksOf_append {α : Type} {k m : Nat} {l : List α} (hk : 0 < k) (hl : l.length = k * m) (n : Nat) (l' : List α) :
    chunksOf k (m + n) (l ++ l') = chunksOf k m l ++ chunksOf k n l' := by
  induction m generalizing l with
  | zero =>
    obtain rfl : l = [] := List.eq_nil_of_length_eq_zero (by simpa using hl)
    simp [chunksOf]
  | succ m ih =>
    rw [Nat.mul_succ] at hl
    have hne : l.isEmpty = false := by cases l with
      | nil => simp at hl; omega
      | cons x l => rfl
    have hne' : (l ++ l').isEmpty = false := by cases l with
      | nil => simp at hne
      | cons x l => rfl
    rw [Nat.succ_add, chunksOf, chunksOf, hne, hne', List.take_append_of_le_length (by omega), List.drop_append_of_le_length (by omega),
      ih (by rw [List.length_drop]; omega)]
    rfl

theorem chunksOf_length {α : Type} {k m : Nat} {l : List α} (hk : 0 < k) (hl : l.length = k * m) : (chunksOf k m l).length = m := by
  induction m generalizing l with
  | zero => rfl
  | succ m ih =>
    rw [Nat.mul_succ] at hl
    have hne : l.isEmpty = false := by cases l with
      | nil => simp at hl; omega
      | cons x l => rfl
    rw [chunksOf, hne]
    simp [ih (l := l.drop k) (by rw [List.length_drop]; omega)]

theorem prepRow_getElem? (op : ArrOp) (f : Fmt) (ftz : Bool) (kb : Nat) (r : OpRow) (i : Nat) :
    (prepRow op f ftz kb r)[i]? =
      ((chunksOf kb (ceilDiv r.codes.length kb) r.codes)[i]?).map (prepBlk op f ftz (lget 0 r.scales (i * kb / 16))) := by
  simp [prepRow, List.getElem?_map, List.getElem?_zipIdx, Option.map_map, Function.comp_def]

/-- R40: a K-block has a whole number of the 16 elements that a scale byte covers. -/
theorem kBlock_eq_mul (op : ArrOp) (fa fb : Fmt) : ∃ c, 0 < c ∧ kBlock op fa fb = 16 * c := by
  unfold kBlock
  split
  · exact ⟨32, by decide, rfl⟩
  · split
    · exact ⟨1, by decide, rfl⟩
    · exact ⟨2, by decide, rfl⟩

theorem prepRow_length {r : OpRow} {kb m : Nat} (op : ArrOp) (f : Fmt) (ftz : Bool) (hk : 0 < kb) (h : r.codes.length = kb * m) :
    (prepRow op f ftz kb r).length = m := by
  rw [prepRow, List.length_map, List.length_zipIdx, h, ceilDiv_mul hk]
  exact chunksOf_length hk h

/-- The scale bytes of a row that is split. -/
theorem lget_scales_of_split {c m : Nat} {r r1 r2 : OpRow} (h0 : 0 < c) (h : SplitRow (16 * c) m r r1 r2) (i : Nat) :
    lget 0 r.scales (i * (16 * c) / 16) =
      if i < m then lget 0 r1.scales (i * (16 * c) / 16) else lget 0 r2.scales ((i - m) * (16 * c) / 16) := by
  have hdiv : ∀ n, n * (16 * c) / 16 = n * c := fun n => by rw [Nat.mul_left_comm]; exact Nat.mul_div_cancel_left _ (by decide)
  simp only [hdiv, lget_eq_getD]
  rcases h.covered with hc | hnil
  · rw [Nat.mul_comm, hdiv] at hc
    rw [h.scales]
    split
    · next him =>
      rw [List.getElem?_append_left (by rw [hc]; exact Nat.mul_lt_mul_of_pos_right him h0)]
    · next him =>
      rw [List.getElem?_append_right (by rw [hc]; exact Nat.mul_le_mul_right c (by omega)), hc, Nat.sub_mul]
  · obtain ⟨h1, h2⟩ := List.append_eq_nil_iff.mp (h.scales ▸ hnil)
    simp [hnil, h1, h2]

/-- The K-blocks of a row that is split are those of its two parts. -/
theorem prepRow_of_split {c m : Nat} {r r1 r2 : OpRow} (op : ArrOp) (f : Fmt) (ftz : Bool) (h0 : 0 < c)
    (h : SplitRow (16 * c) m r r1 r2) :
    prepRow op f ftz (16 * c) r = prepRow op f ftz (16 * c) r1 ++ prepRow op f ftz (16 * c) r2 := by
  have hk : 0 < 16 * c := by omega
  have hlen := prepRow_length op f ftz hk h.blocks
  have hchunks : chunksOf (16 * c) (ceilDiv r.codes.length (16 * c)) r.codes =
      chunksOf (16 * c) m r1.codes ++ chunksOf (16 * c) (ceilDiv r2.codes.length (16 * c)) r2.codes := by
    rw [h.codes, List.length_append, h.blocks, ceilDiv_mul_add hk, chunksOf_append hk h.blocks]
  have hfirst := chunksOf_length hk h.blocks
  refine List.ext_getElem? fun i => ?_
  rw [prepRow_getElem?, lget_scales_of_split h0 h, hchunks]
  by_cases hi : i < m
  · rw [if_pos hi, List.getElem?_append_left (by omega), List.getElem?_append_left (by omega), prepRow_getElem?, h.blocks, ceilDiv_mul hk]
  · rw [if_neg hi, List.getElem?_append_right (by omega), List.getElem?_append_right (by omega), prepRow_getElem?, hfirst, hlen]

/-- The same of the rows of an operand, each cut after the same number of K-blocks. -/
theorem map_prepRow_of_split {c m : Nat} {rs r1s r2s : List OpRow} (op : ArrOp) (f : Fmt) (ftz : Bool) (h0 : 0 < c)
    (h : SplitRows (16 * c) m rs r1s r2s) :
    rs.map (prepRow op f ftz (16 * c)) =
        List.zipWith (· ++ ·) (r1s.map (prepRow op f ftz (16 * c))) (r2s.map (prepRow op f ftz (16 * c))) ∧
      ∀ x ∈ r1s.map (prepRow op f ftz (16 * c)), x.length = m := by
  obtain ⟨hl1, hl2, hrow⟩ := h
  have hsplit : ∀ (i : Nat) (hi : i < rs.length), SplitRow (16 * c) m rs[i] (r1s[i]'(hl1 ▸ hi)) (r2s[i]'(hl2 ▸ hi)) := fun i hi =>
    hrow i _ _ _ (List.getElem?_eq_getElem hi) (List.getElem?_eq_getElem _) (List.getElem?_eq_getElem _)
  constructor
  · refine List.ext_getElem (by simp [← hl1, ← hl2]) fun i hi _ => ?_
    rw [List.length_map] at hi
    simpa using prepRow_of_split op f ftz h0 (hsplit i hi)
  · intro x hx
    obtain ⟨r1, hr1, rfl⟩ := List.mem_map.mp hx
    obtain ⟨i, hi, rfl⟩ := List.mem_iff_getElem.mp hr1
    exact prepRow_length op f ftz (by omega) (hsplit i (hl1 ▸ hi)).blocks

end Sys2Proof.Laws

/-! ## The accumulators of a pass (R43, R60) -/

namespace Sys2Proof.Laws

open Sys2Proof.Machine

/-- A grid that forms nothing wrongly: the K-blocks of a row and a column, one after the other. -/
theorem accPass_right (op : ArrOp) (bx : Bool) (acc : AccEl) (a b : List Blk) :
    accPass op bx acc a b = (a.zip b).foldl (fun acc x => accBlk op bx acc x) acc := by
  have hplaces : ∀ (l : List (Blk × Blk)) (k : Nat) (acc : AccEl),
      (l.zipIdx k).foldl (fun acc x => accBlk op bx acc x.1 0) acc = l.foldl (fun acc x => accBlk op bx acc x) acc := by
    intro l
    induction l with
    | nil => intro _ _; rfl
    | cons x l ih => intro k acc; exact ih (k + 1) _
  exact hplaces _ 0 acc

/-- R43: K-blocks are taken in ascending order, so a second pass goes on where the first one stopped. -/
theorem accPass_append {a1 b1 : List Blk} (op : ArrOp) (bx : Bool) (acc : AccEl) (h : a1.length = b1.length) (a2 b2 : List Blk) :
    accPass op bx acc (a1 ++ a2) (b1 ++ b2) = accPass op bx (accPass op bx acc a1 b1) a2 b2 := by
  simp only [accPass_right, List.zip_append h, List.foldl_append]

/-- What a function of a row, a column and their numbers gives over a tile, row by row. -/
def overTile {α β : Type} (g : Nat → Nat → α → α → β) (xa xb : List α) : List β :=
  xa.zipIdx.flatMap fun (a, m) => xb.zipIdx.map fun (b, n) => g m n a b

theorem map_zipIdx_congr {α β γ : Type} {xs : List α} {ys : List β} {f : α × Nat → γ} {g : β × Nat → γ} (hl : xs.length = ys.length)
    (h : ∀ (i : Nat) (hx : i < xs.length) (hy : i < ys.length), f (xs[i], i) = g (ys[i], i)) : xs.zipIdx.map f = ys.zipIdx.map g :=
  List.ext_getElem (by simpa using hl) fun i hi hj => by
    simp only [List.length_map, List.length_zipIdx] at hi hj
    simpa using h i hi hj

theorem overTile_congr {α β : Type} {g h : Nat → Nat → α → α → β} {xa xb ya yb : List α} (ha : xa.length = ya.length) (hb : xb.length = yb.length)
    (heq : ∀ (m n : Nat) (hm : m < xa.length) (hm' : m < ya.length) (hn : n < xb.length) (hn' : n < yb.length),
      g m n xa[m] xb[n] = h m n ya[m] yb[n]) : overTile g xa xb = overTile h ya yb := by
  simp only [overTile, List.flatMap_def]
  exact congrArg List.flatten (map_zipIdx_congr ha fun m hm hm' => map_zipIdx_congr hb fun n hn hn' => heq m n hm hm' hn hn')

/-- Element (m, n) of a tile stands at m times the columns, plus n. -/
theorem overTile_getElem? {α β : Type} (g : Nat → Nat → α → α → β) (xa xb : List α) {m n : Nat} (hm : m < xa.length) (hn : n < xb.length) :
    (overTile g xa xb)[m * xb.length + n]? = some (g m n xa[m] xb[n]) := by
  have hrows : ∀ (l : List α) (k m : Nat) (hm : m < l.length),
      ((l.zipIdx k).flatMap fun (a, i) => xb.zipIdx.map fun (b, j) => g i j a b)[m * xb.length + n]? = some (g (k + m) n l[m] xb[n]) := by
    intro l
    induction l with
    | nil => intro _ _ hm; simp at hm
    | cons a l ih =>
      intro k m hm
      rw [List.zipIdx_cons, List.flatMap_cons]
      cases m with
      | zero => rw [List.getElem?_append_left (by simpa using hn)]; simp [hn]
      | succ m =>
        have hm' : m < l.length := by simpa using hm
        rw [List.getElem?_append_right (by simp [Nat.succ_mul]; omega), List.length_map, List.length_zipIdx,
          show (m + 1) * xb.length + n - xb.length = m * xb.length + n by rw [Nat.succ_mul]; omega, ih (k + 1) m hm']
        simp [Nat.add_assoc, Nat.add_comm 1 m]
  have h := hrows xa 0 m hm
  rw [Nat.zero_add] at h
  exact h

/-- The accumulators that a pass with nothing formed wrongly leaves, from `start m n` on. -/
def passAccs (op : ArrOp) (bx : Bool) (start : Nat → Nat → AccEl) (xa xb : List (List Blk)) : List AccEl :=
  overTile (fun m n a b => accPass op bx (start m n) a b) xa xb

/-- R43, R60: a pass that goes on from the accumulators of another one leaves those of one pass over both K ranges. -/
theorem passAccs_append {xa1 xa2 xb1 xb2 : List (List Blk)} {k : Nat} (op : ArrOp) (bx : Bool) (start : Nat → Nat → AccEl)
    (ha : xa1.length = xa2.length) (hb : xb1.length = xb2.length) (hka : ∀ x ∈ xa1, x.length = k) (hkb : ∀ x ∈ xb1, x.length = k) :
    passAccs op bx (fun m n => lget {} (passAccs op bx start xa1 xb1) (m * xb1.length + n)) xa2 xb2 =
      passAccs op bx start (List.zipWith (· ++ ·) xa1 xa2) (List.zipWith (· ++ ·) xb1 xb2) := by
  refine overTile_congr (by simp [ha]) (by simp [hb]) fun m n hm _ hn _ => ?_
  rw [List.getElem_zipWith, List.getElem_zipWith,
    accPass_append op bx _ ((hka _ (List.getElem_mem _)).trans (hkb _ (List.getElem_mem _)).symm)]
  refine congrArg (accPass op bx · _ _) ?_
  beta_reduce
  rw [lget_eq_getD, passAccs, overTile_getElem? _ _ _ (by omega) (by omega)]
  rfl

/-- The accumulators of an open tile. -/
def heldAccs (B : AccBank) : List AccEl := if B.cur then B.h1 else B.h0

@[simp] theorem bank_load (A : ArrayS) (rows : List OpRow) (k : Nat) : (A.load rows).bank k = A.bank k := by
  unfold ArrayS.load
  split <;> rfl

theorem bank_tset (A : ArrayS) (k : Nat) (B : AccBank) : ArrayS.bank { A with banks := tset A.banks k B } k = B := tget_tset_same _ _ _ _

end Sys2Proof.Laws

/-! ## What a pass computes when the grid forms nothing wrongly (R60, R62) -/

namespace Sys2Proof.Laws

open Sys2Proof.Machine Sys2Proof.Claims

section

variable (op : ArrOp) (fa fb : Fmt) (ftz : Bool) (P : Pass) (mt nt : Nat) (A : ArrayS) (ra rb : List OpRow)

/-- The prepared rows of an operand in format `f`. -/
def prepRows (f : Fmt) (rs : List OpRow) : List (List Blk) := rs.map (prepRow op f ftz (kBlock op fa fb))

/-- What the accumulators of a pass start from (R60). -/
def passStart : Nat → Nat → AccEl := fun m n => if P.first then accInit op else lget {} (heldAccs (A.bank P.bank)) (m * nt + n)

/-- The accumulators that a pass forms from its operands. -/
def passEls : List AccEl :=
  passAccs op fa.half (passStart op P nt A) (prepRows op fa fb ftz fa ra) (prepRows op fa fb ftz fb rb)

/-- The flags of reading its operands. -/
def passReadFlags : Nat := readFlags (prepRows op fa fb ftz fa ra ++ prepRows op fa fb ftz fb rb)

/-- The output elements of a last pass. -/
def passOut : List (Nat × Nat) := (passEls op fa fb ftz P nt A ra rb).map (finishEl op P.outFmt ftz P.e4nan P.scale)

/-- The rows of codes that the elements `out` of a tile are written as (R59). -/
def tileRows (out : List (Nat × Nat)) : List (List Nat) :=
  if P.mode = 1 then (List.range nt).map fun n => (List.range mt).map fun m => lget 0 (out.map Prod.fst) (m * nt + n)
  else (List.range mt).map fun m => ((out.map Prod.fst).drop (m * nt)).take nt

theorem bank_loaded (P : Pass) (A : ArrayS) (rows : List OpRow) (k : Nat) :
    (if (P.mode = 2 || P.reuse) = true then A else A.load rows).bank k = A.bank k := by
  split
  · rfl
  · exact bank_load A rows k

/-- A last pass: the elements leave as rows of codes, with their flags. -/
theorem passCompute_last (h : P.last = true) :
    (passCompute op fa fb ftz P mt nt A ra rb).rows = tileRows P mt nt (passOut op fa fb ftz P nt A ra rb) ∧
    (passCompute op fa fb ftz P mt nt A ra rb).flags =
      (passOut op fa fb ftz P nt A ra rb).foldl (fun f x => f ||| x.2) (passReadFlags op fa fb ftz ra rb) := by
  unfold passCompute passOut passEls passStart
  simp only [bank_loaded, h, if_true]
  exact ⟨rfl, rfl⟩

/-- Any other pass: the elements stay in the accumulators of its bank. -/
theorem passCompute_open (h : P.last = false) :
    heldAccs ((passCompute op fa fb ftz P mt nt A ra rb).arr.bank P.bank) = passEls op fa fb ftz P nt A ra rb ∧
    (passCompute op fa fb ftz P mt nt A ra rb).flags = passReadFlags op fa fb ftz ra rb := by
  unfold passCompute passEls passStart
  simp only [bank_loaded, h, Bool.false_eq_true, if_false, bank_tset]
  refine ⟨?_, rfl⟩
  unfold heldAccs
  cases (A.bank P.bank).cur <;> rfl

/-- The prepared rows of an operand that is split: each of its parts' rows joined, the first part `m` K-blocks long. -/
theorem prepRows_of_split {m : Nat} {rs r1s r2s : List OpRow} (f : Fmt) (h : SplitRows (kBlock op fa fb) m rs r1s r2s) :
    prepRows op fa fb ftz f rs = List.zipWith (· ++ ·) (prepRows op fa fb ftz f r1s) (prepRows op fa fb ftz f r2s) ∧
      (prepRows op fa fb ftz f r1s).length = (prepRows op fa fb ftz f r2s).length ∧
      ∀ x ∈ prepRows op fa fb ftz f r1s, x.length = m := by
  obtain ⟨c, h0, hkb⟩ := kBlock_eq_mul op fa fb
  have hlen : r1s.length = r2s.length := h.1.symm.trans h.2.1
  unfold prepRows
  rw [hkb] at h ⊢
  obtain ⟨hrows, hblocks⟩ := map_prepRow_of_split op f ftz h0 h
  exact ⟨hrows, by simpa using hlen, hblocks⟩

/-- R43, R60: the accumulators of a tile's second and last pass are those of one pass over all of K. -/
theorem passEls_two {m : Nat} {ra ra1 ra2 rb rb1 rb2 : List OpRow} (ha : SplitRows (kBlock op fa fb) m ra ra1 ra2)
    (hb : SplitRows (kBlock op fa fb) m rb rb1 rb2) (hnt : rb.length = nt) :
    passEls op fa fb ftz { P with first := false, last := true } nt
        (passCompute op fa fb ftz { P with first := true, last := false } mt nt A ra1 rb1).arr ra2 rb2 =
      passEls op fa fb ftz { P with first := true, last := true } nt A ra rb := by
  obtain ⟨hra, hla, hka⟩ := prepRows_of_split op fa fb ftz fa ha
  obtain ⟨hrb, hlb, hkb⟩ := prepRows_of_split op fa fb ftz fb hb
  obtain ⟨hheld, -⟩ := passCompute_open op fa fb ftz { P with first := true, last := false } mt nt A ra1 rb1 rfl
  have hcols : nt = (prepRows op fa fb ftz fb rb1).length := by rw [prepRows, List.length_map, ← hb.1, hnt]
  have happ := passAccs_append op fa.half (fun _ _ => accInit op) hla hlb hka hkb
  rw [← hcols, ← hra, ← hrb] at happ
  refine Eq.trans ?_ happ
  unfold passEls passStart
  simp only [Bool.false_eq_true, if_false]
  rw [hheld]
  rfl

/-- The flags of reading an operand in two parts, together. -/
theorem passReadFlags_two {m : Nat} {ra ra1 ra2 rb rb1 rb2 : List OpRow} (ha : SplitRows (kBlock op fa fb) m ra ra1 ra2)
    (hb : SplitRows (kBlock op fa fb) m rb rb1 rb2) :
    passReadFlags op fa fb ftz ra rb = passReadFlags op fa fb ftz ra1 rb1 ||| passReadFlags op fa fb ftz ra2 rb2 := by
  obtain ⟨hra, hla, -⟩ := prepRows_of_split op fa fb ftz fa ha
  obtain ⟨hrb, hlb, -⟩ := prepRows_of_split op fa fb ftz fb hb
  simp only [passReadFlags, readFlags_append, hra, hrb, readFlags_zipWith_append hla, readFlags_zipWith_append hlb]
  ac_rfl

end

/-- Settles O14: the second pass goes on from the accumulators of the first (`passEls_two`), so the same elements leave; and the flags of reading the
operands are those of their two parts. -/
theorem tilesOverTwoPasses : Obligations.TilesOverTwoPasses := by
  intro op fa fb ftz P mt nt m A ra ra1 ra2 rb rb1 rb2 ha hb hnt whole one two
  have hels := passEls_two op fa fb ftz P mt nt A ha hb hnt
  have hout : passOut op fa fb ftz { P with first := false, last := true } nt one.arr ra2 rb2 =
      passOut op fa fb ftz { P with first := true, last := true } nt A ra rb := congrArg (List.map (finishEl op P.outFmt ftz P.e4nan P.scale)) hels
  obtain ⟨hwr, hwf⟩ := passCompute_last op fa fb ftz { P with first := true, last := true } mt nt A ra rb rfl
  obtain ⟨htr, htf⟩ := passCompute_last op fa fb ftz { P with first := false, last := true } mt nt one.arr ra2 rb2 rfl
  obtain ⟨-, hof⟩ := passCompute_open op fa fb ftz { P with first := true, last := false } mt nt A ra1 rb1 rfl
  constructor
  · exact htr.trans ((congrArg (tileRows P mt nt) hout).trans hwr.symm)
  · rw [hof, htf, hwf, hout, passReadFlags_two op fa fb ftz ha hb, foldl_or_start]

end Sys2Proof.Laws

/-! ## What a pass finds of its die after the issue (R52, R374) -/

namespace Sys2Proof.Laws

open Sys2Proof.Machine

/-- Two devices whose dies have the same arrays, in the same places, and the same flags. -/
structure SameArrays (a b : Dev) : Prop where
  arrays : ∀ i, (b.die i).arrays = (a.die i).arrays
  lmap : ∀ i, (b.die i).lmap = (a.die i).lmap
  flags : ∀ i, (b.die i).flags = (a.die i).flags

theorem SameArrays.refl (a : Dev) : SameArrays a a := ⟨fun _ => rfl, fun _ => rfl, fun _ => rfl⟩
theorem SameArrays.trans {a b c : Dev} (h : SameArrays a b) (k : SameArrays b c) : SameArrays a c :=
  ⟨fun i => (k.arrays i).trans (h.arrays i), fun i => (k.lmap i).trans (h.lmap i), fun i => (k.flags i).trans (h.flags i)⟩

theorem SameArrays.array {a b : Dev} (h : SameArrays a b) (i phys : Nat) : b.array i phys = a.array i phys := by
  unfold Dev.array
  rw [h.arrays]

theorem SameArrays.physOf {a b : Dev} (h : SameArrays a b) (i q : Nat) : b.physOf i q = a.physOf i q := by
  unfold Dev.physOf
  rw [h.lmap]

theorem sameArrays_modDie (w : W) (s : Nat) (f : Die → Die)
    (h : ∀ D, (f D).arrays = D.arrays ∧ (f D).lmap = D.lmap ∧ (f D).flags = D.flags) : SameArrays w.d (w.modDie s f).d := by
  have hdie : ∀ i, ((w.modDie s f).d.die i).arrays = (w.d.die i).arrays ∧ ((w.modDie s f).d.die i).lmap = (w.d.die i).lmap ∧
      ((w.modDie s f).d.die i).flags = (w.d.die i).flags := by
    intro i
    by_cases e : i = s
    · subst e; rw [die_modDie]; exact h _
    · rw [die_modDie_ne _ _ _ _ e]; exact ⟨rfl, rfl, rfl⟩
  exact ⟨fun i => (hdie i).1, fun i => (hdie i).2.1, fun i => (hdie i).2.2⟩

/-- What is done to polders alone leaves the dies as they were. -/
theorem sameArrays_modPol (w : W) (p : Nat) (f : Pol → Pol) : SameArrays w.d (w.modPol p f).d := ⟨fun _ => rfl, fun _ => rfl, fun _ => rfl⟩

theorem sameArrays_each {α : Type} (l : List α) (f : W → α → W) (h : ∀ w a, SameArrays w.d (f w a).d) (w : W) : SameArrays w.d (w.each l f).d := by
  unfold W.each
  induction l generalizing w with
  | nil => exact SameArrays.refl _
  | cons a l ih => exact (h w a).trans (ih (f w a))

theorem sameArrays_countSites (w : W) (fx : MemFx) : SameArrays w.d (w.countSites fx).d := by
  unfold W.countSites
  refine (sameArrays_each fx.sp _ (fun w a => ?_) w).trans (sameArrays_each fx.dram _ (fun w a => ?_) _) <;>
  · dsimp only
    split
    · exact sameArrays_modDie _ _ _ fun _ => ⟨rfl, rfl, rfl⟩
    · exact SameArrays.refl _

theorem sameArrays_jobFx (w : W) (p : Nat) (fx : MemFx) : SameArrays w.d (w.jobFx p fx).d := by
  have h := sameArrays_countSites w fx
  unfold W.jobFx W.countFx W.polErr W.modJob
  generalize w.countSites fx = v at h ⊢
  exact h.trans ((sameArrays_modPol _ _ _).trans ((sameArrays_modPol _ _ _).trans ((sameArrays_modPol _ _ _).trans (sameArrays_modPol _ _ _))))

theorem sameArrays_issued (s : State) (p d q : Nat) (j : Job) (b : Bytes) (fx : MemFx) : SameArrays s.dev (s.issued p d q j b fx).d := by
  have h : SameArrays s.dev (s.taken p d q j b).d :=
    (sameArrays_modDie s.w (j.site d) (fun D => { D with tokens := takeTokens D.tokens ((j.queue d q).needs (stepWaits b)) })
      fun _ => ⟨rfl, rfl, rfl⟩).trans (sameArrays_modPol _ _ _)
  exact h.trans (sameArrays_jobFx _ p fx)

/-- A tile descriptor stands in memory. -/
theorem tile_congr {v w : W} (hb : v.base = w.base) (ho : v.ops = w.ops) (j : Job) (d i : Nat) : v.tile j d i = w.tile j d i := by
  unfold W.tile W.imgFld W.img W.read W.cur
  rw [hb, ho]

end Sys2Proof.Laws

/-! ## Passes of an array that forms nothing wrongly (R61, R62, R74, R75) -/

namespace Sys2Proof.Laws

open Sys2Proof.Machine Sys2Proof.Claims

theorem arrOpOf_code (op : ArrOp) : arrOpOf op.code = op := by cases op <;> rfl

theorem passChecks_none (op : ArrOp) (fa fb : Fmt) (ftz : Bool) (P : Pass) (ra rb : List OpRow) : passChecks op fa fb ftz P ra rb [] = [] :=
  passRecords_none _ _ _ _ _

/-- Passes before the newest of which nothing wrong is named mismatch nowhere. -/
theorem lateMismatch_none (w : W) (p d q : Nat) : w.lateMismatch p d q [] = none := by
  unfold W.lateMismatch
  split
  · rfl
  · simp

/-- The writes of a pass whose result is the rows `rows`. -/
def passWrites (w : W) (j : Job) (d : Nat) (b : Bytes) (rows : List (List Nat)) : List (Nat × Bytes) :=
  rows.zipIdx.map fun (c, i) => (j.rowAddr (w.tile j d (passOf b).res) i, pack (w.tile j d (passOf b).res).f.w c)

/-- A pass that holds no result writes nothing. -/
theorem passCompute_rows_open (op : ArrOp) (fa fb : Fmt) (ftz : Bool) (P : Pass) (mt nt : Nat) (A : ArrayS) (ra rb : List OpRow) (h : P.last = false) :
    (passCompute op fa fb ftz P mt nt A ra rb).rows = [] := by
  unfold passCompute
  simp only [h, Bool.false_eq_true, if_false]

/-- What a pass does where its polder may write its rows. -/
theorem passEffect_ok {w : W} {p d q : Nat} {j : Job} {b : Bytes} {f : Flight} {ra rb : List OpRow} {r : PassRes}
    (hr : passCompute (arrOpOf (stepOp b)) (w.tile j d (passOf b).a).f (w.tile j d (passOf b).b).f (j.ftzOf 0) (passOf b) f.mt f.nt f.before ra rb f.errs = r)
    (hm : w.d.mayWrite p (passWrites w j d b r.rows)) :
    w.passEffect p d q j b f ra rb =
      ({ (w.modDie (j.site d) fun D => { D with arrays := tset D.arrays (w.d.physOf (j.site d) q) r.arr }).raiseFlags p d q r.flags with
          ops := w.ops ++ writeOps (passWrites w j d b r.rows) }, none) := by
  subst hr
  unfold W.passEffect
  extract_lets s phys P r w' t
  have hmem : w'.base = w.base ∧ w'.ops = w.ops := raiseFlags_mem _ p d q r.flags
  have hreach : SameReach w.d w'.d :=
    (sameReach_modDie w s (fun D => { D with arrays := tset D.arrays phys r.arr }) fun _ => rfl).trans (sameReach_raiseFlags _ p d q r.flags)
  have hmay : w'.d.mayWrite p (passWrites w j d b r.rows) := hreach.mayWrite hm
  have hres : t = w.tile j d (passOf b).res := tile_congr hmem.1 hmem.2 j d P.res
  rw [hres]
  exact (putAll_ok hmay).trans (by rw [hmem.2])

/-- The flight of a pass that starts on array `A`, whose queue's engine has the flags `fl`. -/
def newFlight (j : Job) (d q : Nat) (b : Bytes) (mt nt : Nat) (A : ArrayS) (fl : Nat) : Flight :=
  { pos := (j.queue d q).pos, bank := (passOf b).bank, mt := mt, nt := nt, before := A, flags := fl }

/-- A queue with one more pass in flight. -/
def addFlight (w : W) (p d q : Nat) (f : Flight) : W := w.modJob p fun j => j.setQueue d q fun Q => { Q with flights := Q.flights ++ [f] }

/-- A pass whose operands are read without an error, and of which nothing is formed wrongly, is in flight and has its effect. -/
theorem runPass_right {w v : W} {p d q mt nt : Nat} {j : Job} {b : Bytes} {A : ArrayS} {ra rb : List OpRow} (hmt : 0 < mt) (hnt : 0 < nt)
    (hA : w.d.array (j.site d) (w.d.physOf (j.site d) q) = A) (hdims : w.passDims j d A b (passOf b) = .ok (mt, nt))
    (hreads : w.passOperands p j d (passOf b) A mt nt = .ok (ra, rb))
    (heffect : (addFlight w p d q (newFlight j d q b mt nt A (tget 0 (w.d.die (j.site d)).flags q))).passEffect p d q j b
      (newFlight j d q b mt nt A (tget 0 (w.d.die (j.site d)).flags q)) ra rb = (v, none)) :
    w.runPass p d q j b .none [] = v := by
  subst hA
  have hdim : (decide (mt = 0) || decide (nt = 0)) = false := by simp; omega
  unfold addFlight newFlight at heffect
  simp only [W.runPass, hdims, hdim, Bool.false_eq_true, if_false, MemFail.code, hreads, List.filter_nil, List.map_nil, heffect, lateMismatch_none,
    passChecks_none, List.isEmpty_nil, if_true]

/-- A ready pass of which nothing is formed wrongly: what it does, where its polder may write its rows. -/
theorem arrayStep_runs {s : State} {op : ArrOp} {p d q mt nt : Nat} {j : Job} {b : Bytes} {fx : MemFx} {ra rb : List OpRow} {A : ArrayS} {r : PassRes}
    (h : PassReady s op p d q j b fx mt nt ra rb) (hA : s.dev.array (j.site d) (s.dev.physOf (j.site d) q) = A)
    (hr : passCompute op (s.w.tile j d (passOf b).a).f (s.w.tile j d (passOf b).b).f (j.ftzOf 0) (passOf b) mt nt A ra rb = r)
    (hm : s.dev.mayWrite p (passWrites s.w j d b r.rows)) :
    s.w.arrayStep op p d q fx [] =
      { ((addFlight (s.issued p d q j b fx) p d q (newFlight j d q b mt nt A (tget 0 (s.dev.die (j.site d)).flags q))).modDie (j.site d) fun D =>
          { D with arrays := tset D.arrays (s.dev.physOf (j.site d) q) r.arr }).raiseFlags p d q r.flags with
        ops := writeOps (passWrites s.w j d b r.rows) } := by
  obtain ⟨hready, hkind, hcode, hq, hmt, hnt, hdims, hreads⟩ := h
  have hsame := sameArrays_issued s p d q j b fx
  obtain ⟨hbase, hops⟩ := issued_mem s p d q j b fx
  unfold W.arrayStep
  rw [issue_ready hready _ (by simp [hkind, hcode, hq]), hready.fine]
  refine runPass_right (w := s.issued p d q j b fx) hmt hnt (by rw [hsame.physOf, hsame.array, hA]) (hA ▸ hdims) (hA ▸ hreads) ?_
  rw [hsame.flags]
  generalize hf : newFlight j d q b mt nt A (tget 0 (s.dev.die (j.site d)).flags q) = f
  have htile : ∀ i, (addFlight (s.issued p d q j b fx) p d q f).tile j d i = s.w.tile j d i := tile_congr hbase hops j d
  have hwrites : passWrites (addFlight (s.issued p d q j b fx) p d q f) j d b r.rows = passWrites s.w j d b r.rows := by
    unfold passWrites
    rw [htile]
  have hreach : SameReach s.dev (addFlight (s.issued p d q j b fx) p d q f).d :=
    (sameReach_issued s p d q j b fx).trans (sameReach_modJob _ p _ fun _ => rfl)
  have hphys : (addFlight (s.issued p d q j b fx) p d q f).d.physOf (j.site d) q = s.dev.physOf (j.site d) q := hsame.physOf (j.site d) q
  have heffect := passEffect_ok (w := addFlight (s.issued p d q j b fx) p d q f) (q := q) (f := f) (r := r)
    (by rw [htile, htile, hcode, arrOpOf_code, ← hf]; exact hr) (by rw [hwrites]; exact hreach.mayWrite hm)
  have hnone : (addFlight (s.issued p d q j b fx) p d q f).ops = [] := hops
  rw [heffect, hwrites, hphys, hnone, List.nil_append]

/-- An array command is its operation's pass. -/
theorem exec_arrCmd {x : ArrCmd × ArrOp} (hx : x ∈ arrCmds) (p d q : Nat) (fx : MemFx) (ck : List ArrErr) (s : State) :
    exec (x.1 p d q fx ck) s = .next (s.commit (s.w.arrayStep x.2 p d q fx ck)) := by
  simp only [arrCmds, List.mem_cons, List.not_mem_nil, or_false] at hx
  rcases hx with rfl | rfl | rfl | rfl | rfl | rfl | rfl <;> rfl

/-- Settles O12: the pass is issued, nothing of it or of the passes before it mismatches, and its effect is that of `passCompute`. -/
theorem arrayPasses : Obligations.ArrayPasses := by
  intro x hx s p d q mt nt j b fx ra rb h site phys P A r writes flight hm
  rw [exec_arrCmd hx, arrayStep_runs h rfl rfl hm]
  refine ⟨_, rfl, rfl, rfl, rfl, fun a ha => applyAll_write_out writes a h.ready.mem ha, rfl, fun hopen => ?_⟩
  have hrows : r.rows = [] := passCompute_rows_open _ _ _ _ _ _ _ _ _ _ hopen
  show s.mem.applyAll (writeOps (passWrites s.w j d b r.rows)) = s.mem
  rw [hrows]
  rfl

end Sys2Proof.Laws

/-! ## Work on the links alone -/

namespace Sys2Proof.Laws

open Sys2Proof.Machine Sys2Proof.Claims

/-- `w'` is `w` after work on the fabric that sends messages: nothing else of the device and no memory has changed. -/
def LinkOnly (w w' : W) : Prop := ∃ F o, w' = { w with d := { w.d with fabric := F, out := o } }

theorem LinkOnly.refl (w : W) : LinkOnly w w := ⟨_, _, rfl⟩

theorem LinkOnly.trans {a b c : W} (h : LinkOnly a b) (k : LinkOnly b c) : LinkOnly a c := by
  obtain ⟨F, o, rfl⟩ := h
  obtain ⟨G, u, rfl⟩ := k
  exact ⟨G, u, rfl⟩

theorem LinkOnly.each {α : Type} (l : List α) (f : W → α → W) (h : ∀ w a, LinkOnly w (f w a)) (w : W) : LinkOnly w (w.each l f) := by
  unfold W.each
  induction l generalizing w with
  | nil => exact LinkOnly.refl w
  | cons a l ih => exact (h w a).trans (ih (f w a))

theorem linkOnly_modFabric (w : W) (f : Fabric → Fabric) : LinkOnly w (w.modFabric f) := ⟨_, _, rfl⟩
theorem linkOnly_modPort (w : W) (n : Nat) (f : Port → Port) : LinkOnly w (w.modPort n f) := linkOnly_modFabric w _
theorem linkOnly_linkCnt (w : W) (n k : Nat) : LinkOnly w (w.linkCnt n k) := linkOnly_modFabric w _
theorem linkOnly_emit (w : W) (o : Out) : LinkOnly w (w.emit o) := ⟨_, _, rfl⟩

theorem linkOnly_sendNow (w : W) (n : Nat) (f : Frame) : LinkOnly w (w.sendNow n f) := by
  have hwire : ∀ (w : W) (g : Frame), LinkOnly w (w.wire n g) := fun w g => (linkOnly_emit w _).trans (linkOnly_linkCnt _ n 0)
  unfold W.sendNow
  dsimp only
  split
  · exact hwire w f
  · exact (linkOnly_modPort w n _).trans (hwire _ _)

theorem linkOnly_releaseHeld (k : Nat) (w : W) (n : Nat) : LinkOnly w (W.releaseHeld k w n) := by
  induction k generalizing w with
  | zero => exact LinkOnly.refl w
  | succ k ih =>
    unfold W.releaseHeld
    split
    · exact LinkOnly.refl w
    · split
      · exact LinkOnly.refl w
      · exact ((linkOnly_modPort w n _).trans (linkOnly_sendNow _ _ _)).trans (ih _)

theorem linkOnly_pausePeers (w : W) : LinkOnly w w.pausePeers := by
  unfold W.pausePeers
  split
  · exact LinkOnly.refl w
  · refine LinkOnly.each _ _ (fun w n => LinkOnly.each _ _ (fun w q => ?_) w) w
    dsimp only
    split
    · exact (linkOnly_modPort w n _).trans (linkOnly_emit _ _)
    · split
      · exact (linkOnly_modPort w n _).trans (linkOnly_emit _ _)
      · exact LinkOnly.refl w

theorem linkOnly_takeHack (w : W) (n hack : Nat) : LinkOnly w (w.takeHack n hack) :=
  (linkOnly_modPort w n _).trans ((linkOnly_releaseHeld _ _ n).trans (linkOnly_pausePeers _))

/-- Receiving a frame concerns the links alone. -/
theorem linkOnly_received (s : State) (n : Nat) (f : Frame) : LinkOnly s.w (received s n f) :=
  (linkOnly_linkCnt s.w n 1).trans ((linkOnly_takeHack _ n f.hack).trans (linkOnly_modPort _ n _))

theorem linkOnly_coded (s : State) (n : Nat) (f : Frame) : LinkOnly s.w (coded s n f) :=
  (linkOnly_received s n f).trans (linkOnly_modFabric _ _)

/-- Checks 1 and 2 of R322 pass a plain frame that arrives in order for this device. -/
theorem inbound_arrives {s : State} {n kind : Nat} {f : Frame} (h : Arrives s n f) (hk : f.kind = kind) (hlink : kind < 0x10)
    (go : W → Frame → Option Nat → Bool → W) : s.w.inbound n kind f go = go (received s n f) f none false := by
  obtain ⟨hup, hdirect, hgood, horder, hhere, hplain⟩ := h
  have hfcs : f.fcsOk = true := by
    unfold badFrame at hgood
    cases hf : f.fcsOk
    · simp [hf] at hgood
    · rfl
  have hchip : f.dst = (received s n f).d.hub.chip := by
    obtain ⟨F, o, e⟩ := linkOnly_received s n f
    rw [e]; exact hhere
  have hacc : s.w.hopAccept n f = received s n f := if_neg (by omega)
  have harrive : s.w.arrive n f = (received s n f, true) := by
    have h10 : (f.kind == 0x10) = false := by simp; omega
    have h11 : (f.kind == 0x11) = false := by simp; omega
    have h12 : (f.kind == 0x12) = false := by simp; omega
    simp [W.arrive, hup, hdirect, hfcs, hgood, horder, hacc, h10, h11, h12, ← hchip]
  simp [W.inbound, hk, harrive, W.auth, hplain]

end Sys2Proof.Laws

/-! ## The collective table (R326) -/

namespace Sys2Proof.Laws

open Sys2Proof.Machine Sys2Proof.Claims

/-- A polder's record written by the function that drives it. -/
theorem polWrite_drives {s : State} {fn p : Nat} (h : Drives s fn p) (off : Nat) (pf : Bool) (f : W → (W → W) → W) :
    s.w.polWrite fn p off pf f = (f s.w fun w => w.ignored fn (polOff fn p off)).settle := by
  obtain ⟨hreach, hrun, hp, hmine⟩ := h
  have hview : (decide (p ≥ 16) || (decide (fn ≠ 0) && decide (p ≠ vfPol fn))) = false := by
    unfold Dev.driver at hmine
    unfold vfPol
    split at hmine <;> simp <;> omega
  unfold W.polWrite
  rw [hview, if_neg (by decide)]
  exact regWrite_ok s.w fn _ _ f false hreach (by simpa using hrun) (by simp [hmine])

/-- What the table's check keeps of a list of errors: the least. -/
theorem foldl_least {step : Option Nat → Nat → Option Nat} (hnone : ∀ x, step none x = some x) (hsome : ∀ y x, step (some y) x = some (min x y))
    {l : List Nat} {m : Nat} (hm : m ∈ l) (hle : ∀ x ∈ l, m ≤ x) : l.foldl step none = some m := by
  have hrest : ∀ (k : List Nat) (y : Nat), (∀ x ∈ k, m ≤ x) → m ≤ y → m = y ∨ m ∈ k → k.foldl step (some y) = some m := by
    intro k
    induction k with
    | nil => intro y _ _ hin; simpa [eq_comm] using hin
    | cons x k ih =>
      intro y hk hy hin
      have hx := hk x List.mem_cons_self
      rw [List.foldl_cons, hsome]
      refine ih _ (fun z hz => hk z (List.mem_cons_of_mem _ hz)) (by omega) ?_
      rcases hin with rfl | hin
      · exact .inl (by omega)
      · rcases List.mem_cons.mp hin with rfl | hin
        · exact .inl (by omega)
        · exact .inr hin
  cases l with
  | nil => simp at hm
  | cons x k =>
    rw [List.foldl_cons, hnone]
    exact hrest k x (fun z hz => hle z (List.mem_cons_of_mem _ hz)) (hle x List.mem_cons_self) (List.mem_cons.mp hm)

/-- A polder without a job, whose table is read anew: what the write of `v` puts down before the entries are checked. -/
def tableAt (w : W) (p v : Nat) : W :=
  w.modPol p fun P => { P with coll := { P.coll with valid := false, ranges := [], count := bits v 59 48 + 1 - 1, base := bits v 47 0 } }

/-- The error of entry `c` of the table that a write of `v` names (R326). -/
def tableErr (w : W) (p v c : Nat) : Nat := (tableAt w p v).centErr p ((tableAt w p v).cent p c)

theorem polColl_job {w : W} {p v : Nat} {ign : W → W} (h : (w.d.pol p).job ≠ none) : w.polColl p v ign = ign w := by
  have hjob : (w.d.pol p).job.isSome = true := Option.isSome_iff_ne_none.mpr h
  simp [W.polColl, hjob]

theorem runningJob_none {d : Dev} {p : Nat} (h : (d.pol p).job = none) : d.runningJob p = none := by simp [Dev.runningJob, h]

theorem polColl_clear {w : W} {p v : Nat} {ign : W → W} (hjob : (w.d.pol p).job = none) (hv : v.testBit 63 = false) :
    w.polColl p v ign = tableAt w p v := by
  simp [W.polColl, runningJob_none hjob, hjob, hv, tableAt]

section

variable {w : W} {p v x y : Nat} {ign : W → W} (hjob : (w.d.pol p).job = none) (hv : v.testBit 63 = true) (halign : bits v 47 0 % 64 = 0)
  (hregion : region (bits v 47 0) = .stack x y)
  (hreach : (tableAt w p v).d.reachAll .dma p (bits v 47 0) (64 * (bits v 59 48 + 1)) false = none)

include hjob hv halign hregion hreach

/-- A table in a stack that its polder reaches, of which no entry is wrong, is VALID. -/
theorem polColl_valid (hall : ∀ c, c < bits v 59 48 + 1 → tableErr w p v c = 0) :
    w.polColl p v ign = (tableAt w p v).modPol p fun P => { P with coll := { P.coll with
      valid := true, err := 0, ranges := (bits v 47 0, 64 * (bits v 59 48 + 1)) ::
        (List.range (bits v 59 48 + 1)).map fun c => (fld ((tableAt w p v).cent p c).raw 0x18 8, 4 * ((tableAt w p v).cent p c).n) } } := by
  have hnil : ((List.range (bits v 59 48 + 1)).map (tableErr w p v)).filter (· != 0) = [] := by
    rw [List.filter_eq_nil_iff]
    intro e he
    obtain ⟨c, hc, rfl⟩ := List.mem_map.mp he
    simp [hall c (List.mem_range.mp hc)]
  have hplaced : tableAt w p v = w.modPol p fun P => { P with coll := { P.coll with
    valid := false, ranges := [], count := bits v 59 48 + 1 - 1, base := bits v 47 0 } } := rfl
  have herr : (fun c => (tableAt w p v).centErr p ((tableAt w p v).cent p c)) = tableErr w p v := rfl
  simp only [W.polColl, runningJob_none hjob, hjob, ← hplaced, herr, hv, halign, hregion, hreach, hnil, Option.isSome_none, Bool.or_self, Bool.false_eq_true,
    Bool.not_true, if_false, beq_self_eq_true, Option.isNone_none, Bool.and_self, if_true, List.foldl_nil]

/-- One of which some entry is wrong says the least of its entries' errors. -/
theorem polColl_err {c : Nat} (hc : c < bits v 59 48 + 1) (hne : tableErr w p v c ≠ 0)
    (hle : ∀ i, i < bits v 59 48 + 1 → tableErr w p v i ≠ 0 →
      tableErr w p v c ≤ tableErr w p v i) :
    w.polColl p v ign = (tableAt w p v).modPol p fun P => { P with coll := { P.coll with
      err := tableErr w p v c } } := by
  have hmem : tableErr w p v c ∈
      ((List.range (bits v 59 48 + 1)).map (tableErr w p v)).filter (· != 0) :=
    List.mem_filter.mpr ⟨List.mem_map.mpr ⟨c, List.mem_range.mpr hc, rfl⟩, by simpa using hne⟩
  have hleast : ∀ e ∈ ((List.range (bits v 59 48 + 1)).map (tableErr w p v)).filter (· != 0),
      tableErr w p v c ≤ e := by
    intro e he
    obtain ⟨he, hne'⟩ := List.mem_filter.mp he
    obtain ⟨i, hi, rfl⟩ := List.mem_map.mp he
    exact hle i (List.mem_range.mp hi) (by simpa using hne')
  have hplaced : tableAt w p v = w.modPol p fun P => { P with coll := { P.coll with
    valid := false, ranges := [], count := bits v 59 48 + 1 - 1, base := bits v 47 0 } } := rfl
  have herr : (fun c => (tableAt w p v).centErr p ((tableAt w p v).cent p c)) = tableErr w p v := rfl
  simp only [W.polColl, runningJob_none hjob, hjob, ← hplaced, herr, hv, halign, hregion, hreach, Option.isSome_none, Bool.or_self, Bool.false_eq_true,
    Bool.not_true, if_false, beq_self_eq_true, Option.isNone_none, Bool.and_self, if_true]
  rw [foldl_least (fun _ => rfl) (fun _ _ => rfl) hmem hleast]

end

/-- R326: a write of POL_COLL by the function that drives the polder. -/
theorem polColl_runs {s : State} {fn p v : Nat} {w : W} (h : Drives s fn p)
    (hw : s.w.polColl p (v % 2 ^ 64) (fun w => w.ignored fn (polOff fn p 0x68)) = w) : Runs (.polColl fn p v) s w := by
  have hrun : s.w.polWrite fn p 0x68 false (fun w ign => w.polColl p (v % 2 ^ 64) ign) = w.settle := by rw [polWrite_drives h, hw]
  exact runs_settle (congrArg (fun w => Host.Outcome.next (s.commit w)) hrun)

end Sys2Proof.Laws

/-! ## Changes of a polder's collectives -/

namespace Sys2Proof.Laws

open Sys2Proof.Machine Sys2Proof.Claims

theorem modPol_modPol (w : W) (p : Nat) (f g : Pol → Pol) : (w.modPol p f).modPol p g = w.modPol p fun P => g (f P) := by
  unfold W.modPol
  rw [tmod_tmod]

theorem modPol_congr {w : W} {p : Nat} {f g : Pol → Pol} (h : f (w.d.pol p) = g (w.d.pol p)) : w.modPol p f = w.modPol p g := by
  have hset : tmod {} w.d.pols p f = tmod {} w.d.pols p g := congrArg (tset w.d.pols p) h
  unfold W.modPol
  rw [hset]

@[simp] theorem coll_polErr (w : W) (p k n : Nat) : ((w.polErr p k n).d.pol p).coll = (w.d.pol p).coll := by
  rw [W.polErr, pol_modPol]

@[simp] theorem landOff_polErr (w : W) (p k n : Nat) : ((w.polErr p k n).d.pol p).landOff = (w.d.pol p).landOff := by
  rw [W.polErr, pol_modPol]

theorem modColl_modColl (w : W) (p : Nat) (f g : PolColl → PolColl) : (w.modColl p f).modColl p g = w.modColl p fun K => g (f K) :=
  modPol_modPol _ _ _ _

theorem modColl_congr {w : W} {p : Nat} {f g : PolColl → PolColl} (h : f (w.d.pol p).coll = g (w.d.pol p).coll) : w.modColl p f = w.modColl p g :=
  modPol_congr (congrArg (fun K => { w.d.pol p with coll := K }) h)

/-- Counters and collectives of a polder change apart. -/
theorem modColl_polErr (w : W) (p k n : Nat) (f : PolColl → PolColl) : (w.modColl p f).polErr p k n = (w.polErr p k n).modColl p f := by
  unfold W.modColl W.polErr
  rw [modPol_modPol, modPol_modPol]

/-- `v` finds the collective table, the chip and the place of the landing area that `w` finds. -/
structure SameTable (p : Nat) (w v : W) : Prop where
  base : v.base = w.base
  ops : v.ops = w.ops
  chip : v.d.hub.chip = w.d.hub.chip
  coll : (v.d.pol p).coll = (w.d.pol p).coll
  landOff : (v.d.pol p).landOff = (w.d.pol p).landOff

theorem LinkOnly.sameTable {w v : W} (h : LinkOnly w v) (p : Nat) : SameTable p w v := by
  obtain ⟨F, o, rfl⟩ := h
  exact ⟨rfl, rfl, rfl, rfl, rfl⟩

theorem read_congr {v w : W} (hbase : v.base = w.base) (hops : v.ops = w.ops) (a n : Nat) : v.read a n = w.read a n := by
  unfold W.read W.cur
  rw [hbase, hops]

theorem SameTable.read {p : Nat} {w v : W} (h : SameTable p w v) (a n : Nat) : v.read a n = w.read a n := read_congr h.base h.ops a n

theorem SameTable.cent {p : Nat} {w v : W} (h : SameTable p w v) (c : Nat) : v.cent p c = w.cent p c := by
  have hentry : v.collEntry p c = w.collEntry p c := by
    unfold W.collEntry
    rw [h.coll, h.read]
  have hmembers : ∀ e, v.collMembers e = w.collMembers e := fun e => by
    simp only [W.collMembers, h.read]
  unfold W.cent
  simp only [hentry, hmembers, h.chip]

theorem SameTable.collFrameOk {p : Nat} {w v : W} (h : SameTable p w v) (f : Frame) : v.collFrameOk p f = w.collFrameOk p f := by
  unfold W.collFrameOk W.collSig
  simp only [h.cent, h.coll, h.read]

theorem SameTable.hasLanded {p : Nat} {w v : W} (h : SameTable p w v) (c seg phase r : Nat) :
    v.d.hasLanded p c seg phase r = w.d.hasLanded p c seg phase r := by
  unfold Dev.hasLanded
  rw [h.coll]

theorem landAt_congr {p : Nat} {w v : W} (h : (v.d.pol p).landOff = (w.d.pol p).landOff) (e : CEnt) (seg phase r : Nat) :
    v.d.landAt p e seg phase r = w.d.landAt p e seg phase r := by
  unfold Dev.landAt
  rw [h]

end Sys2Proof.Laws

/-! ## The sum of a segment (R54, R331) -/

namespace Sys2Proof.Laws

open Sys2Proof.Machine Sys2Proof.Claims

/-- R331: the owner of a segment whose contributions have landed sums them, frees their slots and sends the sum. -/
theorem segmentReduce_runs {s : State} {p c seg : Nat} {j : Job} (hrun : s.dev.runningJob p = some j) (hvalid : (s.dev.pol p).coll.valid = true)
    (hc : c ≤ (s.dev.pol p).coll.count) (hop : (s.w.cent p c).op = 1 ∨ (s.w.cent p c).op = 2) (hmine : seg % (s.w.cent p c).n = (s.w.cent p c).me)
    (hall : ∀ r, r < (s.w.cent p c).n → s.dev.hasLanded p c seg 0 r = true) (hfree : s.dev.mayLand p c (s.w.cent p c) 1 (s.w.cent p c).me seg = true) :
    let e := s.w.cent p c
    let x := s.w.sumSegment p seg e (j.ftzOf 3)
    Runs (.segmentReduce p c seg) s (((((x.1.modColl p fun K => { K with
      landings := K.landings.filter fun L => !(L.c == c && L.seg == seg && L.phase == 0) }).creditAll p c e 0 seg)).modColl p fun K => { K with
      sends := K.sends ++ (if e.op = 1 then List.range e.n else [e.me]).map fun t =>
        { c := c, seg := seg, phase := 1, rank := t, bytes := x.2.1, info := x.2.2 } }).collAll) := by
  intro e x
  have hreduces : (s.w.cent p c).reduces = true := by rcases hop with h | h <;> simp [CEnt.reduces, h]
  have hlanded : (List.range (s.w.cent p c).n).all (fun r => s.dev.hasLanded p c seg 0 r) = true :=
    List.all_eq_true.mpr fun r hr => hall r (List.mem_range.mp hr)
  refine runs_settle ?_
  show execSegmentReduce p c seg s = _
  simp only [execSegmentReduce, run_def, w_d, hrun, hvalid, hc, hreduces, hmine, hlanded, hfree, decide_true, beq_self_eq_true, Bool.and_self, if_true]
  rfl

end Sys2Proof.Laws

/-! ## Collective frames (R332 to R336) -/

namespace Sys2Proof.Laws

open Sys2Proof.Machine Sys2Proof.Claims

/-- Receiving a frame leaves its polder's collectives ready. -/
theorem LinkOnly.collReady {w v : W} (h : LinkOnly w v) (p : Nat) : v.d.collReady p = w.d.collReady p := by
  obtain ⟨F, o, rfl⟩ := h
  rfl

/-- R302, R332: a credit counts. -/
theorem collCredit_runs {s : State} {n : Nat} {f : Frame} (h : Arrives s n f) (hready : s.dev.collReady f.dstPol = true) (hcode : codeRight f = true)
    (hkind : f.kind = 9) (hlen : f.payload.length = 8) (hrsvd : fld f.payload 0 8 / 2 ^ 45 = 0) :
    let v := fld f.payload 0 8
    Runs (.collCredit n f) s (((received s n f).modColl f.dstPol fun K => { K with
      credits := K.credits ++ [(v % 2 ^ 16, bits v 44 44, bits v 43 32, bits v 31 16)] }).collAll) := by
  intro v
  have hready' := ((linkOnly_received s n f).collReady f.dstPol).trans hready
  refine runs_settle ?_
  show execCollCredit n f s = _
  simp only [execCollCredit, run_def, inbound_arrives h hkind (by decide), hcode, hlen, hrsvd, hready', Bool.not_true, Bool.or_self, Bool.false_eq_true,
    if_false, ne_eq, not_true, or_self]
  rfl

/-- R333, R335: an abort of an entry of the table, by its status. -/
theorem collAbort_runs {s : State} {n : Nat} {f : Frame} (h : Arrives s n f) (hready : s.dev.collReady f.dstPol = true) (hcode : codeRight f = true)
    (hkind : f.kind = 0x0A) (hlen : f.payload.length = 8) (hvalid : (s.dev.pol f.dstPol).coll.valid = true)
    (hrsvd : bits (fld f.payload 0 8) 47 45 = 0) (hhigh : fld f.payload 0 8 / 2 ^ 56 = 0)
    (hc : fld f.payload 0 8 % 2 ^ 16 ≤ (s.dev.pol f.dstPol).coll.count) :
    let v := fld f.payload 0 8
    (bits v 31 16 = stMEMBER_LOST →
      Runs (.collAbort n f) s ((received s n f).memberLost f.dstPol (v % 2 ^ 16) (bits v 44 32) (bits v 55 48))) ∧
    (bits v 31 16 = stCONTRIBUTION_BAD →
      Runs (.collAbort n f) s ((received s n f).collFail f.dstPol (v % 2 ^ 16) stCONTRIBUTION_BAD (bits v 55 48) (bits v 44 32))) := by
  intro v
  have hlink := linkOnly_received s n f
  have hready' := (hlink.collReady f.dstPol).trans hready
  have hcoll := (hlink.sameTable f.dstPol).coll
  have hnamed : (decide (fld f.payload 0 8 % 2 ^ 16 > (s.dev.pol f.dstPol).coll.count)) = false := decide_eq_false (by omega)
  have hexec : exec (.collAbort n f) s = .next (s.commit (
      if bits v 31 16 = stMEMBER_LOST then (received s n f).memberLost f.dstPol (v % 2 ^ 16) (bits v 44 32) (bits v 55 48)
      else if bits v 31 16 = stCONTRIBUTION_BAD then
        (received s n f).collFail f.dstPol (v % 2 ^ 16) stCONTRIBUTION_BAD (bits v 55 48) (bits v 44 32)
      else (received s n f).linkCnt n 5).settle) := by
    show execCollAbort n f s = _
    simp only [execCollAbort, run_def, inbound_arrives h hkind (by decide), hcode, hlen, hrsvd, hhigh, hready', hcoll, w_d, hvalid, hnamed,
      Bool.not_true, Bool.or_self, Bool.false_eq_true, if_false, ne_eq, not_true, or_self]
    rfl
  constructor
  · intro hst
    rw [if_pos hst] at hexec
    exact runs_settle hexec
  · intro hst
    have hne : ¬ bits v 31 16 = stMEMBER_LOST := by rw [hst]; decide
    rw [if_neg hne, if_pos hst] at hexec
    exact runs_settle hexec

/-- A COLL_DATA frame that passes checks 1 to 3, its layout and its CODE right, of a collective that has not failed. -/
structure DataArrives (s : State) (n : Nat) (f : Frame) : Prop where
  arrives : Arrives s n f
  ready : s.dev.collReady f.dstPol = true
  code : codeRight f = true
  kind : f.kind = 8
  rsvd : bits f.addr 47 45 = 0
  length : (lastTrailer f).length = (if f.last then 16 else 0)
  info : f.last = true → fld (lastTrailer f) 9 3 = 0
  goes : ∀ x ∈ (s.dev.pol f.dstPol).coll.failed, x.1 ≠ f.addr % 2 ^ 16

/-- What a COLL_DATA command goes on with then. -/
theorem collData_checked {s : State} {n : Nat} {f : Frame} {fx : MemFx} (h : DataArrives s n f) :
    exec (.collData n f fx) s = .next (s.commit
      (if s.w.collFrameOk f.dstPol f = false then (coded s n f).collReject f.dstPol (f.addr % 2 ^ 16) 2 f.src
        else (coded s n f).collLand f.dstPol f none fx).settle) := by
  obtain ⟨harrives, hready, hcode, hkind, hrsvd, hlen, hinfo, hfailed⟩ := h
  have hlink := linkOnly_coded s n f
  have hready' := ((linkOnly_received s n f).collReady f.dstPol).trans hready
  have hcoll := (hlink.sameTable f.dstPol).coll
  have hok := (hlink.sameTable f.dstPol).collFrameOk f
  have hlayout : ¬ (bits f.addr 47 45 ≠ 0 ∨ (lastTrailer f).length ≠ (if f.last then 16 else 0) ∨ (f.last ∧ fld (lastTrailer f) 9 3 ≠ 0)) := by
    rintro (hx | hx | ⟨hl, hx⟩)
    · exact hx hrsvd
    · exact hx hlen
    · exact hx (hinfo hl)
  have hgate : ∀ go : W → W, (received s n f).codeGate f.dstPol f none go = go (coded s n f) := fun go => by
    simp only [W.codeGate, hcode, if_true]
    rfl
  have hfree : ((coded s n f).d.pol f.dstPol).coll.failed.any (fun x => x.1 == f.addr % 2 ^ 16) = false := by
    rw [hcoll, List.any_eq_false]
    intro x hx
    simpa using hfailed x hx
  show execCollData n f fx s = _
  simp only [execCollData, run_def, inbound_arrives harrives hkind (by decide), if_neg hlayout, hready', hgate, hfree, hok, reduceCtorEq, Bool.false_eq_true,
    if_false, Bool.not_eq_true']

/-- The landing of rank `r` of segment `seg` in phase `phase` of collective `c` is this one. -/
def isLanding (c seg phase r : Nat) (L : Landing) : Bool := L.c == c && L.seg == seg && L.phase == phase && L.rank == r

theorem isLanding_eq_false {c seg phase r : Nat} {L : Landing} (h : ¬ (L.c = c ∧ L.seg = seg ∧ L.phase = phase ∧ L.rank = r)) :
    isLanding c seg phase r L = false := by
  rw [Bool.eq_false_iff]
  intro hL
  simp only [isLanding, Bool.and_eq_true, beq_iff_eq] at hL
  obtain ⟨⟨⟨hc, hseg⟩, hphase⟩, hr⟩ := hL
  exact h ⟨hc, hseg, hphase, hr⟩

theorem filter_not_isLanding {c seg phase r : Nat} {l : List Landing} (h : ∀ L ∈ l, isLanding c seg phase r L = false) :
    l.filter (fun L => !(L.c == c && L.seg == seg && L.phase == phase && L.rank == r)) = l :=
  List.filter_eq_self.mpr fun L hL => congrArg (!·) (h L hL)

theorem find?_isLanding {c seg phase r : Nat} {l : List Landing} (h : ∀ L ∈ l, isLanding c seg phase r L = false) :
    l.find? (fun L => L.c == c && L.seg == seg && L.phase == phase && L.rank == r) = none :=
  List.find?_eq_none.mpr fun L hL hmine => Bool.false_ne_true ((h L hL).symm.trans hmine)

theorem hasLanded_polErr (w : W) (p k n c seg phase r : Nat) : (w.polErr p k n).d.hasLanded p c seg phase r = w.d.hasLanded p c seg phase r := by
  unfold Dev.hasLanded
  rw [coll_polErr]

theorem landAt_polErr (w : W) (p k n : Nat) (e : CEnt) (seg phase r : Nat) : (w.polErr p k n).d.landAt p e seg phase r = w.d.landAt p e seg phase r :=
  landAt_congr (landOff_polErr w p k n) e seg phase r

/-- What the last of the frames that a segment consists of says of it: here the only one. -/
def onlyFrame (f : Frame) : LandLast :=
  { num := 0, bytes := 0 * 4096 + f.payload.length, digest := fld (lastTrailer f) 0 8, flags := fld (lastTrailer f) 8 1, tag := f.tag }

/-- A segment of one frame as it lands. -/
def onlyLanding (c seg phase r : Nat) (f : Frame) : Landing :=
  { c := c, seg := seg, phase := phase, rank := r, got := [0], last := some (onlyFrame f) }

/-- Its bytes written where they land, before they are checked. -/
def landOnly (w : W) (p c seg phase r : Nat) (e : CEnt) (f : Frame) : W :=
  (w.write (w.d.landAt p e seg phase r) f.payload).modColl p fun K => { K with landings := K.landings ++ [onlyLanding c seg phase r f] }

theorem isLanding_onlyLanding (c seg phase r : Nat) (f : Frame) : isLanding c seg phase r (onlyLanding c seg phase r f) = true := by
  simp [isLanding, onlyLanding]

section

variable {w : W} {p c seg phase r num : Nat} {f : Frame} {fx : MemFx} (hc : f.addr % 2 ^ 16 = c) (hseg : bits f.addr 31 16 = seg)
  (hphase : bits f.addr 44 44 = phase) (hr : bits f.addr 43 32 = r) (hnum : bits f.addr 63 48 = num)
  (hland : w.d.hasLanded p c seg phase r = false)
  (hnew : ∀ L ∈ (w.d.pol p).coll.landings, isLanding c seg phase r L = false)

include hc hseg hphase hr hnum hland hnew

/-- The first frame of a segment to land, others being awaited. -/
theorem collLand_part (hlast : f.last = false) :
    w.collLand p f none fx =
      (((w.polErr p 2 (MemFx.spN fx)).write (w.d.landAt p (w.cent p c) seg phase r + num * 4096) f.payload).modColl p fun K => { K with
        landings := K.landings ++ [{ c := c, seg := seg, phase := phase, rank := r, got := [num] }] }).ackTo p f f.tag none := by
  subst hc hseg hphase hr hnum
  simp only [W.collLand, hasLanded_polErr, hland, coll_polErr, find?_isLanding hnew, landAt_polErr, hlast, Bool.false_eq_true, if_false, Option.getD_none]
  refine congrArg (W.ackTo · p f f.tag none) (modColl_congr ?_)
  rw [write_d, coll_polErr, filter_not_isLanding hnew]
  rfl

/-- The only frame of a segment to land: what is landed is checked against its digest. -/
theorem collLand_only (hlast : f.last = true) (hzero : num = 0) :
    w.collLand p f none fx = (landOnly (w.polErr p 2 (MemFx.spN fx)) p c seg phase r (w.cent p c) f).checkDigest p (w.cent p c) f none
      (onlyLanding c seg phase r f) (onlyFrame f) fx.fail := by
  subst hc hseg hphase hr hnum
  simp only [W.collLand, hasLanded_polErr, hland, coll_polErr, find?_isLanding hnew, hlast, hzero, Bool.false_eq_true, if_false, if_true,
    Option.getD_none]
  refine congrArg (W.checkDigest · p _ f none _ _ fx.fail) (modColl_congr ?_)
  rw [write_d, coll_polErr, filter_not_isLanding hnew]
  rfl

end

end Sys2Proof.Laws

/-! ## Digests of segments (R333) -/

namespace Sys2Proof.Laws

open Sys2Proof.Machine Sys2Proof.Claims

/-- What has been written reads back. -/
theorem read_write_same {w : W} (h : w.cur.wf = true) (a : Nat) (bs : Bytes) : (w.write a bs).read a bs.length = bs := by
  have hcur : (w.write a bs).cur = w.cur.apply (.write a bs) := by
    simp only [W.cur, W.write, Mem.applyAll, List.foldl_append, List.foldl_cons, List.foldl_nil]
  unfold W.read
  rw [hcur]
  refine List.ext_getElem (read_length _ _ _) fun i hi hi' => ?_
  rw [read_get a bs.length i (apply_wf _ h) hi', byte_write_in a bs i h hi']

theorem landAt_modColl (w : W) (p : Nat) (f : PolColl → PolColl) (e : CEnt) (seg phase r : Nat) :
    (w.modColl p f).d.landAt p e seg phase r = w.d.landAt p e seg phase r :=
  landAt_congr (by rw [W.modColl, pol_modPol]) e seg phase r

theorem filter_isLanding_singleton {c seg phase r : Nat} {L : Landing} (h : isLanding c seg phase r L = true) :
    [L].filter (fun L => !(L.c == c && L.seg == seg && L.phase == phase && L.rank == r)) = [] :=
  List.filter_eq_nil_iff.mpr fun M hM => by
    rw [List.mem_singleton.mp hM]
    exact fun hno => Bool.false_ne_true ((congrArg (!·) h).symm.trans hno)

/-- A segment whose landing was begun has landed as if it had not been begun. -/
theorem landed_modColl_append (w : W) (p c seg phase r flags : Nat) {L : Landing} (hL : isLanding c seg phase r L = true) :
    (w.modColl p fun K => { K with landings := K.landings ++ [L] }).landed p c seg phase r flags = w.landed p c seg phase r flags := by
  unfold W.landed
  simp only [modColl_modColl, List.filter_append, filter_isLanding_singleton hL, List.append_nil]

section

variable {w : W} {p c seg phase r : Nat} {e : CEnt} {f : Frame} (hcur : w.cur.wf = true)

include hcur

/-- The bytes of a segment of one frame, read back from where it landed. -/
theorem read_landOnly :
    (landOnly w p c seg phase r e f).read ((landOnly w p c seg phase r e f).d.landAt p e seg phase r) (onlyFrame f).bytes = f.payload := by
  have hbytes : (onlyFrame f).bytes = f.payload.length := by simp [onlyFrame]
  have hplace : (landOnly w p c seg phase r e f).d.landAt p e seg phase r = w.d.landAt p e seg phase r := landAt_modColl _ p _ e seg phase r
  rw [hbytes, hplace]
  exact read_write_same hcur _ _

/-- A segment of one frame whose digest is right has landed. -/
theorem checkDigest_right (hcrc : crc64 f.payload = fld (lastTrailer f) 0 8) :
    (landOnly w p c seg phase r e f).checkDigest p e f none (onlyLanding c seg phase r f) (onlyFrame f) .none =
      (((w.write (w.d.landAt p e seg phase r) f.payload).landed p c seg phase r (fld (lastTrailer f) 8 1)).ackTo p f f.tag none).collAll := by
  have hdigest : crc64 ((landOnly w p c seg phase r e f).read ((landOnly w p c seg phase r e f).d.landAt p e seg phase r) (onlyFrame f).bytes) =
      (onlyFrame f).digest := (congrArg crc64 (read_landOnly hcur)).trans hcrc
  have hlanded := landed_modColl_append (w.write (w.d.landAt p e seg phase r) f.payload) p c seg phase r (fld (lastTrailer f) 8 1)
    (isLanding_onlyLanding c seg phase r f)
  exact (if_pos ⟨hdigest, rfl⟩).trans (congrArg (fun v : W => (v.ackTo p f f.tag none).collAll) hlanded)

/-- A segment of one frame whose digest is wrong is asked for again. -/
theorem checkDigest_wrong (hnew : ∀ L ∈ (w.d.pol p).coll.landings, isLanding c seg phase r L = false)
    (hcrc : crc64 f.payload ≠ fld (lastTrailer f) 0 8) :
    (landOnly w p c seg phase r e f).checkDigest p e f none (onlyLanding c seg phase r f) (onlyFrame f) .none =
      (((w.write (w.d.landAt p e seg phase r) f.payload).polErr p 5 1).modColl p fun K => { K with
        landings := K.landings ++ [{ c := c, seg := seg, phase := phase, rank := r, retried := true }] }).sendCtl
          (nakFrame p f.src (f.addr % 2 ^ 32) 9 0) none := by
  have hdigest : ¬ (crc64 ((landOnly w p c seg phase r e f).read ((landOnly w p c seg phase r e f).d.landAt p e seg phase r) (onlyFrame f).bytes) =
      (onlyFrame f).digest ∧ MemFail.none = .none) := fun h => hcrc ((congrArg crc64 (read_landOnly hcur)).symm.trans h.1)
  refine (if_neg hdigest).trans ((if_neg Bool.false_ne_true).trans (congrArg (W.sendCtl · _ none) ?_))
  unfold landOnly
  rw [modColl_polErr, modColl_modColl]
  refine modColl_congr ?_
  rw [coll_polErr, write_d]
  refine congrArg (fun l => ({ (w.d.pol p).coll with landings := l ++ [{ c := c, seg := seg, phase := phase, rank := r, retried := true }] } : PolColl)) ?_
  have hgone := filter_isLanding_singleton (isLanding_onlyLanding c seg phase r f)
  exact (List.filter_append ..).trans ((congrArg₂ (· ++ ·) (filter_not_isLanding hnew) hgone).trans (List.append_nil _))

end

end Sys2Proof.Laws

/-! ## COLL_DATA (R331 to R334) -/

namespace Sys2Proof.Laws

open Sys2Proof.Machine Sys2Proof.Claims

/-- R334: a frame that the entry does not fit is rejected. -/
theorem collData_rejected {s : State} {n : Nat} {f : Frame} (fx : MemFx) (h : DataArrives s n f) (hok : s.w.collFrameOk f.dstPol f = false) :
    Runs (.collData n f fx) s ((coded s n f).collReject f.dstPol (f.addr % 2 ^ 16) 2 f.src) := by
  refine runs_settle ?_
  rw [collData_checked h, if_pos hok]

section

variable {s : State} {n p c seg phase r num : Nat} {f : Frame} {fx : MemFx} (h : DataArrives s n f) (hp : f.dstPol = p)
  (hc : f.addr % 2 ^ 16 = c) (hseg : bits f.addr 31 16 = seg) (hphase : bits f.addr 44 44 = phase) (hr : bits f.addr 43 32 = r)
  (hnum : bits f.addr 63 48 = num) (hok : s.w.collFrameOk p f = true) (hland : s.dev.hasLanded p c seg phase r = false)
  (hnew : ∀ L ∈ (s.dev.pol p).coll.landings, ¬ (L.c = c ∧ L.seg = seg ∧ L.phase = phase ∧ L.rank = r))

include h hp hok in
theorem collData_lands {w : W} (hw : (coded s n f).collLand p f none fx = w) : Runs (.collData n f fx) s w := by
  subst hp
  refine runs_settle ?_
  rw [collData_checked h, if_neg (by simp [hok]), hw]

include h hp hc hseg hphase hr hnum hok hland hnew

/-- R331: a frame that is not the last of its segment lands and is acknowledged. -/
theorem collData_part (hlast : f.last = false) : Runs (.collData n f fx) s
    (((((coded s n f).polErr p 2 (MemFx.spN fx)).write (s.dev.landAt p (s.w.cent p c) seg phase r + num * 4096) f.payload).modColl p fun K => { K with
      landings := K.landings ++ [{ c := c, seg := seg, phase := phase, rank := r, got := [num] }] }).ackTo p f f.tag none) := by
  have htable := (linkOnly_coded s n f).sameTable p
  refine collData_lands h hp hok ?_
  rw [collLand_part hc hseg hphase hr hnum ((htable.hasLanded c seg phase r).trans hland)
    (fun L hL => isLanding_eq_false (hnew L (htable.coll ▸ hL))) hlast, htable.cent, landAt_congr htable.landOff]
  rfl

omit h hp hok in
/-- What the only frame of a segment is checked on: the memories in canonical form, and where it lands. -/
theorem collData_only (hlast : f.last = true) (hzero : num = 0) (hfine : fx.fail = .none) (hmem : s.memOk) :
    (coded s n f).collLand p f none fx = (landOnly ((coded s n f).polErr p 2 (MemFx.spN fx)) p c seg phase r (s.w.cent p c) f).checkDigest p
        (s.w.cent p c) f none (onlyLanding c seg phase r f) (onlyFrame f) .none ∧
      ((coded s n f).polErr p 2 (MemFx.spN fx)).d.landAt p (s.w.cent p c) seg phase r = s.dev.landAt p (s.w.cent p c) seg phase r + num * 4096 ∧
      ((coded s n f).polErr p 2 (MemFx.spN fx)).cur.wf = true ∧
      ∀ L ∈ (((coded s n f).polErr p 2 (MemFx.spN fx)).d.pol p).coll.landings, isLanding c seg phase r L = false := by
  have htable := (linkOnly_coded s n f).sameTable p
  have hnew' : ∀ L ∈ ((coded s n f).d.pol p).coll.landings, isLanding c seg phase r L = false := fun L hL =>
    isLanding_eq_false (hnew L (htable.coll ▸ hL))
  refine ⟨?_, ?_, ?_, ?_⟩
  · rw [collLand_only hc hseg hphase hr hnum ((htable.hasLanded c seg phase r).trans hland) hnew' hlast hzero, htable.cent, hfine]
  · rw [landAt_polErr, landAt_congr htable.landOff, hzero]
    rfl
  · have hcur : ((coded s n f).polErr p 2 (MemFx.spN fx)).cur = s.mem := by
      show (coded s n f).base.applyAll (coded s n f).ops = s.mem
      rw [htable.base, htable.ops]
      rfl
    rw [hcur]; exact hmem
  · rw [coll_polErr]; exact hnew'

/-- R333: a segment of one frame whose digest is right has landed. -/
theorem collData_right (hlast : f.last = true) (hzero : num = 0) (hfine : fx.fail = .none) (hcrc : crc64 f.payload = fld (lastTrailer f) 0 8)
    (hmem : s.memOk) : Runs (.collData n f fx) s
    ((((((coded s n f).polErr p 2 (MemFx.spN fx)).write (s.dev.landAt p (s.w.cent p c) seg phase r + num * 4096) f.payload).landed p c seg phase r
      (fld (lastTrailer f) 8 1)).ackTo p f f.tag none).collAll) := by
  obtain ⟨heq, hplace, hcur, -⟩ := collData_only hc hseg hphase hr hnum hland hnew hlast hzero hfine hmem
  refine collData_lands h hp hok ?_
  rw [heq, checkDigest_right hcur hcrc, hplace]

/-- R333: one whose digest is wrong is asked for again. -/
theorem collData_wrong (hlast : f.last = true) (hzero : num = 0) (hfine : fx.fail = .none) (hcrc : crc64 f.payload ≠ fld (lastTrailer f) 0 8)
    (hmem : s.memOk) : Runs (.collData n f fx) s
    ((((((coded s n f).polErr p 2 (MemFx.spN fx)).write (s.dev.landAt p (s.w.cent p c) seg phase r + num * 4096) f.payload).polErr p 5 1).modColl p
      fun K => { K with landings := K.landings ++ [{ c := c, seg := seg, phase := phase, rank := r, retried := true }] }).sendCtl
        (nakFrame p f.src (f.addr % 2 ^ 32) 9 0) none) := by
  obtain ⟨heq, hplace, hcur, hnew'⟩ := collData_only hc hseg hphase hr hnum hland hnew hlast hzero hfine hmem
  refine collData_lands h hp hok ?_
  rw [heq, checkDigest_wrong hcur hnew' hcrc, hplace]

end

end Sys2Proof.Laws

/-! ## COLL steps (R330) -/

namespace Sys2Proof.Laws

open Sys2Proof.Machine Sys2Proof.Claims

/-- A wanted step at the head of its queue, its tokens there, is issued. -/
theorem issue_headStep {s : State} {p d q : Nat} {j : Job} {b : Bytes} (hhead : s.w.headStep p d q = some (j, b))
    (hwaits : tokensReady (s.dev.die (j.site d)).tokens ((j.queue d q).needs (stepWaits b)) = true) (want : Bytes → Bool) (hw : want b = true)
    (f : W → Job → Bytes → W) : s.w.issue p d q want f = f (s.taken p d q j b) j b := by
  simp [W.issue, hhead, hw, hwaits, State.taken]

theorem runningJob_taken {s : State} {p d q : Nat} {j : Job} {b : Bytes} (hhead : s.w.headStep p d q = some (j, b)) :
    (s.taken p d q j b).d.runningJob p = some (j.setQueue d q fun Q => Q.issue q) :=
  runningJob_modJob _ ((runningJob_modDie _ _).trans (headStep_job hhead)) (runningJob_job (headStep_job hhead)).2

/-- The issue of a step leaves what its collective finds. -/
theorem sameTable_taken (s : State) (p d q : Nat) (j : Job) (b : Bytes) : SameTable p s.w (s.taken p d q j b) := by
  have hpol : ∃ J, ((s.taken p d q j b).d.pol p) = { s.dev.pol p with job := J } := ⟨_, pol_modPol _ p _⟩
  obtain ⟨J, hJ⟩ := hpol
  exact ⟨rfl, rfl, rfl, by rw [hJ]; rfl, by rw [hJ]; rfl⟩

theorem counted_runs {s : State} {p d q k : Nat} {j : Job} {b : Bytes} (hrows : s.rowsAre j d b 1 (fld b 0xC 2 + 1) k) (hk : 0 < k) (f : W → W) :
    (s.taken p d q j b).counted p d q j b f = f (s.taken p d q j b) := by
  obtain ⟨m, rfl⟩ : ∃ m, k = m + 1 := ⟨k - 1, by omega⟩
  simp only [W.counted, rowsOf_ok hrows]

section

variable {v w : W} (hbase : v.base = w.base) (hops : v.ops = w.ops)

include hbase hops

theorem tileChip_congr (hchip : v.d.hub.chip = w.d.hub.chip) (j : Job) (t : Tile) : v.tileChip j t = w.tileChip j t := by
  unfold W.tileChip W.argKind W.imgFld W.img
  rw [hchip, read_congr hbase hops]

theorem readDev_congr (hreach : SameReach w.d v.d) (a n : Nat) : v.readDev a n = w.readDev a n := by
  simp only [W.readDev, W.code, read_congr hbase hops, (hreach.pols _).home]

/-- A tile that no page table translates reads by its bytes and who reaches them. -/
theorem readTile_congr (hreach : SameReach w.d v.d) (p : Nat) (j : Job) {t : Tile} (ht : t.paged = false) (a n : Nat) :
    v.readTile p j t a n = w.readTile p j t a n := by
  have hpieces : ∀ u : W, u.pieces p j t false a n = ([(localPart a, n)], none) := fun u => by simp [W.pieces, ht]
  simp only [W.readTile, W.readTo, hpieces, W.reachedBytes, hreach.reach, readDev_congr hbase hops hreach]

end

/-- A COLL step at the head of its queue that its tokens and its count let begin. -/
structure CollReady (s : State) (p d q k : Nat) (j : Job) (b : Bytes) : Prop where
  head : s.w.headStep p d q = some (j, b)
  waits : tokensReady (s.dev.die (j.site d)).tokens ((j.queue d q).needs (stepWaits b)) = true
  kind : stepKind b = 4
  op : stepOp b = 3
  rows : s.rowsAre j d b 1 (fld b 0xC 2 + 1) k
  some : 0 < k

/-- What R330 asks of a COLL step's entry and of its two descriptors. -/
def collFits (s : State) (p d : Nat) (j : Job) (b : Bytes) : Prop :=
  (s.dev.pol p).coll.valid = true ∧ fld b 0x10 2 ≤ (s.dev.pol p).coll.count ∧ fld b 0x12 2 < (s.w.cent p (fld b 0x10 2)).nseg ∧
    collTileOk (s.w.tile j d (fld b 8 2)) (s.w.cent p (fld b 0x10 2)).fmt (s.w.cent p (fld b 0x10 2)).seg = true ∧
    collTileOk (s.w.tile j d (fld b 0xA 2)) (s.w.cent p (fld b 0x10 2)).outFmt (s.w.cent p (fld b 0x10 2)).recvSlot = true

theorem collFits_iff (s : State) (p d : Nat) (j : Job) (b : Bytes) :
    collFits s p d j b ↔ (!(s.dev.pol p).coll.valid || decide (fld b 0x10 2 > (s.dev.pol p).coll.count) ||
      decide (fld b 0x12 2 ≥ (s.w.cent p (fld b 0x10 2)).nseg) ||
      !collTileOk (s.w.tile j d (fld b 8 2)) (s.w.cent p (fld b 0x10 2)).fmt (s.w.cent p (fld b 0x10 2)).seg ||
      !collTileOk (s.w.tile j d (fld b 0xA 2)) (s.w.cent p (fld b 0x10 2)).outFmt (s.w.cent p (fld b 0x10 2)).recvSlot) = false := by
  simp [collFits, and_assoc]

/-- A step whose table or descriptors do not fit faults. -/
theorem coll_faults {s : State} {p d q k : Nat} {j : Job} {b : Bytes} (fx : MemFx) (h : CollReady s p d q k j b) (hfits : ¬ collFits s p d j b) :
    Runs (.coll p d q fx) s ((s.taken p d q j b).stepFault p d q stINDEX_RANGE 0) := by
  have htable := sameTable_taken s p d q j b
  have htile : ∀ i, (s.taken p d q j b).tile j d i = s.w.tile j d i := tile_congr rfl rfl j d
  rw [collFits_iff, Bool.not_eq_false] at hfits
  refine runs_settle ?_
  show execColl p d q fx s = _
  simp only [execColl, run_def]
  rw [issue_headStep h.head h.waits _ (by simp [h.kind, h.op])]
  simp only [counted_runs h.rows h.some, htable.coll, htable.cent, htile, w_d, hfits, if_true]

/-- The transfers of a member's contribution, each made by `g` of its rank, offset and length. -/
theorem contributions_map {α : Type} (e : CEnt) (seg : Nat) (g : Nat → Nat → Nat → α) :
    (contributions e seg).map (fun x => g x.1 x.2.1 x.2.2) =
      match e.op with
      | 1 => [g (seg % e.n) 0 e.seg]
      | 2 => [g (seg % e.n) 0 e.seg]
      | 4 => (List.range e.n).map fun t => g t (t * e.blockLen) e.blockLen
      | 5 => if e.me = e.root then (List.range e.n).map fun t => g t 0 e.seg else []
      | _ => (List.range e.n).map fun t => g t 0 e.seg := by
  by_cases h1 : e.op = 1
  · simp [contributions, h1]
  by_cases h2 : e.op = 2
  · simp [contributions, h2]
  by_cases h4 : e.op = 4
  · simp [contributions, h4, CEnt.blockLen, Function.comp_def]
  by_cases h5 : e.op = 5
  · by_cases hroot : e.me = e.root <;> simp [contributions, h5, hroot, Function.comp_def]
  · simp [contributions, Function.comp_def]

section

variable {s : State} {p d q k : Nat} {j : Job} {b : Bytes} {fx : MemFx} {bs : Bytes} {e : CEnt} {src dst : Tile} (h : CollReady s p d q k j b)
  (he : s.w.cent p (fld b 0x10 2) = e) (hs : s.w.tile j d (fld b 8 2) = src) (hd : s.w.tile j d (fld b 0xA 2) = dst)

/-- What a COLL step reads of its source: nothing where only the root's counts, else its segment. -/
theorem coll_reads (hpaged : src.paged = false) (hreads : e.op = 5 ∧ e.me ≠ e.root ∧ bs = [] ∨
      (e.op ≠ 5 ∨ e.me = e.root) ∧ s.w.readTile p j src (j.tileAddr src % 2 ^ 48) e.seg = .ok bs) :
    (if e.op != 5 || e.me == e.root then (s.issued p d q j b fx).readTile p j src (j.tileAddr src % 2 ^ 48) e.seg else .ok []) = .ok bs := by
  obtain ⟨hbase, hops⟩ := issued_mem s p d q j b fx
  rcases hreads with ⟨hop, hme, rfl⟩ | ⟨hop, hok⟩
  · exact if_neg (by simp [hop, hme])
  · rw [if_pos (by rcases hop with hop | hop <;> simp [hop]), readTile_congr (w := s.w) hbase hops (sameReach_issued s p d q j b fx) p j hpaged]
    exact hok

include h he hs hd in
/-- A step that fits sends what its OP asks and waits for its result. -/
theorem coll_begins (hfits : collFits s p d j b) (hfailed : (s.dev.pol p).coll.failed.find? (fun x => x.1 == fld b 0x10 2) = none)
    (hsrc : (s.w.endOf j src).chip = none) (hdst : (s.w.endOf j dst).chip = none) (hfine : fx.fail = .none)
    (hreads : e.op = 5 ∧ e.me ≠ e.root ∧ bs = [] ∨
      (e.op ≠ 5 ∨ e.me = e.root) ∧ s.w.readTile p j src (j.tileAddr src % 2 ^ 48) e.seg = .ok bs) :
    Runs (.coll p d q fx) s ((((s.issued p d q j b fx).modColl p fun K => { K with
      steps := K.steps ++ [{ c := fld b 0x10 2, seg := fld b 0x12 2, ldie := d, q := q, pos := (j.queue d q).pos
                             dst := j.tileAddr dst % 2 ^ 48, waiting := true }]
      sends := K.sends ++ (contributions e (fld b 0x12 2)).map fun x =>
        { c := fld b 0x10 2, seg := fld b 0x12 2, phase := 0, rank := x.1, bytes := slice bs x.2.1 x.2.2
          src := some (j.tileAddr src % 2 ^ 48 + x.2.1), info := 0 }
      begun := K.begun ++ [(fld b 0x10 2, fld b 0x12 2)] }).modJob p fun j => j.setQueue d q fun Q => { Q with coll := true }).collAll) := by
  have htable := sameTable_taken s p d q j b
  have htile : ∀ i, (s.taken p d q j b).tile j d i = s.w.tile j d i := tile_congr rfl rfl j d
  have hsrc' : ((s.taken p d q j b).endOf j src).chip = none := (tileChip_congr (w := s.w) rfl rfl rfl j src).trans hsrc
  have hdst' : ((s.taken p d q j b).endOf j dst).chip = none := (tileChip_congr (w := s.w) rfl rfl rfl j dst).trans hdst
  have hpaged : src.paged = false := by
    obtain ⟨-, -, -, hok, -⟩ := hfits
    rw [hs] at hok
    simp only [collTileOk, Bool.and_eq_true, Bool.not_eq_true'] at hok
    obtain ⟨⟨⟨⟨-, hpaged⟩, -⟩, -⟩, -⟩ := hok
    exact hpaged
  have hgot := coll_reads (d := d) (q := q) (fx := fx) (b := b) hpaged hreads
  have hfits' := (collFits_iff s p d j b).mp hfits
  rw [he, hs, hd] at hfits'
  have hissued : (s.taken p d q j b).jobFx p fx = s.issued p d q j b fx := rfl
  refine runs_settle ?_
  show execColl p d q fx s = _
  simp only [execColl, run_def]
  rw [issue_headStep h.head h.waits _ (by simp [h.kind, h.op])]
  simp only [counted_runs h.rows h.some, htable.coll, htable.cent, htile, w_d, he, hs, hd, hfits', Bool.false_eq_true, if_false, hfailed, hsrc', hdst',
    Option.isSome_none, Bool.or_self, withFx_fine (runningJob_taken h.head) hfine, hissued, hgot]
  rw [contributions_map e (fld b 0x12 2) fun t off n =>
    ({ c := fld b 0x10 2, seg := fld b 0x12 2, phase := 0, rank := t, bytes := slice bs off n, src := some (j.tileAddr src % 2 ^ 48 + off)
       info := 0 } : CollSend)] <;> rfl

end

end Sys2Proof.Laws

/-! ## Collectives (R326 to R336) -/

namespace Sys2Proof.Laws

open Sys2Proof.Machine Sys2Proof.Claims

/-- Settles O51: the table, the COLL step, the sum, and the three frames of collectives, each by its own lemma. -/
theorem collectives : Obligations.Collectives := by
  refine ⟨?table, ?busy, ?step, ?sum, ?frames⟩
  case table =>
    intro s fn p v h n base w err ⟨hjob, hv⟩
    have hmod : v % 2 ^ 64 = v := Nat.mod_eq_of_lt hv
    refine ⟨fun hclear => ?_, fun hset halign hregion hreach => ?_⟩
    · exact polColl_runs h (by rw [hmod]; exact polColl_clear hjob hclear)
    · obtain ⟨x, y, hregion⟩ := hregion
      refine ⟨fun hall => ?_, fun c hc hne hle => ?_⟩
      · exact polColl_runs h (by rw [hmod]; exact polColl_valid hjob hset halign hregion hreach hall)
      · exact polColl_runs h (by rw [hmod]; exact polColl_err hjob hset halign hregion hreach hc hne hle)
  case busy =>
    intro s fn p v h hjob
    exact polColl_runs h (polColl_job hjob)
  case step =>
    intro s p d q k j b fx hhead hwaits hkind hop hrows hk c seg K e src dst fits
    have hready : CollReady s p d q k j b := ⟨hhead, hwaits, hkind, hop, hrows, hk⟩
    exact ⟨fun hfits => coll_faults fx hready hfits, fun hfits hfailed hsrc hdst hfine bs hreads =>
      coll_begins hready rfl rfl rfl hfits hfailed hsrc hdst hfine hreads⟩
  case sum =>
    intro s p c seg j hrun hvalid hc e hop hmine hall hfree
    exact segmentReduce_runs hrun hvalid hc hop hmine hall hfree
  case frames =>
    intro s n f fx harrives hready hcode p K
    refine ⟨?data, ?credit, ?abort⟩
    case data =>
      intro hkind hrsvd hgoes hlen hinfo c seg phase r num e place w
      have hdata : DataArrives s n f := ⟨harrives, hready, hcode, hkind, hrsvd, hlen, hinfo, hgoes⟩
      refine ⟨fun hbad => collData_rejected fx hdata hbad, fun hok hland hnew => ⟨fun hlast => ?_, fun hlast hzero hfine => ⟨fun hcrc hmem => ?_,
        fun hcrc hmem => ?_⟩⟩⟩
      · exact collData_part hdata rfl rfl rfl rfl rfl rfl hok hland hnew hlast
      · exact collData_right hdata rfl rfl rfl rfl rfl rfl hok hland hnew hlast hzero hfine hcrc hmem
      · exact collData_wrong hdata rfl rfl rfl rfl rfl rfl hok hland hnew hlast hzero hfine hcrc hmem
    case credit =>
      intro hkind hlen hrsvd
      exact collCredit_runs harrives hready hcode hkind hlen hrsvd
    case abort =>
      intro hkind hlen hvalid v hrsvd hhigh hc
      exact collAbort_runs harrives hready hcode hkind hlen hvalid hrsvd hhigh hc

end Sys2Proof.Laws

/-! ## The checks of a pass read its operands' formats after its result is written (R78, R159) -/

namespace Sys2Proof.Laws

open Sys2Proof.Machine Sys2Proof.Claims

/-- Where the image of `ownTileJob` stands: the stack of site 1, in no image slot, so that no seal keeps a step from writing on it (R159). -/
def ownTileImg : Nat := stackBase 1 + 0x10000

/-- An ARRAY step: MATMUL over 32 elements, two K-blocks of 16, the only pass of a tile of one element; operands 0 and 1, result 2. -/
def ownTileStep : Bytes :=
  toLe 8 (0x100 + ArrOp.matmul.code) ++ toLe 2 0 ++ toLe 2 1 ++ toLe 2 2 ++ zeros 10 ++ toLe 4 32 ++ toLe 4 (2 ^ 10 + 2 ^ 12 + 2 ^ 13)

/-- An image of one die and one segment, its one step in array queue 7. Operand 0 is BF16 and operand 1 is GS-INT4 in groups of 32, one row of 32 zeros each;
the result is one FP32 element, placed on the descriptor of operand 0. -/
def ownTileMem : Mem := Mem.applyAll []
  [.write (ownTileImg + 0x24) (toLe 4 0x40 ++ toLe 4 0x60), .write (ownTileImg + 0x40) (toLe 4 0x100), .write (ownTileImg + 0x60) (toLe 4 0x80),
   .write (ownTileImg + 0xB8) (toLe 4 0x200 ++ toLe 4 1), .write (ownTileImg + 0x102) [1], .write (ownTileImg + 0x110) [31],
   .write (ownTileImg + 0x122) [0x18], .write (ownTileImg + 0x130) [31], .write (ownTileImg + 0x140) (toLe 4 16 ++ toLe 6 0x10100),
   .write (ownTileImg + 0x200) ownTileStep]

def ownTileJob : Job := { ring := none, dies := [1], img := ownTileImg, len := 0x220 }

def ownTileState : State :=
  { mem := ownTileMem, dev := { pols := [(0, { st := 2, dies := 2, job := some ownTileJob })], dies := [(1, { stack := 3 })] } }

/-- The one row of each operand. -/
def ownTileA : OpRow := { codes := List.replicate 32 0, scales := [] }
def ownTileB : OpRow := { codes := List.replicate 32 0, scales := [0, 0] }

/-- The checksum column comes out one too large in the second K-block. -/
def secondBlockErr : ArrErr := { j := 1, err := .column 0 1 }

theorem ownTile_ready : PassReady ownTileState .matmul 0 0 7 ownTileJob ownTileStep {} 1 1 [ownTileA] [ownTileB] where
  ready := ⟨by unfold State.memOk; decide +kernel, by decide +kernel, by decide +kernel, rfl⟩
  kind := by decide +kernel
  code := by decide +kernel
  array := by decide
  rows := by decide
  cols := by decide
  dims := beq_iff_eq.mp (by decide +kernel)
  reads := by decide +kernel

/-- As the operands stand when the pass reads them, its second K-block mismatches. -/
theorem ownTile_mismatches : passChecks .matmul (ownTileState.w.tile ownTileJob 0 0).f (ownTileState.w.tile ownTileJob 0 1).f (ownTileJob.ftzOf 0)
    (passOf ownTileStep) [ownTileA] [ownTileB] [(1, .column 0 1)] ≠ [] := by decide +kernel

/-- The result makes operand 0 an FP32 one: over K-blocks of 32 there is no second one, and the pass is not held. -/
theorem ownTile_no_episode : ((ownTileState.w.arrayStep .matmul 0 0 7 {} [secondBlockErr]).d.die 1).episodes = [] := by decide +kernel

theorem ownTile_writable : ∀ x ∈ (passCompute .matmul (ownTileState.w.tile ownTileJob 0 0).f (ownTileState.w.tile ownTileJob 0 1).f (ownTileJob.ftzOf 0)
    (passOf ownTileStep) 1 1 (ownTileState.dev.array 1 7) [ownTileA] [ownTileB] [(1, .column 0 1)]).rows.zipIdx.map (fun (c, i) =>
      (ownTileJob.rowAddr (ownTileState.w.tile ownTileJob 0 2) i, pack (ownTileState.w.tile ownTileJob 0 2).f.w c)),
    ownTileState.dev.reach .dma 0 (localPart x.1) x.2.length true = (x.2.length, none) := by decide +kernel

/-- Refutes O13: the checkers take the formats of the operands from the image as it stands after the result is written. Where no seal keeps the result off
the image (R159), it can turn a BF16 operand into an FP32 one; the K-blocks are then counted anew, the one that mismatched is none of them, and no episode
opens for it. -/
theorem not_mismatchHoldsThePass : ¬ Obligations.MismatchHoldsThePass := by
  intro h
  obtain ⟨t, ht, -, -, -, -, hepisodes, -⟩ := h (Instr.matmul, .matmul) List.mem_cons_self ownTileState 0 0 7 1 1 ownTileJob ownTileStep {} [ownTileA]
    [ownTileB] [secondBlockErr] ownTile_ready (by decide) ownTile_mismatches ownTile_writable
  cases ht
  have hnone : _ = [] := hepisodes.symm.trans ownTile_no_episode
  exact ownTile_mismatches (List.map_eq_nil_iff.mp (List.append_eq_nil_iff.mp hnone).2)

end Sys2Proof.Laws

/-! ## Releases (R61, R171, R173) -/

namespace Sys2Proof.Laws

open Sys2Proof.Machine

@[simp] theorem queue_setQueue (j : Job) (d q : Nat) (f : Queue → Queue) : (j.setQueue d q f).queue d q = f (j.queue d q) := tget_tmod_same _ _ _ _

theorem setQueue_setQueue (j : Job) (d q : Nat) (f g : Queue → Queue) :
    (j.setQueue d q f).setQueue d q g = j.setQueue d q fun Q => g (f Q) := by
  unfold Job.setQueue
  rw [tmod_tmod]

theorem modJob_modJob (w : W) (p : Nat) (f g : Job → Job) : (w.modJob p f).modJob p g = w.modJob p fun j => g (f j) := by
  unfold W.modJob
  rw [modPol_modPol]
  simp only [Option.map_map, Function.comp_def]

theorem modDie_modDie (w : W) (i : Nat) (f g : Die → Die) : (w.modDie i f).modDie i g = w.modDie i fun D => g (f D) := by
  have hdie := die_modDie w i f
  unfold W.modDie at hdie ⊢
  simp only [hdie, tset_tset]

/-- What is done to a job and to a die are apart. -/
theorem modJob_modDie (w : W) (p i : Nat) (f : Job → Job) (g : Die → Die) : (w.modJob p f).modDie i g = (w.modDie i g).modJob p f := rfl

theorem now_of_engine {q : Nat} (hq : 8 ≤ q) (Q : Queue) : Q.now q = Q.pos := if_neg (by omega)

theorem done_of_engine {q : Nat} (hq : 8 ≤ q) : (fun Q : Queue => Q.done q) = fun Q => { pos := Q.pos + 1 } :=
  funext fun _ => if_neg (by omega)

/-- The step that was issued last stood at the head of the queue. -/
theorem now_issue (Q : Queue) (q : Nat) : (Q.issue q).now q = Q.pos := by
  unfold Queue.issue Queue.now
  split <;> simp

theorem headStep_bytes {w : W} {p d q : Nat} {j : Job} {b : Bytes} (h : w.headStep p d q = some (j, b)) :
    w.stepBytes j j.seg d q (j.queue d q).pos = b := by
  unfold W.headStep at h
  split at h
  · cases h
  · split at h
    · cases h
    · dsimp only at h
      split at h
      · cases h
      · simp only [Option.some.injEq, Prod.mk.injEq] at h
        obtain ⟨rfl, hb⟩ := h
        exact hb

/-- Only a MOVE has a remote token. -/
theorem remoteToken_none (w : W) (j : Job) (d : Nat) {b : Bytes} (h : stepKind b ≠ 4) : w.remoteToken j d b = none :=
  if_neg fun hmove => h hmove.1

theorem signalStep_no_remote (w : W) (j : Job) (d : Nat) {b : Bytes} (h : stepKind b ≠ 4) :
    w.signalStep j d b = w.modDie (j.site d) fun D => { D with tokens := addTokens D.tokens (stepSignals b) } := by
  unfold W.signalStep
  simp only [remoteToken_none _ _ _ h]

/-- A step that is issued, and released at once. -/
theorem releaseStep_taken {s : State} {p d q : Nat} {j : Job} {b : Bytes} (hhead : s.w.headStep p d q = some (j, b)) :
    (s.taken p d q j b).releaseStep p d q = ((s.taken p d q j b).signalStep j d b).modJob p fun j => j.setQueue d q fun Q => Q.done q := by
  have hbytes : (s.taken p d q j b).stepBytes (j.setQueue d q fun Q => Q.issue q) j.seg d q (j.queue d q).pos = b := headStep_bytes hhead
  have hseg : (j.setQueue d q fun Q => Q.issue q).seg = j.seg := rfl
  unfold W.releaseStep
  simp only [runningJob_taken hhead, queue_setQueue, now_issue, hseg, hbytes]
  rfl

/-- Settles O47: an engine's step, a pass in flight, and a NOP. -/
theorem stepsRelease : Obligations.StepsRelease := by
  refine ⟨fun s p d q n j hj hd => ⟨fun hq hbusy hops hcoll => ?engine, fun hq f hf hheld => ?pass⟩, ?nop⟩
  case engine =>
    have hexec : exec (.stepRelease p d q n) s = .next (s.commit (s.w.releaseStep p d q)) := by
      show execStepRelease p d q n s = _
      simp [execStepRelease, hj, hbusy, hops, hcoll, Nat.not_le.mpr hd, Nat.not_lt.mpr hq]
    unfold Exactly
    rw [hexec, W.releaseStep, w_d, hj]
    simp only [now_of_engine hq, done_of_engine hq]
    rfl
  case pass =>
    have hexec : exec (.stepRelease p d q n) s = .next (s.commit (s.w.releaseFlight p d q n)) := by
      show execStepRelease p d q n s = _
      simp [execStepRelease, hj, Nat.not_le.mpr hd, hq]
    unfold Exactly
    rw [hexec, W.releaseFlight, w_d, hj]
    simp only [hf, hheld, Bool.false_eq_true, if_false]
    rfl
  case nop =>
    intro s p d q j b hhead need hready hkind
    have hexec : exec (.nopStep p d q) s = .next (s.commit ((s.taken p d q j b).releaseStep p d q)) := by
      show execNopStep p d q s = _
      rw [execNopStep, run_def, issue_headStep hhead hready _ (by simp [hkind])]
    unfold Exactly
    rw [hexec, releaseStep_taken hhead, signalStep_no_remote _ _ _ (by omega), State.taken, modJob_modDie, modDie_modDie, modJob_modJob]
    simp only [setQueue_setQueue]
    rfl

end Sys2Proof.Laws

/-! ## What the end of a check episode leaves as it was (R366 to R373) -/

namespace Sys2Proof.Laws

open Sys2Proof.Machine

/-- `b` is `a` with the marks of its arrays and its evidence as they were: of a die, only what its arrays hold, its flags, its tests, its episodes and the power
of its spare may differ, and a spare in service keeps its power. -/
structure MarksKept (a b : Dev) : Prop where
  dies : ∀ i, b.die i = { a.die i with
    arrays := (b.die i).arrays, flags := (b.die i).flags, test := (b.die i).test, spareOn := (b.die i).spareOn, episodes := (b.die i).episodes }
  spare : ∀ i, (a.die i).spareServes = true → (a.die i).spareOn = true → (b.die i).spareOn = true
  evids : b.evids = a.evids
  evidSeq : b.hub.evidSeq = a.hub.evidSeq

/-- The same, with the episodes as they were. -/
structure EpisodesKept (a b : Dev) : Prop extends MarksKept a b where
  episodes : ∀ i, (b.die i).episodes = (a.die i).episodes

namespace MarksKept

variable {a b c : Dev}

theorem quar (h : MarksKept a b) (i : Nat) : (b.die i).quar = (a.die i).quar := by rw [h.dies]
theorem chkq (h : MarksKept a b) (i : Nat) : (b.die i).chkq = (a.die i).chkq := by rw [h.dies]
theorem lmap (h : MarksKept a b) (i : Nat) : (b.die i).lmap = (a.die i).lmap := by rw [h.dies]
theorem withdraw (h : MarksKept a b) (i : Nat) : (b.die i).withdraw = (a.die i).withdraw := by rw [h.dies]
theorem withdrawn (h : MarksKept a b) (i : Nat) : (b.die i).withdrawn = (a.die i).withdrawn := by rw [h.dies]

theorem spareServes (h : MarksKept a b) (i : Nat) : (b.die i).spareServes = (a.die i).spareServes := by
  unfold Die.spareServes
  rw [h.lmap]

theorem trans (h : MarksKept a b) (k : MarksKept b c) : MarksKept a c where
  dies i := by rw [k.dies i, h.dies i]
  spare i hserves hon := k.spare i ((h.spareServes i).trans hserves) (h.spare i hserves hon)
  evids := k.evids.trans h.evids
  evidSeq := k.evidSeq.trans h.evidSeq

end MarksKept

namespace EpisodesKept

variable {a b c : Dev}

theorem trans (h : EpisodesKept a b) (k : EpisodesKept b c) : EpisodesKept a c :=
  ⟨h.toMarksKept.trans k.toMarksKept, fun i => (k.episodes i).trans (h.episodes i)⟩

theorem of_dies (hdie : ∀ i, b.die i = a.die i) (hevids : b.evids = a.evids) (hseq : b.hub.evidSeq = a.hub.evidSeq) : EpisodesKept a b :=
  ⟨⟨fun i => by rw [hdie], fun i _ hon => by rw [hdie]; exact hon, hevids, hseq⟩, fun i => by rw [hdie]⟩

theorem refl (a : Dev) : EpisodesKept a a := of_dies (fun _ => rfl) rfl rfl

theorem each {α : Type} (l : List α) (f : W → α → W) (h : ∀ w x, EpisodesKept w.d (f w x).d) (w : W) : EpisodesKept w.d (w.each l f).d := by
  unfold W.each
  induction l generalizing w with
  | nil => exact refl _
  | cons x l ih => exact (h w x).trans (ih (f w x))

end EpisodesKept

theorem marksKept_modDie (w : W) (s : Nat) (f : Die → Die)
    (hf : ∀ D, f D = { D with arrays := (f D).arrays, flags := (f D).flags, test := (f D).test, spareOn := (f D).spareOn, episodes := (f D).episodes })
    (hspare : ∀ D, D.spareServes = true → D.spareOn = true → (f D).spareOn = true) : MarksKept w.d (w.modDie s f).d := by
  have hdie : ∀ i, (w.modDie s f).d.die i = w.d.die i ∨ (w.modDie s f).d.die i = f (w.d.die i) := by
    intro i
    by_cases e : i = s
    · subst e; exact .inr (die_modDie _ _ _)
    · exact .inl (die_modDie_ne _ _ _ _ e)
  refine ⟨fun i => ?_, fun i hserves hon => ?_, rfl, rfl⟩
  · obtain h | h := hdie i <;> rw [h]
    exact hf _
  · obtain h | h := hdie i <;> rw [h]
    · exact hon
    · exact hspare _ hserves hon

theorem episodesKept_modDie (w : W) (s : Nat) (f : Die → Die)
    (hf : ∀ D, f D = { D with arrays := (f D).arrays, flags := (f D).flags, test := (f D).test, spareOn := (f D).spareOn })
    (hspare : ∀ D, D.spareServes = true → D.spareOn = true → (f D).spareOn = true) : EpisodesKept w.d (w.modDie s f).d := by
  refine ⟨marksKept_modDie w s f (fun D => ?_) hspare, fun i => ?_⟩
  · rw [hf D]
  · by_cases e : i = s
    · subst e; rw [die_modDie, hf]
    · rw [die_modDie_ne _ _ _ _ e]

/-- What is done to polders alone leaves the dies as they were. -/
theorem episodesKept_modPol (w : W) (p : Nat) (f : Pol → Pol) : EpisodesKept w.d (w.modPol p f).d := .of_dies (fun _ => rfl) rfl rfl

theorem episodesKept_modJob (w : W) (p : Nat) (f : Job → Job) : EpisodesKept w.d (w.modJob p f).d := episodesKept_modPol _ _ _

theorem hubErr_kept (w : W) (k n : Nat) : EpisodesKept w.d (w.hubErr k n).d := .of_dies (fun _ => rfl) rfl rfl

theorem stepFault_kept (w : W) (p d q status detail info : Nat) : EpisodesKept w.d (w.stepFault p d q status detail info).d :=
  episodesKept_modJob _ _ _

theorem Quiet.die {w v : W} (h : Quiet w v) (i : Nat) : v.d.die i = w.d.die i := by
  rw [h.dev.rest]
  rfl

theorem Quiet.job {w v : W} (h : Quiet w v) (p : Nat) : (v.d.pol p).job = (w.d.pol p).job := by rw [h.dev.pols]

theorem Quiet.episodesKept {w v : W} (h : Quiet w v) : EpisodesKept w.d v.d :=
  .of_dies h.die (by rw [h.dev.rest]) (by rw [h.dev.hub])

theorem spareRest_kept (w : W) (s : Nat) : EpisodesKept w.d (w.spareRest s).d :=
  episodesKept_modDie w s _ (fun _ => rfl) fun D hserves hon => by simp [hserves, hon]

theorem raiseFlags_kept (w : W) (p d q fl : Nat) : EpisodesKept w.d (w.raiseFlags p d q fl).d := by
  unfold W.raiseFlags
  split
  · exact .refl _
  · exact episodesKept_modDie _ _ _ (fun _ => rfl) fun _ _ hon => hon

/-- Writing leaves the device as it was, wherever it ends. -/
theorem putAll_d (w : W) (p : Nat) (l : List (Nat × Bytes)) : (w.putAll p l).1.d = w.d := by
  induction l generalizing w with
  | nil => rfl
  | cons x l ih =>
    obtain ⟨a, bs⟩ := x
    have hput : (w.putBytes p a bs).1.d = w.d := by
      unfold W.putBytes
      split
      · rfl
      · split <;> rfl
    rcases hv : w.putBytes p a bs with ⟨v, _ | e⟩ <;> rw [hv] at hput
    · simp only [W.putAll, hv, ih]
      exact hput
    · simp only [W.putAll, hv]
      exact hput

theorem passEffect_kept {w v : W} {p d q : Nat} {j : Job} {b : Bytes} {f : Flight} {ra rb : List OpRow} {r : Option StepErr}
    (h : w.passEffect p d q j b f ra rb = (v, r)) : EpisodesKept w.d v.d := by
  have hv : v = (w.passEffect p d q j b f ra rb).1 := by rw [h]
  rw [hv]
  unfold W.passEffect
  extract_lets s phys P res u t
  have harray := episodesKept_modDie w s (fun D => { D with arrays := tset D.arrays phys res.arr }) (fun _ => rfl) fun _ _ hon => hon
  rw [putAll_d]
  exact harray.trans (raiseFlags_kept _ p d q res.flags)

/-- Finishing a held pass, or finding that it cannot be finished yet. -/
theorem finishPass_kept (w : W) (s : Nat) (e : Episode) : EpisodesKept w.d (w.finishPass s e).d := by
  refine (spareRest_kept w s).trans ?_
  unfold W.finishPass
  generalize w.spareRest s = v
  dsimp only
  split
  · exact .refl _
  · split
    · exact .refl _
    · split
      · exact .refl _
      · split
        · next h => exact (episodesKept_modJob _ _ _).trans ((passEffect_kept h).trans (stepFault_kept _ _ _ _ _ _ _))
        · next h => exact (episodesKept_modJob _ _ _).trans (passEffect_kept h)

theorem acceptBlk_die (w : W) (e : Episode) (errs : List BlkErr) (i : Nat) : (w.acceptBlk e errs).d.die i = w.d.die i := rfl

theorem quarEvent_kept (w : W) (e : Episode) (s cls sub seq : Nat) : EpisodesKept w.d (w.quarEvent e s cls sub seq).d :=
  ((event_quiet _ _ _ _ _ _ _).trans (event_quiet _ _ _ _ _ _ _)).episodesKept

end Sys2Proof.Laws

/-! ## LASTING, CHECKER_PATH and UNRESOLVED (R80, R368, R370, R372) -/

namespace Sys2Proof.Laws

open Sys2Proof.Machine Sys2Proof.Claims

theorem bits_setBits (v x : Nat) {hi lo : Nat} (h : lo ≤ hi) : bits (setBits v hi lo x) hi lo = x % 2 ^ (hi + 1 - lo) := by
  obtain ⟨k, rfl⟩ := Nat.exists_eq_add_of_le h
  have hk : lo + k + 1 - lo = k + 1 := by omega
  have hpow : 2 ^ (lo + k + 1) = 2 ^ lo * 2 ^ (k + 1) := by rw [← pow_add]; congr 1
  unfold bits setBits
  rw [hk, Nat.shiftRight_eq_div_pow, Nat.shiftLeft_eq, Nat.shiftLeft_eq, hpow]
  generalize v >>> (lo + k + 1) = A
  generalize hX : x % 2 ^ (k + 1) = X
  have hsum : A * (2 ^ lo * 2 ^ (k + 1)) + X * 2 ^ lo + v % 2 ^ lo = v % 2 ^ lo + 2 ^ lo * (X + 2 ^ (k + 1) * A) := by ring
  rw [hsum, Nat.add_mul_div_left _ _ (by positivity), Nat.div_eq_of_lt (Nat.mod_lt _ (by positivity)), Nat.zero_add, Nat.add_mul_mod_self_left, ← hX,
    Nat.mod_mod]

theorem logicalOf_congr {a b : Dev} {s : Nat} (h : (b.die s).lmap = (a.die s).lmap) (phys : Nat) : b.logicalOf s phys = a.logicalOf s phys := by
  unfold Dev.logicalOf
  rw [h]

/-! ### The mark and the record -/

/-- The episode is numbered and counted as one of kind `k` of the hub's counters, and ends. -/
def closed (w : W) (s : Nat) (e : Episode) (k : Nat) : W := ((w.evidSeq.2.hubErr k 1).polErr e.polder 6 1).dropEpisode s e

theorem closed_die (w : W) (s : Nat) (e : Episode) (k : Nat) : (closed w s e k).d.die s = { w.d.die s with episodes := (w.d.die s).episodes.erase e } :=
  die_modDie (((w.evidSeq.2).hubErr k 1).polErr e.polder 6 1) s fun D => { D with episodes := D.episodes.erase e }

theorem closed_ops (w : W) (s : Nat) (e : Episode) (k : Nat) : (closed w s e k).ops = w.ops := rfl

/-- The failing array of an episode is quarantined by its class: 1 LASTING, 2 CHECKER_PATH. -/
def mark (e : Episode) (cls : Nat) (D : Die) : Die :=
  if cls = 1 then { D with quar := D.quar ||| 2 ^ e.phys } else { D with chkq := D.chkq ||| 2 ^ e.phys }

/-- The die of that array, the episode over. -/
def markedDie (D : Die) (e : Episode) (cls : Nat) : Die := mark e cls { D with episodes := D.episodes.erase e }

/-- The evidence record of that array, as `w` finds its episode. -/
def failureRecord (w : W) (s : Nat) (e : Episode) (cls diffS : Nat) : Evid :=
  let r := w.evidSeq.2.evidRecord e s cls w.d.hub.evidSeq e.patP (if cls = 2 then 0 else diffS) e.sub
  { site := s, phys := e.phys, sub := e.sub, seq := w.d.hub.evidSeq, head := r.1, area := r.2 }

/-- The failing array is counted and marked, its record waits for its test, and the substitute's computation is accepted. -/
def marked (w : W) (s : Nat) (e : Episode) (cls diffS : Nat) (errs : List BlkErr) : W :=
  (((closed w s e (cls + 1)).modDie s (mark e cls)).dev fun d => { d with evids := d.evids ++ [failureRecord w s e cls diffS] }).acceptBlk e errs

theorem die_addEvids (w : W) (l : List Evid) (i : Nat) : (w.dev fun d => { d with evids := d.evids ++ l }).d.die i = w.d.die i := rfl

theorem die_marked (w : W) (s : Nat) (e : Episode) (cls diffS : Nat) (errs : List BlkErr) :
    (marked w s e cls diffS errs).d.die s = markedDie (w.d.die s) e cls := by
  unfold marked
  rw [acceptBlk_die, die_addEvids, die_modDie, closed_die]
  rfl

theorem markedDie_episodes (D : Die) (e : Episode) (cls : Nat) : (markedDie D e cls).episodes = D.episodes.erase e := by
  unfold markedDie mark
  split <;> rfl

theorem markedDie_lmap (D : Die) (e : Episode) (cls : Nat) : (markedDie D e cls).lmap = D.lmap := by
  unfold markedDie mark
  split <;> rfl

theorem logicalOf_marked (w : W) (s : Nat) (e : Episode) (cls diffS : Nat) (errs : List BlkErr) (phys : Nat) :
    (marked w s e cls diffS errs).d.logicalOf s phys = w.d.logicalOf s phys :=
  logicalOf_congr (by rw [die_marked, markedDie_lmap]) phys

/-- The spare takes the place of the failing array, with its accumulators. -/
def replaced (w : W) (s : Nat) (e : Episode) : W := w.modDie s fun D =>
  { D with lmap := setBits D.lmap (4 * e.logical + 3) (4 * e.logical) 8, spareOn := true, arrays := tset D.arrays 8 (tget {} D.arrays e.phys)
           test := D.test ||| 2 ^ e.phys }

/-- The die leaves service when the job ends. -/
def leaving (w : W) (s : Nat) : W := w.modDie s fun D => { D with withdraw := 1 }

theorem quarantine_eq (w : W) (s : Nat) (e : Episode) (cls diffS : Nat) (errs : List BlkErr) (rest : List (Nat × BlkErr)) :
    w.quarantine s e cls diffS errs rest =
      ((if (decide (e.sub = 8) && ((marked w s e cls diffS errs).d.logicalOf s 8).isNone) = true then
          (replaced (marked w s e cls diffS errs) s e).takeOver s e rest
        else leaving (marked w s e cls diffS errs) s).quarEvent e s cls e.sub w.d.hub.evidSeq).finishPass s e := rfl

/-! ### The spare takes over -/

/-- The episodes of later K-blocks of the pass end: the spare computes those K-blocks anew. -/
def laterDropped (w : W) (s : Nat) (e : Episode) : W := w.modDie s fun D =>
  { D with episodes := D.episodes.filter fun y => !(onePass y e && decide (e.j < y.j)) }

theorem laterDropped_kept (w : W) (s : Nat) (e : Episode) : MarksKept w.d (laterDropped w s e).d :=
  marksKept_modDie _ _ _ (fun _ => rfl) fun _ _ hon => hon

/-- A spare that forms nothing wrongly opens no episode. -/
theorem takeOver_right (w : W) (s : Nat) (e : Episode) : EpisodesKept (laterDropped w s e).d (w.takeOver s e []).d := by
  unfold W.takeOver
  extract_lets later rest same v u
  have hjob : EpisodesKept (laterDropped w s e).d u.d := episodesKept_modJob _ _ _
  have hrest : rest = [] := rfl
  split
  · exact hjob
  · split
    · exact hjob
    · extract_lets b P recs
      have hrecs : recs = [] := by simp only [recs, hrest, passChecks_none]
      simpa only [hrecs, List.isEmpty_nil, if_true] using hjob

theorem takeOver_kept (w : W) (s : Nat) (e : Episode) (rest : List (Nat × BlkErr)) : MarksKept w.d (w.takeOver s e rest).d := by
  refine (laterDropped_kept w s e).trans ?_
  unfold W.takeOver
  extract_lets later rest same v u
  have hjob : MarksKept (laterDropped w s e).d u.d := (episodesKept_modJob _ _ _).toMarksKept
  split
  · exact hjob
  · split
    · exact hjob
    · extract_lets b P recs
      split
      · exact hjob
      · have hopen : MarksKept u.d (u.modDie s fun D => { D with episodes := D.episodes ++ recs.map fun (k, rs) =>
            { polder := e.polder, ldie := e.ldie, logical := e.logical, phys := 8, pos := e.pos, j := k, recs := rs, errs := errsAt rest k
              capture := (u.d.pol e.polder).capture } }).d := marksKept_modDie _ _ _ (fun _ => rfl) fun _ _ hon => hon
        exact hjob.trans (hopen.trans (hubErr_kept _ _ _).toMarksKept)

theorem spareServes_replaced (w : W) (s : Nat) (e : Episode) (h : e.logical < 8) : ((replaced w s e).d.die s).spareServes = true := by
  have hbits := bits_setBits (w.d.die s).lmap 8 (hi := 4 * e.logical + 3) (lo := 4 * e.logical) (by omega)
  rw [show 4 * e.logical + 3 + 1 - 4 * e.logical = 4 by omega] at hbits
  unfold replaced
  rw [die_modDie]
  exact List.any_eq_true.mpr ⟨e.logical, List.mem_range.mpr h, by simp [hbits]⟩

section

variable (w : W) (s : Nat) (e : Episode) (cls diffS : Nat) (errs : List BlkErr)

/-- Where the spare can substitute for good, it does. -/
theorem quarantine_replaced (rest : List (Nat × BlkErr)) (hsub : e.sub = 8) (hspare : w.d.logicalOf s 8 = none) :
    EpisodesKept ((replaced (marked w s e cls diffS errs) s e).takeOver s e rest).d (w.quarantine s e cls diffS errs rest).d := by
  rw [quarantine_eq, if_pos (by simp [hsub, logicalOf_marked, hspare])]
  exact (quarEvent_kept _ _ _ _ _ _).trans (finishPass_kept _ _ _)

/-- Where the substitute was borrowed, the die is to leave. -/
theorem quarantine_leaving (rest : List (Nat × BlkErr)) (h : ¬ (e.sub = 8 ∧ w.d.logicalOf s 8 = none)) :
    EpisodesKept (leaving (marked w s e cls diffS errs) s).d (w.quarantine s e cls diffS errs rest).d := by
  rw [quarantine_eq, if_neg (by simpa [logicalOf_marked] using h)]
  exact (quarEvent_kept _ _ _ _ _ _).trans (finishPass_kept _ _ _)

theorem leaving_die : (leaving (marked w s e cls diffS errs) s).d.die s = { markedDie (w.d.die s) e cls with withdraw := 1 } := by
  rw [leaving, die_modDie, die_marked]

theorem replaced_die : (replaced (marked w s e cls diffS errs) s e).d.die s =
    { markedDie (w.d.die s) e cls with
      lmap := setBits (w.d.die s).lmap (4 * e.logical + 3) (4 * e.logical) 8, spareOn := true
      arrays := tset (markedDie (w.d.die s) e cls).arrays 8 (tget {} (markedDie (w.d.die s) e cls).arrays e.phys)
      test := (markedDie (w.d.die s) e cls).test ||| 2 ^ e.phys } := by
  rw [replaced, die_modDie, die_marked, markedDie_lmap]

/-- The array is marked, and its record is numbered and waits, whatever becomes of its place. -/
theorem quarantine_marks (rest : List (Nat × BlkErr)) :
    let v := (w.quarantine s e cls diffS errs rest).d
    v.hub.evidSeq = w.d.hub.evidSeq + 1 ∧ v.evids = w.d.evids ++ [failureRecord w s e cls diffS] ∧
      (v.die s).quar = (markedDie (w.d.die s) e cls).quar ∧ (v.die s).chkq = (markedDie (w.d.die s) e cls).chkq := by
  intro v
  by_cases hspare : e.sub = 8 ∧ w.d.logicalOf s 8 = none
  · have hkept := (takeOver_kept (replaced (marked w s e cls diffS errs) s e) s e rest).trans
      (quarantine_replaced w s e cls diffS errs rest hspare.1 hspare.2).toMarksKept
    refine ⟨hkept.evidSeq, hkept.evids, ?_, ?_⟩
    · rw [hkept.quar, replaced_die]
    · rw [hkept.chkq, replaced_die]
  · have hkept := quarantine_leaving w s e cls diffS errs rest hspare
    refine ⟨hkept.evidSeq, hkept.evids, ?_, ?_⟩
    · rw [hkept.quar, leaving_die]
    · rw [hkept.chkq, leaving_die]

/-- The spare stands in the failing array's place and keeps its power; if it forms nothing wrongly, only the episodes that it makes idle end. -/
theorem quarantine_spare (rest : List (Nat × BlkErr)) (hlogical : e.logical < 8) (hsub : e.sub = 8) (hspare : w.d.logicalOf s 8 = none) :
    let v := (w.quarantine s e cls diffS errs rest).d
    (v.die s).lmap = setBits (w.d.die s).lmap (4 * e.logical + 3) (4 * e.logical) 8 ∧ (v.die s).spareOn = true ∧
      (rest = [] → (v.die s).episodes = ((w.d.die s).episodes.erase e).filter fun y => !(onePass y e && decide (e.j < y.j))) := by
  intro v
  have hend := quarantine_replaced w s e cls diffS errs rest hsub hspare
  have hkept := (takeOver_kept (replaced (marked w s e cls diffS errs) s e) s e rest).trans hend.toMarksKept
  refine ⟨?_, hkept.spare s (spareServes_replaced _ s e hlogical) ?_, fun hrest => ?_⟩
  · rw [hkept.lmap, replaced_die]
  · rw [replaced_die]
  · subst hrest
    rw [hend.episodes, (takeOver_right _ s e).episodes, laterDropped, die_modDie, replaced_die]
    dsimp only
    rw [markedDie_episodes]

/-- The die of an array that a borrowed one substituted for is to leave at the job's end. -/
theorem quarantine_borrowed (rest : List (Nat × BlkErr)) (h : ¬ (e.sub = 8 ∧ w.d.logicalOf s 8 = none)) :
    let v := (w.quarantine s e cls diffS errs rest).d
    (v.die s).withdraw = 1 ∧ (v.die s).lmap = (w.d.die s).lmap ∧ (v.die s).episodes = (w.d.die s).episodes.erase e := by
  intro v
  have hkept := quarantine_leaving w s e cls diffS errs rest h
  refine ⟨?_, ?_, ?_⟩
  · rw [hkept.withdraw, leaving_die]
  · rw [hkept.lmap, leaving_die]
    exact markedDie_lmap _ _ _
  · rw [hkept.episodes, leaving_die]
    exact markedDie_episodes _ _ _

end

/-! ### UNRESOLVED -/

/-- Leaving out an element that a filter leaves out anyway. -/
theorem filter_erase_of_not {α : Type} [DecidableEq α] (p : α → Bool) {x : α} (h : p x = false) (l : List α) : (l.erase x).filter p = l.filter p := by
  induction l with
  | nil => rfl
  | cons y l ih =>
    by_cases e : y = x
    · subst e; simp [h]
    · rw [List.erase_cons_tail (by simpa using e), List.filter_cons, List.filter_cons, ih]

theorem onePass_self (e : Episode) : onePass e e = true := by simp [onePass]

/-- The array is quarantined and its die withdrawn; no K-block of the pass is in an episode. -/
def giveUp (e : Episode) (D : Die) : Die :=
  { D with quar := D.quar ||| 2 ^ e.phys, withdrawn := true, episodes := D.episodes.filter fun y => !onePass y e }

/-- The same, with the record, which waits for the tests of both arrays. -/
def givenUp (w : W) (s : Nat) (e : Episode) (diffS : Nat) : W :=
  let r := w.evidSeq.2.evidRecord e s 3 w.d.hub.evidSeq e.patP diffS e.sub
  ((closed w s e 4).modDie s (giveUp e)).dev fun d => { d with evids := d.evids ++
    [{ site := s, phys := e.phys, sub := e.sub, seq := w.d.hub.evidSeq, head := r.1, area := r.2, waitSub := true }] }

theorem givenUp_die (w : W) (s : Nat) (e : Episode) (diffS : Nat) : (givenUp w s e diffS).d.die s = giveUp e (w.d.die s) := by
  rw [givenUp, die_addEvids, die_modDie, closed_die, giveUp, filter_erase_of_not _ (by simp [onePass_self])]
  rfl

theorem givenUp_ops (w : W) (s : Nat) (e : Episode) (diffS : Nat) : (givenUp w s e diffS).ops = w.ops := by
  rw [givenUp, dev_ops, modDie_ops, closed_ops]

theorem givenUp_job (w : W) (s : Nat) (e : Episode) (diffS : Nat) : ((givenUp w s e diffS).d.pol e.polder).job = (w.d.pol e.polder).job := by
  have hpol : (givenUp w s e diffS).d.pol e.polder = ((w.evidSeq.2.hubErr 4 1).polErr e.polder 6 1).d.pol e.polder := rfl
  rw [hpol, W.polErr, pol_modPol]
  rfl

theorem startTests_kept (w : W) (s : Nat) : EpisodesKept w.d (w.startTests s).d := by
  unfold W.startTests
  refine .each _ _ (fun v x => ?_) w
  exact episodesKept_modDie _ _ _ (fun _ => rfl) fun _ _ hon => hon

theorem startTests_pols (w : W) (s : Nat) : (w.startTests s).d.pols = w.d.pols := by
  unfold W.startTests W.each
  generalize w.d.evids.filter (·.site == s) = l
  induction l generalizing w with
  | nil => rfl
  | cons x l ih => exact ih _

theorem startTests_ops (w : W) (s : Nat) : (w.startTests s).ops = w.ops := by
  unfold W.startTests
  refine (each_mem _ _ (fun v x => ?_) w).2
  exact ⟨rfl, rfl⟩

/-- What is left to do once a pass is given up: tests, the power of the spare, and the event. -/
def announced (w : W) (s : Nat) (e : Episode) : W :=
  ((if (decide (e.sub = 8) && (w.d.logicalOf s 8).isNone) = true then w.startTests s else w).spareRest s).withdrawnEvent e.polder s 2

theorem unresolved_eq (w : W) (s : Nat) (e : Episode) (diffS : Nat) : w.unresolved s e diffS =
    (announced (givenUp w s e diffS) s e).stepFault e.polder e.ldie e.logical stCHECK_MISMATCH dCODE_MISMATCH := rfl

theorem announced_kept (w : W) (s : Nat) (e : Episode) : EpisodesKept w.d (announced w s e).d ∧ (announced w s e).ops = w.ops ∧
    ((announced w s e).d.pol e.polder).job = (w.d.pol e.polder).job := by
  unfold announced
  generalize hv : (if (decide (e.sub = 8) && (w.d.logicalOf s 8).isNone) = true then w.startTests s else w) = v
  have hstart : EpisodesKept w.d v.d ∧ v.ops = w.ops ∧ v.d.pols = w.d.pols := by
    subst hv
    split
    · exact ⟨startTests_kept w s, startTests_ops w s, startTests_pols w s⟩
    · exact ⟨.refl _, rfl, rfl⟩
  obtain ⟨hkept, hops, hpols⟩ := hstart
  have hevents : Quiet (v.spareRest s) ((v.spareRest s).withdrawnEvent e.polder s 2) := (event_quiet _ _ _ _ _ _ _).trans (event_quiet _ _ _ _ _ _ _)
  have hpol : (v.spareRest s).d.pol e.polder = w.d.pol e.polder := by
    unfold Dev.pol
    rw [W.spareRest, modDie_pols, hpols]
  exact ⟨hkept.trans ((spareRest_kept v s).trans hevents.episodesKept), hevents.ops.trans hops, by rw [hevents.job, hpol]⟩

/-- A pass of which neither array's computation agrees is given up. -/
theorem unresolved_ends {w : W} (s : Nat) (e : Episode) (diffS : Nat) {j : Job} (hjob : w.d.runningJob e.polder = some j) :
    let v := w.unresolved s e diffS
    v.ops = w.ops ∧ (v.d.die s).quar = (w.d.die s).quar ||| 2 ^ e.phys ∧ (v.d.die s).withdrawn = true ∧
      (v.d.die s).episodes = (w.d.die s).episodes.filter (fun y => !onePass y e) ∧
      (v.d.pol e.polder).job.map (·.faults) = some (j.faults ++ [{ die := e.ldie, queue := e.logical, pos := (j.queue e.ldie e.logical).now e.logical
                                                                   status := stCHECK_MISMATCH, detail := dCODE_MISMATCH }]) := by
  rw [unresolved_eq]
  obtain ⟨hann, hops, hann_job⟩ := announced_kept (givenUp w s e diffS) s e
  rw [givenUp_job, (runningJob_job hjob).1] at hann_job
  rw [givenUp_ops] at hops
  generalize announced (givenUp w s e diffS) s e = u at hann hops hann_job
  have hkept := hann.trans (stepFault_kept u e.polder e.ldie e.logical stCHECK_MISMATCH dCODE_MISMATCH 0)
  refine ⟨hops, ?_, ?_, ?_, ?_⟩
  · rw [hkept.quar, givenUp_die, giveUp]
  · rw [hkept.withdrawn, givenUp_die, giveUp]
  · rw [hkept.episodes, givenUp_die, giveUp]
  · rw [W.stepFault, W.modJob, pol_modPol, hann_job]
    rfl

end Sys2Proof.Laws

/-! ## The stages of a check episode (R368 to R373) -/

namespace Sys2Proof.Laws

open Sys2Proof.Machine Sys2Proof.Claims

/-- The K-block that a command on the episode in service works on. -/
theorem epBlk_served {s : State} {site : Nat} {e : Episode} {j : Job} {x : EpBlk} (h : Serves s site e j x) :
    ((s.dev.runningJob e.polder).bind fun j => s.w.epBlk j e) = some x := by
  rw [h.job]
  exact h.block

/-! ### The repeat (R368 step 1) -/

section

variable {s : State} {site : Nat} {e : Episode} {j : Job} {x : EpBlk} {errs : List BlkErr} (h : Serves s site e j x)

include h

theorem repeat_agrees (hstage : e.stage = .repeatP) (hnone : x.records errs = []) :
    Exactly (.repeatComplete site errs) s ((((s.w.dropEpisode site e).hubErr 1 1).acceptBlk e errs).finishPass site e) := by
  show execRepeatComplete site errs s = _
  unfold execRepeatComplete
  simp only [run_def, h.first, w_d, hstage, ne_eq, not_true_eq_false, if_false, epBlk_served h, hnone, List.isEmpty_nil, if_true]

theorem repeat_differs (hstage : e.stage = .repeatP) (hsome : x.records errs ≠ []) :
    Exactly (.repeatComplete site errs) s (s.w.setEpisode site { e with stage := .waitSub, patP := recPat (x.records errs) }) := by
  show execRepeatComplete site errs s = _
  unfold execRepeatComplete
  simp only [run_def, w_d, h.first, hstage, ne_eq, not_true_eq_false, if_false, epBlk_served h, List.isEmpty_iff, hsome]

/-! ### The substitute's computation (R368 steps 2 and 3) -/

theorem substitute_agrees (rest : List ArrErr) (hstage : e.stage = .compS ∨ e.stage = .compS2) (hnone : x.records errs = []) :
    Exactly (.substituteComplete site errs rest) s
      (s.w.quarantine site e (if x.equal errs e.errs then 2 else 1) (x.diff e.recs errs e.errs) errs (rest.map fun r => (r.j, r.err))) := by
  have hcomp : (decide (e.stage ≠ .compS) && decide (e.stage ≠ .compS2)) = false := by rcases hstage with h | h <;> simp [h]
  show execSubstituteComplete site errs rest s = _
  unfold execSubstituteComplete
  simp only [run_def, w_d, h.first, hcomp, Bool.false_eq_true, if_false, epBlk_served h, hnone, List.isEmpty_nil, if_true]

theorem substitute_differs (rest : List ArrErr) (hstage : e.stage = .compS) (hsome : x.records errs ≠ []) :
    Exactly (.substituteComplete site errs rest) s (s.w.setEpisode site { e with stage := .compS2, diffS := x.diff e.recs errs e.errs }) := by
  show execSubstituteComplete site errs rest s = _
  unfold execSubstituteComplete
  simp only [run_def, w_d, h.first, hstage, ne_eq, not_true_eq_false, decide_false, Bool.false_and, Bool.false_eq_true, if_false, epBlk_served h,
    List.isEmpty_iff, hsome, if_true]

theorem substitute_differs_again (rest : List ArrErr) (hstage : e.stage = .compS2) (hsome : x.records errs ≠ []) :
    Exactly (.substituteComplete site errs rest) s (s.w.unresolved site e (x.diff e.recs errs e.errs)) := by
  have hcomp : (decide (e.stage ≠ .compS) && decide (e.stage ≠ .compS2)) = false := by simp [hstage]
  have hone : e.stage ≠ .compS := by simp [hstage]
  show execSubstituteComplete site errs rest s = _
  unfold execSubstituteComplete
  simp only [run_def, w_d, h.first, hcomp, Bool.false_eq_true, if_false, epBlk_served h, List.isEmpty_iff, hsome, hone]

end

/-! ### The choice of the substitute (R369) -/

theorem substitute_spare {d : Dev} {site phys : Nat} (hfree : d.logicalOf site 8 = none) (hphys : phys ≠ 8) (hquar : (d.die site).quar.testBit 8 = false)
    (hchkq : (d.die site).chkq.testBit 8 = false) : d.substitute site phys = 8 := by
  simp [Dev.substitute, hfree, hphys.symm, hquar, hchkq]

theorem substitute_lowest {d : Dev} {site phys n : Nat} (hspare : (d.die site).quar.testBit 8 = true) (hn : n < 8)
    (hserves : (d.logicalOf site n).isSome = true) (hphys : n ≠ phys) (hquar : (d.die site).quar.testBit n = false)
    (hchkq : (d.die site).chkq.testBit n = false)
    (hleast : ∀ m, m < n → m = phys ∨ (d.die site).quar.testBit m = true ∨ (d.die site).chkq.testBit m = true ∨ d.logicalOf site m = none) :
    d.substitute site phys = n := by
  have hfind : ((List.range 9).find? fun m =>
      (m != phys && !(d.die site).quar.testBit m && !(d.die site).chkq.testBit m) && (d.logicalOf site m).isSome) = some n := by
    rw [List.find?_range_eq_some]
    refine ⟨by simp [hphys, hquar, hchkq, hserves], List.mem_range.mpr (by omega), fun m hm => ?_⟩
    rcases hleast m hm with h | h | h | h <;> simp [h]
  simp [Dev.substitute, hspare, hfind]

theorem substituteReady_takes {s : State} {site : Nat} {e : Episode} (hfirst : s.dev.episode site = some e) (hstage : e.stage = .waitSub) {n : Nat}
    (hsub : s.dev.substitute site e.phys = n) : Exactly (.substituteReady site) s
      ((s.w.setEpisode site { e with stage := .compS, sub := n }).modDie site fun D => { D with spareOn := D.spareOn || n == 8 }) := by
  show execSubstituteReady site s = _
  unfold execSubstituteReady
  simp only [run_def, w_d, hfirst, hstage, ne_eq, not_true_eq_false, if_false, hsub]

/-! ### The test of the failing array (R371, R378) -/

/-- The only record that waits goes when its test has ended. -/
theorem lastEvid_ended {w : W} {e : Evid} (h : w.d.evids = [e]) (e' : Evid) (site : Nat) (f : Die → Die) :
    (((w.dev fun d => { d with evids := d.evids.map fun x => if x = e then e' else x }).modDie site f).dev fun d =>
      { d with evids := d.evids.erase e' }) = (w.dev fun d => { d with evids := [] }).modDie site f := by
  unfold W.dev W.modDie
  simp only [h, List.map_cons, List.map_nil, if_true, List.erase_cons_head]
  rfl

theorem targetedSelfTest_ends {s : State} {site phys : Nat} (res : TestEnd) {e : Evid} (hevids : s.dev.evids = [e]) (hsite : e.site = site)
    (hphys : e.phys = phys) (hwait : e.waitPhys = true) (hsub : e.waitSub = false) (htest : (s.dev.die site).test.testBit phys = true)
    (hfree : testFree s site phys) :
    let r := s.dev.bist.targeted site phys res
    Exactly (.targetedSelfTestEnd site phys res) s
      (((s.w.dev fun d => { d with evids := [] }).modDie site fun D => { D with
        test := (D.test ||| 2 ^ phys) ^^^ 2 ^ phys, spareOn := D.spareOn && (phys != 8 || (s.dev.logicalOf site 8).isSome) }).writeEvid
          { e with waitPhys := false, test := r.1, fail := r.2 }) := by
  intro r
  subst hsite hphys
  obtain ⟨hpack, hslots⟩ := hfree
  have hslice : (s.dev.bist.slots.any fun (_, S) =>
      S.st == 2 && bits S.cmd 7 0 == 1 && bits S.cmd 12 8 == e.site && bits S.cmd 23 16 == e.phys) = false := by
    rw [List.any_eq_false]
    rintro ⟨k, S⟩ hS hon
    simp only [Bool.and_eq_true, beq_iff_eq] at hon
    obtain ⟨⟨⟨hst, hcmd⟩, hs⟩, hp⟩ := hon
    exact hslots (k, S) hS ⟨hst, hcmd, hs, hp⟩
  show execTargetedSelfTestEnd e.site e.phys res s = _
  unfold execTargetedSelfTestEnd
  simp only [run_def, w_d, dev_d, htest, hslice, hpack, hevids, hwait, hsub, List.any_cons, List.any_nil, List.find?_cons_of_pos, List.map_cons, List.map_nil,
    BEq.rfl, Bool.not_true, Bool.and_self, Bool.false_and, Bool.or_false, Bool.or_self, decide_true, decide_false, if_true, if_false, Bool.false_eq_true]
  rw [lastEvid_ended hevids]
  rfl

/-- Settles O52: the repeat, the choice of a substitute, its computation, and the end of the targeted test, each by its own lemmas. -/
theorem checkEpisodes : Obligations.CheckEpisodes := by
  refine ⟨fun s site e j x errs h hstage => ⟨repeat_agrees h hstage, repeat_differs h hstage⟩, ?choice,
    fun s site e j x errs rest h hstage hlogical => ⟨fun hnone => ?agrees, fun hsome hone => substitute_differs h rest hone hsome,
      fun hsome htwo => ?fails⟩,
    fun s site phys res e => targetedSelfTest_ends res⟩
  case choice =>
    intro s site e hfirst hstage
    exact ⟨fun hfree hphys hquar hchkq => substituteReady_takes hfirst hstage (substitute_spare hfree hphys hquar hchkq),
      fun n hspare hn hserves hphys hquar hchkq hleast =>
        substituteReady_takes hfirst hstage (substitute_lowest hspare hn hserves hphys hquar hchkq hleast)⟩
  case agrees =>
    have hexec := substitute_agrees h rest hstage hnone
    generalize hcls : (if x.equal errs e.errs then 2 else 1) = cls at hexec
    obtain ⟨hseq, hevids, hquar, hchkq⟩ := quarantine_marks s.w site e cls (x.diff e.recs errs e.errs) errs (rest.map fun r => (r.j, r.err))
    refine ⟨_, hexec, rfl, rfl, hseq, ?marks, fun hspare => ?spare, fun hspare => ?borrowed,
      ⟨failureRecord s.w site e cls (x.diff e.recs errs e.errs), rfl, rfl, rfl, rfl, hevids⟩⟩
    case marks =>
      rw [commit_dev, hquar, hchkq, ← hcls]
      split
      · exact ⟨rfl, rfl⟩
      · exact ⟨rfl, rfl⟩
    case spare =>
      obtain ⟨hlmap, hon, hepisodes⟩ := quarantine_spare s.w site e cls (x.diff e.recs errs e.errs) errs (rest.map fun r => (r.j, r.err)) hlogical
        hspare.1 hspare.2
      exact ⟨hlmap, hon, fun hrest => hepisodes (by rw [hrest]; rfl)⟩
    case borrowed => exact quarantine_borrowed s.w site e cls _ errs _ hspare
  case fails =>
    obtain ⟨hops, hquar, hwithdrawn, hepisodes, hfaults⟩ := unresolved_ends (w := s.w) site e (x.diff e.recs errs e.errs) h.job
    exact ⟨_, substitute_differs_again h rest htwo hsome, rfl, rfl, by rw [commit_mem, hops]; rfl, hquar, hwithdrawn, hepisodes, hfaults⟩

end Sys2Proof.Laws

/-! ## Lists of tiles (R81) -/

namespace Sys2Proof.Laws

open Sys2Proof.Machine

theorem chunksOf_flatten {α : Type} {k m : Nat} {l : List α} (hl : l.length ≤ k * m) : (chunksOf k m l).flatten = l := by
  induction m generalizing l with
  | zero =>
    obtain rfl : l = [] := List.eq_nil_of_length_eq_zero (by simpa using hl)
    rfl
  | succ m ih =>
    rw [Nat.mul_succ] at hl
    rw [chunksOf]
    split
    · next hnil => exact (List.isEmpty_iff.mp hnil).symm
    · rw [List.flatten_cons, ih (by rw [List.length_drop]; omega), List.take_append_drop]

theorem le_mul_ceilDiv {k : Nat} (hk : 0 < k) (n : Nat) : n ≤ k * ceilDiv n k := by
  have hmod := Nat.mod_lt (n + k - 1) hk
  have hdiv := Nat.div_add_mod (n + k - 1) k
  unfold ceilDiv
  omega

/-- The row tiles of a region hold its rows, in their order. -/
theorem rowTiles_flatten {tr : Nat} (htr : 0 < tr) (rows : Nat) : (chunksOf tr (ceilDiv rows tr) (List.range rows)).flatten = List.range rows :=
  chunksOf_flatten (by simpa using le_mul_ceilDiv htr rows)

theorem mem_rowTile_iff {tr : Nat} (htr : 0 < tr) (rows r : Nat) :
    (∃ tile ∈ chunksOf tr (ceilDiv rows tr) (List.range rows), r ∈ tile) ↔ r < rows := by
  rw [← List.mem_flatten, rowTiles_flatten htr, List.mem_range]

theorem lt_of_mem_rowTile {tr rows r : Nat} {tile : List Nat} (htr : 0 < tr) (ht : tile ∈ chunksOf tr (ceilDiv rows tr) (List.range rows))
    (hr : r ∈ tile) : r < rows := (mem_rowTile_iff htr rows r).mp ⟨tile, ht, hr⟩

/-- The column tiles of a row hold its elements. -/
theorem mem_colTile_iff {α : Type} {tc cols : Nat} {l : List α} (htc : 0 < tc) (hl : l.length ≤ cols) (x : α) :
    (∃ k < ceilDiv cols tc, x ∈ (l.drop (k * tc)).take tc) ↔ x ∈ l := by
  constructor
  · rintro ⟨k, _, hx⟩
    exact List.mem_of_mem_drop (List.mem_of_mem_take hx)
  · intro hx
    obtain ⟨i, hi, rfl⟩ := List.mem_iff_getElem.mp hx
    have hk : i / tc < ceilDiv cols tc := by
      have := le_mul_ceilDiv htc cols
      exact Nat.div_lt_of_lt_mul (by omega)
    have hmod := Nat.mod_lt i htc
    have hdiv := Nat.div_add_mod' i tc
    refine ⟨i / tc, hk, List.mem_iff_getElem.mpr ⟨i % tc, ?_, ?_⟩⟩
    · simp only [List.length_take, List.length_drop]
      omega
    · simp only [List.getElem_take, List.getElem_drop]
      congr 1

end Sys2Proof.Laws

/-! ## Flags and writes gathered tile by tile (R52, R81) -/

namespace Sys2Proof.Laws

open Sys2Proof.Machine

theorem foldl_or_flatMap {α β : Type} (f : β → Nat) (g : α → List β) (l : List α) :
    (l.flatMap g).foldl (fun x y => x ||| f y) 0 = l.foldl (fun x y => x ||| (g y).foldl (fun x y => x ||| f y) 0) 0 := by
  induction l with
  | nil => rfl
  | cons y l ih =>
    have hstart := foldl_or_start (fun y => (g y).foldl (fun x y => x ||| f y) 0) l ((g y).foldl (fun x y => x ||| f y) 0) 0
    rw [Nat.or_zero] at hstart
    rw [List.flatMap_cons, foldl_or_append, ih, List.foldl_cons, Nat.zero_or, hstart]

theorem testBit_flagsOf (l : List CF) (i : Nat) : (flagsOf l).testBit i = l.any fun x => x.2.testBit i := by
  have h := testBit_foldl_or (l.map Prod.snd) 0 i
  rw [List.foldl_map, List.any_map, Nat.zero_testBit, Bool.false_or] at h
  exact h

/-- The flags of some elements do not depend on their order. -/
theorem flagsOf_eq_of_mem_iff {l k : List CF} (h : ∀ x, x ∈ l ↔ x ∈ k) : flagsOf l = flagsOf k := by
  refine Nat.eq_of_testBit_eq fun i => ?_
  rw [testBit_flagsOf, testBit_flagsOf, Bool.eq_iff_iff, List.any_eq_true, List.any_eq_true]
  simp only [h]

theorem mapM_ok {ε α β : Type} {f : α → Except ε β} {g : α → β} {l : List α} (h : ∀ a ∈ l, f a = .ok (g a)) : l.mapM f = .ok (l.map g) := by
  induction l with
  | nil => rfl
  | cons a l ih =>
    rw [List.mapM_cons, h a List.mem_cons_self, ih fun x hx => h x (List.mem_cons_of_mem _ hx)]
    rfl

theorem flagsOf_flatMap {α : Type} (g : α → List CF) (l : List α) : flagsOf (l.flatMap g) = l.foldl (fun f a => f ||| flagsOf (g a)) 0 :=
  foldl_or_flatMap _ _ _

theorem add_ok {o : VOut} {tile : Unit → Except StepErr (List (Nat × Bytes) × Nat)} {ws : List (Nat × Bytes)} {fl : Nat} (ho : o.err = none)
    (h : tile () = .ok (ws, fl)) : o.add tile = { writes := o.writes ++ ws, flags := o.flags ||| fl } := by
  simp [VOut.add, ho, h]

/-- Tiles none of which is refused: their writes in order, and the flags of all. -/
theorem foldl_gather {α : Type} {step : VOut → α → VOut} {ws : α → List (Nat × Bytes)} {fl : α → Nat} {l : List α}
    (h : ∀ a ∈ l, ∀ o : VOut, o.err = none → step o a = { writes := o.writes ++ ws a, flags := o.flags ||| fl a }) {o : VOut} (ho : o.err = none) :
    l.foldl step o = { writes := o.writes ++ l.flatMap ws, flags := o.flags ||| l.foldl (fun f a => f ||| fl a) 0 } := by
  induction l generalizing o with
  | nil =>
    obtain ⟨ws, fl, e⟩ := o
    cases ho
    simp
  | cons a l ih =>
    have hflags := foldl_or_start fl l (fl a) 0
    rw [Nat.or_zero] at hflags
    rw [List.foldl_cons, h a List.mem_cons_self o ho, ih (fun x hx => h x (List.mem_cons_of_mem _ hx)) rfl, List.foldl_cons, Nat.zero_or, hflags,
      List.flatMap_cons, List.append_assoc, Nat.or_assoc]

/-- A step whose rows are independent and none of which faults. -/
theorem rowTiles_ok {tr rows n : Nat} {row : Nat → Except StepErr (List (Nat × Bytes) × Nat)} {ws : Nat → List (Nat × Bytes)} {fl : Nat → Nat} (htr : 0 < tr)
    (h : ∀ r < rows, row r = .ok (ws r, fl r)) :
    rowTiles tr rows n row =
      { writes := (chunksOf tr (ceilDiv rows tr) (List.range rows)).flatMap fun tile => colTiles n (tile.map ws)
        flags := (List.range rows).foldl (fun f r => f ||| fl r) 0 } := by
  have htile : ∀ tile ∈ chunksOf tr (ceilDiv rows tr) (List.range rows),
      ((tile.mapM row).map fun rs => (colTiles n (rs.map Prod.fst), rs.foldl (fun a x => a ||| x.2) 0)) =
        .ok (colTiles n (tile.map ws), tile.foldl (fun f r => f ||| fl r) 0) := by
    intro tile ht
    rw [mapM_ok fun r hr => h r (lt_of_mem_rowTile htr ht hr)]
    simp [Except.map, List.foldl_map, Function.comp_def]
  rw [rowTiles, foldl_gather (fun tile ht o ho => add_ok ho (htile tile ht)) rfl, ← foldl_or_flatMap, List.flatMap_id', rowTiles_flatten htr]
  simp

end Sys2Proof.Laws

/-! ## A row as a step reads it (R35, R138, R154, R182) -/

namespace Sys2Proof.Laws

open Sys2Proof.Machine

theorem fmtD_w_pos (c : Nat) : 0 < (fmtD c).w := by
  unfold fmtD fmtOf
  split <;> simp

theorem readDev_length (w : W) (a n : Nat) : (w.readDev a n).length = n := by
  unfold W.readDev
  split
  · exact read_length _ _ _
  · next s off _ =>
    have hword : ∀ v, (toLe 4 v).length = 4 := fun _ => rfl
    have hwords : ∀ (l : List Nat) (g : Nat → Nat), (l.flatMap fun i => toLe 4 (g i)).length = 4 * l.length := by
      intro l g
      induction l with
      | nil => rfl
      | cons i l ih => rw [List.flatMap_cons, List.length_append, ih, hword, List.length_cons]; omega
    dsimp only
    rw [slice, List.length_take, List.length_drop, hwords, List.length_range]
    unfold ceilDiv
    omega
  · exact read_length _ _ _

theorem reachedBytes_length {w : W} {p : Nat} {l : List (Nat × Nat)} {bs : Bytes} (h : w.reachedBytes p l = (bs, none)) :
    bs.length = (l.map Prod.snd).sum := by
  induction l generalizing bs with
  | nil => cases h; rfl
  | cons x l ih =>
    obtain ⟨a, m⟩ := x
    rw [W.reachedBytes] at h
    split at h
    · cases h
    · simp only [Prod.mk.injEq] at h
      obtain ⟨rfl, hrest⟩ := h
      rw [List.length_append, readDev_length, ih (Prod.ext rfl hrest)]
      rfl

/-- Pages enough for a range are those of its pieces. -/
theorem pagePieces_sum {w : W} {p base : Nat} {wr : Bool} {k la n : Nat} {l : List (Nat × Nat)} (hk : n = 0 ∨ la % 2 ^ 18 + n ≤ k * 2 ^ 18)
    (h : w.pagePieces p base wr k la n = (l, none)) : (l.map Prod.snd).sum = n := by
  induction k generalizing la n l with
  | zero =>
    cases h
    show 0 = n
    omega
  | succ k ih =>
    rw [W.pagePieces] at h
    split at h
    · next hn => cases h; exact hn.symm
    · split at h
      · cases h
      · simp only [Prod.mk.injEq] at h
        obtain ⟨rfl, hrest⟩ := h
        rw [List.map_cons, List.sum_cons, ih (by omega) (Prod.ext rfl hrest)]
        omega

theorem readTile_readTo {w : W} {p : Nat} {j : Job} {t : Tile} {a n : Nat} {bs : Bytes} (h : w.readTile p j t a n = .ok bs) :
    w.readTo p j t a n = (bs, none) := by
  unfold W.readTile at h
  split at h
  · cases h
  · next hto => cases h; exact hto

theorem readTile_length {w : W} {p : Nat} {j : Job} {t : Tile} {a n : Nat} {bs : Bytes} (h : w.readTile p j t a n = .ok bs) : bs.length = n := by
  have hto := readTile_readTo h
  unfold W.readTo at hto
  generalize hpieces : w.pieces p j t false a n = x at hto
  obtain ⟨l, e⟩ := x
  dsimp only at hto
  split at hto
  · cases hto
  · next hbytes =>
    cases hto
    rw [reachedBytes_length hbytes]
    unfold W.pieces at hpieces
    split at hpieces
    · exact pagePieces_sum (.inr (by omega)) hpieces
    · cases hpieces
      simp

theorem unpackGroups_length (w nb ne k : Nat) (bs : Bytes) : (unpackGroups w nb ne k bs).length = k * ne := by
  induction k generalizing bs with
  | zero => simp [unpackGroups]
  | succ k ih => simp [unpackGroups, ih, Nat.succ_mul, Nat.add_comm]

theorem packGroup_pos (w : Nat) : 0 < (packGroup w).2 := by
  unfold packGroup
  split <;> decide

theorem unpack_length (w n : Nat) (bs : Bytes) : (unpack w n bs).length = n := by
  have h := le_mul_ceilDiv (packGroup_pos w) n
  rw [Nat.mul_comm] at h
  simp [unpack, unpackGroups_length, h]

/-- A packed row holds all its elements. -/
theorem packedLen_holds {w : Nat} (hw : 0 < w) (n : Nat) : n ≤ packedLen w n * 8 / w := by
  rw [Nat.le_div_iff_mul_le hw, packedLen, Nat.mul_comm _ 8]
  exact le_mul_ceilDiv (by decide) _

theorem spread_of_length_ne_one {α : Type} {l : List α} (cols : Nat) (h : l.length ≠ 1) : spread cols l = l := by
  unfold spread
  split
  · simp at h
  · rfl

/-- A row of a source that can be read, as wide as the region or of one column: an element-wise step reads all of it. -/
theorem codesTo_of_codes {c : VC} {i r : Nat} {l : List Nat} (hcols : (c.tile i).cols = 1 ∨ (c.tile i).cols = c.cols) (h : c.codes i r = .ok l) :
    c.codesTo i r = (l, none) ∧ l.length = c.cols := by
  unfold VC.codes W.rowCodes at h
  unfold VC.codesTo
  dsimp only at h ⊢
  generalize c.tile i = t at h hcols ⊢
  generalize ha : c.j.rowAddr t (if t.rows = 1 then 0 else r) = a at h ⊢
  cases hread : c.w.readTile c.p c.j t a t.rowLen with
  | error e => rw [hread] at h; cases h
  | ok bs =>
    rw [hread] at h
    simp only [Except.map, Except.ok.injEq] at h
    have hlen := readTile_length hread
    have hall : min t.cols (bs.length * 8 / t.f.w) = t.cols := by
      rw [hlen]
      exact Nat.min_eq_left (packedLen_holds (fmtD_w_pos t.fmt) t.cols)
    have hunpack := unpack_length t.f.w t.cols bs
    simp only [readTile_readTo hread, hall, ← h]
    by_cases hone : t.cols = 1
    · rw [hone] at hunpack ⊢
      obtain ⟨x, hx⟩ := List.length_eq_one_iff.mp hunpack
      simp [hx, spread]
    · rw [if_neg hone, spread_of_length_ne_one _ (by omega)]
      exact ⟨rfl, by omega⟩

end Sys2Proof.Laws

/-! ## Element-wise steps (R81, R82, R86 to R88) -/

namespace Sys2Proof.Laws

open Sys2Proof.Machine Sys2Proof.Claims

/-- The elements of row `r` of a result that lie in column tile `k`. -/
def colTileOf (c : VC) (res : Nat → List CF) (k r : Nat) : List CF := ((res r).drop (k * c.st.tc)).take c.st.tc

/-- The writes of one tile of a result. -/
def tileWrites (c : VC) (res : Nat → List CF) (tile : List Nat) (k : Nat) : List (Nat × Bytes) := tile.map fun r =>
  (c.j.rowAddr (c.tile c.st.dst) r + k * c.st.tc * (c.tile c.st.dst).f.w / 8, pack (c.tile c.st.dst).f.w ((colTileOf c res k r).map Prod.fst))

theorem elTiles_eq (c : VC) (res : Nat → List CF) : elTiles c res =
    (chunksOf c.st.tr (ceilDiv c.rows c.st.tr) (List.range c.rows)).flatMap fun tile =>
      (List.range (ceilDiv c.cols c.st.tc)).flatMap (tileWrites c res tile) := rfl

/-- The tiles of a result raise the flags of its elements. -/
theorem flagsOf_tiles {c : VC} {res : Nat → List CF} (htr : 0 < c.st.tr) (htc : 0 < c.st.tc) (hlen : ∀ r < c.rows, (res r).length ≤ c.cols) :
    flagsOf ((chunksOf c.st.tr (ceilDiv c.rows c.st.tr) (List.range c.rows)).flatMap fun tile =>
      (List.range (ceilDiv c.cols c.st.tc)).flatMap fun k => tile.flatMap (colTileOf c res k)) = flagsOf ((List.range c.rows).flatMap res) := by
  refine flagsOf_eq_of_mem_iff fun x => ?_
  simp only [List.mem_flatMap, List.mem_range]
  constructor
  · rintro ⟨tile, ht, k, -, r, hr, hx⟩
    exact ⟨r, lt_of_mem_rowTile htr ht hr, List.mem_of_mem_drop (List.mem_of_mem_take hx)⟩
  · rintro ⟨r, hr, hx⟩
    obtain ⟨tile, ht, hmem⟩ := (mem_rowTile_iff htr c.rows r).mpr hr
    obtain ⟨k, hk, hx⟩ := (mem_colTile_iff htc (hlen r hr) x).mpr hx
    exact ⟨tile, ht, k, hk, r, hmem, hx⟩

/-- A step whose elements are independent and whose sources can all be read. -/
theorem byEl_ok {c : VC} {row : Nat → List CF × Option StepErr} {res : Nat → List CF} (htr : 0 < c.st.tr) (htc : 0 < c.st.tc)
    (h : ∀ r < c.rows, row r = (res r, none)) (hlen : ∀ r < c.rows, (res r).length ≤ c.cols) :
    c.byEl row = { writes := elTiles c res, flags := flagsOf ((List.range c.rows).flatMap res) } := by
  rw [elTiles_eq, ← flagsOf_tiles htr htc hlen]
  simp only [flagsOf_flatMap]
  unfold VC.byEl
  rw [foldl_gather (ws := fun tile => (List.range (ceilDiv c.cols c.st.tc)).flatMap (tileWrites c res tile))
    (fl := fun tile => (List.range (ceilDiv c.cols c.st.tc)).foldl (fun f k => f ||| tile.foldl (fun f r => f ||| flagsOf (colTileOf c res k r)) 0) 0)
    (fun tile ht o ho => foldl_gather (fun k _ o ho => add_ok ho ?tile) ho) rfl]
  case tile =>
    dsimp only
    rw [List.map_congr_left fun r hr => by rw [h r (lt_of_mem_rowTile htr ht hr)],
      mapM_ok (g := fun x => (x.1, (x.2.1.drop (k * c.st.tc)).take c.st.tc))]
    · simp only [bind, Except.bind, List.map_map, List.foldl_map, Function.comp_def]
      rfl
    · intro x hx
      obtain ⟨r, -, rfl⟩ := List.mem_map.mp hx
      rfl
  · simp

/-- A source of an element-wise step: its width is that of the region or one column, or it is the immediate (R82). -/
def Fits (c : VC) (i : Nat) : Prop := i = 0xFFFE ∨ (c.tile i).cols = 1 ∨ (c.tile i).cols = c.cols

section

variable {α : Type} {c : VC} {imm : α} {lift : Fmt → Nat → α}

/-- A row of a source that can be read: an element-wise step reads all of it. -/
theorem elsTo_ok {i r : Nat} {l : List α} (hcols : Fits c i)
    (h : (if i = 0xFFFE then .ok (List.replicate c.cols imm) else (c.codes i r).map fun l => l.map (lift (c.tile i).f)) = .ok l) :
    c.elsTo imm lift i r = (l, none) ∧ l.length = c.cols := by
  unfold VC.elsTo
  by_cases himm : i = 0xFFFE
  · rw [if_pos himm] at h ⊢
    cases h
    exact ⟨rfl, List.length_replicate⟩
  · rw [if_neg himm] at h ⊢
    cases hcodes : c.codes i r with
    | error e => rw [hcodes] at h; cases h
    | ok codes =>
      rw [hcodes] at h
      cases h
      obtain ⟨hto, hlen⟩ := codesTo_of_codes (hcols.resolve_left himm) hcodes
      rw [hto]
      exact ⟨rfl, by rw [List.length_map, hlen]⟩

theorem sideBySide_full (d : α) {cols : Nat} {ls : List (List α)} (h : ∀ l ∈ ls, l.length = cols) :
    sideBySide d cols (ls.map fun l => (l, none)) = ((List.range cols).map fun k => ls.map fun l => lget d l k, none) := by
  have hmin : ls.foldl (fun m l => min m l.length) cols = cols := by
    induction ls with
    | nil => rfl
    | cons l ls ih =>
      rw [List.foldl_cons, h l List.mem_cons_self, Nat.min_self]
      exact ih fun x hx => h x (List.mem_cons_of_mem _ hx)
  simp [sideBySide, List.foldl_map, hmin, Function.comp_def]

/-- The rows `r` of sources that can be read, side by side. -/
theorem sources_ok (d : α) {srcs : List Nat} {r : Nat} {xs : Nat → List α} (hcols : ∀ i ∈ srcs, Fits c i)
    (h : ∀ i ∈ srcs,
      (if i = 0xFFFE then .ok (List.replicate c.cols imm) else (c.codes i r).map fun l => l.map (lift (c.tile i).f)) = .ok (xs i)) :
    sideBySide d c.cols (srcs.map fun i => c.elsTo imm lift i r) = ((List.range c.cols).map fun k => (srcs.map xs).map fun l => lget d l k, none) := by
  have hread : srcs.map (fun i => c.elsTo imm lift i r) = (srcs.map xs).map fun l => (l, none) := by
    rw [List.map_map]
    exact List.map_congr_left fun i hi => (elsTo_ok (hcols i hi) (h i hi)).1
  rw [hread, sideBySide_full]
  intro l hl
  obtain ⟨i, hi, rfl⟩ := List.mem_map.mp hl
  exact (elsTo_ok (hcols i hi) (h i hi)).2

end

/-- R86: a float step whose sources can be read. -/
theorem ew_ok {m : Nat} {g : Bool → List Nat → CF} {out : Nat → Bool → Bool → CF → CF} {c : VC} {xs : Nat → Nat → List CF} (htr : 0 < c.st.tr)
    (htc : 0 < c.st.tc) (hcols : ∀ i ∈ [c.st.src0, c.st.src1, c.st.src2].take m, Fits c i)
    (hread : ∀ i ∈ [c.st.src0, c.st.src1, c.st.src2].take m, ∀ r < c.rows, c.floats i r = .ok (xs i r)) :
    VC.ew m g out c =
      { writes := elTiles c fun r => floatRow g out c (([c.st.src0, c.st.src1, c.st.src2].take m).map fun i => xs i r)
        flags := flagsOf ((List.range c.rows).flatMap fun r => floatRow g out c (([c.st.src0, c.st.src1, c.st.src2].take m).map fun i => xs i r)) } := by
  unfold VC.ew
  refine byEl_ok htr htc (fun r hr => ?_) fun r _ => by simp [floatRow]
  dsimp only
  rw [sources_ok (imm := (enc32 (rd32 c.ftz c.st.imm).1, (rd32 c.ftz c.st.imm).2)) (lift := (widenCode · c.ftz)) (0, 0) hcols
    fun i hi => hread i hi r hr, List.map_map]
  rfl

/-- R87: an integer step whose sources can be read. -/
theorem iw_ok {g : Int → Int → Int × Nat} {c : VC} {xs : Nat → Nat → List Int} (htr : 0 < c.st.tr)
    (htc : 0 < c.st.tc) (hcols : ∀ i ∈ [c.st.src0, c.st.src1], Fits c i)
    (hread : ∀ i ∈ [c.st.src0, c.st.src1], ∀ r < c.rows, intSource c i r = .ok (xs i r)) :
    VC.iw g c =
      { writes := elTiles c fun r => intRow g c ([c.st.src0, c.st.src1].map fun i => xs i r)
        flags := flagsOf ((List.range c.rows).flatMap fun r => intRow g c ([c.st.src0, c.st.src1].map fun i => xs i r)) } := by
  have hlen : ∀ i ∈ [c.st.src0, c.st.src1], ∀ r < c.rows, (xs i r).length = c.cols := fun i hi r hr =>
    (elsTo_ok (lift := intCode) (hcols i hi) (hread i hi r hr)).2
  unfold VC.iw
  refine byEl_ok htr htc (fun r hr => ?_) fun r hr => ?_
  · have h0 := hlen c.st.src0 (by simp) r hr
    have h1 := hlen c.st.src1 (by simp) r hr
    dsimp only
    rw [sources_ok 0 hcols fun i hi => hread i hi r hr, List.map_map]
    refine Prod.ext (List.ext_getElem (by simp [intRow, h0, h1]) fun k hk _ => ?_) rfl
    simp only [List.length_map, List.length_range] at hk
    simp [intRow, lget_eq_getD, h0, h1, hk]
  · simp [intRow, hlen _ (List.mem_cons_self) r hr]

end Sys2Proof.Laws

/-! ## Commands of a vector engine (R96, R170, R175, R176) -/

namespace Sys2Proof.Laws

open Sys2Proof.Machine Sys2Proof.Claims

/-- The command `mk` carries out the steps that `want` accepts, which nothing but their count can stop when they are issued. -/
def Performs (mk : VecCmd) (want : Bytes → Bool) (body : VC → VOut) (region : VStep → Nat) (more : VC → W → W) : Prop :=
  ∀ (p d e : Nat) (fx : MemFx) (s : State),
    exec (mk p d e fx) s = .next (s.commit (s.w.vecStep p d e fx want body region (fun _ => none) more))

/-- The same of a command that only writes what `body` gives. -/
def Computes (mk : VecCmd) (want : Bytes → Bool) (body : VC → VOut) (region : VStep → Nat := (·.src0)) : Prop :=
  Performs mk want body region fun _ => id

/-- What is done to the device beside the memories leaves the memory operations as they are. -/
def LeavesOps (f : W → W) : Prop := ∀ w ops, f { w with ops := ops } = { f w with ops := ops }

theorem leavesOps_id : LeavesOps id := fun _ _ => rfl
theorem leavesOps_setCount (c : VC) (k v : Nat) : LeavesOps (c.setCount k v) := fun _ _ => rfl
theorem leavesOps_setSummary (c : VC) (fmt v : Nat) : LeavesOps (c.setSummary fmt v) := fun _ _ => rfl

section

variable {mk : VecCmd} {want : Bytes → Bool} {body : VC → VOut} {region : VStep → Nat} {more : VC → W → W}
  {s : State} {p d e n : Nat} {j : Job} {b : Bytes} {fx : MemFx} {c : VC}

/-- A ready step of a command: what it writes, the flags that it raises, and what it changes besides. -/
theorem performs_done (hmk : Performs mk want body region more) (h : s.VecReady p d e j b fx (region (vstepOf b)) n) (hw : want b = true)
    (hc : s.vecView p d e j b fx n (s.regionOf j d (region (vstepOf b))).2 = c) (he : (body c).err = none) (hm : s.dev.mayWrite p (body c).writes)
    (hmore : LeavesOps (more c)) :
    ∃ t, exec (mk p d e fx) s = .next t ∧ s.StepDone t p d (8 + e) j b fx (body c).writes (body c).flags (more c) := by
  subst hc
  refine ⟨_, hmk p d e fx s, ?_⟩
  rw [vecStep_runs h hw rfl rfl he hm, hmore]
  exact ⟨rfl, rfl, rfl, fun a ha => applyAll_write_out _ a h.ready.mem ha, rfl⟩

theorem vecRuns_of_performs (hmk : Performs mk want body region more) (hmore : ∀ c, LeavesOps (more c)) : VecRuns mk want region body more :=
  fun _ _ _ _ _ _ _ _ h hw he hm => performs_done hmk h hw rfl he hm (hmore _)

/-- Row and column tiles of a step have rows and columns (R175). -/
theorem vstepOf_tr_pos (b : Bytes) : 0 < (vstepOf b).tr := Nat.succ_pos _
theorem vstepOf_tc_pos (b : Bytes) : 0 < (vstepOf b).tc := Nat.succ_pos _

/-- A command whose rows are each given by its sources' rows. -/
theorem rowsRun_of_computes {α : Type} {m : Nat} {get : VC → Nat → Nat → Except StepErr (List α)} {row : VC → List (List α) → List CF}
    (hmk : Computes mk want body)
    (hbody : ∀ (c : VC) (xs : Nat → Nat → List α), 0 < c.st.tr → 0 < c.st.tc → (∀ i ∈ [c.st.src0, c.st.src1, c.st.src2].take m, Fits c i) →
      (∀ i ∈ [c.st.src0, c.st.src1, c.st.src2].take m, ∀ r < c.rows, get c i r = .ok (xs i r)) →
      body c =
        { writes := elTiles c fun r => row c (([c.st.src0, c.st.src1, c.st.src2].take m).map fun i => xs i r)
          flags := flagsOf ((List.range c.rows).flatMap fun r => row c (([c.st.src0, c.st.src1, c.st.src2].take m).map fun i => xs i r)) }) :
    RowsRun mk want m get row := by
  intro s p d e n j b fx xs h hw c srcs res hcols hread hm
  have hout := hbody c xs (vstepOf_tr_pos b) (vstepOf_tc_pos b) hcols hread
  have hdone := performs_done (c := c) hmk h hw rfl (by rw [hout]) (by rw [hout]; exact hm) leavesOps_id
  rw [hout] at hdone
  exact hdone

end

/-- R86: a float element-wise command. -/
theorem ewRuns_of_computes {mk : VecCmd} {op m : Nat} {g : Bool → List Nat → CF} (hmk : Computes mk (opIs op) (VC.ew m g)) : EwRuns mk op m g :=
  rowsRun_of_computes hmk fun _ _ htr htc hcols hread => ew_ok htr htc hcols hread

theorem cmpRuns_of_computes {mk : VecCmd} {rel : Nat} (hmk : Computes mk (relIs rel) (VC.ew 2 (bin (fCmp rel)) outMask)) : CmpRuns mk rel :=
  rowsRun_of_computes hmk fun _ _ htr htc hcols hread => ew_ok htr htc hcols hread

/-- R87: an integer element-wise command. -/
theorem iwRuns_of_computes {mk : VecCmd} {op : Nat} {g : Int → Int → Int × Nat} (hmk : Computes mk (opIs op) (VC.iw g)) : IwRuns mk op g :=
  rowsRun_of_computes hmk fun _ _ htr htc hcols hread => iw_ok htr htc hcols hread

/-- Settles O1: every command computes `VC.ew`, whose tiles are those of `floatRow`. -/
theorem elementwiseFloat : Obligations.ElementwiseFloat := by
  refine ⟨?_, ?_, ?_, ?_, ?_, ?_, ?_, ?_, ?_, ?eq, ?ne, ?lt, ?le, ?gt, ?ge, ?_, ?_⟩
  case eq | ne | lt | le | gt | ge => exact cmpRuns_of_computes fun _ _ _ _ _ => rfl
  all_goals exact ewRuns_of_computes fun _ _ _ _ _ => rfl

/-- Settles O2: every command computes `VC.iw`, whose tiles are those of `intRow`. -/
theorem elementwiseInteger : Obligations.ElementwiseInteger := by
  refine ⟨?_, ?_, ?_, ?_, ?_, ?_, ?_, ?_, ?_⟩ <;> exact iwRuns_of_computes fun _ _ _ _ _ => rfl

end Sys2Proof.Laws

/-! ## Row reductions (R89) -/

namespace Sys2Proof.Laws

open Sys2Proof.Machine Sys2Proof.Claims

/-- A step whose rows are independent and whose sources can all be read. -/
theorem byRow_ok {c : VC} {row : Nat → Except StepErr (List (Nat × Bytes) × Nat)} {ws : Nat → List (Nat × Bytes)} {fl : Nat → Nat} (htr : 0 < c.st.tr)
    (h : ∀ r < c.rows, row r = .ok (ws r, fl r)) :
    c.byRow row = { writes := cutTiles c ws, flags := (List.range c.rows).foldl (fun f r => f ||| fl r) 0 } :=
  rowTiles_ok htr h

/-- A row reduced under its mask, in the output format. -/
def reducedRow (k : Red) (c : VC) (xs : List CF) (ms : List Bool) : CF :=
  let y := reduceRow k c.ftz ((keepOnly xs ms).map Prod.fst)
  outCode c.st.outFmt c.ftz c.st.e4nan (y.1, y.2 ||| flagsOf (keepOnly xs ms))

theorem reduce_ok {k : Red} {c : VC} {xs : Nat → List CF} {ms : Nat → List Bool} (htr : 0 < c.st.tr)
    (h : ∀ r < c.rows, c.floats c.st.src0 r = .ok (xs r) ∧ c.mask c.st.src1 r = .ok (ms r)) :
    VC.reduce k c =
      { writes := cutTiles c fun r => [c.put c.st.dst r [(reducedRow k c (xs r) (ms r)).1]]
        flags := flagsOf ((List.range c.rows).map fun r => reducedRow k c (xs r) (ms r)) } := by
  rw [flagsOf, List.foldl_map]
  refine byRow_ok htr fun r hr => ?_
  obtain ⟨hxs, hms⟩ := h r hr
  rw [hxs, hms]
  rfl

theorem redRuns_of_computes {mk : VecCmd} {op : Nat} {k : Red} (hmk : Computes mk (opIs op) (VC.reduce k)) : RedRuns mk op k := by
  intro s p d e n j b fx xs ms h hw c res writes hread hm
  have hout : VC.reduce k c = { writes := writes, flags := flagsOf ((List.range n).map res) } := reduce_ok (vstepOf_tr_pos b) hread
  have hdone := performs_done (c := c) hmk h hw rfl (by rw [hout]) (by rw [hout]; exact hm) leavesOps_id
  rw [hout] at hdone
  exact hdone

/-- Settles O4: every command computes `VC.reduce`. -/
theorem rowReductions : Obligations.RowReductions := by
  refine ⟨?_, ?_, ?_, ?_⟩ <;> exact redRuns_of_computes fun _ _ _ _ _ => rfl

end Sys2Proof.Laws

/-! ## What a step's issue and its flags leave of a die (R52, R101) -/

namespace Sys2Proof.Laws

open Sys2Proof.Machine Sys2Proof.Claims

theorem die_raiseFlags (w : W) (p d q fl i : Nat) : ∃ F, (w.raiseFlags p d q fl).d.die i = { w.d.die i with flags := F } := by
  unfold W.raiseFlags
  split
  · exact ⟨_, rfl⟩
  · next j _ =>
    by_cases hi : i = j.site d
    · subst hi; exact ⟨_, die_modDie _ _ _⟩
    · exact ⟨_, die_modDie_ne _ _ _ _ hi⟩

section

variable {R : Dev → Dev → Prop} (hrefl : ∀ a, R a a) (htrans : ∀ a b c, R a b → R b c → R a c)
  (hdie : ∀ (w : W) (i : Nat) (f : Die → Die),
    (∀ D, f D = { D with tokens := (f D).tokens, spEcc := (f D).spEcc, stackEcc := (f D).stackEcc }) → R w.d (w.modDie i f).d)

include hrefl htrans hdie

theorem countSites_related (w : W) (fx : MemFx) : R w.d (w.countSites fx).d := by
  have heach : ∀ (l : List (Nat × Nat)) (f : W → Nat × Nat → W), (∀ w x, R w.d (f w x).d) → ∀ w : W, R w.d (w.each l f).d := by
    intro l f hf
    induction l with
    | nil => exact fun w => hrefl _
    | cons x l ih => exact fun w => htrans _ _ _ (hf w x) (ih (f w x))
  unfold W.countSites
  refine htrans _ _ _ (heach fx.sp _ (fun w x => ?_) w) (heach fx.dram _ (fun w x => ?_) _) <;>
  · dsimp only
    split
    · exact hdie _ _ _ fun _ => rfl
    · exact hrefl _

/-- The issue of a step takes tokens and counts corrections, on dies and polders alone: what both keep, the issue keeps. -/
theorem issued_related (hpol : ∀ (w : W) (p : Nat) (f : Pol → Pol), R w.d (w.modPol p f).d) (s : State) (p d q : Nat) (j : Job) (b : Bytes) (fx : MemFx) :
    R s.dev (s.issued p d q j b fx).d := by
  have htaken : R s.dev (s.taken p d q j b).d :=
    htrans _ _ _ (hdie s.w (j.site d) (fun D => { D with tokens := takeTokens D.tokens ((j.queue d q).needs (stepWaits b)) }) fun _ => rfl) (hpol _ _ _)
  have hsites := countSites_related hrefl htrans hdie (s.taken p d q j b) fx
  unfold State.issued W.jobFx W.countFx W.polErr W.modJob
  generalize (s.taken p d q j b).countSites fx = v at hsites ⊢
  exact htrans _ _ _ htaken (htrans _ _ _ hsites
    (htrans _ _ _ (hpol _ _ _) (htrans _ _ _ (hpol _ _ _) (htrans _ _ _ (hpol _ _ _) (hpol _ _ _)))))

end

/-- `b` is `a` but for work on its dies and polders that leaves the summary words as they are. -/
structure SumsKept (a b : Dev) : Prop where
  rest : ∃ D P, b = { a with dies := D, pols := P }
  sums : ∀ i, (b.die i).sums = (a.die i).sums

theorem SumsKept.refl (a : Dev) : SumsKept a a := ⟨⟨_, _, rfl⟩, fun _ => rfl⟩

theorem SumsKept.trans {a b c : Dev} (h : SumsKept a b) (k : SumsKept b c) : SumsKept a c := by
  refine ⟨?_, fun i => (k.sums i).trans (h.sums i)⟩
  obtain ⟨D, P, hb⟩ := h.rest
  obtain ⟨D', P', hc⟩ := k.rest
  exact ⟨D', P', by rw [hc, hb]⟩

theorem sumsKept_modDie (w : W) (s : Nat) (f : Die → Die) (h : ∀ D, (f D).sums = D.sums) : SumsKept w.d (w.modDie s f).d := by
  refine ⟨⟨_, _, rfl⟩, fun i => ?_⟩
  by_cases hi : i = s
  · subst hi; rw [die_modDie]; exact h _
  · rw [die_modDie_ne _ _ _ _ hi]

theorem sumsKept_modPol (w : W) (p : Nat) (f : Pol → Pol) : SumsKept w.d (w.modPol p f).d := ⟨⟨_, _, rfl⟩, fun _ => rfl⟩

theorem sumsKept_issued (s : State) (p d q : Nat) (j : Job) (b : Bytes) (fx : MemFx) : SumsKept s.dev (s.issued p d q j b fx).d :=
  issued_related SumsKept.refl (fun _ _ _ => SumsKept.trans) (fun w i f hf => sumsKept_modDie w i f fun D => by rw [hf D]) sumsKept_modPol s p d q j b fx

end Sys2Proof.Laws

/-! ## Summary words (R101, R102) -/

namespace Sys2Proof.Laws

open Sys2Proof.Machine Sys2Proof.Claims

/-- The value of a summary step, with its flags. -/
def summaryOf (g : Bool → List Nat → CF) (c : VC) : CF :=
  match c.all with
  | .ok xs => ((g c.ftz (xs.map Prod.fst)).1, (g c.ftz (xs.map Prod.fst)).2 ||| flagsOf xs)
  | .error _ => (0, 0)

/-- What a summary step does beside its word. -/
def summaryOut (g : Bool → List Nat → CF) (c : VC) : VOut :=
  match c.all with
  | .error er => { err := some er }
  | .ok _ => { flags := (summaryOf g c).2 }

theorem all_ok {c : VC} {xs : Nat → List CF} (h : ∀ r < c.rows, c.floats c.st.src0 r = .ok (xs r)) : c.all = .ok ((List.range c.rows).flatMap xs) := by
  rw [VC.all, mapM_ok fun r hr => h r (List.mem_range.mp hr)]
  rfl

/-- The command `mk` is SUMMARY of kind `k`. -/
def Summarises (mk : VecCmd) (k fmt : Nat) (g : Bool → List Nat → CF) : Prop :=
  Performs mk (sumIs k) (summaryOut g) (·.src0) fun c => c.setSummary fmt (summaryOf g c).1

theorem smax_summarises : Summarises .smax 0 0x00 (reduceRow .max) := fun _ _ _ _ _ => rfl
theorem smin_summarises : Summarises .smin 1 0x00 (reduceRow .min) := fun _ _ _ _ _ => rfl
theorem ssum_summarises : Summarises .ssum 2 0x00 (reduceRow .sum) := fun _ _ _ _ _ => rfl
theorem snz_summarises : Summarises .snz 3 0x21 snzOf := fun _ _ _ _ _ => rfl
theorem sfirst_summarises : Summarises .sfirst 4 0x21 sfirstOf := fun _ _ _ _ _ => rfl

theorem sumRuns_of_summarises {mk : VecCmd} {k fmt : Nat} {g : Bool → List Nat → CF} (hmk : Summarises mk k fmt g) : SumRuns mk k fmt g := by
  intro s p d e n j b fx xs h hw c all y hread
  have hall : c.all = .ok all := all_ok hread
  have hval : summaryOf g c = (y.1, y.2 ||| flagsOf all) := by rw [summaryOf, hall]
  have hout : summaryOut g c = { flags := y.2 ||| flagsOf all } := by rw [summaryOut, hall, hval]
  obtain ⟨t, hexec, hdone⟩ := performs_done (c := c) hmk h hw rfl (by rw [hout]) (by rw [hout]; simp [Dev.mayWrite]) (leavesOps_setSummary _ _ _)
  rw [hout, hval] at hdone
  refine ⟨t, hexec, hdone, ?_⟩
  obtain ⟨F, hflags⟩ := die_raiseFlags (s.issued p d (8 + e) j b fx) p d (8 + e) (y.2 ||| flagsOf all) (j.site d)
  have hdie : t.dev.die (j.site d) = { (s.issued p d (8 + e) j b fx).d.die (j.site d) with
      flags := F
      sums := tmod {} (s.dev.die (j.site d)).sums (8 * e + (vstepOf b).p % 8) fun S =>
        { seq := (S.seq + 1) % 65536, valid := true, value := y.1 % 2 ^ 32, fmt := fmt } } := by
    rw [hdone.dev, ← (sumsKept_issued s p d (8 + e) j b fx).sums]
    refine (die_modDie _ _ _).trans ?_
    dsimp only
    rw [show c.j.site c.d = j.site d from rfl, hflags]
    rfl
  rw [hdie]

/-- Settles O5: the five kinds over the elements of the region, and SCNT, which reads its count slot. -/
theorem summaryWords : Obligations.SummaryWords :=
  ⟨sumRuns_of_summarises smax_summarises, sumRuns_of_summarises smin_summarises, sumRuns_of_summarises ssum_summarises,
    sumRuns_of_summarises snz_summarises, sumRuns_of_summarises sfirst_summarises,
    vecRuns_of_performs (fun _ _ _ _ _ => rfl) fun c => leavesOps_setSummary c _ _⟩

end Sys2Proof.Laws

/-! ## Rows, movement and counts (R90 to R94, R97 to R99, R116, R130 to R136, R281 to R283) -/

namespace Sys2Proof.Laws

open Sys2Proof.Machine Sys2Proof.Claims

theorem opFlag_false (op i : Nat) : opFlag op i false = fun b => stepOp b == op && !(stepX b).testBit i := by
  funext b
  simp [opFlag]

theorem opFlag_true (op i : Nat) : opFlag op i true = fun b => stepOp b == op && (stepX b).testBit i := by
  funext b
  simp [opFlag]

theorem vecRuns_of_computes {mk : VecCmd} {want : Bytes → Bool} {body : VC → VOut} {region : VStep → Nat} (hmk : Computes mk want body region) :
    VecRuns mk want region body fun _ => id := vecRuns_of_performs hmk fun _ => leavesOps_id

theorem normRms_computes : Computes .normRms (opFlag 0x48 0 false) (VC.norm false) := by
  rw [opFlag_false]
  exact fun _ _ _ _ _ => rfl

theorem normLayer_computes : Computes .normLayer (opFlag 0x48 0 true) (VC.norm true) := by
  rw [opFlag_true]
  exact fun _ _ _ _ _ => rfl

theorem scatter_computes : Computes .scatter (opFlag 0x61 1 false) fun c =>
    if c.st.x.testBit 0 then c.scatterEl (fun _ _ v => (v, 0))
    else c.moveRows (c.tile c.st.dst).rows fun r i => (c.rawRow (c.tile c.st.src0) r).map (c.putRaw (c.tile c.st.dst) i) := by
  rw [opFlag_false]
  exact fun _ _ _ _ _ => rfl

theorem scatterAdd_computes : Computes .scatterAdd (opFlag 0x61 1 true) fun c =>
    if c.st.x.testBit 0 then c.scatterEl fAdd else c.scatterAddRows := by
  rw [opFlag_true]
  exact fun _ _ _ _ _ => rfl

/-- Settles O6: each command computes the rows that its statement names. -/
theorem rowFunctions : Obligations.RowFunctions := by
  refine ⟨vecRuns_of_computes normRms_computes, vecRuns_of_computes normLayer_computes, ?_, ?_, ?_, ?_, ?_, ?_⟩ <;>
    exact vecRuns_of_computes fun _ _ _ _ _ => rfl

/-- Settles O7: each command computes the writes that its statement names; COMPRESS and CNT_LOAD set their count slot after them. -/
theorem movementAndCounts : Obligations.MovementAndCounts := by
  refine ⟨?_, vecRuns_of_computes scatter_computes, vecRuns_of_computes scatterAdd_computes, ?_, ?_, ?compress, ?cntLoad⟩
  case compress =>
    refine vecRuns_of_performs (fun _ _ _ _ _ => rfl) fun c => ?_
    cases c.activeRows with
    | ok l => exact leavesOps_setCount c _ _
    | error _ => exact leavesOps_id
  case cntLoad =>
    refine vecRuns_of_performs (fun _ _ _ _ _ => rfl) fun c => ?_
    cases c.codes c.st.src0 0 with
    | ok l => exact leavesOps_setCount c _ _
    | error _ => exact leavesOps_id
  all_goals exact vecRuns_of_computes fun _ _ _ _ _ => rfl

end Sys2Proof.Laws

/-! ## Counted steps (R96) -/

namespace Sys2Proof.Laws

open Sys2Proof.Machine Sys2Proof.Claims

/-- Every command of a vector engine but USERn: nothing but the count can stop its step when it is issued. -/
theorem vecCmds_perform : ∀ x ∈ vecCmds, ∃ body region more, Performs x.1 x.2 body region more := by
  rw [vecCmds, List.forall_mem_append]
  simp only [List.forall_mem_cons, List.not_mem_nil, IsEmpty.forall_iff, implies_true, and_true]
  constructor
  · and_intros <;> exact ⟨_, _, _, fun _ _ _ _ _ => rfl⟩
  · refine ⟨?_, ?_, ?_, ?_, ?_, ?_, ⟨_, _, _, smax_summarises⟩, ⟨_, _, _, smin_summarises⟩, ⟨_, _, _, ssum_summarises⟩, ⟨_, _, _, snz_summarises⟩,
      ⟨_, _, _, sfirst_summarises⟩, ?_, ⟨_, _, _, normRms_computes⟩, ⟨_, _, _, normLayer_computes⟩, ⟨_, _, _, scatter_computes⟩,
      ⟨_, _, _, scatterAdd_computes⟩⟩ <;> exact ⟨_, _, _, fun _ _ _ _ _ => rfl⟩

/-- The step at the head of an engine's queue, wanted and with its tokens, names a count slot: the count decides. -/
theorem vecStep_counted {s : State} {p d e k : Nat} {j : Job} {b : Bytes} {fx : MemFx} {want : Bytes → Bool} {body : VC → VOut} {region : VStep → Nat}
    {more : VC → W → W} (hhead : s.w.headStep p d (8 + e) = some (j, b))
    (hwaits : tokensReady (s.dev.die (j.site d)).tokens ((j.queue d (8 + e)).needs (stepWaits b)) = true) (hkind : stepKind b = 2) (he : e < 2)
    (hw : want b = true) (hcount : stepCount b = some k) :
    ((vstepOf b).cmax < tget 0 (s.dev.die (j.site d)).counts k →
      s.w.vecStep p d e fx want body region (fun _ => none) more = (s.taken p d (8 + e) j b).stepFault p d (8 + e) stCOUNT_RANGE 0) ∧
    (tget 0 (s.dev.die (j.site d)).counts k = 0 →
      s.w.vecStep p d e fx want body region (fun _ => none) more = (s.taken p d (8 + e) j b).releaseStep p d (8 + e)) := by
  unfold W.vecStep
  rw [issue_headStep hhead hwaits _ (by simp [hkind, hw, he])]
  constructor
  · intro hgreat
    simp only [W.rowsOf, hcount, taken_die, if_pos hgreat]
  · intro hzero
    simp only [W.rowsOf, hcount, taken_die, hzero, if_neg (Nat.not_lt_zero _)]

/-- A step of an engine's queue that is issued and faults at once. -/
theorem stepFaulted_taken {s : State} {p d e : Nat} {j : Job} {b : Bytes} (hhead : s.w.headStep p d (8 + e) = some (j, b)) (status detail : Nat) :
    s.StepFaulted (s.commit ((s.taken p d (8 + e) j b).stepFault p d (8 + e) status detail)) p d (8 + e) j b status detail := by
  refine ⟨rfl, rfl, rfl, rfl, ?_⟩
  obtain ⟨hjob, -⟩ := runningJob_job (runningJob_taken hhead)
  unfold W.stepFault W.modJob
  rw [commit_dev, pol_modPol, hjob]
  dsimp only [Option.map_some]
  rw [queue_setQueue, now_issue]
  rfl

theorem die_modJob (w : W) (p i : Nat) (f : Job → Job) : (w.modJob p f).d.die i = w.d.die i := rfl

theorem tokens_taken (s : State) (p d q : Nat) (j : Job) (b : Bytes) :
    ((s.taken p d q j b).d.die (j.site d)).tokens = takeTokens (s.dev.die (j.site d)).tokens ((j.queue d q).needs (stepWaits b)) := by
  rw [State.taken, die_modJob, die_modDie]
  rfl

/-- A step of an engine's queue that is issued and releases at once. -/
theorem tokens_released {s : State} {p d e : Nat} {j : Job} {b : Bytes} (hhead : s.w.headStep p d (8 + e) = some (j, b)) (hkind : stepKind b ≠ 4) :
    ((s.taken p d (8 + e) j b).releaseStep p d (8 + e)).ops = [] ∧
    (((s.taken p d (8 + e) j b).releaseStep p d (8 + e)).d.die (j.site d)).tokens =
      addTokens (takeTokens (s.dev.die (j.site d)).tokens ((j.queue d (8 + e)).needs (stepWaits b))) (stepSignals b) := by
  rw [releaseStep_taken hhead, signalStep_no_remote _ _ _ hkind]
  refine ⟨rfl, ?_⟩
  rw [die_modJob, die_modDie, ← tokens_taken]

/-- Settles O9: the count decides before anything of the step is read. -/
theorem countedSteps : Obligations.CountedSteps := by
  intro x hx s p d e k j b fx hhead hwaits hkind he hw hcount v
  obtain ⟨body, region, more, hmk⟩ := vecCmds_perform x hx
  obtain ⟨hgreat, hzero⟩ := vecStep_counted (fx := fx) (body := body) (region := region) (more := more) hhead hwaits hkind he hw hcount
  constructor
  · intro hv
    refine ⟨_, hmk p d e fx s, ?_⟩
    rw [hgreat hv]
    exact stepFaulted_taken hhead _ _
  · intro hv
    obtain ⟨hops, htokens⟩ := tokens_released hhead (by omega)
    refine ⟨_, hmk p d e fx s, ?_⟩
    rw [hzero hv]
    exact ⟨by rw [commit_mem, hops]; rfl, rfl, rfl, rfl, htokens⟩

end Sys2Proof.Laws

/-! ## The transform unit (R103 to R106, R177) -/

namespace Sys2Proof.Laws

open Sys2Proof.Machine Sys2Proof.Claims

/-- The issue of a step leaves the smoothing banks as they were. -/
theorem smActive_issued (s : State) (p d q : Nat) (j : Job) (b : Bytes) (fx : MemFx) (i : Nat) : (s.issued p d q j b fx).d.smActive i = s.dev.smActive i := by
  obtain ⟨D, P, h⟩ := (sumsKept_issued s p d q j b fx).rest
  rw [h]
  rfl

/-- The codes and scales that a TRANSFORM step makes of a row of codes, and its flags (R103). -/
def transformed (s : State) (j : Job) (d : Nat) (b : Bytes) (codes : List Nat) : List Nat × List Nat × Nat :=
  transformRow (j.ftzOf 2) ((fld b 0x18 4).testBit 24) (fmtD (bits (fld b 0x18 4) 23 18))
    (if (fld b 0x18 4).testBit 14 then
      some fun k => tget (s.dev.smActive (j.site d)).dflt (s.dev.smActive (j.site d)).vals (bits (fld b 0x18 4) 13 0 + k) else none)
    (gsizeOf (bits (fld b 0x18 4) 16 15)) ((fld b 0x18 4).testBit 17) (lfsrSigns (s.w.tile j d (fld b 8 2)).cols (fld b 0x10 8))
    (codes.map (widenCode (s.w.tile j d (fld b 8 2)).f (j.ftzOf 2)))

/-- The writes of row `r` of a TRANSFORM step. -/
def transformWrites (s : State) (j : Job) (d : Nat) (b : Bytes) (r : Nat) (y : List Nat × List Nat × Nat) : List (Nat × Bytes) :=
  (j.rowAddr (s.w.tile j d (fld b 0xA 2)) r, pack (s.w.tile j d (fld b 0xA 2)).f.w y.1) ::
    (if y.2.1.isEmpty then [] else [(j.scaleAddr (s.w.tile j d (fld b 0xA 2)) r, y.2.1.map (BitVec.ofNat 8 ·))])

/-- A TRANSFORM step that is ready runs: its rows are computed, its writes land, its flags are raised. -/
theorem transformStep_runs {s : State} {p d n : Nat} {j : Job} {b : Bytes} {fx : MemFx} {xs : Nat → List Nat} {writes : List (Nat × Bytes)}
    (h : s.Ready p d 10 j b fx) (hkind : stepKind b = 3) (hrows : s.rowsAre j d b (s.w.tile j d (fld b 8 2)).rows (fld b 0xC 2 + 1) n) (hn : 0 < n)
    (hown : s.w.ownTiles j d [fld b 8 2, fld b 0xA 2] = true)
    (hread : ∀ r < n, (s.issued p d 10 j b fx).rowCodes p j (s.w.tile j d (fld b 8 2)) (if (s.w.tile j d (fld b 8 2)).rows = 1 then 0 else r) = .ok (xs r))
    (hwrites : (chunksOf 64 (ceilDiv n 64) (List.range n)).flatMap (fun tile => colTiles (64 * (s.w.tile j d (fld b 0xA 2)).f.w)
      (tile.map fun r => transformWrites s j d b r (transformed s j d b (xs r)))) = writes)
    (hm : s.dev.mayWrite p writes) :
    s.w.transformStep p d fx = { (s.issued p d 10 j b fx).raiseFlags p d 10 ((List.range n).foldl (fun f r => f ||| (transformed s j d b (xs r)).2.2) 0) with
      ops := writeOps writes } := by
  obtain ⟨m, rfl⟩ : ∃ m, n = m + 1 := ⟨n - 1, by omega⟩
  have htile : ∀ i, (s.taken p d 10 j b).tile j d i = s.w.tile j d i := fun _ => rfl
  have howns : (s.taken p d 10 j b).ownTiles j d [fld b 8 2, fld b 0xA 2] = true := hown
  have hissued : (s.taken p d 10 j b).jobFx p fx = s.issued p d 10 j b fx := rfl
  rw [W.transformStep, issue_ready h _ (by simp [hkind])]
  simp only [htile, rowsOf_ok hrows, howns, Bool.not_true, Bool.false_eq_true, if_false]
  rw [withFx_fine (taken_job h) h.fine, hissued, smActive_issued,
    rowTiles_ok (ws := fun r => transformWrites s j d b r (transformed s j d b (xs r))) (fl := fun r => (transformed s j d b (xs r)).2.2) (by decide) ?row]
  case row =>
    intro r hr
    rw [hread r hr]
    rfl
  rw [hwrites, vecApply_ok rfl ((sameReach_issued s p d 10 j b fx).mayWrite hm), (issued_mem s p d 10 j b fx).2]
  rfl

/-- Settles O11: the step is issued, its rows are independent, and its writes are those of `transformRow`. -/
theorem transformSteps : Obligations.TransformSteps := by
  intro s p d n j b fx xs u src dst bank h hkind hrows hn hown hread res writes hm
  refine ⟨_, congrArg (fun w => Host.Outcome.next (s.commit w)) (transformStep_runs h hkind hrows hn hown hread (writes := writes) rfl hm), ?_⟩
  exact ⟨rfl, rfl, rfl, fun a ha => applyAll_write_out writes a h.mem ha, rfl⟩

end Sys2Proof.Laws

/-! ## Special functions and user functions (R107 to R110, R116, R127) -/

namespace Sys2Proof.Laws

open Sys2Proof.Machine Sys2Proof.Claims

/-- A row of a special function is its elements, each computed alone. -/
theorem funcRow_eq (g : VC → FV → XR × Nat) (c : VC) (xs : List CF) : funcRow g c xs = xs.map (sfuEl (g c) c.st.outFmt c.ftz c.st.e4nan) := rfl

/-- A unary function whose source can be read. -/
theorem unary_ok {g : VC → FV → XR × Nat} {c : VC} {xs : Nat → List CF} (htr : 0 < c.st.tr) (h : ∀ r < c.rows, c.floats c.st.src0 r = .ok (xs r)) :
    c.unary (g c) =
      { writes := cutTiles c fun r => [c.put c.st.dst r ((funcRow g c (xs r)).map Prod.fst)]
        flags := flagsOf ((List.range c.rows).flatMap fun r => funcRow g c (xs r)) } := by
  rw [flagsOf_flatMap]
  refine byRow_ok htr fun r hr => ?_
  rw [h r hr, funcRow_eq]
  rfl

theorem sfuRuns_of_computes {mk : VecCmd} {op : Nat} {fn : Fn} (hmk : Computes mk (opIs op) fun c => c.unary (sfu c.T fn)) : SfuRuns mk op fn := by
  intro s p d e n j b fx xs h hw c res writes hread hm
  have hout : c.unary (sfu c.T fn) = { writes := writes, flags := flagsOf ((List.range n).flatMap res) } :=
    unary_ok (g := fun c => sfu c.T fn) (vstepOf_tr_pos b) hread
  have hdone := performs_done (c := c) hmk h hw rfl (by rw [hout]) (by rw [hout]; exact hm) leavesOps_id
  rw [hout] at hdone
  exact hdone

/-- Settles O3: every command computes `VC.unary` of its function, whose rows are those of `funcRow`. -/
theorem specialFunctions : Obligations.SpecialFunctions := by
  refine ⟨?_, ?_, ?_, ?_, ?_, ?_, ?_, ?_, ?_, ?_, ?_, ?_, ?_, ?_, ?_, ?_, fun c fn => funcRow_eq (fun c => sfu c.T fn) c⟩ <;>
    exact sfuRuns_of_computes fun _ _ _ _ _ => rfl

section

variable {s : State} {p d e : Nat} {j : Job} {b : Bytes} {fx : MemFx} {want : Bytes → Bool} {body : VC → VOut} {region : VStep → Nat}
  {pre : VC → Option StepErr} {more : VC → W → W}

/-- What vector engine `e` sees of a step as it is issued, its operands not yet read. -/
def issueView (s : State) (p d e : Nat) (j : Job) (b : Bytes) (rc : Nat × Nat) : VC :=
  { w := s.taken p d (8 + e) j b, p := p, j := j, d := d, e := e, st := vstepOf b, ftz := j.ftzOf 1, rows := rc.1, cols := rc.2 }

/-- A ready step of a command with a check at the issue, which passes. -/
theorem vecStep_done {n : Nat} {c : VC} (h : s.VecReady p d e j b fx (region (vstepOf b)) n) (hw : want b = true)
    (hc : s.vecView p d e j b fx n (s.regionOf j d (region (vstepOf b))).2 = c)
    (hpre : pre (issueView s p d e j b (s.regionOf j d (region (vstepOf b)))) = none) (he : (body c).err = none)
    (hm : s.dev.mayWrite p (body c).writes) (hmore : LeavesOps (more c)) :
    s.StepDone (s.commit (s.w.vecStep p d e fx want body region pre more)) p d (8 + e) j b fx (body c).writes (body c).flags (more c) := by
  subst hc
  rw [vecStep_runs h hw rfl hpre he hm, hmore]
  exact ⟨rfl, rfl, rfl, fun a ha => applyAll_write_out _ a h.ready.mem ha, rfl⟩

/-- A ready step of a command that the check at the issue refuses: nothing of it runs. -/
theorem vecStep_refused {n : Nat} {er : StepErr} (h : s.VecReady p d e j b fx (region (vstepOf b)) n) (hw : want b = true)
    (hpre : pre (issueView s p d e j b (s.regionOf j d (region (vstepOf b)))) = some er) :
    s.StepFaulted (s.commit (s.w.vecStep p d e fx want body region pre more)) p d (8 + e) j b er.status er.detail := by
  have hstep : s.w.vecStep p d e fx want body region pre more = (s.taken p d (8 + e) j b).stepFault p d (8 + e) er.status er.detail := by
    have hregion : (if region (vstepOf b) ≥ 0xFFFE then ((1 : Nat), (1 : Nat)) else
      let t := (s.taken p d (8 + e) j b).tile j d (region (vstepOf b)); (t.rows, t.cols)) = s.regionOf j d (region (vstepOf b)) := rfl
    unfold issueView at hpre
    unfold W.vecStep
    rw [issue_ready h.ready _ (by simp [h.kind, hw, h.engine])]
    simp only [hregion, hpre]
  rw [hstep]
  exact stepFaulted_taken h.ready.head _ _

end

/-- The user slot that the step at the head of queue 8 + e of logical die `d` names (R116). -/
def userSlotOf (d e : Nat) (c : VC) : Nat := 11 + (stepOp (c.w.stepBytes c.j c.j.seg d (8 + e) (c.j.queue d (8 + e)).pos) - 0x30)

/-- USERn finds its slot in the bank that is active on its engine (R127). -/
def userCheck (d e : Nat) (c : VC) : Option StepErr :=
  if c.bank.user.any (·.1 == userSlotOf d e c) then none else some { status := stTABLE_SLOT_EMPTY }

/-- The function that USERn evaluates (R116). -/
def userFn (d e : Nat) (c : VC) : FV → XR × Nat := (userSlot (tget [] c.bank.user (userSlotOf d e c))).eval

def isUser (b : Bytes) : Bool := decide (0x30 ≤ stepOp b ∧ stepOp b ≤ 0x34)

theorem exec_usern (p d e : Nat) (fx : MemFx) (s : State) : exec (.usern p d e fx) s =
    .next (s.commit (s.w.vecStep p d e fx isUser (fun c => c.unary (userFn d e c)) (·.src0) (userCheck d e))) := rfl

/-- Work that has written nothing leaves the image's steps as they are. -/
theorem userSlotOf_eq {s : State} {d e : Nat} {c : VC} {b : Bytes} (hhead : s.w.headStep c.p d (8 + e) = some (c.j, b)) (hbase : c.w.base = s.mem)
    (hops : c.w.ops = []) : userSlotOf d e c = 11 + (stepOp b - 0x30) := by
  have hbytes : c.w.stepBytes c.j c.j.seg d (8 + e) (c.j.queue d (8 + e)).pos = b := by
    rw [← headStep_bytes hhead]
    simp only [W.stepBytes, W.stream, W.segEntry, W.imgFld, W.img, read_congr (w := s.w) hbase hops]
  rw [userSlotOf, hbytes]

/-- Work on dies and polders alone leaves the bank that is active on an engine. -/
theorem bank_of_rest {s : State} {c : VC} (h : ∃ D P, c.w.d = { s.dev with dies := D, pols := P }) :
    c.bank = s.dev.bank (s.dev.fnActive (c.j.site c.d) c.e) := by
  obtain ⟨D, P, hdev⟩ := h
  rw [VC.bank, hdev]
  rfl

/-- Settles O8: the slot and the bank that the issue finds are those of the statement, and the evaluation finds the same. -/
theorem userFunctions : Obligations.UserFunctions := by
  intro s p d e n j b fx h hlow hhigh bank slot c
  have hw : isUser b = true := decide_eq_true ⟨hlow, hhigh⟩
  have hcheck : userCheck d e (issueView s p d e j b (s.regionOf j d (vstepOf b).src0)) =
      if bank.user.any (·.1 == slot) then none else some { status := stTABLE_SLOT_EMPTY } := by
    rw [userCheck, userSlotOf_eq (c := issueView s p d e j b _) h.ready.head rfl rfl, bank_of_rest (s := s) ⟨_, _, rfl⟩]
    rfl
  constructor
  · intro xs hslot res writes hread hm
    have hfn : userFn d e c = (userSlot (tget [] bank.user slot)).eval := by
      obtain ⟨hbase, hops⟩ := issued_mem s p d (8 + e) j b fx
      rw [userFn, userSlotOf_eq (c := c) h.ready.head hbase hops, bank_of_rest (c := c) (sumsKept_issued s p d (8 + e) j b fx).rest]
      rfl
    have hout : c.unary (userFn d e c) = { writes := writes, flags := flagsOf ((List.range n).flatMap res) } := by
      rw [hfn]
      exact unary_ok (g := fun _ => (userSlot (tget [] bank.user slot)).eval) (vstepOf_tr_pos b) hread
    have hdone := vecStep_done (body := fun c => c.unary (userFn d e c)) (region := (·.src0)) (more := fun _ => id) (c := c) h hw rfl
      (hcheck.trans (if_pos hslot)) (by rw [hout]) (by rw [hout]; exact hm) leavesOps_id
    rw [hout] at hdone
    exact ⟨_, exec_usern p d e fx s, hdone⟩
  · intro hslot
    have hrefused : userCheck d e (issueView s p d e j b (s.regionOf j d (vstepOf b).src0)) = some { status := stTABLE_SLOT_EMPTY } :=
      hcheck.trans (if_neg (by rw [hslot]; exact Bool.false_ne_true))
    exact ⟨_, exec_usern p d e fx s, vecStep_refused (region := (·.src0)) h hw hrefused⟩

end Sys2Proof.Laws

/-! ## Verification of a firmware image (R391 to R393, R397) -/

namespace Sys2Proof.Laws

open Sys2Proof.Machine Sys2Proof.Claims

/-- SEC_BOOT_CMD is served before firmware is RUNNING (R420). -/
theorem exec_secBootCmd {s : State} (hlink : s.dev.aon.linkUp = true) (v : Nat) :
    exec (.secBootCmd 0 v) s = .next (s.commit (s.w.secBootCmd (v % 2 ^ 32) fun w => w.ignored 0 0x2000008).settle) := by
  have hreach : s.w.d.hostReach 0 = true := by
    rw [Dev.hostReach, show s.w.d.aon.linkUp = true from hlink]
    simp [Dev.fnOk]
  exact congrArg (fun w => Host.Outcome.next (s.commit w)) (regWrite_ok s.w 0 0x2000008 true (fun w ign => w.secBootCmd (v % 2 ^ 32) ign) true hreach rfl rfl)

theorem secBootCmd_of_wait {w : W} (h : w.d.sec.boot = 1) (v : Nat) (ign : W → W) : w.secBootCmd v ign =
    (w.modSec fun S => { S with boot := 2, cmdLen := v % 2 ^ 32, pushBad := decide ((w.d.chan 0).st = 2), verified := false }).modChan 0
      fun C => { C with st := 0 } := if_neg (not_not.mpr h)

theorem secBootCmd_of_not_wait {w : W} (h : w.d.sec.boot ≠ 1) (v : Nat) (ign : W → W) : w.secBootCmd v ign = ign w := if_pos h

/-- The checks of R392 on the image in the store, all of them passed. -/
def ImagePasses (s : State) : Prop :=
  let h := s.mem.read storeBase 0x200
  let f := s.dev.aon.shadow
  let k := fld h 0x11 1 % 4
  s.dev.sec.pushBad = false ∧ fwHeaderOk h = true ∧ fld h 0x18 4 = s.dev.sec.cmdLen ∧ 0x1000 ≤ fld h 0x18 4 ∧ fld h 0x18 4 ≤ storeSize ∧
    fld h 0x18 4 % 64 = 0 ∧ (fld h 6 2).testBit s.dev.variant = true ∧ f.signerRev.testBit k = false ∧
    be (sha384 (slice h 0x120 96)) = lget 0 f.signerDig k ∧
    ecdsaVerify (slice h 0x120 96) (slice h 0x1A0 96) (h.take 0x1A0 ++ s.mem.read (storeBase + 0x200) (fld h 0x18 4 - 0x200)) = true ∧
    svnCount f.svn ≤ fld h 0x10 1 ∧ fld h 0x10 1 ≤ 128

/-- A check that answers its own code where it refuses. -/
theorem check_eq_one_iff {c : Prop} [Decidable c] {k x : Nat} (hk : k ≠ 1) : (if c then k else x) = 1 ↔ ¬ c ∧ x = 1 := by
  by_cases hc : c <;> simp [hc, hk]

/-- RESULT is OK just for an image that passes every check. -/
theorem fwResult_eq_one_iff (s : State) : s.w.fwResult = 1 ↔ ImagePasses s := by
  have hread : ∀ a n, s.w.read a n = s.mem.read a n := fun _ _ => rfl
  have hdev : s.w.d = s.dev := rfl
  unfold W.fwResult ImagePasses
  simp only [hread, hdev, check_eq_one_iff, ne_eq, OfNat.ofNat_ne_one, not_false_eq_true]
  simp [and_assoc]

/-- What the boot ROM records of an image that passes (R391 step 7, R393). -/
def measured (s : State) : Sec :=
  let h := s.mem.read storeBase 0x200
  { s.dev.sec with
    result := 1, verified := true, svnImage := fld h 0x10 1, keyIdx := fld h 0x11 1 % 4, packFloor := fld h 0x14 4, imageLen := fld h 0x18 4
    imageDigest := sha384 (s.mem.read storeBase (fld h 0x18 4))
    stageDigs := (stagesOf h).map fun x => sha384 (s.mem.read (storeBase + x.2.1) x.2.2) }

/-- The end of a verification that is in progress. -/
theorem exec_firmwareVerifyDone {s : State} (hboot : s.dev.sec.boot = 2) (hverified : s.dev.sec.verified = false) :
    exec .firmwareVerifyDone s = .next (s.commit
      (if s.w.fwResult = 1 then (s.w.modSec fun _ => measured s).deriveIdentity 0
      else (s.w.modSec fun S => { S with attempts := min 255 (S.attempts + 1), result := s.w.fwResult }).romWait)) := by
  have hbusy : ¬ (decide (s.w.d.sec.boot ≠ 2) || s.w.d.sec.verified) = true := by
    rw [show s.w.d = s.dev from rfl, hboot, hverified]
    decide
  exact congrArg (fun w => Host.Outcome.next (s.commit w)) (if_neg hbusy)

/-- Settles O25: SEC_BOOT_CMD by the state that it finds, FIRMWARE_VERIFY_DONE by its result, HUB_FIRMWARE_RUNNING as it stands. -/
theorem firmwareLoad : Obligations.FirmwareLoad := by
  refine ⟨fun s v hlink => ⟨fun hwait => ?_, fun hother => ?_⟩, fun s hboot hverified => ⟨fun hpasses => ?_, fun hfails => ?_⟩, fun s hboot hverified => ?_⟩
  · have hruns := runs_settle (exec_secBootCmd hlink v)
    rw [secBootCmd_of_wait hwait, Nat.mod_mod] at hruns
    exact hruns
  · have hruns := runs_settle (exec_secBootCmd hlink v)
    rw [secBootCmd_of_not_wait hother] at hruns
    exact hruns
  · have hresult : s.w.fwResult = 1 := (fwResult_eq_one_iff s).mpr hpasses
    exact (exec_firmwareVerifyDone hboot hverified).trans (by rw [if_pos hresult]; rfl)
  · have hresult : s.w.fwResult ≠ 1 := fun h => hfails ((fwResult_eq_one_iff s).mp h)
    exact ⟨s.w.fwResult, hresult, (exec_firmwareVerifyDone hboot hverified).trans (by rw [if_neg hresult]; rfl)⟩
  · have hstarts : (decide (s.w.d.sec.boot = 2) && s.w.d.sec.verified) = true := by
      rw [show s.w.d = s.dev from rfl, hboot, hverified]
      decide
    exact congrArg (fun w => Host.Outcome.next (s.commit w)) (if_pos hstarts)

end Sys2Proof.Laws

/-! ## Every command orders memory operations and nothing else of the memories (R137 to R141) -/

namespace Sys2Proof.Laws

open Sys2Proof.Machine

/-- The outcome `o` of a command at `s` is a next state whose memories are those of `s` after some memory operations. -/
def Orders (s : State) (o : Host.Outcome State Fault Refusal) : Prop := ∃ t ops, o = .next t ∧ t.mem = s.mem.applyAll ops

theorem orders_run (s : State) (f : W → W) : Orders s (s.run f) := ⟨_, _, rfl, rfl⟩

theorem orders_runReset (s : State) (c : Bool) (f : Fuses → W → W) : Orders s (s.runReset c f) := by
  unfold State.runReset
  split
  · exact ⟨_, _, rfl, rfl⟩
  · exact orders_run s id

theorem orders_linkReset (s : State) : Orders s s.linkReset := orders_runReset s _ _

/-- Resets also cut the pulse of a fuse short, and the end of a pulse blows its fuse: neither touches the memories. -/
theorem orders_exec (c : Instr) (s : State) : Orders s (exec c s) := by
  unfold exec
  cases c with
  | fuseProgramComplete ok => exact ⟨_, _, rfl, rfl⟩
  | perstAssert | refclkLoss | power12vLoss | power3v3Loss | thermalTrip => exact orders_runReset s _ _
  | hotReset | linkDown | flrPf => exact orders_linkReset s
  | _ => exact orders_run s _

/-- A nanosecond of the hub counter leaves the memories as they are. -/
theorem tick_mem (s : State) : s.tick.mem = s.mem := by
  unfold State.tick
  split <;> rfl

/-- Settles O22: a step orders memory operations or lets time pass, and every memory operation keeps the canonical form (`applyAll_wf`). -/
theorem memoryStaysCanonical : Obligations.MemoryStaysCanonical := by
  intro s t h hstep
  unfold step at hstep
  split at hstep
  · cases hstep
    exact (congrArg (Mem.wf · = true) (tick_mem s)).mpr h
  · next c rest _ =>
    obtain ⟨t', ops, hnext, hmem⟩ := orders_exec c { s with pending := rest }
    cases hnext.symm.trans hstep
    exact (congrArg (Mem.wf · = true) hmem).mpr (applyAll_wf ops h)

end Sys2Proof.Laws

/-! ## The bytes that an allowed write reaches (R137, R138, R143 to R145, R159) -/

namespace Sys2Proof.Laws

open Sys2Proof.Machine

/-- The limit of a write from `a` once the sealed range `r` is seen. -/
def sealStep (a lim : Nat) (r : Nat × Nat) : Nat := if r.1 ≤ a ∧ a < r.1 + r.2 then a else if a < r.1 ∧ r.1 < lim then r.1 else lim

theorem sealLimit_cons (r : Nat × Nat) (l : List (Nat × Nat)) (a lim : Nat) : sealLimit (r :: l) a lim = sealLimit l a (sealStep a lim r) := rfl

theorem sealStep_bounds {a lim : Nat} (h : a ≤ lim) (r : Nat × Nat) : a ≤ sealStep a lim r ∧ sealStep a lim r ≤ lim := by
  unfold sealStep
  split_ifs <;> omega

theorem sealLimit_self (l : List (Nat × Nat)) (a : Nat) : sealLimit l a a = a := by
  induction l with
  | nil => rfl
  | cons r l ih =>
    have hstep : sealStep a a r = a := by have := sealStep_bounds (le_refl a) r; omega
    rw [sealLimit_cons, hstep, ih]

theorem sealLimit_le (l : List (Nat × Nat)) {a lim : Nat} (h : a ≤ lim) : sealLimit l a lim ≤ lim := by
  induction l generalizing lim with
  | nil => exact le_rfl
  | cons r l ih => exact (ih (sealStep_bounds h r).1).trans (sealStep_bounds h r).2

/-- A write does not run past the start of a sealed range beyond it. -/
theorem sealLimit_le_start {l : List (Nat × Nat)} {a lim : Nat} (h : a ≤ lim) {r : Nat × Nat} (hr : r ∈ l) (hbeyond : a < r.1) :
    sealLimit l a lim ≤ r.1 := by
  induction l generalizing lim with
  | nil => cases hr
  | cons y l ih =>
    rw [sealLimit_cons]
    rcases List.mem_cons.mp hr with rfl | hmem
    · have hstep : sealStep a lim r ≤ r.1 := by unfold sealStep; split_ifs <;> omega
      exact (sealLimit_le l (sealStep_bounds h r).1).trans hstep
    · exact ih (sealStep_bounds h y).1 hmem

/-- A write begins in a sealed range just where it runs nowhere. -/
theorem sealLimit_eq_self_iff {l : List (Nat × Nat)} {a lim : Nat} (h : a < lim) :
    sealLimit l a lim = a ↔ ∃ r ∈ l, r.1 ≤ a ∧ a < r.1 + r.2 := by
  induction l generalizing lim with
  | nil => exact iff_of_false h.ne' (by simp)
  | cons y l ih =>
    rw [sealLimit_cons]
    by_cases hin : y.1 ≤ a ∧ a < y.1 + y.2
    · rw [sealStep, if_pos hin, sealLimit_self]
      exact iff_of_true rfl ⟨y, List.mem_cons_self, hin⟩
    · have hstep : a < sealStep a lim y := by unfold sealStep; split_ifs <;> omega
      simp only [ih hstep, List.exists_mem_cons_iff, hin, false_or]

/-- No byte between the start of a write and its limit is sealed. -/
theorem sealLimit_ne_self {l : List (Nat × Nat)} {a x lim : Nat} (h : a < lim) (hne : sealLimit l a lim ≠ a) (hax : a ≤ x)
    (hx : x < sealLimit l a lim) : sealLimit l x lim ≠ x := by
  intro heq
  have hlim : x < lim := hx.trans_le (sealLimit_le l h.le)
  obtain ⟨r, hr, hlow, hhigh⟩ := (sealLimit_eq_self_iff hlim).mp heq
  by_cases hstart : a < r.1
  · have := sealLimit_le_start h.le hr hstart
    omega
  · exact hne ((sealLimit_eq_self_iff h).mpr ⟨r, hr, by omega, by omega⟩)

theorem region_stack {a : Nat} (h : a < 0x32000000000) : region a = .stack (a / 0x2000000000) (a % 0x2000000000) := if_pos h

theorem region_sp {a : Nat} (h : 0x200000000000 ≤ a ∧ a < 0x200000000000 + 25 * 0x8000000) :
    region a = .sp ((a - 0x200000000000) / 0x8000000) (a % 0x8000000) := by
  rw [region, if_neg (by omega), if_pos h]

/-- What a write finds of the sealed ranges at `x`, in a memory that ends at `top` (R159). -/
def sealedAt (d : Dev) (p x top : Nat) : Except Nat Nat :=
  if sealLimit (d.pol p).sealedRanges x top = x then .error dWINDOW_RO else .ok (sealLimit (d.pol p).sealedRanges x top)

theorem access_stack (d : Dev) (p : Nat) {a : Nat} (h : a < 0x32000000000) : d.access .dma p a true =
    if d.isStacked (a / 0x2000000000) = false ∨ stackSize ≤ a % 0x2000000000 then .error dUNPOPULATED
    else if d.sitePol (a / 0x2000000000) ≠ some p ∨ (d.die (a / 0x2000000000)).stack ≠ 3 then .error dNOT_OWNER
    else if sysOff ≤ a % 0x2000000000 then .error dWINDOW_RO
    else sealedAt d p a (stackBase (a / 0x2000000000) + sysOff) := by
  simp [Dev.access, region_stack h, sealedAt]

theorem access_sp (d : Dev) (p : Nat) {a : Nat} (h : 0x200000000000 ≤ a ∧ a < 0x200000000000 + 25 * 0x8000000) : d.access .dma p a true =
    if d.isCompute ((a - 0x200000000000) / 0x8000000) = false ∨ spSize ≤ a % 0x8000000 then .error dUNPOPULATED
    else if d.sitePol ((a - 0x200000000000) / 0x8000000) ≠ some p then .error dNOT_OWNER
    else sealedAt d p a (spBase ((a - 0x200000000000) / 0x8000000) + spSize) := by
  simp [Dev.access, region_sp h, sealedAt]

/-- Only stacks and scratchpads take writes. -/
theorem access_elsewhere {d : Dev} {p a lim : Nat} (hstack : ¬ a < 0x32000000000) (hsp : ¬ (0x200000000000 ≤ a ∧ a < 0x200000000000 + 25 * 0x8000000)) :
    d.access .dma p a true ≠ .ok lim := by
  have hne : ∀ s off, region a ≠ .stack s off ∧ region a ≠ .sp s off := by
    intro s off
    rw [region, if_neg hstack, if_neg hsp]
    split_ifs <;> exact ⟨nofun, nofun⟩
  intro h
  cases hreg : region a with
  | stack s off => exact (hne s off).1 hreg
  | sp s off => exact (hne s off).2 hreg
  | none => simp [Dev.access, hreg] at h
  | pt | slu | code =>
    simp only [Dev.access, hreg, ↓reduceIte] at h
    split_ifs at h

/-- A write that is allowed lies in a stack or a scratchpad, up to whose end only sealed ranges stop it. -/
theorem access_write_ok {d : Dev} {p a lim : Nat} (h : d.access .dma p a true = .ok lim) :
    ∃ top, a < top ∧ ∀ x, a ≤ x → x < top → d.access .dma p x true = sealedAt d p x top := by
  by_cases hstack : a < 0x32000000000
  · rw [access_stack d p hstack] at h
    split_ifs at h with hpop hown hsys
    rw [not_or, stackSize] at hpop
    rw [sysOff] at hsys
    refine ⟨stackBase (a / 0x2000000000) + sysOff, by unfold stackBase sysOff; omega, fun x hax hx => ?_⟩
    unfold stackBase sysOff at hx
    have hsite : x / 0x2000000000 = a / 0x2000000000 := by omega
    rw [access_stack d p (by omega), hsite, if_neg (not_or.mpr ⟨hpop.1, by rw [stackSize]; omega⟩), if_neg hown,
      if_neg (by rw [sysOff]; omega)]
  · by_cases hsp : 0x200000000000 ≤ a ∧ a < 0x200000000000 + 25 * 0x8000000
    · rw [access_sp d p hsp] at h
      split_ifs at h with hpop hown
      rw [not_or, spSize] at hpop
      refine ⟨spBase ((a - 0x200000000000) / 0x8000000) + spSize, by unfold spBase spSize; omega, fun x hax hx => ?_⟩
      unfold spBase spSize at hx
      have hsite : (x - 0x200000000000) / 0x8000000 = (a - 0x200000000000) / 0x8000000 := by omega
      rw [access_sp d p (by omega), hsite, if_neg (not_or.mpr ⟨hpop.1, by rw [spSize]; omega⟩), if_neg hown]
    · exact absurd h (access_elsewhere hstack hsp)

/-- Every byte up to the limit of an allowed write may be written. -/
theorem access_write_run {d : Dev} {p a lim x : Nat} (h : d.access .dma p a true = .ok lim) (hax : a ≤ x) (hx : x < lim) :
    ∃ lim', d.access .dma p x true = .ok lim' := by
  obtain ⟨top, htop, haccess⟩ := access_write_ok h
  have hstart := haccess a le_rfl htop
  rw [h, sealedAt] at hstart
  split_ifs at hstart with hsealed
  cases hstart
  have hxtop : x < top := hx.trans_le (sealLimit_le _ htop.le)
  exact ⟨_, (haccess x hax hxtop).trans (if_neg (sealLimit_ne_self htop hsealed hax hx))⟩

/-- Every byte that a write reaches may be written. -/
theorem access_of_reach {d : Dev} {p a n i : Nat} (h : i < (d.reach .dma p a n true).1) : ∃ lim, d.access .dma p (a + i) true = .ok lim := by
  unfold Dev.reach at h
  split at h
  · cases h
  · split at h
    · cases h
    · next lim haccess =>
      refine access_write_run haccess (Nat.le_add_right a i) ?_
      split at h
      · have : i < n := h
        omega
      · split at h <;> (dsimp only at h; omega)

/-- A write that nothing stops reaches all its bytes. -/
theorem reach_all {d : Dev} {req : Req} {p a n k : Nat} {wr : Bool} (h : d.reach req p a n wr = (k, none)) : k = n := by
  unfold Dev.reach at h
  split at h
  · cases h; omega
  · split at h
    · cases h
    · split at h
      · cases h; rfl
      · split at h <;> cases h

end Sys2Proof.Laws

/-! ## What the work of a polder's engines leaves of the device (R143, R159) -/

namespace Sys2Proof.Laws

open Sys2Proof.Machine Sys2Proof.Claims

/-- `b` is `a` after work of engines of polder `p`: its job, whose read-only slots stay, and its error counters, and, of dies, tokens, counts, summary words, flags and
correction counters. -/
structure EngineWork (p : Nat) (a b : Dev) : Prop where
  rest : b = { a with dies := b.dies, pols := b.pols }
  others : ∀ i, i ≠ p → b.pol i = a.pol i
  pol : b.pol p = { a.pol p with job := (b.pol p).job, errCnt := (b.pol p).errCnt }
  ro : (b.pol p).job.map (·.ro) = (a.pol p).job.map (·.ro)
  dies : ∀ i, b.die i =
    { a.die i with
      tokens := (b.die i).tokens, counts := (b.die i).counts, sums := (b.die i).sums, flags := (b.die i).flags
      spEcc := (b.die i).spEcc, stackEcc := (b.die i).stackEcc }

theorem EngineWork.refl (p : Nat) (a : Dev) : EngineWork p a a := ⟨rfl, fun _ _ => rfl, rfl, rfl, fun _ => rfl⟩

theorem EngineWork.trans {p : Nat} {a b c : Dev} (h : EngineWork p a b) (k : EngineWork p b c) : EngineWork p a c where
  rest := by rw [k.rest, h.rest]
  others i hi := (k.others i hi).trans (h.others i hi)
  pol := by rw [k.pol, h.pol]
  ro := k.ro.trans h.ro
  dies i := by rw [k.dies i, h.dies i]

/-- The ranges of a job that refuse writes are its read-only slots alone. -/
theorem sealedRanges_job {P : Pol} {J : Option Job} (E : List Nat) (h : J.map (·.ro) = P.job.map (·.ro)) :
    ({ P with job := J, errCnt := E } : Pol).sealedRanges = P.sealedRanges := by
  cases hP : P.job with
  | none =>
    rw [hP, Option.map_none, Option.map_eq_none_iff] at h
    simp [Pol.sealedRanges, hP, h]
  | some j =>
    rw [hP, Option.map_some, Option.map_eq_some_iff] at h
    obtain ⟨j', rfl, hro⟩ := h
    simp [Pol.sealedRanges, hP, hro]

/-- Such work leaves every right of access. -/
theorem EngineWork.sameReach {p : Nat} {a b : Dev} (h : EngineWork p a b) : SameReach a b where
  variant := by rw [h.rest]
  pols i := by
    by_cases hi : i = p
    · subst hi
      exact ⟨by rw [h.pol], by rw [h.pol], by rw [h.pol], by rw [h.pol], by rw [h.pol]; exact sealedRanges_job _ h.ro⟩
    · rw [h.others i hi]
      exact ⟨rfl, rfl, rfl, rfl, rfl⟩
  stack i := by rw [h.dies i]

theorem engineWork_modDie (p : Nat) (w : W) (s : Nat) (f : Die → Die)
    (h : ∀ D, f D = { D with tokens := (f D).tokens, counts := (f D).counts, sums := (f D).sums, flags := (f D).flags, spEcc := (f D).spEcc, stackEcc := (f D).stackEcc }) :
    EngineWork p w.d (w.modDie s f).d := by
  refine ⟨rfl, fun _ _ => rfl, rfl, rfl, fun i => ?_⟩
  by_cases hi : i = s
  · subst hi
    rw [die_modDie]
    exact h _
  · rw [die_modDie_ne _ _ _ _ hi]

theorem engineWork_modPol (w : W) (p : Nat) (f : Pol → Pol) (h : ∀ P, f P = { P with job := (f P).job, errCnt := (f P).errCnt })
    (hro : ∀ P, (f P).job.map (·.ro) = P.job.map (·.ro)) : EngineWork p w.d (w.modPol p f).d := by
  refine ⟨rfl, fun i hi => pol_modPol_ne w p i f hi, ?_, ?_, fun _ => rfl⟩ <;> rw [pol_modPol]
  · exact h _
  · exact hro _

theorem engineWork_modJob (w : W) (p : Nat) (f : Job → Job) (h : ∀ j, (f j).ro = j.ro) : EngineWork p w.d (w.modJob p f).d := by
  refine engineWork_modPol w p _ (fun _ => rfl) fun P => ?_
  cases hj : P.job <;> simp [h]

theorem engineWork_polErr (w : W) (p k n : Nat) : EngineWork p w.d (w.polErr p k n).d := engineWork_modPol w p _ (fun _ => rfl) fun _ => rfl

theorem engineWork_jobFx (w : W) (p : Nat) (fx : MemFx) : EngineWork p w.d (w.jobFx p fx).d := by
  have hsites := countSites_related (EngineWork.refl p) (fun _ _ _ => EngineWork.trans)
    (fun w i f hf => engineWork_modDie p w i f fun D => by rw [hf D]) w fx
  unfold W.jobFx W.countFx
  generalize w.countSites fx = v at hsites ⊢
  exact hsites.trans ((engineWork_polErr v p 1 _).trans ((engineWork_polErr _ p 2 _).trans ((engineWork_polErr _ p 3 _).trans (engineWork_modJob _ p _ fun _ => rfl))))

theorem engineWork_raiseFlags (w : W) (p d q fl : Nat) : EngineWork p w.d (w.raiseFlags p d q fl).d := by
  unfold W.raiseFlags
  split
  · exact .refl p _
  · exact engineWork_modDie p _ _ _ fun _ => rfl

theorem engineWork_stepFault (w : W) (p d q status detail info : Nat) : EngineWork p w.d (w.stepFault p d q status detail info).d :=
  engineWork_modJob w p _ fun _ => rfl

theorem engineWork_signalStep (p : Nat) (w : W) (j : Job) (d : Nat) (b : Bytes) : EngineWork p w.d (w.signalStep j d b).d := by
  have hsignals := engineWork_modDie p w (j.site d) (fun D => { D with tokens := addTokens D.tokens (stepSignals b) }) fun _ => rfl
  unfold W.signalStep
  generalize w.modDie (j.site d) _ = v at hsignals ⊢
  dsimp only
  split
  · exact hsignals.trans (engineWork_modDie p _ _ _ fun _ => rfl)
  · exact hsignals

theorem engineWork_releaseStep (w : W) (p d q : Nat) : EngineWork p w.d (w.releaseStep p d q).d := by
  unfold W.releaseStep
  split
  · exact .refl p _
  · exact (engineWork_signalStep p w _ _ _).trans (engineWork_modJob _ p _ fun _ => rfl)

theorem engineWork_taken (w : W) (p d q : Nat) (j : Job) (toks : Tab Nat → Tab Nat) :
    EngineWork p w.d ((w.modDie (j.site d) fun D => { D with tokens := toks D.tokens }).modJob p fun j => j.setQueue d q fun Q => Q.issue q).d :=
  (engineWork_modDie p w _ _ fun _ => rfl).trans (engineWork_modJob _ p _ fun _ => rfl)

/-! ### Writes inside the polder's memory -/

/-- Every byte of `l` may be written by polder `p`. -/
def InsideWrites (d : Dev) (p : Nat) (l : List (Nat × Bytes)) : Prop :=
  ∀ x ∈ l, ∀ i < x.2.length, ∃ lim, d.access .dma p (localPart x.1 + i) true = .ok lim

/-- `v` is `w` after work of polder `p`'s engines that has written where the polder may write. -/
structure StaysInside (p : Nat) (w v : W) : Prop where
  work : EngineWork p w.d v.d
  writes : ∃ l, v.ops = w.ops ++ writeOps l ∧ InsideWrites w.d p l

theorem StaysInside.of_work {p : Nat} {w v : W} (h : EngineWork p w.d v.d) (hops : v.ops = w.ops) : StaysInside p w v :=
  ⟨h, [], by simp [hops, writeOps], nofun⟩

theorem StaysInside.refl (p : Nat) (w : W) : StaysInside p w w := .of_work (.refl p _) rfl

theorem StaysInside.trans {p : Nat} {a b c : W} (h : StaysInside p a b) (k : StaysInside p b c) : StaysInside p a c := by
  obtain ⟨l, hl, hin⟩ := h.writes
  obtain ⟨m, hm, hin'⟩ := k.writes
  refine ⟨h.work.trans k.work, l ++ m, by rw [hm, hl]; simp [writeOps], fun x hx i hi => ?_⟩
  rcases List.mem_append.mp hx with hx | hx
  · exact hin x hx i hi
  · rw [← h.work.sameReach.access]
    exact hin' x hx i hi

theorem staysInside_write {w : W} {p a n : Nat} {bs : Bytes} (h : n ≤ (w.d.reach .dma p (localPart a) bs.length true).1) :
    StaysInside p w (w.write (localPart a) (bs.take n)) := by
  refine ⟨.refl p _, [(a, bs.take n)], rfl, fun x hx i hi => access_of_reach (n := bs.length) ?_⟩
  obtain rfl := List.mem_singleton.mp hx
  rw [List.length_take] at hi
  exact (lt_min_iff.mp hi).1.trans_le h

/-- A run of bytes lands as far as it may be written. -/
theorem staysInside_putBytes (w : W) (p a : Nat) (bs : Bytes) : StaysInside p w (w.putBytes p a bs).1 := by
  have hwrite : ∀ n, n ≤ (w.d.reach .dma p (localPart a) bs.length true).1 → StaysInside p w (w.write (localPart a) (bs.take n)) := fun _ => staysInside_write
  unfold W.putBytes
  split
  · next k hreach =>
    have hall := hwrite bs.length (by rw [hreach, ← reach_all hreach])
    rwa [List.take_length] at hall
  · next k det hreach =>
    dsimp only
    split
    · exact .refl p w
    · exact hwrite k (by rw [hreach])

theorem staysInside_putAll (w : W) (p : Nat) (l : List (Nat × Bytes)) : StaysInside p w (w.putAll p l).1 := by
  induction l generalizing w with
  | nil => exact .refl p w
  | cons x l ih =>
    obtain ⟨a, bs⟩ := x
    have hhead := staysInside_putBytes w p a bs
    unfold W.putAll
    split
    · next v hput =>
      rw [hput] at hhead
      exact hhead.trans (ih v)
    · next v er hput =>
      rw [hput] at hhead
      exact hhead

/-! ### Steps of vector engines and transform units -/

/-- A vector or transform step of polder `p` from `s` on: it stays inside, or its reading meets an error, which is reported before the step faults. -/
inductive StepEnds (p : Nat) (fx : MemFx) (w v : W) : Prop
  | inside (h : StaysInside p w v)
  | reported (u : W) (d q status detail : Nat) (h : StaysInside p w u) (hfail : fx.fail ≠ .none)
      (hv : v = (u.memReport p fx.fail).stepFault p d q status detail)

theorem staysInside_stepFault (w : W) (p d q status detail info : Nat) : StaysInside p w (w.stepFault p d q status detail info) :=
  .of_work (engineWork_stepFault w p d q status detail info) rfl

theorem releaseStep_ops (w : W) (p d q : Nat) : (w.releaseStep p d q).ops = w.ops := by
  unfold W.releaseStep W.signalStep
  split
  · rfl
  · dsimp only
    split <;> rfl

theorem staysInside_releaseStep (w : W) (p d q : Nat) : StaysInside p w (w.releaseStep p d q) :=
  .of_work (engineWork_releaseStep w p d q) (releaseStep_ops w p d q)

/-- What `f` does stays inside. -/
def KeepsInside (p : Nat) (f : W → W) : Prop := ∀ w, StaysInside p w (f w)

theorem staysInside_vecApply (w : W) {p : Nat} (d q : Nat) (o : VOut) {after : W → W} (h : KeepsInside p after) :
    StaysInside p w (w.vecApply p d q o after) := by
  have hflags : StaysInside p w (w.raiseFlags p d q o.flags) := .of_work (engineWork_raiseFlags w p d q o.flags) (raiseFlags_mem w p d q o.flags).2
  have hputs := hflags.trans (staysInside_putAll _ p o.writes)
  unfold W.vecApply
  split
  · next v er hput =>
    rw [hput] at hputs
    exact hputs.trans (staysInside_stepFault ..)
  · next v hput =>
    rw [hput] at hputs
    split
    · exact hputs.trans (staysInside_stepFault ..)
    · exact hputs.trans (h v)

theorem stepEnds_withFx (w : W) {p : Nat} (d q : Nat) (fx : MemFx) {f : W → W} (h : KeepsInside p f) : StepEnds p fx w (w.withFx p d q fx f) := by
  have hfx : StaysInside p w (w.jobFx p fx) := .of_work (engineWork_jobFx w p fx) (jobFx_mem w p fx).2
  unfold W.withFx
  split
  · exact .inside (.refl p w)
  · dsimp only
    split
    · next st det hcode => exact .reported _ d q st det hfx (fun hnone => by simp [hnone, MemFail.code] at hcode) rfl
    · exact .inside (hfx.trans (h _))

theorem StepEnds.after {p : Nat} {fx : MemFx} {a b c : W} (h : StaysInside p a b) (k : StepEnds p fx b c) : StepEnds p fx a c := by
  cases k with
  | inside hc => exact .inside (h.trans hc)
  | reported u d q st det hu hfail hc => exact .reported u d q st det (h.trans hu) hfail hc

theorem stepEnds_issue (w : W) {p : Nat} (d q : Nat) {fx : MemFx} (want : Bytes → Bool) {f : W → Job → Bytes → W}
    (h : ∀ w j b, StepEnds p fx w (f w j b)) : StepEnds p fx w (w.issue p d q want f) := by
  unfold W.issue
  split
  · exact .inside (.refl p w)
  · next j b _ =>
    dsimp only
    split
    · exact .inside (.refl p w)
    · exact .after (.of_work (engineWork_taken w p d q j fun T => takeTokens T ((j.queue d q).needs (stepWaits b))) rfl) (h _ j b)

theorem stepEnds_vecStep (w : W) {p : Nat} (d e : Nat) (fx : MemFx) (want : Bytes → Bool) (body : VC → VOut) (region : VStep → Nat)
    (pre : VC → Option StepErr) {after : VC → W → W} (h : ∀ c, KeepsInside p (after c)) :
    StepEnds p fx w (w.vecStep p d e fx want body region pre after) := by
  refine stepEnds_issue w d (8 + e) _ fun w j b => ?_
  dsimp only
  split
  · exact .inside (staysInside_stepFault ..)
  · split
    · exact .inside (staysInside_stepFault ..)
    · exact .inside (staysInside_releaseStep ..)
    · split
      · exact .inside (staysInside_stepFault ..)
      · exact stepEnds_withFx w d (8 + e) fx fun w => staysInside_vecApply w d (8 + e) _ (h _)

theorem stepEnds_transformStep (w : W) (p d : Nat) (fx : MemFx) : StepEnds p fx w (w.transformStep p d fx) := by
  refine stepEnds_issue w d 10 _ fun w j b => ?_
  dsimp only
  split
  · exact .inside (staysInside_stepFault ..)
  · exact .inside (staysInside_releaseStep ..)
  · split
    · exact .inside (staysInside_stepFault ..)
    · exact stepEnds_withFx w d 10 fx fun w => staysInside_vecApply w d 10 _ fun w => .refl p w

/-! ### The frame of a step -/

/-- Writing inside changes no byte that the polder may not write. -/
theorem byte_of_insideWrites {d : Dev} {p a det : Nat} {m : Mem} {l : List (Nat × Bytes)} (hm : m.wf = true) (hl : InsideWrites d p l)
    (ha : d.access .dma p a true = .error det) : (m.applyAll (writeOps l)).byte a = m.byte a := by
  refine applyAll_write_out l a hm fun x hx => ?_
  by_contra hin
  obtain ⟨lim, hlim⟩ := hl x hx (a - localPart x.1) (by omega)
  rw [show localPart x.1 + (a - localPart x.1) = a by omega, ha] at hlim
  cases hlim

/-- `v` is `w` after messages to the host: rings, the hub's registers and what was sent alone have changed. -/
def HostOnly (w v : W) : Prop := ∃ R H o, v = { w with d := { w.d with rings := R, hub := H, out := o } }

theorem HostOnly.refl (w : W) : HostOnly w w := ⟨_, _, _, rfl⟩

theorem HostOnly.trans {a b c : W} (h : HostOnly a b) (k : HostOnly b c) : HostOnly a c := by
  obtain ⟨_, _, _, rfl⟩ := h
  obtain ⟨_, _, _, rfl⟩ := k
  exact ⟨_, _, _, rfl⟩

theorem hostOnly_modRing (w : W) (r : Nat) (f : Ring → Ring) : HostOnly w (w.modRing r f) := ⟨_, _, _, rfl⟩
theorem hostOnly_modHub (w : W) (f : Hub → Hub) : HostOnly w (w.modHub f) := ⟨_, _, _, rfl⟩
theorem hostOnly_emit (w : W) (o : Out) : HostOnly w (w.emit o) := ⟨_, _, _, rfl⟩

theorem hostOnly_raise (w : W) (fn vec : Nat) : HostOnly w (w.raise fn vec) := by
  unfold W.raise
  split
  · exact hostOnly_modHub w _
  · exact hostOnly_emit w _

theorem hostOnly_raiseRing (w : W) (r : Nat) : HostOnly w (w.raiseRing r) := by
  unfold W.raiseRing
  dsimp only
  split
  · exact (hostOnly_raise w _ _).trans (hostOnly_modRing _ _ _)
  · exact .refl w

theorem hostOnly_event (w : W) (t status detail srcKind srcId info : Nat) : HostOnly w (w.event t status detail srcKind srcId info) := by
  unfold W.event
  dsimp only
  split
  · exact hostOnly_modHub w _
  · split
    · exact hostOnly_modHub w _
    · exact (hostOnly_emit w _).trans ((hostOnly_modRing _ _ _).trans ((hostOnly_modHub _ _).trans (hostOnly_raiseRing _ _)))

/-- A failed reading is reported by an event, which leaves dies, polders and memories. -/
theorem memReport_posts (w : W) (p : Nat) (fail : MemFail) : HostOnly w (w.memReport p fail) ∧ Quiet w (w.memReport p fail) := by
  unfold W.memReport
  split
  · exact ⟨.refl w, .refl w⟩
  · exact ⟨hostOnly_event .., event_quiet ..⟩

/-- Work that stays inside has the frame of a step, with what a report of a failed reading adds to it. -/
theorem stepFrame_of_staysInside {s : State} {p : Nat} {fx : MemFx} {v : W} {b : Dev} (h : StaysInside p s.w v)
    (hreport : b = { v.d with rings := b.rings, hub := b.hub, out := b.out }) (hposted : v.d.Posted b) (hfine : fx.fail = .none → b = v.d) :
    s.StepFrame (s.commit { v with d := b }) p fx := by
  obtain ⟨hwork, l, hops, hin⟩ := h
  have hdies : b.dies = v.d.dies := by rw [hreport]
  have hpols : b.pols = v.d.pols := by rw [hreport]
  have hdev : ({ s.dev with dies := b.dies, pols := b.pols } : Dev) = v.d := by rw [hdies, hpols]; exact hwork.rest.symm
  have hpol : ∀ i, b.pol i = v.d.pol i := fun i => by rw [hreport]; rfl
  have hdie : ∀ i, b.die i = v.d.die i := fun i => by rw [hreport]; rfl
  exact
    { pending := rfl
      fuses := rfl
      dev := by rw [commit_dev, hdev]; exact hposted
      fine := fun hnone => by rw [commit_dev, hdev]; exact hfine hnone
      others := fun i hi => (hpol i).trans (hwork.others i hi)
      pol := by rw [commit_dev, hpol]; exact hwork.pol
      dies := fun i => by rw [commit_dev, hdie]; exact hwork.dies i
      mem := fun hm a ⟨det, ha⟩ => by
        rw [commit_mem, show v.ops = writeOps l from hops]
        exact byte_of_insideWrites hm hin ha }

theorem stepFrame_of_stepEnds {s : State} {p : Nat} {fx : MemFx} {v : W} (h : StepEnds p fx s.w v) : s.StepFrame (s.commit v) p fx := by
  cases h with
  | inside h => exact stepFrame_of_staysInside h rfl (Posted.refl _) fun _ => rfl
  | reported u d q st det h hfail hv =>
    obtain ⟨⟨R, H, o, hhost⟩, hquiet⟩ := memReport_posts u p fx.fail
    rw [hhost] at hquiet hv
    have hposted := hquiet.dev
    have hfaulted := h.trans (staysInside_stepFault u p d q st det 0)
    subst hv
    exact stepFrame_of_staysInside (v := u.stepFault p d q st det) (b := { (u.stepFault p d q st det).d with rings := R, hub := H, out := o }) hfaulted rfl
      ⟨rfl, hposted.rings, hposted.others, hposted.ctxs, fun _ => rfl, hposted.hub⟩ fun hnone => absurd hnone hfail

theorem keepsInside_id (p : Nat) : KeepsInside p id := fun w => .refl p w
theorem keepsInside_setCount (p : Nat) (c : VC) (k v : Nat) : KeepsInside p (c.setCount k v) := fun w =>
  .of_work (engineWork_modDie p w _ _ fun _ => rfl) rfl
theorem keepsInside_setSummary (p : Nat) (c : VC) (fmt v : Nat) : KeepsInside p (c.setSummary fmt v) := fun w =>
  .of_work (engineWork_modDie p w _ _ fun _ => rfl) rfl

/-- The command `mk` keeps the frame of a step. -/
def Framed (mk : VecCmd) : Prop := ∀ (p d e : Nat) (fx : MemFx) (s t : State), exec (mk p d e fx) s = .next t → s.StepFrame t p fx

theorem framed_of_performs {mk : VecCmd} {want : Bytes → Bool} {body : VC → VOut} {region : VStep → Nat} {more : VC → W → W}
    (hmk : Performs mk want body region more) (hmore : ∀ p c, KeepsInside p (more c)) : Framed mk := by
  intro p d e fx s t ht
  cases (hmk p d e fx s).symm.trans ht
  exact stepFrame_of_stepEnds (stepEnds_vecStep s.w d e fx want body region _ (hmore p))

theorem framed_of_computes {mk : VecCmd} {want : Bytes → Bool} {body : VC → VOut} {region : VStep → Nat} (hmk : Computes mk want body region) : Framed mk :=
  framed_of_performs hmk fun p _ => keepsInside_id p

theorem framed_of_summarises {mk : VecCmd} {k fmt : Nat} {g : Bool → List Nat → CF} (hmk : Summarises mk k fmt g) : Framed mk :=
  framed_of_performs hmk fun p c => keepsInside_setSummary p c _ _

theorem compress_framed : Framed .compress :=
  framed_of_performs (fun _ _ _ _ _ => rfl) fun p c w => by
    split
    · exact keepsInside_setCount p c _ _ w
    · exact .refl p w

theorem cntLoad_framed : Framed .cntLoad :=
  framed_of_performs (fun _ _ _ _ _ => rfl) fun p c w => by
    split
    · exact keepsInside_setCount p c _ _ w
    · exact .refl p w

theorem scnt_framed : Framed .scnt := framed_of_performs (fun _ _ _ _ _ => rfl) fun p c => keepsInside_setSummary p c _ _

/-- Of the commands of a vector engine only COMPRESS, CNT_LOAD and the summaries change more than their writes and flags. -/
theorem vecCmds_framed : ∀ x ∈ vecCmds, Framed x.1 := by
  rw [vecCmds, List.forall_mem_append]
  simp only [List.forall_mem_cons, List.not_mem_nil, IsEmpty.forall_iff, implies_true, and_true]
  simp only [compress_framed, cntLoad_framed, scnt_framed, framed_of_summarises smax_summarises, framed_of_summarises smin_summarises,
    framed_of_summarises ssum_summarises, framed_of_summarises snz_summarises, framed_of_summarises sfirst_summarises, framed_of_computes normRms_computes,
    framed_of_computes normLayer_computes, framed_of_computes scatter_computes, framed_of_computes scatterAdd_computes, true_and, and_true]
  and_intros <;> exact framed_of_computes fun _ _ _ _ _ => rfl

/-- Settles O10: every step is issued, and released, faulted, or carried out with writes that `putAll` lets through; none does more. -/
theorem stepsStayInside : Obligations.StepsStayInside := by
  refine ⟨fun x hx => vecCmds_framed x hx, fun p d e fx s t ht => ?_, fun p d fx s t ht => ?_⟩
  · cases (exec_usern p d e fx s).symm.trans ht
    exact stepFrame_of_stepEnds (stepEnds_vecStep s.w d e fx _ _ _ _ fun _ => keepsInside_id p)
  · cases ht
    exact stepFrame_of_stepEnds (stepEnds_transformStep s.w p d fx)

end Sys2Proof.Laws

/-! ## MOVE steps (R138, R143, R154, R178) -/

namespace Sys2Proof.Laws

open Sys2Proof.Machine Sys2Proof.Claims

/-- A MOVE that is ready moves its runs. -/
theorem move_runs {s : State} {p d q n : Nat} {j : Job} {b : Bytes} {fx : MemFx} (h : s.Ready p d q j b fx) (hkind : stepKind b = 4) (hop : stepOp b = 1)
    (hrows : s.rowsAre j d b (s.w.tile j d (fld b 8 2)).rows (fld b 0xC 2 + 1) n) (hn : 0 < n) :
    Runs (.move p d q fx) s ((s.issued p d q j b fx).moveBody p d q j b n .none) := by
  obtain ⟨m, rfl⟩ : ∃ m, n = m + 1 := ⟨n - 1, by omega⟩
  have htile : (s.taken p d q j b).tile j d (fld b 8 2) = s.w.tile j d (fld b 8 2) := tile_congr rfl rfl j d _
  refine runs_settle ?_
  show execMove p d q fx s = _
  rw [execMove, run_def, issue_ready h _ (by simp [hkind, hop])]
  simp only [htile, rowsOf_ok hrows, h.fine]
  rfl

/-- A tile of the device that no argument and no page table places. -/
structure DirectTile (t : Tile) : Prop where
  unpaged : t.paged = false
  base : t.base < 2

theorem tileChip_direct (w : W) (j : Job) {t : Tile} (h : DirectTile t) : w.tileChip j t = none := by
  have hbase : (t.base == 2) = false := by
    have := h.base
    simp only [beq_eq_false_iff_ne]
    omega
  simp [W.tileChip, hbase]

/-- A run of a direct tile that is reached whole is one piece, and no error stops it. -/
theorem runEnd_direct {w : W} {p a n : Nat} {wr : Bool} (j : Job) {t : Tile} (h : DirectTile t) (ha : a < 2 ^ 48)
    (hreach : w.d.reach .dma p a n wr = (n, none)) : w.runEnd p j t wr a n .none = ([(a, n)], n, none) := by
  have hpieces : w.pieces p j t wr a n = ([(a, n)], none) := by
    rw [W.pieces, h.unpaged, localPart, Nat.mod_eq_of_lt ha]
    rfl
  simp [W.runEnd, hpieces, Dev.reachPieces, hreach, MemFail.code]

theorem subPieces_whole (a n : Nat) : subPieces 0 n [(a, n)] = if n = 0 then [] else [(a, n)] := by
  unfold subPieces
  by_cases hn : n = 0
  · simp [hn]
  · simp [hn, subPieces]

/-- A run is written as its source stands when it is reached. -/
theorem writePieces_run (w : W) (a b n : Nat) : w.writePieces (subPieces 0 n [(b, n)]) (w.readPieces (subPieces 0 n [(a, n)])) =
    if n = 0 then w else w.write b (w.readDev a n) := by
  rw [subPieces_whole, subPieces_whole]
  split
  · rfl
  · simp only [W.readPieces, W.writePieces, List.flatMap_cons, List.flatMap_nil, List.append_nil]
    rw [List.take_of_length_le (readDev_length w a n).le]

/-- Runs between direct tiles, all of which can be read and written whole, are moved one after the other. -/
theorem moveLocal_direct {w : W} {p : Nat} (j : Job) {t u : Tile} (ht : DirectTile t) (hu : DirectTile u) {runs : List (Nat × Nat × Nat)}
    (h : ∀ x ∈ runs, x.1 < 2 ^ 48 ∧ x.2.1 < 2 ^ 48 ∧ w.d.reach .dma p x.1 x.2.2 false = (x.2.2, none) ∧ w.d.reach .dma p x.2.1 x.2.2 true = (x.2.2, none)) :
    w.moveLocal p j t u .none runs = (w.each (runs.filter fun x => x.2.2 != 0) fun w x => w.write x.2.1 (w.readDev x.1 x.2.2), none) := by
  induction runs generalizing w with
  | nil => rfl
  | cons x l ih =>
    obtain ⟨a, b, n⟩ := x
    obtain ⟨ha, hb, hread, hwrite⟩ := h (a, b, n) List.mem_cons_self
    have hrest := fun x hx => h x (List.mem_cons_of_mem _ hx)
    rw [W.moveLocal, runEnd_direct j ht ha hread, runEnd_direct j hu hb hwrite]
    simp only [firstStop, writePieces_run]
    by_cases hn : n = 0
    · rw [if_pos hn, ih hrest]
      simp [hn]
    · rw [if_neg hn, ih (w := w.write b (w.readDev a n)) hrest]
      simp [hn, W.each]

/-- A MOVE between direct tiles. -/
theorem moveBody_direct {w : W} {p d q n : Nat} {j : Job} {b : Bytes} {t u : Tile} (hsrc : w.tile j d (fld b 8 2) = t) (hdst : w.tile j d (fld b 0xA 2) = u)
    (ht : DirectTile t) (hu : DirectTile u)
    (h : ∀ x ∈ moveRuns j t u (gsizeOf (fld b 0x10 1 % 4)) n, x.1 < 2 ^ 48 ∧ x.2.1 < 2 ^ 48 ∧ w.d.reach .dma p x.1 x.2.2 false = (x.2.2, none) ∧
      w.d.reach .dma p x.2.1 x.2.2 true = (x.2.2, none)) :
    w.moveBody p d q j b n .none =
      w.each ((moveRuns j t u (gsizeOf (fld b 0x10 1 % 4)) n).filter fun x => x.2.2 != 0) fun w x => w.write x.2.1 (w.readDev x.1 x.2.2) := by
  simp only [W.moveBody, W.endOf, hsrc, hdst, tileChip_direct w j ht, tileChip_direct w j hu, moveLocal_direct j ht hu h]

/-! ## DMA SIGNAL steps (R178, R234, R239) -/

/-- A DMA SIGNAL step at the head of its queue, its tokens there. -/
structure SignalReady (s : State) (p d q : Nat) (j : Job) (b : Bytes) : Prop where
  head : s.w.headStep p d q = some (j, b)
  waits : tokensReady (s.dev.die (j.site d)).tokens ((j.queue d q).needs (stepWaits b)) = true
  kind : stepKind b = 4
  op : stepOp b = 2

/-- What a SIGNAL step does once its count lets it. -/
def signalBody (p d q : Nat) (j : Job) (b : Bytes) (w : W) : W :=
  let target := j.arg (fld b 0xF 1 / 16)
  let n := fld b 0x10 8
  if target / 2 ^ 48 = w.d.hub.chip then
    match sluiceAt (target % 2 ^ 48) with
    | none => w.stepFault p d q stADDRESS_FAULT dUNPOPULATED
    | some i => if w.d.granted i j.ctx .signal then w.sluOp i false n else w.stepFault p d q stGRANT_DENIED 0
  else
    let (id, w) := w.issueOp (dmaOp p d q j .add (target / 2 ^ 48 % 2 ^ 13) target (toLe 8 n))
    (w.modJob p fun j => j.setQueue d q fun Q => { Q with ops := [id] }).pumpAll

section

variable {w : W} {p d q : Nat} {j : Job} {b : Bytes}

theorem signalBody_sluice {i : Nat} (hchip : j.arg (fld b 0xF 1 / 16) / 2 ^ 48 = w.d.hub.chip) (hi : sluiceAt (j.arg (fld b 0xF 1 / 16) % 2 ^ 48) = some i) :
    signalBody p d q j b w =
      if w.d.granted i j.ctx .signal then w.sluOp i false (fld b 0x10 8) else w.stepFault p d q stGRANT_DENIED 0 := by
  simp only [signalBody, if_pos hchip, hi]

theorem signalBody_elsewhere (hchip : j.arg (fld b 0xF 1 / 16) / 2 ^ 48 = w.d.hub.chip) (hnone : sluiceAt (j.arg (fld b 0xF 1 / 16) % 2 ^ 48) = none) :
    signalBody p d q j b w = w.stepFault p d q stADDRESS_FAULT dUNPOPULATED := by
  simp only [signalBody, if_pos hchip, hnone]

theorem signalBody_remote (hchip : j.arg (fld b 0xF 1 / 16) / 2 ^ 48 ≠ w.d.hub.chip) :
    signalBody p d q j b w =
      let x := w.issueOp (dmaOp p d q j .add (j.arg (fld b 0xF 1 / 16) / 2 ^ 48 % 2 ^ 13) (j.arg (fld b 0xF 1 / 16)) (toLe 8 (fld b 0x10 8)))
      (x.2.modJob p fun j => j.setQueue d q fun Q => { Q with ops := [x.1] }).pumpAll := if_neg hchip

end

section

variable {s : State} {p d q : Nat} {j : Job} {b : Bytes} (h : SignalReady s p d q j b)

include h

theorem signal_runs : Runs (.dmaSignal p d q) s ((s.taken p d q j b).counted p d q j b (signalBody p d q j b)) := by
  refine runs_settle ?_
  show execDmaSignal p d q s = _
  rw [execDmaSignal, run_def, issue_headStep h.head h.waits _ (by simp [h.kind, h.op])]
  rfl

theorem signal_counted {k : Nat} (hrows : s.rowsAre j d b 1 (fld b 0xC 2 + 1) k) (hk : 0 < k) :
    Runs (.dmaSignal p d q) s (signalBody p d q j b (s.taken p d q j b)) := by
  have hruns := signal_runs h
  rwa [counted_runs hrows hk] at hruns

/-- A SIGNAL that names a count of 0, or one above its maximum, changes no sluice. -/
theorem signal_count {c : Nat} (hcount : stepCount b = some c) :
    (fld b 0xC 2 + 1 < tget 0 (s.dev.die (j.site d)).counts c → Runs (.dmaSignal p d q) s ((s.taken p d q j b).stepFault p d q stCOUNT_RANGE 0)) ∧
    (tget 0 (s.dev.die (j.site d)).counts c = 0 → Runs (.dmaSignal p d q) s ((s.taken p d q j b).releaseStep p d q)) := by
  have hruns := signal_runs h
  unfold W.counted at hruns
  constructor
  · intro hgreat
    simpa only [W.rowsOf, hcount, taken_die, if_pos hgreat] using hruns
  · intro hzero
    simpa only [W.rowsOf, hcount, taken_die, hzero, if_neg (Nat.not_lt_zero _)] using hruns

end

/-- The issue of a step leaves who may signal. -/
theorem granted_taken (s : State) (p d q : Nat) (j : Job) (b : Bytes) (i n : Nat) (right : Right) :
    (s.taken p d q j b).d.granted i n right = s.dev.granted i n right := by
  have hpol : ∀ r, ∃ J, (s.taken p d q j b).d.pol r = { s.dev.pol r with job := J } := by
    intro r
    by_cases hr : r = p
    · subst hr
      exact ⟨_, pol_modPol _ r _⟩
    · exact ⟨_, pol_modPol_ne _ _ _ _ hr⟩
  have howner : (s.taken p d q j b).d.sluPol i = s.dev.sluPol i := by
    unfold Dev.sluPol Dev.polWhere
    congr 1
    funext r
    obtain ⟨J, hJ⟩ := hpol r
    rw [hJ]
    rfl
  unfold Dev.granted Dev.sluOwnerPol
  rw [howner]
  rfl

/-- An add to a sluice that nothing waits on. -/
theorem sluOp_add_quiet {w : W} {i : Nat} (n : Nat) (h : w.d.waiters i = []) : w.sluOp i false n =
    w.modSluice i fun S => if S.value + n < 2 ^ 64 then { S with value := S.value + n } else { S with value := 2 ^ 64 - 1, sat := true } := by
  have hwaiters : (w.modSluice i fun S => sluApply S false n).d.waiters i = [] := h
  rw [W.sluOp, W.wake, hwaiters]
  refine congrArg (w.modSluice i) (funext fun S => ?_)
  rw [sluApply, if_neg Bool.false_ne_true]
  by_cases hv : S.value + n < 2 ^ 64
  · rw [if_pos hv]
    exact if_neg (by omega)
  · rw [if_neg hv]
    exact if_pos (by omega)

/-- Settles O48: the runs of a MOVE, and a DMA SIGNAL by its count, its target's chip and its context's grant. -/
theorem movesAndSignals : Obligations.MovesAndSignals := by
  constructor
  · intro s p d q n j b fx h hkind hop src dst hrows hn runs
    refine ⟨move_runs h hkind hop hrows hn, fun hsp hdp hsb hdb hreach => ?_⟩
    have hmoves := move_runs h hkind hop hrows hn
    obtain ⟨hbase, hops⟩ := issued_mem s p d q j b fx
    rwa [moveBody_direct (t := src) (u := dst) (tile_congr hbase hops j d _) (tile_congr hbase hops j d _) ⟨hsp, hsb⟩ ⟨hdp, hdb⟩
      (by simpa only [(sameReach_issued s p d q j b fx).reach] using hreach)] at hmoves
  · intro s p d q j b hhead hwaits hkind hop target n
    have hready : SignalReady s p d q j b := ⟨hhead, hwaits, hkind, hop⟩
    refine ⟨fun c hcount => signal_count hready hcount, fun k hrows hk hchip => ⟨fun i hi => ⟨fun hgrant hquiet => ?_, fun hdenied => ?_⟩, fun hnone => ?_⟩,
      fun k hrows hk hchip => ?_⟩
    all_goals have hruns := signal_counted hready hrows hk
    · rwa [signalBody_sluice hchip hi, granted_taken, if_pos hgrant, sluOp_add_quiet n hquiet] at hruns
    · rwa [signalBody_sluice hchip hi, granted_taken, if_neg (by simp [hdenied])] at hruns
    · rwa [signalBody_elsewhere hchip hnone] at hruns
    · rwa [signalBody_remote hchip] at hruns

end Sys2Proof.Laws

/-! ## What the receipt of a frame leaves (R305, R322) -/

namespace Sys2Proof.Laws

open Sys2Proof.Machine Sys2Proof.Claims

/-- `v` is `w` after work on the ports: their state, their counters and what was sent alone have changed. -/
def PortsOnly (w v : W) : Prop :=
  ∃ P C o, v = { w with d := { w.d with fabric := { w.d.fabric with ports := P, cnt := C }, out := o } }

theorem PortsOnly.refl (w : W) : PortsOnly w w := ⟨_, _, _, rfl⟩

theorem PortsOnly.trans {a b c : W} (h : PortsOnly a b) (k : PortsOnly b c) : PortsOnly a c := by
  obtain ⟨_, _, _, rfl⟩ := h
  obtain ⟨_, _, _, rfl⟩ := k
  exact ⟨_, _, _, rfl⟩

theorem PortsOnly.each {α : Type} (l : List α) (f : W → α → W) (h : ∀ w a, PortsOnly w (f w a)) (w : W) : PortsOnly w (w.each l f) := by
  unfold W.each
  induction l generalizing w with
  | nil => exact .refl w
  | cons a l ih => exact (h w a).trans (ih (f w a))

theorem portsOnly_modPort (w : W) (n : Nat) (f : Port → Port) : PortsOnly w (w.modPort n f) := ⟨_, _, _, rfl⟩
theorem portsOnly_linkCnt (w : W) (n k x : Nat) : PortsOnly w (w.linkCnt n k x) := ⟨_, _, _, rfl⟩
theorem portsOnly_emit (w : W) (o : Out) : PortsOnly w (w.emit o) := ⟨_, _, _, rfl⟩

theorem portsOnly_wire (w : W) (n : Nat) (f : Frame) : PortsOnly w (w.wire n f) := (portsOnly_emit w _).trans (portsOnly_linkCnt _ n 0 1)

theorem portsOnly_sendNow (w : W) (n : Nat) (f : Frame) : PortsOnly w (w.sendNow n f) := by
  unfold W.sendNow
  dsimp only
  split
  · exact portsOnly_wire w n f
  · exact (portsOnly_modPort w n _).trans (portsOnly_wire _ n _)

theorem portsOnly_releaseHeld (k : Nat) (w : W) (n : Nat) : PortsOnly w (W.releaseHeld k w n) := by
  induction k generalizing w with
  | zero => exact .refl w
  | succ k ih =>
    unfold W.releaseHeld
    split
    · exact .refl w
    · split
      · exact .refl w
      · exact ((portsOnly_modPort w n _).trans (portsOnly_sendNow _ n _)).trans (ih _)

theorem portsOnly_pausePeers (w : W) : PortsOnly w w.pausePeers := by
  unfold W.pausePeers
  split
  · exact .refl w
  · refine PortsOnly.each _ _ (fun w n => PortsOnly.each _ _ (fun w q => ?_) w) w
    dsimp only
    split
    · exact (portsOnly_modPort w n _).trans (portsOnly_emit _ _)
    · split
      · exact (portsOnly_modPort w n _).trans (portsOnly_emit _ _)
      · exact .refl w

theorem portsOnly_received (s : State) (n : Nat) (f : Frame) : PortsOnly s.w (received s n f) :=
  (portsOnly_linkCnt s.w n 1 1).trans (((portsOnly_modPort _ n _).trans ((portsOnly_releaseHeld _ _ n).trans (portsOnly_pausePeers _))).trans
    (portsOnly_modPort _ n _))

/-- The admission of a frame finds of `b` what it finds of `a`: who owns an address, who reaches it, the windows; and what is in progress over the fabric. -/
structure SameAdmission (a b : Dev) : Prop where
  targetReady : ∀ x, b.targetReady x = a.targetReady x
  targetPol : ∀ x, b.targetPol x = a.targetPol x
  addressBad : ∀ g n wr, b.addressBad g n wr = a.addressBad g n wr
  windowOk : ∀ p chip key wr x n, b.windowOk p chip key wr x n = a.windowOk p chip key wr x n
  ops : b.fabric.ops = a.fabric.ops
  checkRetry : b.fabric.checkRetry = a.fabric.checkRetry
  polReady : ∀ p, b.polReady p = a.polReady p

theorem sameAdmission_received (s : State) (n : Nat) (f : Frame) : SameAdmission s.dev (received s n f).d := by
  obtain ⟨P, C, o, h⟩ := portsOnly_received s n f
  rw [h]
  exact ⟨fun _ => rfl, fun _ => rfl, fun _ _ _ => rfl, fun _ _ _ _ _ _ => rfl, rfl, rfl, fun _ => rfl⟩

end Sys2Proof.Laws

/-! ## Remote writes and reads at their destination (R149, R318, R322, R323) -/

namespace Sys2Proof.Laws

open Sys2Proof.Machine Sys2Proof.Claims

/-- A plain WRITE that has passed checks 1 and 2 of R322. -/
def writeGo (n : Nat) (fx : MemFx) (f : Frame) (w : W) : W :=
  let a := f.addr % 2 ^ 48
  let len := f.payload.length
  let p := (w.d.targetPol a).getD 16
  if len = 0 ∨ a % 4096 + len > 4096 then w.linkCnt n 5
  else if !w.d.targetReady a then w.nakTo p f 2 0 none
  else match w.d.addressBad f.addr len true with
    | some det => w.nakTo p f 4 det none
    | none =>
      if !w.d.windowOk p f.src none true a len then w.nakTo p f 5 0 none
      else w.codeGate p f none fun w =>
        let w := w.countFx p fx
        match fxNak fx.fail with
        | some (r, det) => (w.memReport p fx.fail).nakTo p f r det none
        | none => (w.write a f.payload).ackTo p f f.tag none

/-- A plain READ_REQ that has passed them. -/
def readGo (n : Nat) (fx : MemFx) (f : Frame) (w : W) : W :=
  let a := f.addr % 2 ^ 48
  let p := (w.d.targetPol a).getD 16
  if f.payload.length ≠ 0 then w.linkCnt n 5
  else if !w.d.targetReady a then w.nakTo p f 2 0 none
  else match w.d.addressBad (f.addr / 4096 * 4096) 4096 false with
    | some det => w.nakTo p f 4 det none
    | none =>
      if !w.d.windowOk p f.src none false (a / 4096 * 4096) 4096 then w.nakTo p f 5 0 none
      else
        let w := w.countFx p fx
        match fxNak fx.fail with
        | some (r, det) => (w.memReport p fx.fail).nakTo p f r det none
        | none =>
          (w.modFabric fun F => { F with served := (F.served.filter fun x => !(x.1 == f.src && x.2.1 == f.tag)) ++ [(f.src, f.tag, f.addr, p, 0)] }).readResp
            p f.src f.tag f.addr none

section

variable {s : State} {n p : Nat} {f : Frame} {fx : MemFx} (h : Arrives s n f)

include h

theorem write_runs (hkind : f.kind = 1) : Runs (.write n f fx) s (writeGo n fx f (received s n f)) := by
  refine runs_settle ?_
  show execWrite n f fx s = _
  rw [execWrite, run_def, inbound_arrives h hkind (by decide)]
  rfl

theorem readReq_runs (hkind : f.kind = 2) : Runs (.readReq n f fx) s (readGo n fx f (received s n f)) := by
  refine runs_settle ?_
  show execReadReq n f fx s = _
  rw [execReadReq, run_def, inbound_arrives h hkind (by decide)]
  rfl

end

/-- The polder that an address names acts for it, where it may act. -/
theorem targetReady_of_targetPol {d : Dev} {a p : Nat} (h : d.targetPol a = some p) : d.targetReady a = d.polReady p := by
  rw [Dev.targetReady, h]

/-- A WRITE within one block, to memory of polder `p`. -/
structure WriteTo (w : W) (f : Frame) (p : Nat) : Prop where
  nonempty : f.payload ≠ []
  block : f.addr % 2 ^ 48 % 4096 + f.payload.length ≤ 4096
  pol : w.d.targetPol (f.addr % 2 ^ 48) = some p

section

variable {w : W} {n p : Nat} {f : Frame} {fx : MemFx} (h : WriteTo w f p)

include h

theorem WriteTo.fits : ¬ (f.payload.length = 0 ∨ f.addr % 2 ^ 48 % 4096 + f.payload.length > 4096) := by
  have hlen : f.payload.length ≠ 0 := fun h0 => h.nonempty (List.length_eq_zero_iff.mp h0)
  have := h.block
  omega

theorem writeGo_unready (hready : w.d.polReady p = false) : writeGo n fx f w = w.nakTo p f 2 0 none := by
  simp only [writeGo, if_neg h.fits, targetReady_of_targetPol h.pol, h.pol, hready, Option.getD_some, Bool.not_false, if_true]

variable (hready : w.d.polReady p = true)

include hready

theorem writeGo_refused {det : Nat} (hbad : w.d.addressBad f.addr f.payload.length true = some det) : writeGo n fx f w = w.nakTo p f 4 det none := by
  simp only [writeGo, if_neg h.fits, targetReady_of_targetPol h.pol, h.pol, hready, Option.getD_some, Bool.not_true, Bool.false_eq_true, if_false, hbad]

variable (hgood : w.d.addressBad f.addr f.payload.length true = none)

include hgood

theorem writeGo_unadmitted (hwin : w.d.windowOk p f.src none true (f.addr % 2 ^ 48) f.payload.length = false) : writeGo n fx f w = w.nakTo p f 5 0 none := by
  simp only [writeGo, if_neg h.fits, targetReady_of_targetPol h.pol, h.pol, hready, Option.getD_some, Bool.not_true, Bool.false_eq_true, if_false, hgood,
    hwin, Bool.not_false, if_true]

theorem writeGo_admitted (hwin : w.d.windowOk p f.src none true (f.addr % 2 ^ 48) f.payload.length = true) (hfine : fx.fail = .none) :
    writeGo n fx f w = w.codeGate p f none fun w => ((w.countFx p fx).write (f.addr % 2 ^ 48) f.payload).ackTo p f f.tag none := by
  simp only [writeGo, if_neg h.fits, targetReady_of_targetPol h.pol, h.pol, hready, Option.getD_some, Bool.not_true, Bool.false_eq_true, if_false, hgood,
    hwin, hfine, fxNak, MemFail.code]

end

/-! ### CODE (R304, R318) -/

theorem codeGate_right {w : W} {f : Frame} (p : Nat) (go : W → W) (h : codeRight f = true) : w.codeGate p f none go =
    go (w.modFabric fun F => { F with checkRetry := F.checkRetry.filter (· != (f.src, f.tag)) }) := by
  simp only [W.codeGate, h, if_true]

theorem codeGate_first {w : W} {f : Frame} (p : Nat) (go : W → W) (h : codeRight f = false) (hnew : (f.src, f.tag) ∉ w.d.fabric.checkRetry) :
    w.codeGate p f none go = ((w.modFabric fun F => { F with checkRetry := F.checkRetry.filter (· != (f.src, f.tag)) }).modFabric fun F =>
      { F with checkRetry := F.checkRetry ++ [(f.src, f.tag)] }).nakTo p f 7 0 none := by
  have hcontains : w.d.fabric.checkRetry.contains (f.src, f.tag) = false := by simpa using hnew
  simp only [W.codeGate, h, hcontains, Bool.false_eq_true, if_false]

theorem codeGate_again {w : W} {f : Frame} (p : Nat) (go : W → W) (h : codeRight f = false) (hold : (f.src, f.tag) ∈ w.d.fabric.checkRetry) :
    w.codeGate p f none go =
      ((w.modFabric fun F => { F with checkRetry := F.checkRetry.filter (· != (f.src, f.tag)) }).polErr p 1 1).nakTo p f 8 0 none := by
  have hcontains : w.d.fabric.checkRetry.contains (f.src, f.tag) = true := by simpa using hold
  simp only [W.codeGate, h, hcontains, Bool.false_eq_true, if_false, if_true]

/-- A READ_REQ of a block that its polder has and that a window admits. -/
theorem readGo_admitted {w : W} {n p : Nat} {f : Frame} {fx : MemFx} (hempty : f.payload = []) (hpol : w.d.targetPol (f.addr % 2 ^ 48) = some p)
    (hready : w.d.polReady p = true) (hgood : w.d.addressBad (f.addr / 4096 * 4096) 4096 false = none)
    (hwin : w.d.windowOk p f.src none false (f.addr % 2 ^ 48 / 4096 * 4096) 4096 = true) (hfine : fx.fail = .none) :
    readGo n fx f w = ((w.countFx p fx).modFabric fun F =>
      { F with served := (F.served.filter fun x => !(x.1 == f.src && x.2.1 == f.tag)) ++ [(f.src, f.tag, f.addr, p, 0)] }).readResp p f.src f.tag f.addr none := by
  have hlen : ¬ f.payload.length ≠ 0 := by rw [hempty]; exact not_not.mpr rfl
  simp only [readGo, if_neg hlen, targetReady_of_targetPol hpol, hpol, hready, Option.getD_some, Bool.not_true, Bool.false_eq_true, if_false, hgood, hwin,
    hfine, fxNak, MemFail.code]

end Sys2Proof.Laws

/-! ## Answers at the issuer (R318, R319, R324) -/

namespace Sys2Proof.Laws

open Sys2Proof.Machine Sys2Proof.Claims

/-- An answer finds the operation that it names. -/
theorem find?_waits {s : State} {o : ROp} {src num : Nat} (h : Waits s o src num) {P : ROp → Bool} (ho : P o = true)
    (hP : ∀ x, P x = true → x.sent = true ∧ x.chip = src ∧ x.tag = num) : s.dev.fabric.ops.find? P = some o := by
  cases hfind : s.dev.fabric.ops.find? P with
  | none => exact absurd ho (List.find?_eq_none.mp hfind o h.known)
  | some x =>
    obtain ⟨hsent, hchip, htag⟩ := hP x (List.find?_some hfind)
    rw [h.only x (List.mem_of_find?_eq_some hfind) hsent hchip htag]

/-- A plain operation is answered by any frame. -/
theorem answeredBy_plain {o : ROp} (h : o.key = none) (key : Option Nat) : o.answeredBy key = true := by simp [ROp.answeredBy, h]

theorem u32_of_toLe (tag : Nat) : fld (toLe 4 tag) 0 4 = u32 tag := by
  have hbyte : ∀ v, (BitVec.ofNat 8 v).toNat = v % 256 := fun v => BitVec.toNat_ofNat v 8
  show (BitVec.ofNat 8 tag).toNat + 256 * ((BitVec.ofNat 8 (tag / 256)).toNat + 256 * ((BitVec.ofNat 8 (tag / 256 / 256)).toNat +
    256 * ((BitVec.ofNat 8 (tag / 256 / 256 / 256)).toNat + 256 * 0))) = tag % 2 ^ 32
  simp only [hbyte]
  omega

section

variable {s : State} {n : Nat} {f : Frame} {fx : MemFx} {o : ROp} (h : Arrives s n f) (hcode : codeRight f = true)

include h hcode

/-- R318: the answer of a step's read lands in the bytes that its request names. -/
theorem readResp_runs {p d q : Nat} {pieces : List (Nat × Nat × Nat)} (hkind : f.kind = 3) (hwaits : Waits s o f.src f.tag) (hread : o.kind = .read pieces)
    (hissuer : o.issuer = .dma p d q) (hfine : fx.fail = .none) (hlen : f.payload.length = 4096) :
    Runs (.readResp n f fx) s
      ((((received s n f).jobFx p fx).each pieces fun w x => w.write x.2.2 (slice f.payload x.1 x.2.1)).opDone o).pumpAll := by
  refine runs_settle ?_
  show execReadResp n f fx s = _
  rw [execReadResp, run_def, inbound_arrives h hkind (by decide)]
  dsimp only
  rw [(sameAdmission_received s n f).ops, find?_waits hwaits]
  · simp only [Bool.false_eq_true, if_false, hlen, ne_eq, not_true_eq_false, hcode, Bool.not_true, hread, hissuer, Issuer.polder, hfine, MemFail.code]
  · simp [hwaits.sent, hwaits.chip, hwaits.tag, answeredBy_plain hwaits.plain, hread]
  · intro x hx
    simp only [Bool.and_eq_true, beq_iff_eq] at hx
    exact ⟨hx.1.1.1.1, hx.1.1.2, hx.1.2⟩

/-- R319: an acknowledgement of one TAG ends its operation. -/
theorem ack_runs {tag : Nat} (hkind : f.kind = 6) (hpayload : f.payload = toLe 4 tag) (hwaits : Waits s o f.src (u32 tag)) (hread : isRead o.kind = false) :
    Runs (.ack n f) s (((received s n f).opDone o).pumpAll) := by
  refine runs_settle ?_
  show execAck n f s = _
  rw [execAck, run_def, inbound_arrives h hkind (by decide)]
  dsimp only
  have hlen : f.payload.length = 4 := by rw [hpayload]; rfl
  have htags : (List.range (f.payload.length / 4)).map (fun i => fld f.payload (4 * i) 4) = [u32 tag] := by
    rw [hlen, hpayload, ← u32_of_toLe]
    rfl
  rw [htags, if_neg (by simp [hcode]), if_neg (by omega)]
  simp only [W.each, List.foldl_cons, List.foldl_nil]
  rw [(sameAdmission_received s n f).ops, find?_waits hwaits]
  · show (o.sent && !isRead o.kind && o.chip == f.src && o.tag == u32 tag && o.answeredBy none) = true
    simp [hwaits.sent, hwaits.chip, hwaits.tag, answeredBy_plain hwaits.plain, hread]
  · intro x hx
    simp only [Bool.and_eq_true, beq_iff_eq] at hx
    exact ⟨hx.1.1.1.1, hx.1.1.2, hx.1.2⟩

/-- A refusal of an operation reaches its issuer. -/
theorem nak_runs {reason : Nat} (hkind : f.kind = 7) (hlen : f.payload.length = 8) (hrsvd : fld f.payload 6 2 = 0) (hreason : fld f.payload 4 1 = reason)
    (hrange : 0 < reason ∧ reason ≤ 10 ∧ reason ≠ 9) (hwaits : Waits s o f.src (fld f.payload 0 4)) (hread : reason = 7 → isRead o.kind = false) :
    Runs (.nak n f) s (((received s n f).refused o reason (fld f.payload 5 1)).pumpAll) := by
  refine runs_settle ?_
  show execNak n f s = _
  rw [execNak, run_def, inbound_arrives h hkind (by decide)]
  dsimp only
  rw [hreason, if_neg (by simp [hcode]), if_neg (by omega), if_neg hrange.2.2, (sameAdmission_received s n f).ops, find?_waits hwaits]
  · simp only [answeredBy_plain hwaits.plain, if_true]
  · show (o.sent && o.chip == f.src && o.tag == fld f.payload 0 4 && (reason != 7 || !isRead o.kind)) = true
    simpa [hwaits.sent, hwaits.chip, hwaits.tag, ← imp_iff_not_or] using hread
  · intro x hx
    simp only [Bool.and_eq_true, beq_iff_eq] at hx
    exact ⟨hx.1.1.1, hx.1.1.2, hx.1.2⟩

end

theorem refused_fails {reason detail st det : Nat} (w : W) (o : ROp) (h : nakFails reason detail = some (st, det)) :
    w.refused o reason detail = w.opFail o st det := by
  unfold nakFails at h
  split at h <;> cases h <;> rfl

theorem nakFails_range {reason detail st det : Nat} (h : nakFails reason detail = some (st, det)) :
    0 < reason ∧ reason ≤ 10 ∧ reason ≠ 9 := by
  unfold nakFails at h
  split at h <;> cases h <;> decide

theorem refused_wait (w : W) (o : ROp) (detail : Nat) :
    w.refused o 3 detail = w.modOp o.id fun o => { o with sent := false, waitNak := true } := rfl

theorem refused_check (w : W) (o : ROp) (detail : Nat) : w.refused o 7 detail = w.modOp o.id fun o => { o with
    sent := false, retried := true, payload := if o.src = [] then o.payload else o.src.flatMap fun x => w.readDev x.1 x.2 } := by
  simp only [W.refused, List.isEmpty_iff]

/-- Settles O49: each frame by the checks that it passes, and each answer by the operation that it names. -/
theorem remoteReadsAndWrites : Obligations.RemoteReadsAndWrites := by
  refine ⟨?write, ?readReq, ?readResp, ?ack, ?nak⟩
  case write =>
    intro s n p f fx h hkind hsome hpol hfine a len nak hblock
    have hsame := sameAdmission_received s n f
    have hto : WriteTo (received s n f) f p := ⟨hsome, hblock, (hsame.targetPol _).trans hpol⟩
    have hruns := write_runs (fx := fx) h hkind
    refine ⟨fun hready => ?_, fun det hready hbad => ?_, fun hready hgood hwin => ?_, fun hready hgood hwin => ?_⟩
    · rwa [writeGo_unready hto ((hsame.polReady p).trans hready)] at hruns
    · rwa [writeGo_refused hto ((hsame.polReady p).trans hready) ((hsame.addressBad _ _ _).trans hbad)] at hruns
    · rwa [writeGo_unadmitted hto ((hsame.polReady p).trans hready) ((hsame.addressBad _ _ _).trans hgood) ((hsame.windowOk _ _ _ _ _ _).trans hwin)]
        at hruns
    · rw [writeGo_admitted hto ((hsame.polReady p).trans hready) ((hsame.addressBad _ _ _).trans hgood) ((hsame.windowOk _ _ _ _ _ _).trans hwin) hfine]
        at hruns
      refine ⟨fun hcode => ?_, fun hcode hnew => ?_, fun hcode hold => ?_⟩
      · rwa [codeGate_right p _ hcode] at hruns
      · rwa [codeGate_first p _ hcode (hsame.checkRetry ▸ hnew)] at hruns
      · rwa [codeGate_again p _ hcode (hsame.checkRetry ▸ hold)] at hruns
  case readReq =>
    intro s n p f fx h hkind hempty hpol hfine hready hgood hwin
    have hsame := sameAdmission_received s n f
    have hruns := readReq_runs (fx := fx) h hkind
    rwa [readGo_admitted hempty ((hsame.targetPol _).trans hpol) ((hsame.polReady p).trans hready) ((hsame.addressBad _ _ _).trans hgood)
      ((hsame.windowOk _ _ _ _ _ _).trans hwin) hfine] at hruns
  case readResp =>
    intro s n p d q f fx o pieces h hkind hwaits hread hissuer hfine hlen hcode
    exact readResp_runs h hcode hkind hwaits hread hissuer hfine hlen
  case ack =>
    intro s n f o h hkind hcode tag hpayload hwaits hread
    exact ack_runs h hcode hkind hpayload hwaits hread
  case nak =>
    intro s n f o reason h hkind hcode hlen hrsvd hreason hwaits hread
    refine ⟨fun st det hfails => ?_, fun hwait => ?_, fun hcheck => ?_⟩
    · have hruns := nak_runs h hcode hkind hlen hrsvd hreason (nakFails_range hfails) hwaits hread
      rwa [refused_fails _ _ hfails] at hruns
    · have hruns := nak_runs h hcode hkind hlen hrsvd (hreason.trans hwait) (by decide) hwaits (fun h => hread (hwait.trans h))
      rwa [refused_wait] at hruns
    · have hruns := nak_runs h hcode hkind hlen hrsvd (hreason.trans hcheck) (by decide) hwaits (fun _ => hread hcheck)
      rwa [refused_check] at hruns

end Sys2Proof.Laws

/-! ## Jobs that are taken (R185, R210, R251) -/

namespace Sys2Proof.Laws

open Sys2Proof.Machine Sys2Proof.Claims

theorem bits_zero_lo (v hi : Nat) : bits v hi 0 = v % 2 ^ (hi + 1) := by simp [bits]

/-- `b` is `a` with its clock, and what numbers and keys the jobs of each polder, as they were (R337, R339). -/
structure JobsNumbered (a b : Dev) : Prop where
  aon : b.aon = a.aon
  jobs : ∀ p, (b.pol p).jobs = (a.pol p).jobs
  key : ∀ p, (b.pol p).keyNow = (a.pol p).keyNow

theorem JobsNumbered.trans {a b c : Dev} (h : JobsNumbered a b) (k : JobsNumbered b c) : JobsNumbered a c :=
  ⟨k.aon.trans h.aon, fun p => (k.jobs p).trans (h.jobs p), fun p => (k.key p).trans (h.key p)⟩

theorem JobsNumbered.refl (a : Dev) : JobsNumbered a a := ⟨rfl, fun _ => rfl, fun _ => rfl⟩

theorem Quiet.jobsNumbered {w v : W} (h : Quiet w v) : JobsNumbered w.d v.d :=
  ⟨by rw [h.dev.rest], fun p => by rw [h.dev.pols], fun p => by rw [h.dev.pols]; rfl⟩

theorem jobsNumbered_modPol (w : W) (p : Nat) (f : Pol → Pol) (hjobs : ∀ P, (f P).jobs = P.jobs) (hkey : ∀ P, (f P).keyNow = P.keyNow) :
    JobsNumbered w.d (w.modPol p f).d := by
  refine ⟨rfl, fun i => ?_, fun i => ?_⟩ <;> by_cases hi : i = p
  · subst hi; rw [pol_modPol, hjobs]
  · rw [pol_modPol_ne _ _ _ _ hi]
  · subst hi; rw [pol_modPol, hkey]
  · rw [pol_modPol_ne _ _ _ _ hi]

theorem each_zero_d (w : W) (l : List (Nat × Nat)) : (w.each l fun w (a, n) => w.zero a n).d = w.d := by
  unfold W.each
  induction l generalizing w with
  | nil => rfl
  | cons x l ih => exact ih _

theorem jobsNumbered_cancelWarm (w : W) (p : Nat) (toStart : Bool) : JobsNumbered w.d (w.cancelWarm p toStart).d := by
  unfold W.cancelWarm
  split
  · exact .refl _
  · next x _ =>
    have h := jobsNumbered_modPol (w.each x.written fun w (a, n) => w.zero a n) p
      (fun P => { P with warm := none, waitRo := if toStart then P.waitRo ++ [(x.ring, x.ro)] else P.waitRo }) (fun _ => rfl) fun _ => rfl
    rwa [each_zero_d] at h

/-- The switch of contexts (R251). -/
theorem jobsNumbered_switchCtx (w : W) (p n : Nat) : JobsNumbered w.d (w.switchCtx p n).d := by
  have hbudget : JobsNumbered w.d (w.modCtx n fun C => { C with budget := (C.slice : Int) * 1000 }).d := ⟨rfl, fun _ => rfl, fun _ => rfl⟩
  refine hbudget.trans ?_
  unfold W.switchCtx
  generalize w.modCtx n _ = v
  dsimp only
  split
  · exact .refl _
  · next c _ =>
    have hcancel : JobsNumbered v.d (if c = n then v else v.cancelWarm p true).d := by
      split
      · exact .refl _
      · exact jobsNumbered_cancelWarm v p true
    generalize (if c = n then v else v.cancelWarm p true) = u at hcancel ⊢
    have hrefresh := hcancel.trans (refresh_quiet _ p).jobsNumbered
    split
    · exact hrefresh.trans (evict_quiet _ p c).jobsNumbered
    · exact hrefresh

/-- A job whose image holds no slot waits for its validation, while one is free (R159, R185 step 2′). -/
theorem jobStep2_waits {w : W} {p : Nat} {j : Job} (hnew : (w.d.pol p).imgs.find? (·.addr == j.img) = none) (hfree : (w.d.pol p).imgs.length < 32) :
    w.jobStep2 p j = w.modPol p fun P => { P with job := some j } := by
  unfold W.jobStep2
  simp only [hnew, ge_iff_le, Nat.not_le.mpr hfree, if_false]

/-- The JOB that R251 chooses, as the state finds it at the head of its ring: the ring `r` of context `n`, which is switched in or not, and the entry `b`. -/
structure JobNext (s : State) (r p n : Nat) (switch : Bool) (b : Bytes) : Prop where
  takes : Takes s r b
  pol : s.dev.ringPol r = some p
  type : dType b = 1
  ctx : s.dev.nextCtx p = some (n, switch)
  ring : s.dev.nextRing p n = some r
  free : s.dev.jobFree p = true
  passes : Passes s r b (jobLayoutOk b)

theorem take_pol (w : W) (r : Nat) (waiting : Bool) (i : Nat) : (w.take r waiting).d.pol i = w.d.pol i := by
  unfold W.take
  dsimp only
  split <;> rfl

theorem take_aon (w : W) (r : Nat) (waiting : Bool) : (w.take r waiting).d.aon = w.d.aon := by
  unfold W.take
  dsimp only
  split <;> rfl

/-- Polder `P` counts a job of ring `r` and context `n` (R251, entry 33). -/
def countedPol (r n : Nat) (P : Pol) : Pol :=
  { P with curCtx := some n, curRing := some r, jobs := P.jobs + 1, tblCtx := P.tblCtx.filter (· != n) }
/-- The same, the seals that waited for the job being its own from here on (R163, R190). -/
def jobPol (r n : Nat) (P : Pol) : Pol := { countedPol r n P with waitRo := P.waitRo.filter (·.1 != r) }

/-- The taking of a JOB, once the switch of contexts is made (R210, R251). -/
def takeJob (w : W) (p r n : Nat) (b : Bytes) : W :=
  (((w.take r).modCtx n fun C => { C with lastRing := some r }).readArgs b).modPol p (jobPol r n)

theorem pol_readArgs (w : W) (b : Bytes) (i : Nat) : (w.readArgs b).d.pol i = w.d.pol i := by
  unfold W.readArgs W.when
  split <;> rfl

theorem readArgs_modPol (w : W) (p : Nat) (f : Pol → Pol) (b : Bytes) : (w.modPol p f).readArgs b = (w.readArgs b).modPol p f := by
  unfold W.readArgs W.when
  split <;> rfl

theorem pol_takeJob (w : W) (p r n : Nat) (b : Bytes) : (takeJob w p r n b).d.pol p = jobPol r n (w.d.pol p) := by
  unfold takeJob
  rw [pol_modPol, pol_readArgs]
  exact congrArg _ (take_pol w r false p)

/-- The job of the entry `b` of ring `r`, `w` being the state that takes it (R185 step 1). -/
def jobOf (w : W) (p r n : Nat) (b blk : Bytes) : Job :=
  { ring := some r, ctx := n, img := fld b 8 8 % 2 ^ 48, len := 0, release := (fld b 0x38 1).testBit 0, stage := .validating, t0 := w.d.aon.hub
    number := (w.d.pol p).jobs + 1, key := (w.d.pol p).keyNow, args := jobArgs b blk
    ro := ((w.d.pol p).waitRo.filter (·.1 == r)).flatMap Prod.snd }

/-- The taking of a JOB step by step, up to its arguments: the entry leaves its ring, the job is counted, its context knows its ring. -/
def countJob (w : W) (p r n : Nat) : W := ((w.take r).modPol p (countedPol r n)).modCtx n fun C => { C with lastRing := some r }

theorem pol_countJob (w : W) (p r n : Nat) : (countJob w p r n).d.pol p = countedPol r n (w.d.pol p) :=
  (pol_modPol (w.take r) p (countedPol r n)).trans (congrArg _ (take_pol w r false p))

theorem aon_countJob (w : W) (p r n : Nat) : (countJob w p r n).d.aon = w.d.aon := take_aon w r false

theorem countJob_takes (w : W) (p r n : Nat) (b : Bytes) :
    ((countJob w p r n).modPol p fun P => { P with waitRo := P.waitRo.filter (·.1 != r) }).readArgs b = takeJob w p r n b := by
  have hmod := modPol_modPol ((w.take r).modCtx n fun C => { C with lastRing := some r }) p (countedPol r n) fun P =>
    { P with waitRo := P.waitRo.filter (·.1 != r) }
  exact (congrArg (·.readArgs b) hmod).trans (readArgs_modPol _ p (jobPol r n) b)

theorem countJob_job (w : W) (p r n : Nat) (b blk : Bytes) :
    ({ ring := some r, ctx := n, img := bits (fld b 8 8) 47 0, len := 0, release := (fld b 0x38 1).testBit 0, stage := .validating
       ro := (((countJob w p r n).d.pol p).waitRo.filter (·.1 == r)).flatMap Prod.snd, t0 := (countJob w p r n).d.aon.hub
       number := ((countJob w p r n).d.pol p).jobs, key := ((countJob w p r n).d.pol p).keyNow, args := jobArgs b blk } : Job) = jobOf w p r n b blk := by
  rw [pol_countJob, aon_countJob, bits_zero_lo]
  rfl

/-- The argument block as it was read; none where the arguments are inline. -/
def argBlock : ReadRes → Bytes
  | .ok blk => blk
  | .err _ => []

/-- The JOB that R251 chooses is taken, and goes to step 2 of R185. -/
theorem exec_job {s : State} {r p n : Nat} {switch : Bool} {b : Bytes} {args : ReadRes} (h : JobNext s r p n switch b)
    (hargs : jobArgi b = true ∨ ∃ blk, args = .ok blk) {w : W} (hw : (if switch then s.w.switchCtx p n else s.w) = w) :
    exec (.job r args) s = .next (s.commit ((takeJob w p r n b).jobStep2 p (jobOf w p r n b (argBlock args))).settle) := by
  obtain ⟨htakes, hpol, htype, hctx, hring, hfree, hpasses⟩ := h
  rw [← countJob_job, ← countJob_takes]
  show execJob r args s = _
  unfold execJob
  simp only [run_def, w_d, hpol, htakes.able, hctx, htype, hfree, hring, passes_none hpasses, hw, ne_eq, not_true, decide_false, Bool.not_true,
    Bool.or_self, Bool.false_eq_true, if_false]
  cases args with
  | ok blk => rfl
  | err det =>
    have hinline : jobArgi b = true := hargs.resolve_right fun ⟨_, h⟩ => by cases h
    simp only [hinline, if_true]
    rfl

/-- Settles O43: the job is counted in the state that the switch of contexts leaves, which numbers and keys jobs as before. -/
theorem jobsTaken : Obligations.JobsTaken := by
  intro s r p n switch b args htakes hpol htype hctx hring hfree hpasses hargs w blk j hnew hroom
  have hnumbered : JobsNumbered s.dev w.d := by
    cases switch
    · exact .refl _
    · exact jobsNumbered_switchCtx s.w p n
  have hj : jobOf w p r n b (argBlock args) = j := by
    unfold jobOf
    rw [hnumbered.aon, hnumbered.jobs, hnumbered.key]
    rfl
  have himgs : ((takeJob w p r n b).d.pol p).imgs = (w.d.pol p).imgs := by rw [pol_takeJob]; rfl
  have hexec := exec_job ⟨htakes, hpol, htype, hctx, hring, hfree, hpasses⟩ hargs (w := w) rfl
  rw [hj, jobStep2_waits (by rw [himgs]; exact hnew) (by rw [himgs]; exact hroom)] at hexec
  have hruns := runs_settle hexec
  unfold takeJob at hruns
  rwa [modPol_modPol] at hruns

end Sys2Proof.Laws

/-! ## Warm-ups (R188 to R190) -/

namespace Sys2Proof.Laws

open Sys2Proof.Machine Sys2Proof.Claims

/-- Length, source and destination of entry `i` of a warm-up table (R189). -/
def warmLen (img : Bytes) (i : Nat) : Nat := fld img (imWarmAt img i + 4) 4
def warmSrc (img : Bytes) (args : List Nat) (i : Nat) : Nat :=
  lget 0 args (fld img (imWarmAt img i) 1 % 16) + 4096 * fld img (imWarmAt img i + 12) 4
def warmDst (img : Bytes) (dies : List Nat) (i : Nat) : Nat :=
  spBase (lget 12 dies (fld img (imWarmAt img i + 1) 1)) + fld img (imWarmAt img i + 8) 4 % 2 ^ 26

/-- An entry that the polder reaches, its reading meeting no error, goes into the scratchpad that it names (R189). -/
theorem warmEntry_reads {w : W} {p i : Nat} {img : Bytes} {args : List Nat} (dies : List Nat) {x : Warm} (hx : x.status = 0)
    (hreach : w.d.reachAll .dma p (warmSrc img args i) (warmLen img i) false = none) :
    w.warmEntry p img args dies .none x i =
      (w.write (warmDst img dies i) (w.readDev (warmSrc img args i) (warmLen img i)),
       { x with written := x.written ++ [(warmDst img dies i, warmLen img i)] }) := by
  unfold warmSrc warmLen at hreach
  simp only [W.warmEntry, hx, ne_eq, not_true, if_false, hreach, MemFail.code]
  rfl

/-- An entry that the polder may not read stops the warm-up (R189). -/
theorem warmEntry_refused {w : W} {p i det : Nat} {img : Bytes} {args : List Nat} (dies : List Nat) (fail : MemFail) {x : Warm} (hx : x.status = 0)
    (hreach : w.d.reachAll .dma p (warmSrc img args i) (warmLen img i) false = some det) :
    w.warmEntry p img args dies fail x i = (w, { x with status := stADDRESS_FAULT, detail := det }) := by
  unfold warmSrc warmLen at hreach
  simp only [W.warmEntry, hx, ne_eq, not_true, if_false, hreach]

/-- A warm-up that an error has stopped reads nothing more (R189). -/
theorem warmEntry_stopped (w : W) (p i : Nat) (img : Bytes) (args dies : List Nat) (fail : MemFail) {x : Warm} (hx : x.status ≠ 0) :
    w.warmEntry p img args dies fail x i = (w, x) := if_pos hx

/-- Counting corrections leaves the jobs alone. -/
theorem countFx_job (w : W) (p : Nat) (fx : MemFx) (i : Nat) : ((w.countFx p fx).d.pol i).job = (w.d.pol i).job := by
  have hjob : ∀ (v : W) (k n : Nat), ((v.polErr p k n).d.pol i).job = (v.d.pol i).job := by
    intro v k n
    by_cases hi : i = p
    · subst hi; unfold W.polErr; rw [pol_modPol]
    · unfold W.polErr; rw [pol_modPol_ne _ _ _ _ hi]
  have hsites : (w.countSites fx).d.pols = w.d.pols :=
    countSites_related (R := fun a b => b.pols = a.pols) (fun _ => rfl) (fun _ _ _ h k => k.trans h) (fun _ _ _ _ => rfl) w fx
  unfold W.countFx
  rw [hjob, hjob, hjob]
  unfold Dev.pol
  rw [hsites]

/-- The end of a warm-up that no job waits for (R188). -/
theorem warmupComplete_runs {s : State} {p : Nat} {x : Warm} {fx : MemFx} (hwarm : (s.dev.pol p).warm = some x) (hdone : x.done = false) (hstatus : x.status = 0)
    (hfine : fx.fail = .none) (hjob : ∀ j, (s.dev.pol p).job = some j → j.stage ≠ .warmWait) :
    Runs (.warmupComplete p fx) s ((s.w.countFx p fx).modPol p fun P => { P with
      warm := some { x with done := true, status := 0, detail := 0, fx := MemFx.plus x.fx fx } }) := by
  refine runs_settle ?_
  show execWarmupComplete p fx s = _
  unfold execWarmupComplete
  simp only [run_def, w_d, hwarm, hdone, hstatus, hfine, MemFail.code, W.memReport, pol_modPol, countFx_job, ne_eq, not_true, if_false, if_true,
    Option.getD_none, Bool.false_eq_true]
  cases hj : (s.dev.pol p).job with
  | none => rfl
  | some j => simp only [hjob j hj, if_false]

/-- What has to hold for the warm-up of the next job to begin (R188): `j` runs its last segment and has drained it, and the entry `b` behind it on its ring is a JOB
of its context, whose image `i` is registered. -/
structure WarmsUp (s : State) (p r : Nat) (j : Job) (b : Bytes) (i : Img) : Prop where
  running : s.dev.runningJob p = some j
  idle : (s.dev.pol p).warm = none
  ring : j.ring = some r
  head : (s.dev.ring r).batch.head? = some b
  active : (s.dev.ring r).st = 1
  type : dType b = 1
  owner : (s.dev.ring r).owner = j.ctx
  layout : s.dev.descRefused r b (jobLayoutOk b) = none
  budget : (s.dev.ctx j.ctx).hasBudget = true
  image : (s.dev.pol p).imgs.find? (·.addr == fld b 8 8 % 2 ^ 48) = some i
  last : fld (s.w.segEntry j j.seg) 4 1 % 4 = 0
  drained : s.w.drained j = true
  faultless : j.faults = []

/-- The warm-up of the next job begins, and its table is read entry by entry (R188, R189). -/
theorem warmupStart_exactly {s : State} {p r : Nat} {j : Job} {b blk image : Bytes} {fx : MemFx} {i : Img} {dies : List Nat} (h : WarmsUp s p r j b i)
    (himage : s.mem.read i.addr i.len = image) (hbinding : s.dev.binding p (imDies image) (imStacks image) = some dies)
    (hargs : s.dev.badArg p image (jobArgs b blk) = none) (hwarms : 0 < imWarms image) {y : W × Warm}
    (hy : (List.range (imWarms image)).foldl (fun (y : W × Warm) k => y.1.warmEntry p image (jobArgs b blk) dies fx.fail y.2 k)
      ((s.w.readArgs b).countFx p fx, { ring := r, img := fld b 8 8 % 2 ^ 48, args := jobArgs b blk, ro := roRanges image (jobArgs b blk)
                                        fx := { fx with fail := .none } }) = y) :
    Exactly (.warmupStart p (.ok blk) fx) s (y.1.modPol p fun P => { P with warm := some y.2 }) := by
  obtain ⟨hrun, hidle, hring, hhead, hst, htype, howner, hlayout, hbudget, himg, hlast, hdrained, hfaults⟩ := h
  obtain ⟨rest, hbatch⟩ : ∃ rest, (s.dev.ring r).batch = b :: rest := List.head?_eq_some_iff.mp hhead
  have hread : s.w.read i.addr i.len = image := himage
  unfold Exactly
  show execWarmupStart p (.ok blk) fx s = _
  unfold execWarmupStart
  simp only [run_def, w_d, hrun, hidle, hring, hbatch, List.headD_cons, bits_zero_lo, himg, hread, hbinding, hst, htype, howner, hlayout, hbudget, hlast, hdrained,
    hfaults, hargs, hwarms, hy]
  simp

/-- Settles O45: the beginning of a warm-up, its entries one by one, and its end. -/
theorem warmUp : Obligations.WarmUp := by
  refine ⟨?start, ?entry, ?complete⟩
  case start =>
    intro s p r j b blk fx i dies hrun hidle hring hhead hst htype howner hlayout hbudget himg image a hbinding hlast hdrained hfaults hargs hwarms fx0 x y
    exact warmupStart_exactly ⟨hrun, hidle, hring, hhead, hst, htype, howner, hlayout, hbudget, himg, hlast, hdrained, hfaults⟩ rfl hbinding hargs hwarms rfl
  case entry =>
    intro w p i img args dies fail x hx o n src dst
    refine ⟨fun hreach hfine => ?_, fun det hreach => warmEntry_refused dies fail hx hreach, fun y hy => warmEntry_stopped w p i img args dies fail hy⟩
    subst hfine
    exact warmEntry_reads dies hx hreach
  case complete =>
    intro s p x fx hwarm hdone hstatus hfine hjob
    exact warmupComplete_runs hwarm hdone hstatus hfine hjob

end Sys2Proof.Laws

/-! ## The collectives that an image names (R185, R335) -/

namespace Sys2Proof.Laws

open Sys2Proof.Machine Sys2Proof.Claims

/-- Where the image of `collJob` stands: the stack of site 1. -/
def collImg : Nat := stackBase 1 + 0x10000

/-- An image of one die, one stack and one segment, `crc` in its CRC field. Header; die table at 0x100, segment table at 0x120, two descriptors at 0x140, stream table
at 0x180; at 0x200 the one step, in DMA queue 11: a COLL step of collective 3 from tile 0 into tile 1. -/
def collImage (crc : Nat) : Bytes :=
  toLe 4 0x4D494353 ++ toLe 4 2 ++ zeros 8 ++ toLe 4 0x220 ++ zeros 4 ++ [1, 1] ++ toLe 2 1 ++ zeros 8 ++ toLe 4 0x100 ++ toLe 4 0x120 ++ zeros 0xD0 ++ toLe 4 crc ++
    (toLe 4 0x140 ++ toLe 4 2 ++ zeros 24) ++ (toLe 4 0x180 ++ zeros 28) ++
    (zeros 4 ++ toLe 8 0x100 ++ toLe 4 0x40 ++ toLe 4 15 ++ zeros 12) ++ (zeros 4 ++ toLe 8 0x200 ++ toLe 4 0x40 ++ toLe 4 15 ++ zeros 12) ++
    (zeros 0x58 ++ toLe 4 0x200 ++ toLe 4 1 ++ zeros 0x20) ++ (toLe 8 0x403 ++ toLe 2 0 ++ toLe 2 1 ++ zeros 4 ++ toLe 8 3 ++ zeros 8)

/-- The CRC of R161 over the image. -/
def collCrc : Nat := crc32c ((collImage 0).take 0xFC ++ (collImage 0).drop 0x100)

/-- The job as a JOB descriptor starts it (R185 step 1), its image still to be validated. -/
def collJob : Job := { ring := some 0, img := collImg, len := 0, stage := .validating, number := 1 }

def collState : State :=
  { mem := Mem.apply [] (.write collImg (collImage collCrc))
    dev := { pols := [(0, { st := 2, dies := 2, job := some collJob })], dies := [(1, { stack := 3 })] } }

theorem collState_job : (collState.dev.pol 0).job = some collJob := rfl

/-- Validation accepts the image. -/
theorem collState_valid : collState.w.validate 0 collJob.img = none := by decide +kernel

/-- The image's bytes, as they stand in memory. -/
theorem collState_image : collState.mem.read collImg (le (collState.mem.read (collImg + 0x10) 4)) = collImage collCrc := by decide +kernel

/-- The image is bound to site 1, whose engines have its flavour; its ENTRY segment exchanges no bank, and it names no activation. -/
theorem collState_fits : collState.dev.binding 0 (imDies (collImage collCrc)) (imStacks (collImage collCrc)) = some [1] ∧
    collState.dev.badArg 0 (collImage collCrc) collJob.args = none ∧ imActivates (collImage collCrc) = false ∧
    (∀ i ∈ [1], (collState.dev.bank (collState.dev.fnActive i 0)).flavour = b2n ((fld (collImage collCrc) 0x20 4).testBit 0) ∧
      (collState.dev.bank (collState.dev.fnActive i 1)).flavour = b2n ((fld (collImage collCrc) 0x20 4).testBit 0)) ∧
    (fld (collState.w.segEntry collJob (collState.w.imgFld collJob 0x1E 2)) 0xA 1).testBit 0 = false := by decide +kernel

/-- The job that then runs knows the collective of its step. -/
theorem collState_runs : ∃ t, exec (.imageValidationDone 0 {}) collState = .next t ∧ (t.dev.pol 0).job.map (·.colls) = some [3] :=
  ⟨_, rfl, by decide +kernel⟩

/-- Refutes O44: R185 has an accepted job run with all that its image says, and that includes the collectives of its COLL steps, of which R335 tells the other members when
it ends early (`Job.colls`). The statement lists what changes of the job and leaves them out: it says that they are those that the job had before its validation, none,
where the image of one COLL step gives the job collective 3. -/
theorem not_imageValidation : ¬ Obligations.ImageValidation := by
  intro h
  have haccepted := (h collState 0 collJob {} collState_job rfl).2.2 [1] rfl collState_valid
  dsimp only at haccepted
  rw [show collJob.img = collImg from rfl, collState_image] at haccepted
  obtain ⟨hbinding, hargs, hactivates, hflavour, hplain⟩ := collState_fits
  obtain ⟨t, ht, -, -, -, hjob, -⟩ := haccepted hbinding hargs (.inl rfl) hactivates hflavour rfl rfl rfl hplain
  obtain ⟨u, hu, hcolls⟩ := collState_runs
  cases ht.symm.trans hu
  rw [hjob] at hcolls
  exact absurd hcolls (by decide)

end Sys2Proof.Laws

/-! ## Two records of one ring (R128, R254) -/

namespace Sys2Proof.Laws

open Sys2Proof.Machine Sys2Proof.Claims

/-- The message writes a completion record of this STATUS to host memory: bytes 12 and 13 (R217). -/
def writesStatus (status : Nat) : Out → Bool
  | .hostWrite _ bytes => slice bytes 12 2 == toLe 2 status
  | _ => false

theorem writesStatus_recordBytes {addr r size phase status : Nat} {D : Desc} {c : Compl} (h : c.status = status) :
    writesStatus status (.hostWrite addr (recordBytes r size D phase c)) = true := by
  subst h
  exact beq_iff_eq.mpr rfl

/-- A JOB descriptor in progress. -/
def twiceDesc : Desc := { bytes := [1], seq := 0 }

def twiceJob : Job := { ring := some 0 }

/-- Polder 0 runs the job of ring 0. The ring table has two records of ring 0, the one that reading it finds with the JOB in progress, and one behind it with a
TABLE_LOAD. -/
def twiceState : State :=
  { dev := { pols := [(0, { st := 2, dies := 2, ringGrp := 1, job := some twiceJob })], dies := [(1, { stack := 3 })]
             rings := [(0, { cq := 1, desc := some twiceDesc }), (0, { desc := some { bytes := [5], seq := 0 } }), (1, { kind := 1 })] } }

theorem twiceState_running : twiceState.dev.runningJob 0 = some twiceJob := rfl

theorem twiceState_busy : Busy twiceState 0 twiceDesc := ⟨rfl, rfl, rfl⟩

/-- The scrub completes the JOB with ABORTED_RESET, and no record says TIMEOUT. -/
theorem twiceState_expires : ∃ t, exec (.watchdogExpiry 0) twiceState = .next t ∧ t.dev.out.any (writesStatus stABORTED_RESET) = true ∧
    t.dev.out.any (writesStatus stTIMEOUT) = false :=
  ⟨_, rfl, by decide +kernel⟩

/-- Refutes O46 in its last clause, WATCHDOG_EXPIRY. `Dev.tableLoads`, by which the scrub of an expired job's dies ends the TABLE_LOADs that it cuts short (R128), goes
over the records of the ring table, and the scrub completes what `Dev.ring` finds under their numbers. The two agree where each ring has one record; the statement asks
that of no state. With a second record of the job's own ring that has a TABLE_LOAD in progress, the JOB completes with ABORTED_RESET, and its end by TIMEOUT finds no
descriptor left to complete. -/
theorem not_segmentsAndEnds : ¬ Obligations.SegmentsAndEnds := by
  intro h
  obtain ⟨t, ht, -, -, ⟨-, -, hends⟩, -⟩ := (h twiceState 0 twiceJob twiceState_running).2.2
  obtain ⟨-, c, hstatus, hrecord, -⟩ := hends 0 twiceDesc rfl twiceState_busy rfl
  obtain ⟨u, hu, -, hnone⟩ := twiceState_expires
  cases ht.symm.trans hu
  obtain ⟨-, hok⟩ | ⟨i, hmem⟩ := hrecord
  · rw [hstatus] at hok
    exact absurd hok (by decide)
  · exact List.any_eq_false.mp hnone _ hmem (writesStatus_recordBytes hstatus)

end Sys2Proof.Laws

/-! ## Requests to a responder (R191, R398, R402) -/

namespace Sys2Proof.Laws

open Sys2Proof.Machine Sys2Proof.Claims

section

variable {s : State} {fn : Nat}

/-- A request that the negotiation has come far enough for is served. -/
theorem spdmReq_run {phase : Nat} (h : Talking s fn phase) (f : W → W) : s.run (fun w => w.spdmReq fn phase f) = .next (s.commit (f s.w)) := by
  obtain ⟨hdoe, hphase⟩ := h
  simp [W.spdmReq, hdoe, Nat.not_lt.mpr hphase]

/-- A request inside an open session is served. -/
theorem inSession_run {phase ses : Nat} (h : Talking s fn phase) (hopen : (s.dev.openSession fn ses).isSome = true) (f : W → W) :
    s.run (fun w => w.spdmReq fn phase fun w => w.inSession fn (some ses) f) = .next (s.commit (f s.w)) := by
  rw [spdmReq_run h]
  simp only [W.inSession, w_d, hopen, if_true]

/-- A request inside a session that is not open is refused. -/
theorem inSession_refused {phase ses : Nat} (h : Talking s fn phase) (hnone : s.dev.openSession fn ses = none) (f : W → W) :
    s.run (fun w => w.spdmReq fn phase fun w => w.inSession fn (some ses) f) = .next (errorOf s fn 6) := by
  rw [spdmReq_run h]
  simp only [W.inSession, w_d, hnone, Option.isSome_none, Bool.false_eq_true, if_false]
  rfl

end

section

variable {s : State} {fn : Nat} (h : Talking s fn 3)
include h

/-- KEY_EXCHANGE of a function that holds fewer than two sessions (R398). -/
theorem keyExchange_begins (reqId : Nat) (peer : Bytes) (hroom : (s.dev.sec.sessions.filter (·.fn == fn)).length < 2) :
    let n := s.dev.freeCtr
    let rsp := s.dev.sec.sesCtr % 2 ^ 16
    let body := toLe 2 rsp ++ [0, 0] ++ rand32 (n + 1) ++ (Config.dhePublic n ++ zeros 96).take 96 ++ [0, 0]
    exec (.keyExchange fn 0 reqId peer) s = .next
      (answered s fn { s.dev.sec with
          sesCtr := s.dev.sec.sesCtr + 1
          sessions := s.dev.sec.sessions ++ [{ fn := fn, id := reqId % 2 ^ 16 + 2 ^ 16 * rsp, secret := Config.exportSecret n peer }] }
        4 0x64 0 0 (body ++ signed s (n + 3) (peer ++ body) ++ (Config.verifyData n ++ zeros 48).take 48)) := by
  refine (spdmReq_run h _).trans ?_
  simp only [w_d, ne_eq, not_true_eq_false, if_false, ge_iff_le, Nat.not_le.mpr hroom]
  rfl

/-- KEY_EXCHANGE of a function that holds two sessions is refused (R398). -/
theorem keyExchange_refused (reqId : Nat) (peer : Bytes) (hfull : 2 ≤ (s.dev.sec.sessions.filter (·.fn == fn)).length) :
    exec (.keyExchange fn 0 reqId peer) s = .next (errorOf s fn 10) := by
  refine (spdmReq_run h _).trans ?_
  simp only [w_d, ne_eq, not_true_eq_false, if_false, ge_iff_le, hfull, if_true]
  rfl

/-- FINISH of a session that KEY_EXCHANGE began opens it or ends it. -/
theorem finish_decides {ses : Nat} {x : Session} (hbegun : s.dev.sec.sessions.find? (fun x => x.fn == fn && x.id == ses && !x.opened) = some x) :
    exec (.finish fn ses true) s = .next (answered s fn { s.dev.sec with
      sessions := s.dev.sec.sessions.map fun x => if x.fn = fn ∧ x.id = ses then { x with opened := true } else x } 0 0x65 0 0 []) ∧
    exec (.finish fn ses false) s = .next (answered s fn { s.dev.sec with
      sessions := s.dev.sec.sessions.filter fun x => !(x.fn == fn && x.id == ses) } 0 0x7F 6 0 []) := by
  constructor <;> refine (spdmReq_run h _).trans ?_ <;> simp only [w_d, hbegun] <;> rfl

section

variable {ses : Nat} (hopen : (s.dev.openSession fn ses).isSome = true)
include hopen

/-- KEY_UPDATE's UpdateKey and UpdateAllKeys raise the key epoch of the session. -/
theorem keyUpdate_raises {op : Nat} (hop : op = 1 ∨ op = 2) :
    exec (.keyUpdate fn ses op) s = .next (answered s fn { s.dev.sec with
      sessions := s.dev.sec.sessions.map fun x => if x.fn = fn ∧ x.id = ses then { x with epoch := x.epoch + 1 } else x } 0 0x69 op 0 []) := by
  refine (inSession_run h hopen _).trans ?_
  simp only [hop, if_true]
  rfl

/-- IDE_KM of a VF is refused (R398). -/
theorem ideKm_refused (hvf : fn ≠ 0) (m : IdeMsg) : exec (.ideKm fn ses m) s = .next (errorOf s fn 1) := by
  refine (inSession_run h hopen _).trans ?_
  simp only [ne_eq, hvf, not_false_eq_true, if_true]
  rfl

end

end

section

variable {s : State} {ses : Nat} (h : Talking s 0 3) (hopen : (s.dev.openSession 0 ses).isSome = true)
include h hopen

/-- IDE_KM KEY_PROG sets the key of a stream, which does not run yet. -/
theorem ideKm_keyProg {n : Nat} (k : Nat) (hn : n ≤ 4) : exec (.ideKm 0 ses (.keyProg n k)) s = .next
    (answered s 0 { s.dev.sec with ide := (n, k, false) :: s.dev.sec.ide.filter fun x => x.1 != n } 0 0x7E 3 0 (toLe 1 n)) := by
  refine (inSession_run h hopen _).trans ?_
  simp only [ne_eq, not_true_eq_false, if_false, hn, if_true]
  rfl

/-- IDE_KM K_SET_GO and K_SET_STOP start and stop a stream that has a key, and keep the key. -/
theorem ideKm_setGo_setStop {n k : Nat} {on : Bool} (hheld : s.dev.sec.ide.find? (fun x => x.1 == n) = some (n, k, on)) :
    exec (.ideKm 0 ses (.setGo n)) s = .next
      (answered s 0 { s.dev.sec with ide := (n, k, true) :: s.dev.sec.ide.filter fun x => x.1 != n } 0 0x7E 6 0 (toLe 1 n)) ∧
    exec (.ideKm 0 ses (.setStop n)) s = .next
      (answered s 0 { s.dev.sec with ide := (n, k, false) :: s.dev.sec.ide.filter fun x => x.1 != n } 0 0x7E 6 0 (toLe 1 n)) := by
  constructor <;> refine (inSession_run h hopen _).trans ?_ <;> simp only [ne_eq, not_true_eq_false, if_false, w_d, hheld] <;> rfl

end

/-- Settles O29: each request by the lemma of its case, served in the phase and in the session that it asks for. -/
theorem spdmSessions : Obligations.SpdmSessions := by
  intro s fn h
  refine ⟨fun reqId peer => ⟨keyExchange_begins h reqId peer, keyExchange_refused h reqId peer⟩, fun ses x hbegun => finish_decides h hbegun, fun ses hopen => ?inside,
    fun ses hnone => ⟨inSession_refused h hnone _, inSession_refused h hnone _⟩⟩
  case inside =>
    refine ⟨fun op hop => keyUpdate_raises h hopen hop, inSession_run h hopen _, inSession_run h hopen _, ?pf, fun hvf m => ideKm_refused h hopen hvf m⟩
    case pf =>
      rintro rfl
      exact ⟨inSession_run h hopen _, fun n k hn => ideKm_keyProg h hopen k hn, fun n k on hheld => ideKm_setGo_setStop h hopen hheld⟩

end Sys2Proof.Laws

/-! ## Writes of registers (R195, R437) -/

namespace Sys2Proof.Laws

open Sys2Proof.Machine Sys2Proof.Claims

/-- A state with nothing done to it. -/
theorem commit_w (s : State) : s.commit s.w = s := rfl

theorem modRing_modRing (w : W) (r : Nat) (f g : Ring → Ring) : (w.modRing r f).modRing r g = w.modRing r fun R => g (f R) := by
  unfold W.modRing
  rw [tmod_tmod]

/-- A write by a function that reaches the register does the work `v` of that register. -/
theorem regWrite_runs {s : State} {fn off : Nat} {p? : Option Nat} {c : Instr} {f : W → (W → W) → W} {v : W} (h : Reaches s fn p?)
    (hexec : exec c s = .next (s.commit (s.w.regWrite fn off (s.dev.reachesPfD fn p?) f))) (hwork : f s.w (fun w => w.ignored fn off) = v) : Runs c s v := by
  obtain ⟨hhost, hrun, hpath⟩ := h
  rw [regWrite_ok s.w fn off _ f false hhost hrun hpath, hwork] at hexec
  exact runs_settle hexec

end Sys2Proof.Laws

/-! ## A ring that leaves ACTIVE (R190, R204) -/

namespace Sys2Proof.Laws

open Sys2Proof.Machine Sys2Proof.Claims

theorem cancelWarm_rings (w : W) (p : Nat) (toStart : Bool) : (w.cancelWarm p toStart).d.rings = w.d.rings := by
  unfold W.cancelWarm
  split
  · rfl
  · rw [modPol_rings, each_zero_d]

/-- Of the rings, only the one that leaves changes. -/
theorem ringLeaves_rings (w : W) (r st cause : Nat) :
    (w.ringLeaves r st cause).d.rings = tmod {} w.d.rings r fun R => { R with st := st, cause := cause, batch := [] } := by
  have hleft : ∀ f, ((w.leaveActive r st cause).dropReads f).d.rings = tmod {} w.d.rings r fun R => { R with st := st, cause := cause, batch := [] } := fun _ => rfl
  unfold W.ringLeaves
  extract_lets v
  split
  · next p _ =>
    have hwarm : (if ((v.d.pol p).warm.map (·.ring)) = some r then v.cancelWarm p false else v).d.rings = v.d.rings := by
      split
      · exact cancelWarm_rings v p false
      · rfl
    extract_lets u
    have hu : u.d.rings = v.d.rings := hwarm
    split
    · exact hu.trans (hleft _)
    · exact hu.trans (hleft _)
  · exact hleft _

@[simp] theorem ring_ringLeaves (w : W) (r st cause : Nat) :
    (w.ringLeaves r st cause).d.ring r = { w.d.ring r with st := st, cause := cause, batch := [] } := by
  unfold Dev.ring
  rw [ringLeaves_rings, tget_tmod_same]

theorem ring_ringLeaves_ne (w : W) {r i : Nat} (st cause : Nat) (h : i ≠ r) : (w.ringLeaves r st cause).d.ring i = w.d.ring i := by
  unfold Dev.ring
  rw [ringLeaves_rings, tget_tmod_other _ _ _ _ _ h]

/-- Posting and scheduling leave a ring that is no EVENT ring. -/
theorem Quiet.ring {w v : W} (h : Quiet w v) {r : Nat} (hkind : (w.d.ring r).kind ≠ 4) : v.d.ring r = w.d.ring r := h.dev.others r hkind

theorem event_settle_quiet (w : W) (r status detail info : Nat) : Quiet w (w.ringEvent r status detail info).settle :=
  (ringEvent_quiet w r status detail info).trans (settle_quiet _)

/-- A ring that stops with an event, in a state `w` that has the ring as `s` has it. -/
theorem ring_stopped {s : State} {c : Instr} {w : W} {r cause status detail info : Nat} (hkind : (s.dev.ring r).kind ≠ 4) (hw : w.d.ring r = s.dev.ring r)
    (hexec : exec c s = .next (s.commit ((w.ringLeaves r 3 cause).ringEvent r status detail info).settle)) :
    ∃ t, exec c s = .next t ∧ t.pending = s.pending ∧ t.fuses = s.fuses ∧ t.dev.ring r = { s.dev.ring r with st := 3, cause := cause, batch := [] } := by
  refine ⟨_, hexec, commit_pending _ _, commit_fuses _ _, ?_⟩
  have hleft := ring_ringLeaves w r 3 cause
  rw [hw] at hleft
  rw [commit_dev, (event_settle_quiet _ r status detail info).ring (by rwa [hleft]), hleft]

end Sys2Proof.Laws

/-! ## Doorbells (R201 to R203, R469) -/

namespace Sys2Proof.Laws

open Sys2Proof.Machine Sys2Proof.Claims

theorem kind_ne_event_of_hostFills {R : Ring} (h : R.hostFills = true) : R.kind ≠ 4 := by
  intro hkind
  simp [Ring.hostFills, hkind] at h

section

variable {w : W} {r v : Nat}

/-- An index that is not ahead of the recorded one is ignored. -/
theorem recordIndex_behind (h : sub32 v (if (w.d.ring r).hostFills then (w.d.ring r).tail else (w.d.ring r).head) = 0 ∨
    2 ^ 31 ≤ sub32 v (if (w.d.ring r).hostFills then (w.d.ring r).tail else (w.d.ring r).head)) : w.recordIndex r v = w := if_pos h

/-- An index ahead on a ring that the host fills: its new tail, or an overrun that stops the ring. -/
theorem recordIndex_tail (hfills : (w.d.ring r).hostFills = true) (hahead : 0 < sub32 v (w.d.ring r).tail) (hnear : sub32 v (w.d.ring r).tail < 2 ^ 31) :
    w.recordIndex r v = if sub32 v (w.d.ring r).head > (w.d.ring r).size then (w.ringLeaves r 3 2).ringEvent r stDOORBELL_OVERRUN 0 v
    else w.modRing r fun R => { R with tail := v } := by
  unfold W.recordIndex
  simp only [hfills, if_true]
  exact if_neg (by omega)

/-- An index ahead on a ring that the device fills: its new head, or an overrun that leaves the ring as it is. -/
theorem recordIndex_head (hfills : (w.d.ring r).hostFills = false) (hahead : 0 < sub32 v (w.d.ring r).head) (hnear : sub32 v (w.d.ring r).head < 2 ^ 31) :
    w.recordIndex r v = if sub32 (w.d.ring r).tail v > (w.d.ring r).size then w.ringEvent r stDOORBELL_OVERRUN 0 v
    else w.modRing r fun R => { R with head := v } := by
  unfold W.recordIndex
  simp only [hfills, Bool.false_eq_true, if_false]
  exact if_neg (by omega)

end

section

variable {s : State} {fn r v : Nat} (hhost : s.dev.hostReach fn = true) (hrun : s.dev.running = true) (hr : r < 8192)
include hhost hrun hr

/-- A doorbell of a function that does not reach the ring is counted. -/
theorem doorbell_unreached (off size x : Nat) (hoff : off / 64 = r) (hpath : s.dev.reachesPfD fn (s.dev.ringPol r) = false) :
    Exactly (.doorbell fn off size x) s (s.w.modHub fun h => { h with dbDropFn := tmod 0 h.dbDropFn fn fun x => sat64 (x + 1) }) := by
  show execDoorbell fn off size x s = _
  simp [execDoorbell, hoff, hhost, hrun, Nat.not_le.mpr hr, hpath]

variable (hpath : s.dev.reachesPfD fn (s.dev.ringPol r) = true)
include hpath

/-- A doorbell of another size, or with a reserved bit set, is discarded. -/
theorem doorbell_discarded {off size x : Nat} (hoff : off / 64 = r) (hbad : size ≠ 8 ∨ off % 64 ≠ 0 ∨ 2 ^ 32 ≤ x) :
    exec (.doorbell fn off size x) s = .next s := by
  show execDoorbell fn off size x s = _
  unfold execDoorbell
  simp only [run_def, w_d, hoff, hhost, hrun, hpath, Nat.not_le.mpr hr, ge_iff_le, hbad, Bool.not_true, Bool.or_self, decide_false, Bool.false_eq_true, if_false,
    if_true, commit_w]

variable (hv : v < 2 ^ 32)
include hv

/-- A doorbell that its ring's function writes as R201 has it: a ring that is not ACTIVE counts it, an ACTIVE one records its index. -/
theorem doorbell_written : exec (.doorbell fn (64 * r) 8 v) s =
    .next (s.commit (if (s.dev.ring r).st ≠ 1 then s.w.modRing r fun R => { R with dbDrop := sat64 (R.dbDrop + 1) } else (s.w.recordIndex r v).settle)) := by
  have hoff : 64 * r / 64 = r := Nat.mul_div_cancel_left r (by omega)
  have hgood : ¬ ((8 : Nat) ≠ 8 ∨ 64 * r % 64 ≠ 0 ∨ v ≥ 2 ^ 32) := by omega
  show execDoorbell fn (64 * r) 8 v s = _
  unfold execDoorbell
  simp only [run_def, w_d, hoff, hhost, hrun, hpath, Nat.not_le.mpr hr, ge_iff_le, Bool.not_true, Bool.or_self, decide_false, Bool.false_eq_true, if_false]
  rw [if_neg hgood]
  rfl

/-- A ring that is not ACTIVE counts the doorbell. -/
theorem doorbell_inactive (hst : (s.dev.ring r).st ≠ 1) :
    Exactly (.doorbell fn (64 * r) 8 v) s (s.w.modRing r fun R => { R with dbDrop := sat64 (R.dbDrop + 1) }) :=
  (doorbell_written hhost hrun hr hpath hv).trans (by rw [if_pos hst])

variable (hst : (s.dev.ring r).st = 1)
include hst

/-- An ACTIVE ring records the index. -/
theorem doorbell_active {u : W} (hrecord : s.w.recordIndex r v = u) : exec (.doorbell fn (64 * r) 8 v) s = .next (s.commit u.settle) := by
  rw [doorbell_written hhost hrun hr hpath hv, if_neg (not_not.mpr hst), hrecord]

end

/-- Settles O30: who writes the doorbell and how decides whether the ring records its index, and `recordIndex` decides by how far ahead it is. -/
theorem doorbells : Obligations.Doorbells := by
  intro s fn r v hhost hrun hr hv R c
  refine ⟨doorbell_unreached hhost hrun hr (64 * r) 8 v (Nat.mul_div_cancel_left r (by omega)), fun hpath => ?reached⟩
  have active := fun hst u => doorbell_active (u := u) hhost hrun hr hpath hv hst
  refine ⟨doorbell_inactive hhost hrun hr hpath hv, fun hst hfills => ?host, fun hst hfills => ?device, fun off size x => doorbell_discarded hhost hrun hr hpath⟩
  case host =>
    refine ⟨fun hbehind => ?behind, fun hahead hnear hfits => ?recorded, fun hahead hnear hover => ?overrun⟩
    case behind => exact runs_settle (active hst _ (recordIndex_behind (by rwa [w_d, if_pos hfills])))
    case recorded => exact runs_settle (active hst _ ((recordIndex_tail hfills hahead hnear).trans (if_neg (Nat.not_lt.mpr hfits))))
    case overrun =>
      have hexec := active hst _ ((recordIndex_tail hfills hahead hnear).trans (if_pos hover))
      obtain ⟨t, ht, -, -, hring⟩ := ring_stopped (kind_ne_event_of_hostFills hfills) rfl hexec
      exact ⟨hexec, t, ht, hring⟩
  case device =>
    refine ⟨fun hbehind => ?behind, fun hahead hnear hfits => ?recorded, fun hahead hnear hover => ?overrun⟩
    case behind => exact runs_settle (active hst _ (recordIndex_behind (by rwa [w_d, if_neg (Bool.not_eq_true _ ▸ hfills)])))
    case recorded => exact runs_settle (active hst _ ((recordIndex_head hfills hahead hnear).trans (if_neg (Nat.not_lt.mpr hfits))))
    case overrun =>
      have hexec := active hst _ ((recordIndex_head hfills hahead hnear).trans (if_pos hover))
      refine ⟨hexec, _, hexec, fun hkind => ?_⟩
      rw [commit_dev]
      exact (event_settle_quiet s.w r stDOORBELL_OVERRUN 0 v).ring hkind

end Sys2Proof.Laws

/-! ## Entries and host reads (R193, R204, R206, R246) -/

namespace Sys2Proof.Laws

open Sys2Proof.Machine Sys2Proof.Claims

/-- Entries from the head on, as many as stand before the end of the ring's memory, lie in that memory. -/
theorem entries_inside (R : Ring) {n : Nat} (h : n ≤ R.size - R.head % R.size) :
    R.entryAddr R.head + n * entrySize R.kind ≤ R.base + R.size * entrySize R.kind ∧ R.base ≤ R.entryAddr R.head := by
  have hin : R.head % R.size < R.size := Nat.mod_lt _ (Nat.two_pow_pos R.log2)
  refine ⟨?_, Nat.le_add_right _ _⟩
  calc R.entryAddr R.head + n * entrySize R.kind
      = R.base + (R.head % R.size + n) * entrySize R.kind := by rw [Ring.entryAddr, Nat.add_mul, Nat.add_assoc]
    _ ≤ R.base + R.size * entrySize R.kind := Nat.add_le_add_left (Nat.mul_le_mul_right _ (by omega)) _

/-- ENTRY_FETCH asks for the entries. -/
theorem entryFetch_asks {s : State} {r : Nat} (h : s.dev.mayFetch r = true) :
    let R := s.dev.ring r
    let n := min (min 16 (sub32 R.tail R.head)) (R.size - R.head % R.size)
    Exactly (.entryFetch r) s (s.w.hostRead (R.entryAddr R.head) (n * entrySize R.kind) (.entries r R.head n)).2 := by
  show execEntryFetch r s = _
  unfold execEntryFetch
  simp only [run_def, w_d, h, Bool.not_true, Bool.false_eq_true, if_false]

section

variable {s : State} {tag : Nat} {x : HRead} (hread : s.dev.hread tag = some x)
include hread

/-- A completion with the data that the read asked for. -/
theorem hostReadCompletion_ok {bs : Bytes} (hlen : bs.length = x.len) (hlink : s.dev.aon.linkUp = true) :
    exec (.hostReadCompletion tag (.ok bs)) s = .next (s.commit (s.w.readBack tag (.ok bs))) := by
  show execHostReadCompletion tag (.ok bs) s = _
  simp [execHostReadCompletion, hread, hlen, hlink]

/-- A completion that says why there is no data. -/
theorem hostReadCompletion_err {det : Nat} (hlo : 1 ≤ det) (hhi : det ≤ 3) (hlink : s.dev.aon.linkUp = true) :
    exec (.hostReadCompletion tag (.err det)) s = .next (s.commit (s.w.readBack tag (.err det))) := by
  show execHostReadCompletion tag (.err det) s = _
  simp [execHostReadCompletion, hread, hlo, hhi, hlink]

variable (hopen : x.res = none)
include hopen

/-- Entries that come back join their ring's batch. -/
theorem readBack_entries {r first n : Nat} (bs : Bytes) (hfor : x.purpose = .entries r first n) (hst : (s.dev.ring r).st = 1) :
    s.w.readBack tag (.ok bs) = ((s.w.dropRead tag).modRing r fun R => { R with batch := cutEntries (entrySize R.kind) n bs }).settle := by
  have hst' : (tget {} s.dev.rings r).st = 1 := hst
  unfold W.readBack
  simp only [w_d, hread, hopen, hfor, Option.isSome_none, Bool.false_eq_true, if_false]
  unfold W.modRing
  simp only [dropRead_rings, w_d, tmod, hst', if_true]

/-- A read of entries that fails stops their ring. -/
theorem readBack_fails {r first n : Nat} (det : Nat) (hfor : x.purpose = .entries r first n) (hst : (s.dev.ring r).st = 1) :
    s.w.readBack tag (.err det) = (((s.w.dropRead tag).ringLeaves r 3 3).ringEvent r stRING_FAULT det first).settle := by
  unfold W.readBack
  simp only [w_d, hread, hopen, hfor, Option.isSome_none, Bool.false_eq_true, if_false]
  exact if_pos hst

/-- What comes back for another purpose, data or error, waits. -/
theorem readBack_waits (res : ReadRes) (hfor : ∀ r first n, x.purpose ≠ .entries r first n) : s.w.readBack tag res =
    s.w.modHub fun h => { h with reads := h.reads.map fun y => if y.tag = tag then { y with res := some res } else y } := by
  unfold W.readBack
  simp only [w_d, hread, hopen, Option.isSome_none, Bool.false_eq_true, if_false]
  cases hp : x.purpose with
  | entries r first n => exact absurd hp (hfor r first n)
  | _ => rfl

/-- A command by which a read of entries fails leaves their ring STOPPED with HOST_FAULT. -/
theorem fails_stops {c : Instr} {r first n det : Nat} (hfor : x.purpose = .entries r first n) (hst : (s.dev.ring r).st = 1) (hkind : (s.dev.ring r).kind ≠ 4)
    (hexec : exec c s = .next (s.commit (s.w.readBack tag (.err det)))) :
    ∃ t, exec c s = .next t ∧ t.pending = s.pending ∧ t.fuses = s.fuses ∧ t.dev.ring r = { s.dev.ring r with st := 3, cause := 3, batch := [] } := by
  rw [readBack_fails hread hopen det hfor hst] at hexec
  exact ring_stopped hkind rfl hexec

end

/-- Settles O31: what ENTRY_FETCH asks for and where it lies, and a read that comes back, fails or times out by its purpose. -/
theorem entriesAndReads : Obligations.EntriesAndReads := by
  refine ⟨fun s r hmay => ?fetch, fun s tag x hread hopen => ?back⟩
  case fetch =>
    intro R n x
    exact ⟨entryFetch_asks hmay, (Nat.min_le_left _ _).trans (Nat.min_le_left _ _), (Nat.min_le_left _ _).trans (Nat.min_le_right _ _),
      entries_inside R (Nat.min_le_right _ _)⟩
  case back =>
    refine ⟨fun r first n bs hfor hlen hlink hst => ?entries, fun r first n det hfor hst hkind => ⟨fun hlo hhi hlink => ?fails, ?late⟩,
      fun hfor => ⟨fun bs hlen hlink => ?data, ?never⟩⟩
    case entries =>
      have hexec := hostReadCompletion_ok hread hlen hlink
      rw [readBack_entries hread hopen bs hfor hst] at hexec
      exact runs_settle hexec
    case fails => exact fails_stops hread hopen hfor hst hkind (hostReadCompletion_err hread hlo hhi hlink)
    case late => exact fails_stops hread hopen hfor hst hkind (det := 4) rfl
    case data =>
      have hexec := hostReadCompletion_ok hread hlen hlink
      rwa [readBack_waits hread hopen _ hfor] at hexec
    case never =>
      have hexec : exec (.hostReadTimeout tag) s = .next (s.commit (s.w.readBack tag (.err 4))) := rfl
      rwa [readBack_waits hread hopen _ hfor] at hexec

end Sys2Proof.Laws

/-! ## RING_CTRL (R198 to R200, R444) -/

namespace Sys2Proof.Laws

open Sys2Proof.Machine Sys2Proof.Claims

/-- A field depends on no bit above it. -/
theorem bits_congr_mod {u v hi : Nat} (lo : Nat) (h : u % 2 ^ (hi + 1) = v % 2 ^ (hi + 1)) : bits u hi lo = bits v hi lo := by
  refine Nat.eq_of_testBit_eq fun i => ?_
  have hbit := congrArg (fun x => x.testBit (lo + i)) h
  simp only [Nat.testBit_mod_two_pow] at hbit
  simp only [bits, Nat.testBit_mod_two_pow, Nat.testBit_shiftRight]
  by_cases hi' : i < hi + 1 - lo
  · have hlow : lo + i < hi + 1 := by omega
    simpa [hi', hlow] using hbit
  · simp [hi']

/-- Setting bit 31 leaves the fields below it. -/
theorem bits_setBits_top {hi : Nat} (v lo : Nat) (h : hi < 31) : bits (setBits v 31 31 1) hi lo = bits v hi lo := by
  have hlow : setBits v 31 31 1 % 2 ^ 31 = v % 2 ^ 31 := by
    simp only [setBits, Nat.shiftRight_eq_div_pow, Nat.shiftLeft_eq]
    omega
  refine bits_congr_mod lo ?_
  rw [← Nat.mod_mod_of_dvd _ (Nat.pow_dvd_pow 2 (show hi + 1 ≤ 31 from h)), hlow, Nat.mod_mod_of_dvd _ (Nat.pow_dvd_pow 2 (show hi + 1 ≤ 31 from h))]

theorem testBit_setBits_top (v : Nat) : (setBits v 31 31 1).testBit 31 = true := by
  rw [Nat.testBit_eq_decide_div_mod_eq, decide_eq_true_iff]
  simp only [setBits, Nat.shiftRight_eq_div_pow, Nat.shiftLeft_eq]
  omega

/-- The fields that a write of `v` to RING_CTRL gives a DISABLED ring (R444). -/
def ctrlFields (v : Nat) (R : Ring) : Ring :=
  { R with kind := bits v 2 0, cq := if bits v 2 0 = 0 then bits v 28 16 else 0, log2 := bits v 11 8 }

/-- The model accepts the enables that meet every condition of R199 and R430. -/
theorem ringEnableOk_iff (d : Dev) (r : Nat) : d.ringEnableOk r = true ↔ Enables d r := by
  unfold Dev.ringEnableOk
  simp only [Bool.and_eq_true, decide_eq_true_iff, beq_iff_eq]
  constructor
  · rintro ⟨⟨⟨⟨hsize, hbase⟩, howner⟩, hcq⟩, hvector⟩
    refine ⟨hsize, hbase, ?_, fun hsubmit => ?_, fun hdevice hirq => ?_⟩
    · cases hp : d.ringPol r <;> simpa [hp] using howner
    · simpa [hsubmit, and_assoc] using hcq
    · simpa [hdevice, hirq] using hvector
  · rintro ⟨hsize, hbase, howner, hcq, hvector⟩
    refine ⟨⟨⟨⟨hsize, hbase⟩, ?_⟩, ?_⟩, ?_⟩
    · cases hp : d.ringPol r <;> simpa [hp] using howner
    · by_cases hsubmit : (d.ring r).kind = 0
      · simpa [hsubmit, and_assoc] using hcq hsubmit
      · simp [hsubmit]
    · cases hfills : (d.ring r).hostFills <;> cases hirq : (d.ring r).irqEn <;> simp
      exact hvector hfills hirq

section

variable {w : W} {r v : Nat} (fn : Nat) (ign : W → W)

/-- A write with ENABLE to a DISABLED ring: the fields, then the enable (R198). -/
theorem ringCtrl_enable (hst : (w.d.ring r).st = 0) (hkind : bits v 2 0 ≤ 4) (hset : v.testBit 31 = true) :
    w.ringCtrl fn r v ign = if (w.modRing r (ctrlFields v)).d.ringEnableOk r then (w.modRing r (ctrlFields v)).ringStart fn r
      else ign ((w.modRing r (ctrlFields v)).modRing r fun R => { R with st := 3, cause := 1 }) := by
  have hfields : w.modRing r (fun R => { R with kind := bits v 2 0, cq := if bits v 2 0 = 0 then bits v 28 16 else 0, log2 := bits v 11 8 }) =
      w.modRing r (ctrlFields v) := rfl
  unfold W.ringCtrl
  simp [hset, hst, Ring.enabled, Nat.not_lt.mpr hkind, hfields]

/-- A write without ENABLE to a ring that is ACTIVE or STOPPED stops it (R200). -/
theorem ringCtrl_disable (hst : (w.d.ring r).st = 1 ∨ (w.d.ring r).st = 3) (hclear : v.testBit 31 = false) :
    w.ringCtrl fn r v ign = w.ringStop r ign := by
  unfold W.ringCtrl
  obtain hst | hst := hst <;> simp [hclear, hst]

end

/-- The fields of a ring as they stand do not reach bit 31. -/
theorem testBit_ctrl (R : Ring) (hkind : R.kind ≤ 4) (hlog : R.log2 < 16) (hcq : R.cq < 8192) :
    (R.kind + 2 ^ 8 * R.log2 + 2 ^ 16 * R.cq).testBit 31 = false := Nat.testBit_lt_two_pow (by omega)

section

variable {w : W} {r : Nat} (ign : W → W) (hst : (w.d.ring r).st = 1 ∨ (w.d.ring r).st = 3)
include hst

/-- A COMPLETE ring that a SUBMIT ring may still write to is not drained (R200). -/
theorem ringStop_busy (hkind : (w.d.ring r).kind = 1) (hbusy : w.d.cqBusy r = true) :
    w.ringStop r ign = ign (w.modRing r fun R => { R with cause := 1 }) := by
  unfold W.ringStop
  obtain hst | hst := hst <;> simp [hst, hkind, hbusy]

/-- Another ring in which no WAIT is held is drained (R200). -/
theorem ringStop_drains (hfree : (w.d.ring r).kind ≠ 1 ∨ w.d.cqBusy r = false) (hwaits : (w.d.ring r).waits = false) :
    w.ringStop r ign = w.ringLeaves r 2 (w.d.ring r).cause := by
  have hnot : ¬ ((w.d.ring r).kind = 1 ∧ w.d.cqBusy r = true) := fun ⟨hkind, hbusy⟩ => hfree.elim (· hkind) fun h => by simp [h] at hbusy
  unfold W.ringStop
  obtain hst | hst := hst <;> simp [hst, hnot, hwaits]

end

section

variable {s : State} {fn r : Nat} (h : Reaches s fn (s.dev.ringPol r)) (hr : r < 8192)
include h hr

/-- RING_ENABLE does what RING_CTRL does. -/
theorem ringEnable_runs {v : Nat} {u : W} (hwork : s.w.ringCtrl fn r (setBits v 31 31 1) (fun w => w.ignored fn (ringOff fn r 0x10)) = u) :
    Runs (.ringEnable fn r v) s u := by
  refine regWrite_runs h (f := fun w ign => w.ringCtrl fn r (setBits v 31 31 1) ign) ?_ hwork
  show execRingEnable fn r v s = _
  simp only [execRingEnable, run_def, w_d, ge_iff_le, Nat.not_le.mpr hr, if_false]

section

variable {v : Nat} (hst : (s.dev.ring r).st = 0) (hkind : bits v 2 0 ≤ 4)
include hst hkind

/-- RING_ENABLE of a DISABLED ring, by whether the ring with its new fields meets every condition. -/
theorem ringEnable_disabled {u : W} (hwork : (if (s.w.modRing r (ctrlFields v)).d.ringEnableOk r then (s.w.modRing r (ctrlFields v)).ringStart fn r
    else ((s.w.modRing r (ctrlFields v)).modRing r fun R => { R with st := 3, cause := 1 }).ignored fn (ringOff fn r 0x10)) = u) :
    Runs (.ringEnable fn r v) s u := by
  have hfields : ctrlFields (setBits v 31 31 1) = ctrlFields v := by
    unfold ctrlFields
    simp [bits_setBits_top]
  refine ringEnable_runs h hr ((ringCtrl_enable fn _ hst ?_ (testBit_setBits_top v)).trans ?_)
  · rwa [bits_setBits_top v 0 (by omega)]
  · rwa [hfields]

/-- The ring starts at index and sequence number zero, and the version of its function is locked (R197, R232). -/
theorem ringEnable_starts (hok : Enables (s.w.modRing r (ctrlFields v)).d r) : Runs (.ringEnable fn r v) s
    ((s.w.modRing r fun R => { ctrlFields v R with
      st := 1, cause := 0, head := 0, tail := 0, seq := 0, dbDrop := 0, batch := [], desc := none, reserved := 0, since := 0 }).modHub
      fun h => { h with ifSel := tmod (0x20, false) h.ifSel fn fun x => (x.1, true) }) := by
  refine ringEnable_disabled h hr hst hkind ?_
  rw [if_pos ((ringEnableOk_iff _ _).mpr hok), W.ringStart, modRing_modRing]

/-- The ring keeps its new fields and is STOPPED with CONFIG (R199). -/
theorem ringEnable_stops (hbad : ¬ Enables (s.w.modRing r (ctrlFields v)).d r) : Runs (.ringEnable fn r v) s
    ((s.w.modRing r fun R => { ctrlFields v R with st := 3, cause := 1 }).ignored fn (ringOff fn r 0x10)) := by
  refine ringEnable_disabled h hr hst hkind ?_
  rw [if_neg (mt (ringEnableOk_iff _ _).mp hbad), modRing_modRing]

end

section

variable (hst : (s.dev.ring r).st = 1 ∨ (s.dev.ring r).st = 3) (hkind : (s.dev.ring r).kind ≤ 4) (hlog : (s.dev.ring r).log2 < 16)
  (hcq : (s.dev.ring r).cq < 8192)
include hst hkind hlog hcq

/-- RING_DISABLE of a ring that is ACTIVE or STOPPED. -/
theorem ringDisable_runs {u : W} (hwork : s.w.ringStop r (fun w => w.ignored fn (ringOff fn r 0x10)) = u) : Runs (.ringDisable fn r) s u := by
  refine regWrite_runs h (f := fun w ign => w.ringCtrl fn r ((w.d.ring r).kind + 2 ^ 8 * (w.d.ring r).log2 + 2 ^ 16 * (w.d.ring r).cq) ign) ?_
    ((ringCtrl_disable fn _ hst (testBit_ctrl _ hkind hlog hcq)).trans hwork)
  show execRingDisable fn r s = _
  simp only [execRingDisable, run_def, w_d, ge_iff_le, Nat.not_le.mpr hr, if_false]

/-- A ring that drains, and the rings beside it. -/
theorem ringDisable_drains (hfree : (s.dev.ring r).kind ≠ 1 ∨ s.dev.cqBusy r = false) (hevent : (s.dev.ring r).kind ≠ 4)
    (hwaits : (s.dev.ring r).waits = false) :
    ∃ t, exec (.ringDisable fn r) s = .next t ∧ t.pending = s.pending ∧ t.fuses = s.fuses ∧ t.dev.ring r = { s.dev.ring r with st := 2, batch := [] } ∧
      (∀ i, i ≠ r → (s.dev.ring i).kind ≠ 4 → t.dev.ring i = s.dev.ring i) := by
  obtain ⟨t, ht, hpending, hfuses, -, hposted⟩ := ringDisable_runs h hr hst hkind hlog hcq (ringStop_drains _ hst hfree hwaits)
  have hself := ring_ringLeaves s.w r 2 (s.dev.ring r).cause
  have hother : ∀ i, i ≠ r → (s.w.ringLeaves r 2 (s.dev.ring r).cause).d.ring i = s.dev.ring i := fun i hi => ring_ringLeaves_ne s.w _ _ hi
  refine ⟨t, ht, hpending, hfuses, (hposted.others r ?_).trans hself, fun i hi hk => (hposted.others i ?_).trans (hother i hi)⟩
  · exact hself ▸ hevent
  · exact (hother i hi).symm ▸ hk

end

end

/-- A DRAINING ring with no descriptor in progress is DISABLED (R200 step 4). -/
theorem ringDrainComplete_runs {s : State} {r : Nat} (hst : (s.dev.ring r).st = 2) (hdesc : (s.dev.ring r).desc = none) :
    Runs (.ringDrainComplete r) s (s.w.modRing r fun R => { R with st := 0 }) := by
  refine runs_settle ?_
  show execRingDrainComplete r s = _
  simp [execRingDrainComplete, hst, hdesc]

/-- RING_IF_SEL does what `writeIfSel` says. -/
theorem ringIfSel_runs {s : State} {fn v : Nat} {u : W} (hhost : s.dev.hostReach fn = true) (hrun : s.dev.running = true)
    (hwork : s.w.writeIfSel fn v (fun w => w.ignored fn (barOff fn 0x880004 0xC2004)) = u) : Runs (.ringIfSel fn v) s u := by
  refine runs_settle ?_
  show execRingIfSel fn v s = _
  unfold execRingIfSel
  rw [run_def, regWrite_ok s.w fn _ true _ false hhost hrun rfl, hwork]

/-- Settles O32: an enable by the conditions of R199, a disable by the ring's kind and who writes to it, the end of a drain, and the choice of a version by its lock. -/
theorem ringLifeCycle : Obligations.RingLifeCycle := by
  refine ⟨fun s fn r v h hr hst hkind => ⟨ringEnable_starts h hr hst hkind, ringEnable_stops h hr hst hkind⟩,
    fun s fn r h hr hst hkind hlog hcq => ⟨fun hcomplete hbusy => ?busy, fun hfree hevent hwaits => ringDisable_drains h hr hst hkind hlog hcq hfree hevent hwaits⟩,
    fun s r hst hdesc => ringDrainComplete_runs hst hdesc, fun s fn v hhost hrun => ⟨fun hfree hv => ?selected, fun hbad => ?refused⟩⟩
  case busy => exact ringDisable_runs h hr hst hkind hlog hcq (ringStop_busy _ hst hcomplete hbusy)
  case selected =>
    refine ringIfSel_runs hhost hrun ?_
    unfold W.writeIfSel
    obtain rfl | rfl := hv <;> simp [hfree]
  case refused =>
    refine ringIfSel_runs hhost hrun ?_
    unfold W.writeIfSel
    refine if_pos ?_
    simpa using hbad

end Sys2Proof.Laws

/-! ## Virtual functions and vectors (R194, R231) -/

namespace Sys2Proof.Laws

open Sys2Proof.Machine Sys2Proof.Claims

/-- VF_ENABLE once firmware is RUNNING. -/
theorem vfEnable_running {s : State} {n : Nat} (hlink : s.dev.aon.linkUp = true) (hn : n ≤ 16) (hrun : s.dev.running = true) :
    Runs (.vfEnable n) s (s.w.modHub fun h => { h with numVfs := n }) := by
  refine runs_settle ?_
  show execVfEnable n s = _
  simp [execVfEnable, hlink, hn, hrun]

/-- VF_ENABLE before that is ignored (R420). -/
theorem vfEnable_early {s : State} (n : Nat) (hrun : s.dev.running = false) : Exactly (.vfEnable n) s s.w := by
  show execVfEnable n s = _
  simp [execVfEnable, hrun]

section

variable {s : State} {fn vec : Nat}

@[simp] theorem vec_modVec (w : W) (fn vec : Nat) (f : Vec → Vec) : (w.modVec fn vec f).d.vec fn vec = f (w.d.vec fn vec) := tget_tmod_same _ _ _ _

/-- MSIX_UNMASK does what `unmask` says. -/
theorem msixUnmask_exactly {u : W} (hhost : s.dev.hostReach fn = true) (hvec : vec < vecCount fn) (hwork : s.w.unmask fn vec = u) :
    Exactly (.msixUnmask fn vec) s u := by
  show execMsixUnmask fn vec s = _
  simp [execMsixUnmask, hhost, hvec, hwork]

/-- A vector with a message pending, its function unmasked, sends it. -/
theorem unmask_sends {w : W} (hpend : (w.d.vec fn vec).pend = true) (hmask : w.d.fnMasked fn = false) : w.unmask fn vec =
    (w.modVec fn vec fun v => { v with masked := false, pend := false }).emit (.msix fn vec (w.d.vec fn vec).addr (w.d.vec fn vec).data) := by
  unfold W.unmask
  simp [hpend, hmask, Dev.msixMsg]

/-- Any other vector keeps what it has pending. -/
theorem unmask_silent {w : W} (h : (w.d.vec fn vec).pend = false ∨ w.d.fnMasked fn = true) :
    w.unmask fn vec = w.modVec fn vec fun v => { v with masked := false } := by
  have hsends : ((w.d.vec fn vec).pend && !w.d.fnMasked fn) = false := by obtain h | h := h <;> simp [h]
  unfold W.unmask
  simp [hsends]

end

end Sys2Proof.Laws

/-! ## Owners of sluices and grants (R233, R240, R241) -/

namespace Sys2Proof.Laws

open Sys2Proof.Machine Sys2Proof.Claims

section

variable {w : W} {i v : Nat} (ign : W → W)

/-- A write that keeps the owner only clears SAT. -/
theorem sluOwner_same (h : v.testBit 31 = (w.d.sluice i).valid ∧ bits v 11 0 = (w.d.sluice i).ctx) :
    w.sluOwner i v ign = w.modSluice i fun S => { S with sat := S.sat && !v.testBit 30 } := if_pos h

section

variable {p : Nat} (h : ¬ (v.testBit 31 = (w.d.sluice i).valid ∧ bits v 11 0 = (w.d.sluice i).ctx)) (hpol : w.d.sluPol i = some p)
include h hpol

/-- A new owner finds the sluice zero. -/
theorem sluOwner_new (hctx : (w.d.pol p).hasCtx (bits v 11 0) = true) (hfree : w.d.waiters i = []) :
    w.sluOwner i v ign = w.modSluice i fun _ => { value := 0, valid := v.testBit 31, sat := false, ctx := bits v 11 0 } := by
  refine (if_neg h).trans ?_
  simp [hpol, hctx, hfree]

/-- A new owner outside the polder, or while a WAIT is held, is ignored. -/
theorem sluOwner_refused (hbad : (w.d.pol p).hasCtx (bits v 11 0) = false ∨ w.d.waiters i ≠ []) : w.sluOwner i v ign = ign w := by
  refine (if_neg h).trans ?_
  obtain hbad | hbad := hbad <;> simp [hpol, hbad]

end

end

/-- SLU_OWNER does what `sluOwner` says. -/
theorem sluOwner_runs {s : State} {fn i v : Nat} {u : W} (h : Reaches s fn (s.dev.sluPol i)) (hi : i < 8192)
    (hwork : s.w.sluOwner i v (fun w => w.ignored fn (sluOff fn (4 * i))) = u) : Runs (.sluOwner fn i v) s u := by
  refine regWrite_runs h (f := fun w ign => w.sluOwner i v ign) ?_ hwork
  show execSluOwner fn i v s = _
  simp only [execSluOwner, run_def, w_d, ge_iff_le, Nat.not_le.mpr hi, if_false]

theorem sluOwnerPol_iff (d : Dev) (i p : Nat) : d.sluOwnerPol i = some p ↔ (d.sluice i).valid = true ∧ d.sluPol i = some p := by
  simp [Dev.sluOwnerPol]

/-- Who may write the entry `e` as entry `g` (R241). -/
theorem grantWritable_iff (d : Dev) (fn g e : Nat) : d.grantWritable fn g e = true ↔
    fn = 0 ∨ (g / 256 + 1 = fn ∧ e.testBit 51 = false ∧ (d.sluice (e % 2 ^ 13)).valid = true ∧ d.sluPol (e % 2 ^ 13) = some (g / 256) ∧
      (d.pol (g / 256)).hasCtx (d.sluice (e % 2 ^ 13)).ctx = true ∧ (d.pol (g / 256)).hasCtx (bits e 28 16) = true) := by
  by_cases hfn : fn = 0
  · simp [Dev.grantWritable, hfn]
  · have hvf : g / 256 = vfPol fn ↔ g / 256 + 1 = fn := by unfold vfPol; omega
    simp [Dev.grantWritable, hfn, hvf, bits_zero_lo, sluOwnerPol_iff, and_assoc]

/-- SLU_GRANT writes an entry that the function may write, and ignores any other, and one with WAIT and REMOTE. -/
theorem sluGrant_runs {s : State} {fn g v : Nat} {u : W} (h : Reaches s fn (some (g / 256))) (hg : g < 4096)
    (hwork : s.w.sluGrant fn g v (fun w => w.ignored fn (sluOff fn (0x8000 + 8 * g))) = u) : Runs (.sluGrant fn g v) s u := by
  refine regWrite_runs h (f := fun w ign => w.sluGrant fn g v ign) ?_ hwork
  show execSluGrant fn g v s = _
  simp only [execSluGrant, run_def, w_d, ge_iff_le, Nat.not_le.mpr hg, if_false]

/-- Settles O38: VFs, the mask of a vector, the owner of a sluice and a grant, each by its own lemmas. -/
theorem functionsAndGrants : Obligations.FunctionsAndGrants := by
  refine ⟨fun s n hlink hn => ⟨vfEnable_running hlink hn, vfEnable_early n⟩,
    fun s fn vec hhost hvec => ⟨fun ⟨hpend, hmask⟩ => msixUnmask_exactly hhost hvec (unmask_sends hpend hmask), fun hsilent => msixUnmask_exactly hhost hvec (unmask_silent hsilent)⟩,
    fun s fn i v h hi => ⟨fun hsame => sluOwner_runs h hi (sluOwner_same _ hsame), fun hnew p hpol => ⟨fun hctx hfree => ?new, fun hbad => ?outside⟩⟩,
    fun s fn g v h hg => ?grant⟩
  case new => exact sluOwner_runs h hi (sluOwner_new _ hnew hpol hctx hfree)
  case outside => exact sluOwner_runs h hi (sluOwner_refused _ hnew hpol hbad)
  case grant =>
    intro e slu p may
    have hmay : s.dev.grantWritable fn g (grantFields v) = true ↔ may := grantWritable_iff s.dev fn g e
    refine ⟨fun hright hboth => ?written, fun hwrong => ?refused⟩
    case written =>
      refine sluGrant_runs h hg (if_neg ?_)
      simpa [hmay.mpr hright] using hboth
    case refused =>
      refine sluGrant_runs h hg (if_pos ?_)
      rw [← hmay] at hwrong
      simpa [or_comm] using hwrong

end Sys2Proof.Laws

/-! ## Remote adds and sets of sluices (R234, R239 to R242, R320) -/

namespace Sys2Proof.Laws

open Sys2Proof.Machine Sys2Proof.Claims

/-- A remote operation finds of `b` what it finds of `a`: the chip, the sluices and their grants, the last TAGs and the hub counter. -/
structure SameSluices (a b : Dev) : Prop where
  chip : b.hub.chip = a.hub.chip
  sluPol : ∀ i, b.sluPol i = a.sluPol i
  grantedRemote : ∀ i chip key right, b.grantedRemote i chip key right = a.grantedRemote i chip key right
  lastTag : b.fabric.lastTag = a.fabric.lastTag
  counter : b.aon.hub = a.aon.hub

theorem sameSluices_received (s : State) (n : Nat) (f : Frame) : SameSluices s.dev (received s n f).d := by
  obtain ⟨P, C, o, h⟩ := portsOnly_received s n f
  rw [h]
  exact ⟨rfl, fun _ => rfl, fun _ _ _ _ => rfl, rfl, rfl⟩

theorem sameSluices_coded (s : State) (n : Nat) (f : Frame) : SameSluices s.dev (coded s n f).d := by
  obtain ⟨P, C, o, h⟩ := portsOnly_received s n f
  rw [coded, h]
  exact ⟨rfl, fun _ => rfl, fun _ _ _ _ => rfl, rfl, rfl⟩

/-- The right that an add or a set asks for (R239). -/
def rightOf (set : Bool) : Right := if set then .set else .signal

/-- The frame carries an operand for sluice `i` of this device, whose polder `p` may act: checks 3 and 4 of R322 pass. -/
structure SluiceTo (w : W) (f : Frame) (i p : Nat) : Prop where
  operand : f.payload.length = 8
  chip : f.addr / 2 ^ 48 = w.d.hub.chip
  rsvd : f.addr / 2 ^ 61 = 0
  sluice : sluiceAt (f.addr % 2 ^ 48) = some i
  owner : w.d.sluPol i = some p
  pol : w.d.targetPol (f.addr % 2 ^ 48) = some p
  ready : w.d.polReady p = true

/-- There is room to record a TAG of the pair `k`: it has an entry, or the table is not full (R320). -/
theorem noteTag_room {w : W} {k : Nat} (tag : Nat) (hroom : w.d.fabric.lastTag.any (·.1 == k) = true ∨ w.d.fabric.lastTag.length < 16384) :
    w.noteTag k tag = some (w.modFabric fun F => { F with lastTag := tset F.lastTag k (tag, w.d.aon.hub) }) :=
  if_pos (by simpa using hroom)

/-- An add or a set that is allowed and whose CODE is right: applied, unless its TAG is the last one of its pair (R320). -/
def applyOnce (i p : Nat) (set : Bool) (f : Frame) (w : W) : W :=
  let k := f.src * 32 + f.srcPol
  match tfind w.d.fabric.lastTag k with
  | some (t, _) =>
    if t = f.tag then w.ackTo p f f.tag none
    else match w.noteTag k f.tag with
      | some w => (w.sluOp i set (fld f.payload 0 8)).ackTo p f f.tag none
      | none => w
  | none => match w.noteTag k f.tag with
    | some w => (w.sluOp i set (fld f.payload 0 8)).ackTo p f f.tag none
    | none => w

theorem applyOnce_resent {w : W} {f : Frame} {at_ : Nat} (i p : Nat) (set : Bool)
    (hlast : tfind w.d.fabric.lastTag (f.src * 32 + f.srcPol) = some (f.tag, at_)) : applyOnce i p set f w = w.ackTo p f f.tag none := by
  simp only [applyOnce, hlast, if_true]

theorem applyOnce_new {w : W} {f : Frame} (i p : Nat) (set : Bool)
    (hnew : ∀ at_, tfind w.d.fabric.lastTag (f.src * 32 + f.srcPol) ≠ some (f.tag, at_))
    (hroom : w.d.fabric.lastTag.any (·.1 == f.src * 32 + f.srcPol) = true ∨ w.d.fabric.lastTag.length < 16384) :
    applyOnce i p set f w = ((w.modFabric fun F => { F with lastTag := tset F.lastTag (f.src * 32 + f.srcPol) (f.tag, w.d.aon.hub) }).sluOp i set
      (fld f.payload 0 8)).ackTo p f f.tag none := by
  cases hfind : tfind w.d.fabric.lastTag (f.src * 32 + f.srcPol) with
  | none => simp only [applyOnce, hfind, noteTag_room f.tag hroom]
  | some x =>
    have htag : x.1 ≠ f.tag := fun e => hnew x.2 (by rw [hfind, ← e])
    simp only [applyOnce, hfind, if_neg htag, noteTag_room f.tag hroom]

section

variable {w : W} {i p : Nat} {set : Bool} {f : Frame} (n : Nat) (h : SluiceTo w f i p)

include h

/-- Check 6 of R322 refuses an operation that no grant allows, and counts it (R242). -/
theorem remoteSluice_denied (hdenied : w.d.grantedRemote i f.src none (rightOf set) = false) : w.remoteSluice n set f none false =
    (w.modPol p fun P => { P with sluDeny := sat64 (P.sluDeny + 1) }).nakTo p f 6 0 none := by
  obtain ⟨hlen, hchip, hrsvd, hslu, howner, hpol, hready⟩ := h
  rw [rightOf] at hdenied
  simp only [W.remoteSluice, hlen, hpol, targetReady_of_targetPol hpol, hready, hrsvd, hchip, hslu, hdenied, howner, ne_eq, not_true_eq_false,
    Bool.not_true, Bool.not_false, Bool.false_eq_true, if_false, if_true, Option.getD_some]

theorem remoteSluice_granted (hgrant : w.d.grantedRemote i f.src none (rightOf set) = true) :
    w.remoteSluice n set f none false = w.codeGate p f none (applyOnce i p set f) := by
  obtain ⟨hlen, hchip, hrsvd, hslu, -, hpol, hready⟩ := h
  rw [rightOf] at hgrant
  simp only [W.remoteSluice, hlen, hpol, targetReady_of_targetPol hpol, hready, hrsvd, hchip, hslu, hgrant, ne_eq, not_true_eq_false,
    Bool.not_true, Bool.false_eq_true, if_false, Option.getD_some]
  rfl

end

theorem frameSignal_runs {s : State} {n : Nat} {f : Frame} (h : Arrives s n f) (hkind : f.kind = 4) :
    Runs (.frameSignal n f) s ((received s n f).remoteSluice n false f none false) := by
  refine runs_settle ?_
  show execFrameSignal n f s = _
  rw [execFrameSignal, run_def, inbound_arrives h hkind (by decide)]

theorem frameSet_runs {s : State} {n : Nat} {f : Frame} (h : Arrives s n f) (hkind : f.kind = 5) :
    Runs (.frameSet n f) s ((received s n f).remoteSluice n true f none false) := by
  refine runs_settle ?_
  show execFrameSet n f s = _
  rw [execFrameSet, run_def, inbound_arrives h hkind (by decide)]

/-- The receipt of the frame leaves its sluice as it was. -/
theorem sluiceTo_received {s : State} {f : Frame} {i p : Nat} (n : Nat) (h : SluiceTo s.w f i p) : SluiceTo (received s n f) f i p := by
  obtain ⟨hlen, hchip, hrsvd, hslu, howner, hpol, hready⟩ := h
  have hadm := sameAdmission_received s n f
  have hsame := sameSluices_received s n f
  exact ⟨hlen, hchip.trans hsame.chip.symm, hrsvd, hslu, (hsame.sluPol i).trans howner, (hadm.targetPol _).trans hpol, (hadm.polReady p).trans hready⟩

end Sys2Proof.Laws

/-! ## The timers of operations and connections (R307, R324, R325) -/

namespace Sys2Proof.Laws

open Sys2Proof.Machine Sys2Proof.Claims

/-! ### Operations -/

theorem operationTimeout_runs {s : State} {o : ROp} (hsent : s.dev.fabric.ops.find? (fun x => x.id == o.id && x.sent) = some o) :
    Runs (.operationTimeout o.id) s ((s.w.opFail o stREMOTE_UNREACHABLE 3).pumpAll) := by
  refine runs_settle ?_
  show execOperationTimeout o.id s = _
  simp only [execOperationTimeout, run_def, w_d, hsent]

/-- An operation that was told to wait is free to be sent again, but for one of service firmware, which keeps it for its own retry. -/
theorem nakWaitResend_op {s : State} {o : ROp} (hwait : s.dev.fabric.ops.find? (fun x => x.id == o.id && x.waitNak) = some o)
    (hissuer : ∀ p, o.issuer ≠ .service p) :
    Runs (.nakWaitResend o.id) s ((s.w.modOp o.id fun o => { o with waitNak := false }).pumpAll) := by
  refine runs_settle ?_
  show execNakWaitResend o.id s = _
  cases hi : o.issuer with
  | service p => exact absurd hi (hissuer p)
  | dma | ring | coll => simp only [execNakWaitResend, run_def, w_d, hwait, hi]

/-- A control frame that was told to wait is sent again. -/
theorem nakWaitResend_ctl {s : State} {o : ROp} (hnone : s.dev.fabric.ops.find? (fun x => x.id == o.id && x.waitNak) = none)
    (hwait : s.dev.fabric.ctls.find? (fun x => x.id == o.id && x.waitNak) = some o) :
    Runs (.nakWaitResend o.id) s ((s.w.modFabric fun F =>
      { F with ctls := F.ctls.map fun x => if x.id = o.id then { x with waitNak := false } else x }).sendCtl o.frame o.key) := by
  refine runs_settle ?_
  show execNakWaitResend o.id s = _
  simp only [execNakWaitResend, run_def, w_d, hnone, hwait]

/-! ### Connections -/

/-- `v` is `w` but for the counters of the links and what was sent. -/
def CountsOnly (w v : W) : Prop := ∃ C o, v = { w with d := { w.d with fabric := { w.d.fabric with cnt := C }, out := o } }

theorem CountsOnly.refl (w : W) : CountsOnly w w := ⟨_, _, rfl⟩

theorem CountsOnly.trans {a b c : W} (h : CountsOnly a b) (k : CountsOnly b c) : CountsOnly a c := by
  obtain ⟨_, _, rfl⟩ := h
  obtain ⟨_, _, rfl⟩ := k
  exact ⟨_, _, rfl⟩

/-- The member that a frame leaves by, and what stands before the frame there, rest on no counter and on nothing that was sent. -/
theorem CountsOnly.member {w v : W} (h : CountsOnly w v) (lp : Nat) (f : Frame) : v.d.member lp f = w.d.member lp f := by
  obtain ⟨_, _, rfl⟩ := h
  rfl
theorem CountsOnly.ethHead {w v : W} (h : CountsOnly w v) (n : Nat) (f : Frame) : v.d.ethHead n f = w.d.ethHead n f := by
  obtain ⟨_, _, rfl⟩ := h
  rfl

/-- An unacknowledged frame is sent again as it stands, by the member that it leaves by now, and counted (R307). -/
def resend (lp : Nat) (w : W) (f : Frame) : W :=
  match w.d.member lp f with
  | some n => (w.wire n f).linkCnt n 4
  | none => w

theorem resend_of_member {w : W} {lp n : Nat} {f : Frame} (h : w.d.member lp f = some n) : resend lp w f = (w.wire n f).linkCnt n 4 := by
  simp only [resend, h]

theorem countsOnly_resend (lp : Nat) (w : W) (f : Frame) : CountsOnly w (resend lp w f) := by
  unfold resend
  split
  · exact ⟨_, _, rfl⟩
  · exact .refl w

/-- Frames that leave by port `n` are sent again there, one after the other, and only counters change besides. -/
theorem each_resend {w : W} {lp n : Nat} {l : List Frame} (h : ∀ f ∈ l, w.d.member lp f = some n) :
    CountsOnly w (w.each l (resend lp)) ∧
      (w.each l (resend lp)).d.out = (l.map fun f => Out.frame n (w.d.ethHead n f) f).reverse ++ w.d.out := by
  unfold W.each
  induction l generalizing w with
  | nil => exact ⟨.refl w, rfl⟩
  | cons f l ih =>
    have hone := countsOnly_resend lp w f
    have hsent : (resend lp w f).d.out = Out.frame n (w.d.ethHead n f) f :: w.d.out := by
      rw [resend_of_member (h f List.mem_cons_self)]
      rfl
    obtain ⟨hrest, hout⟩ := ih fun g hg => (hone.member lp g).trans (h g (List.mem_cons_of_mem f hg))
    refine ⟨hone.trans hrest, hout.trans ?_⟩
    simp only [hone.ethHead, hsent, List.map_cons, List.reverse_cons, List.append_assoc, List.singleton_append]

section

variable {s : State} {lp chip tc n : Nat}

/-- A connection that waits for its answer says HELLO again. -/
theorem retransmission_hello (hst : (s.dev.conn lp chip tc).st = 1) (hmember : s.dev.member lp (s.dev.connFrame chip) = some n) :
    Exactly (.retransmissionTimeout lp chip tc) s ((s.w.modConn lp chip tc fun C => { C with retx := C.retx + 1 }).sendHello n lp chip tc) := by
  show execRetransmissionTimeout lp chip tc s = _
  simp only [execRetransmissionTimeout, run_def, w_d, hst, if_true, hmember]

/-- Every unacknowledged frame of an open connection is sent again. -/
theorem retransmission_frames (hst : (s.dev.conn lp chip tc).st ≠ 1) (hsome : (s.dev.conn lp chip tc).unacked ≠ [])
    (hlimit : (s.dev.conn lp chip tc).retx < s.dev.fabric.limit) : Exactly (.retransmissionTimeout lp chip tc) s
      ((s.w.modConn lp chip tc fun C => { C with retx := C.retx + 1 }).each (s.dev.conn lp chip tc).unacked (resend lp)) := by
  refine congrArg (fun w => Host.Outcome.next (s.commit w)) ((if_neg hst).trans (if_neg ?_))
  simpa [hsome] using hlimit

end

theorem connectionFailed_runs {s : State} {lp chip tc : Nat} (hst : (s.dev.conn lp chip tc).st ≠ 0)
    (hlimit : s.dev.fabric.limit ≤ (s.dev.conn lp chip tc).retx) : Runs (.connectionFailed lp chip tc) s (s.w.connFail lp chip tc 3) := by
  refine runs_settle ?_
  show execConnectionFailed lp chip tc s = _
  simp [execConnectionFailed, hst, hlimit]

/-- Settles O50: a frame for a sluice by its grant and its TAG, an operation by why it stands, a connection by its state. -/
theorem remoteSluicesAndTimers : Obligations.RemoteSluicesAndTimers := by
  refine ⟨?sluices, fun s o => operationTimeout_runs, fun s o => nakWaitResend_op, fun s o => nakWaitResend_ctl,
    fun s lp chip tc n => ⟨retransmission_hello, ?frames⟩, fun s lp chip tc => connectionFailed_runs⟩
  case sluices =>
    intro x hx s n i p f harr hkind hlen hchip hrsvd hslu howner hpol hready k ack
    have hto : SluiceTo (received s n f) f i p := sluiceTo_received n ⟨hlen, hchip, hrsvd, hslu, howner, hpol, hready⟩
    have hsame := sameSluices_received s n f
    have hright : x.2.2.2 = rightOf x.2.2.1 := by rcases hx with rfl | rfl <;> rfl
    have hruns : Runs (x.1 n f) s ((received s n f).remoteSluice n x.2.2.1 f none false) := by
      rcases hx with rfl | rfl
      · exact frameSignal_runs harr hkind
      · exact frameSet_runs harr hkind
    rw [hright, ← hsame.grantedRemote]
    refine ⟨fun hdenied => ?_, fun hgrant hcode => ?_⟩
    · rwa [remoteSluice_denied n hto hdenied] at hruns
    · rw [remoteSluice_granted n hto hgrant, codeGate_right p _ hcode] at hruns
      have hcoded := sameSluices_coded s n f
      rw [← hcoded.lastTag, ← hcoded.counter]
      refine ⟨fun at_ hlast => ?_, fun hnew hroom => ?_⟩
      · rwa [← coded, applyOnce_resent i p _ hlast] at hruns
      · rwa [← coded, applyOnce_new i p _ hnew hroom] at hruns
  case frames =>
    intro hst hsome hlimit hmember
    obtain ⟨⟨C, o, hw⟩, hout⟩ := each_resend (w := s.w.modConn lp chip tc fun C => { C with retx := C.retx + 1 }) hmember
    have hexec := retransmission_frames hst hsome hlimit
    rw [hw] at hexec hout
    obtain rfl : o = _ := hout
    exact ⟨_, hexec, rfl, rfl, rfl, rfl⟩

end Sys2Proof.Laws

/-! ## The state of service mode after a change -/

namespace Sys2Proof.Laws

open Sys2Proof.Machine Sys2Proof.Claims

theorem each_nil {α : Type} (w : W) (f : W → α → W) : w.each [] f = w := rfl
theorem each_singleton {α : Type} (w : W) (a : α) (f : W → α → W) : w.each [a] f = f w a := rfl

theorem each_eq_self {α : Type} {w : W} {l : List α} {f : W → α → W} (h : ∀ a ∈ l, f w a = w) : w.each l f = w :=
  List.foldlRecOn (motive := (· = w)) l f rfl fun _ hv a ha => hv ▸ h a ha

@[simp] theorem svc_modSvc (w : W) (p : Nat) (f : Svc → Svc) : ((w.modSvc p f).d.pol p).svc = f (w.d.pol p).svc := by rw [W.modSvc, pol_modPol]

theorem modSvc_modSvc (w : W) (p : Nat) (f g : Svc → Svc) : (w.modSvc p f).modSvc p g = w.modSvc p fun S => g (f S) := modPol_modPol _ _ _ _

theorem modSvc_congr {w : W} {p : Nat} {f g : Svc → Svc} (h : f (w.d.pol p).svc = g (w.d.pol p).svc) : w.modSvc p f = w.modSvc p g :=
  modPol_congr (congrArg (fun S => { w.d.pol p with svc := S }) h)

/-! ### Pairs (R288) -/

theorem lget_lset_same {α : Type} (d a : α) {l : List α} {i : Nat} (h : i < l.length) : lget d (lset l i a) i = a := by
  induction l generalizing i with
  | nil => exact absurd h (Nat.not_lt_zero i)
  | cons b l ih => cases i with
    | zero => rfl
    | succ i => exact ih (Nat.lt_of_succ_lt_succ h)

theorem lset_lset {α : Type} (l : List α) (i : Nat) (a b : α) : lset (lset l i a) i b = lset l i b := by
  induction l generalizing i with
  | nil => rfl
  | cons c l ih => cases i with
    | zero => rfl
    | succ i => exact congrArg (c :: ·) (ih i)

theorem modPair_modPair {S : Svc} {i : Nat} (f g : Pair → Pair) (h : i < S.pairs.length) : (S.modPair i f).modPair i g = S.modPair i fun X => g (f X) := by
  simp only [Svc.modPair, lget_lset_same _ _ h, lset_lset]

theorem modPair_congr {S : Svc} {i : Nat} {f g : Pair → Pair} (h : f (S.pair i) = g (S.pair i)) : S.modPair i f = S.modPair i g :=
  congrArg (fun X => { S with pairs := lset S.pairs i X }) h

/-! ### Sequences (R275) -/

/-- The sequence that bears a number, after a change of it that keeps its number. -/
theorem seq_modSeq (w : W) (p a : Nat) {f : Sq → Sq} (hf : ∀ q, (f q).admission = q.admission) :
    ((w.modSeq p a f).d.pol p).svc.seq a = ((w.d.pol p).svc.seq a).map f := by
  have hsame : ((fun q : Sq => q.admission == a) ∘ fun q => if q.admission = a then f q else q) = fun q => q.admission == a := by
    funext q
    simp only [Function.comp]
    split
    · rw [hf]
    · rfl
  rw [W.modSeq, svc_modSvc, Svc.seq, List.find?_map, hsame, ← Svc.seq]
  refine Option.map_congr fun q hq => if_pos ?_
  simpa using List.find?_some hq

/-! ### Frames (R279, R287) -/

theorem freeFrames_nil (w : W) (p : Nat) : w.freeFrames p [] = w := rfl

theorem cacheRoom_zero (p k : Nat) (w : W) : W.cacheRoom p 0 k w = w := by
  cases k with
  | zero => rfl
  | succ k => rw [W.cacheRoom]; exact if_pos (Or.inl (Nat.zero_le _))

/-- A pair whose entry asks for no donation gets none (R289). -/
theorem donate_of_prDonate_eq_zero {w : W} {p i : Nat} (h : prDonate ((w.d.pol p).svc.pair i).entry = 0) : w.donate p i = w := by
  simp [W.donate, h, cacheRoom_zero]

theorem donateAll_of_prDonate_eq_zero {w : W} {p : Nat} (h : ∀ X ∈ (w.d.pol p).svc.pairs, prDonate X.entry = 0) : w.donateAll p = w := by
  refine each_eq_self fun i hi => donate_of_prDonate_eq_zero ?_
  have hlt := List.mem_range.mp hi
  rw [Svc.pair, lget_eq_getD, List.getElem?_eq_getElem hlt]
  exact h _ (List.getElem_mem hlt)

end Sys2Proof.Laws

/-! ## Handoffs: the sender (R289, R291) -/

namespace Sys2Proof.Laws

open Sys2Proof.Machine Sys2Proof.Claims

section

variable {s : State} {p k : Nat} {x : Send} (h : Serving s p) (hx : (s.dev.pol p).svc.sends[k]? = some x) (hops : x.ops = [])
  (hfirst : ∀ y ∈ (s.dev.pol p).svc.sends.take k, y.pair ≠ x.pair)

include h hx hops hfirst

/-- The first handoff of its pair, of which nothing is unacknowledged, does its next step. -/
theorem handoffSend_runs {u : W}
    (hstep : (if x.pagesOut then s.w.sendRecord p k x else if x.lastPosted then s.w.sendDone p k x else s.w.sendPages p k x) = u) :
    Runs (.handoffSend p k) s u.pumpAll := by
  obtain ⟨hst, hready, hrun⟩ := h
  have hany : ((s.dev.pol p).svc.sends.take k).any (fun y => y.pair == x.pair) = false := by simpa using hfirst
  refine runs_settle ?_
  show execHandoffSend p k s = _
  simp only [execHandoffSend, run_def, w_d, hx, hst, hops, hready, hrun, hany, hstep, ne_eq, not_true_eq_false, decide_false, List.isEmpty_nil, Bool.not_true,
    Bool.or_self, Bool.false_eq_true, if_false]

theorem handoffSend_record (hout : x.pagesOut = true) : Runs (.handoffSend p k) s (s.w.sendRecord p k x).pumpAll :=
  handoffSend_runs h hx hops hfirst (if_pos hout)

theorem handoffSend_pages (hout : x.pagesOut = false) (hlast : x.lastPosted = false) : Runs (.handoffSend p k) s (s.w.sendPages p k x).pumpAll :=
  handoffSend_runs h hx hops hfirst (by simp [hout, hlast])

/-- A handoff that is no sequence's is over once its last record is acknowledged. -/
theorem handoffSend_done (hout : x.pagesOut = false) (hlast : x.lastPosted = true) (hseq : x.seq = none) : Runs (.handoffSend p k) s
    (let w := s.w.modSvc p fun S => { S with sends := S.sends.eraseIdx k }
     (if x.free then w.freeFrames p x.frames else w).pumpAll) :=
  handoffSend_runs h hx hops hfirst (by simp [hout, hlast, W.sendDone, hseq])

end

/-! ### What was not delivered (R289, R291) -/

/-- Operations that wait at service firmware are free to be sent again. -/
def again (w : W) (ids : List Nat) : W :=
  (w.modFabric fun F => { F with ops := F.ops.map fun o => if ids.contains o.id then { o with waitNak := false } else o }).pumpAll

theorem retry_eq (w : W) (ids : List Nat) : w.retry ids = (again w ids).settle := rfl

theorem donationRetry_serving {s : State} {p i : Nat} (h : Serving s p) (hi : i < (s.dev.pol p).svc.pairs.length) :
    Runs (.donationRetry p i) s (again (s.w.donate p i) ((s.dev.pol p).svc.pair i).ops) := by
  refine runs_settle ?_
  show execDonationRetry p i s = _
  simp only [execDonationRetry, run_def, w_d, h.st, h.ready, h.running, hi, and_self, if_true, retry_eq]

theorem remoteRetry_runs (s : State) (p i : Nat) :
    Runs (.remoteRetry p i) s (again s.w ((((s.dev.pol p).svc.sends.filter (·.pair == i)).map (·.ops)).flatten)) := runs_settle rfl

theorem donationRetry_stopped {s : State} {p i : Nat} (hst : (s.dev.pol p).svc.st ≠ 2) :
    Runs (.donationRetry p i) s (again s.w ((s.dev.pol p).svc.pair i).ops) := by
  refine runs_settle ?_
  show execDonationRetry p i s = _
  simp only [execDonationRetry, run_def, w_d, hst, false_and, if_false, retry_eq]

end Sys2Proof.Laws

/-! ## Handoffs: the receiver (R290, R292) -/

namespace Sys2Proof.Laws

open Sys2Proof.Machine Sys2Proof.Claims

theorem eraseDups_of_nodup {l : List Nat} (h : l.Nodup) : l.eraseDups = l := by
  induction l with
  | nil => rfl
  | cons a l ih =>
    obtain ⟨ha, hl⟩ := List.nodup_cons.mp h
    have hkeep : l.filter (fun b => !b == a) = l := List.filter_eq_self.mpr fun b hb => by
      have hne : b ≠ a := fun e => ha (e ▸ hb)
      simpa using hne
    rw [List.eraseDups_cons, hkeep, ih hl]

/-! ### A record that is in order -/

section

variable {s : State} {p i : Nat} {b : Bytes} {fs : List Nat} (h : Accepts s p i b fs)

include h

theorem accepts_length : fs.length = rcPages b := by simpa using (congrArg List.length h.frames).symm

/-- The frames that the record's entries name, each once. -/
theorem accepts_named : (((List.range (min (rcPages b) 504)).map fun k =>
    s.dev.donatedFrame ((s.dev.pol p).svc.pair i) (rcEnt b k)).filterMap id).eraseDups = fs := by
  have hpages : rcPages b ≤ 504 := by
    have hfields := h.fields
    simp only [recordFieldsOk, Bool.and_eq_true, decide_eq_true_eq] at hfields
    omega
  rw [Nat.min_eq_left hpages, h.frames, List.filterMap_map, Function.id_comp, List.filterMap_some, eraseDups_of_nodup h.distinct]

/-- Where no record of its pair waits for the rest of its KEY, the pair is left as `recordTaken` has it. -/
theorem recordTaken_eq (hi : i < (s.dev.pol p).svc.pairs.length) :
    ((s.w.modSvc p fun S => ({ S with passPair := some i } : Svc).modPair i fun X =>
        { X with taken := X.taken + 1, donated := X.donated.filter fun x => !fs.contains x }).modSvc p fun S => S.modPair i fun X => { X with badKey := none }).modSvc p
      (fun S => S.modPair i fun X => { X with partKey := none, partFrames := [] }) = recordTaken s p i fs := by
  obtain ⟨hkey, hframes⟩ := h.whole
  have hlt : i < ({ (s.w.d.pol p).svc with passPair := some i } : Svc).pairs.length := hi
  rw [modSvc_modSvc, modSvc_modSvc]
  refine modSvc_congr ?_
  rw [modPair_modPair _ _ hlt, modPair_modPair _ _ hlt]
  refine modPair_congr ?_
  show ({ (s.dev.pol p).svc.pair i with taken := _, donated := _, badKey := none, partKey := none, partFrames := [] } : Pair) = _
  rw [← hkey, ← hframes]
  rfl

/-- A record that is in order, and the only one of its KEY, is given to `f` with its frames; then its credit goes back and frames are donated again. -/
theorem takeRecord_accepted (hi : i < (s.dev.pol p).svc.pairs.length) {want : Nat → Bool} (f : W → Bytes → List Nat → W) (hwant : want (rcKind b) = true) :
    s.w.takeRecord p i want f = (credited s p i (f (recordTaken s p i fs) b fs)).settle := by
  obtain ⟨hkey, hframes⟩ := h.whole
  have hmine : ¬ ((s.dev.pol p).svc.pair i).partKey = some (rcKey b) := by simp [hkey]
  simp only [W.takeRecord, h.next, hwant, Bool.not_true, Bool.false_eq_true, if_false, w_d, accepts_named h, h.fields, accepts_length h, h.number, h.role, beq_self_eq_true,
    Bool.and_self, h.good, hmine, hframes, freeFrames_nil, List.nil_append, h.last, recordTaken_eq h hi, credited]

theorem takeRecord_runs (hi : i < (s.dev.pol p).svc.pairs.length) {c : Instr} {want : Nat → Bool} {f : W → Bytes → List Nat → W} {u : W}
    (hexec : exec c s = s.run fun w => w.takeRecord p i want f) (hwant : want (rcKind b) = true) (hwork : f (recordTaken s p i fs) b fs = u) :
    Runs c s (credited s p i u) := by
  rw [run_def, takeRecord_accepted h hi f hwant, hwork] at hexec
  exact runs_settle hexec

end

/-- What a record in order leaves of the service state. -/
theorem svc_recordTaken (s : State) (p i : Nat) (fs : List Nat) : ((recordTaken s p i fs).d.pol p).svc =
    ({ (s.dev.pol p).svc with passPair := some i } : Svc).modPair i fun X =>
      { X with taken := X.taken + 1, donated := X.donated.filter fun x => !fs.contains x, badKey := none } := svc_modSvc _ _ _

@[simp] theorem live_recordTaken (s : State) (p i : Nat) (fs : List Nat) : ((recordTaken s p i fs).d.pol p).svc.live = (s.dev.pol p).svc.live := by
  rw [svc_recordTaken]; rfl
@[simp] theorem seq_recordTaken (s : State) (p i : Nat) (fs : List Nat) (a : Nat) : ((recordTaken s p i fs).d.pol p).svc.seq a = (s.dev.pol p).svc.seq a := by
  rw [svc_recordTaken]; rfl
@[simp] theorem block_recordTaken (s : State) (p i : Nat) (fs : List Nat) : ((recordTaken s p i fs).d.pol p).svc.block = (s.dev.pol p).svc.block := by
  rw [svc_recordTaken]; rfl
@[simp] theorem sessions_recordTaken (s : State) (p i : Nat) (fs : List Nat) : ((recordTaken s p i fs).d.pol p).svc.sessions = (s.dev.pol p).svc.sessions := by
  rw [svc_recordTaken]; rfl
@[simp] theorem fetches_recordTaken (s : State) (p i : Nat) (fs : List Nat) : ((recordTaken s p i fs).d.pol p).svc.fetches = (s.dev.pol p).svc.fetches := by
  rw [svc_recordTaken]; rfl

/-! ### Each kind of record -/

section

variable {s : State} {p i : Nat} {b : Bytes} {fs : List Nat} (h : Accepts s p i b fs) (hi : i < (s.dev.pol p).svc.pairs.length)

include h hi

/-- The pages of a sequence that waits for them. -/
theorem seqPages_joins {q : Sq} (hkind : rcKind b = 1)
    (hq : (s.dev.pol p).svc.live.find? (fun q => q.phase == .remoteKv && rqPair q.entry == i && rqId q.entry == rcKey b) = some q) :
    Runs (.seqPages p i) s (credited s p i ((recordTaken s p i fs).joinPages p q.admission
      { pair := i, key := rcKey b, ended := rcEnded b, stop := fld b 6 1, ntok := rcNtok b, token := rcToken b, frames := fs })) :=
  takeRecord_runs h hi rfl (by rw [hkind]; rfl) (by simp only [live_recordTaken, hq])

/-- Pages whose START has not come. -/
theorem seqPages_held (hkind : rcKind b = 1)
    (hnone : (s.dev.pol p).svc.live.find? (fun q => q.phase == .remoteKv && rqPair q.entry == i && rqId q.entry == rcKey b) = none) :
    Runs (.seqPages p i) s (credited s p i ((recordTaken s p i fs).modSvc p fun S => { S with heldRecs := S.heldRecs ++
      [{ pair := i, key := rcKey b, ended := rcEnded b, stop := fld b 6 1, ntok := rcNtok b, token := rcToken b, frames := fs }] })) :=
  takeRecord_runs h hi rfl (by rw [hkind]; rfl) (by simp only [live_recordTaken, hnone])

/-- A CACHE part stores a session that it has no copy of. -/
theorem sessionPages_stores (hkind : rcKind b = 2) (hrole : svRole (s.dev.pol p).svc.block = 2) (hnew : ∀ x ∈ (s.dev.pol p).svc.sessions, x.id ≠ rcSession b) :
    Runs (.sessionPages p i) s (credited s p i ((recordTaken s p i fs).modSvc p fun S => { S with
      sessions := S.sessions ++ [{ id := rcSession b, slot := svMaxSeq S.block, tokens := rcNtok b, frames := fs, order := S.sessCtr }]
      sessCtr := S.sessCtr + 1 })) := by
  have hcopies : (s.dev.pol p).svc.sessions.filter (fun x => x.id == rcSession b) = [] := by simpa using hnew
  refine takeRecord_runs h hi rfl (by rw [hkind]; rfl) ?_
  simp only [sessions_recordTaken, block_recordTaken, hrole, if_true, hcopies, each_nil]

/-- A FETCH is answered with the session. -/
theorem fetch_answers {x : Sess} (hkind : rcKind b = 3) (hfs : fs = []) (hx : (s.dev.pol p).svc.sessions.find? (fun y => y.id == rcSession b) = some x) :
    Runs (.fetch p i) s (credited s p i ((recordTaken s p i fs).modSvc p fun S => { S with
      sends := S.sends ++ [{ pair := i, kind := 2, key := rcKey b, session := x.id, frames := x.frames, ntok := x.tokens }] })) := by
  subst hfs
  exact takeRecord_runs h hi rfl (by rw [hkind]; rfl) (modSvc_congr (by simp only [sessions_recordTaken, freeFrames_nil, hx]))

/-- One of a session that is not here is answered with MISS. -/
theorem fetch_misses (hkind : rcKind b = 3) (hfs : fs = []) (hnone : (s.dev.pol p).svc.sessions.find? (fun y => y.id == rcSession b) = none) :
    Runs (.fetch p i) s (credited s p i ((recordTaken s p i fs).modSvc p fun S => { S with
      sends := S.sends ++ [{ pair := i, kind := 4, key := rcKey b, session := rcSession b }] })) := by
  subst hfs
  exact takeRecord_runs h hi rfl (by rw [hkind]; rfl) (modSvc_congr (by simp only [sessions_recordTaken, freeFrames_nil, hnone]))

/-- A MISS ends the request that fetched. -/
theorem miss_ends {a : Nat} (hkind : rcKind b = 4) (hfs : fs = [])
    (hwaits : (s.dev.pol p).svc.fetches.find? (fun x => x.1 == rcKey b) = some (rcKey b, a)) :
    Runs (.miss p i) s (credited s p i ((recordTaken s p i fs).endSeq p a 7 stREQUEST_BAD 8)) := by
  subst hfs
  exact takeRecord_runs h hi rfl (by rw [hkind]; rfl) (by simp only [freeFrames_nil, fetches_recordTaken, hwaits])

end

/-! ### A session that was fetched -/

/-- The sequence `q` with the frames `fs` of the session that it fetched with the record `b` (R292). -/
def withSession (b : Bytes) (fs : List Nat) (token : Nat) (q : Sq) : Sq :=
  { q with frames := fs, mapped := 0, pos := rcNtok b, token := token, phase := if rqPlen q.entry = 0 then .ready else .prompt }

theorem admission_withSession (b : Bytes) (fs : List Nat) (token : Nat) (q : Sq) : (withSession b fs token q).admission = q.admission := rfl

/-- Sequence `a` has the session that it fetched, and no longer waits for it. -/
def sessionGiven (w : W) (p a : Nat) (b : Bytes) (fs : List Nat) : W :=
  (w.fresh.2.modSvc p fun S => { S with fetches := S.fetches.filter (·.2 != a) }).modSeq p a (withSession b fs (Config.freeNat w.d.freeCtr % 2 ^ 32))

theorem seq_sessionGiven (w : W) (p a : Nat) (b : Bytes) (fs : List Nat) :
    ((sessionGiven w p a b fs).d.pol p).svc.seq a = ((w.d.pol p).svc.seq a).map (withSession b fs (Config.freeNat w.d.freeCtr % 2 ^ 32)) := by
  rw [sessionGiven, seq_modSeq _ p a (admission_withSession b fs _), svc_modSvc]
  rfl

/-- Sequence `a` ends where the `n` tokens that it retains and those that it asks for pass `most` (R272, R286). -/
def endIfLong (w : W) (p a n most : Nat) : W :=
  match (w.d.pol p).svc.seq a with
  | some q => if n + rqPlen q.entry + rqMaxNew q.entry > most then w.endSeq p a 7 stREQUEST_BAD 4 else w
  | none => w

theorem endIfLong_of_seq {w : W} {p a : Nat} {q : Sq} (n most : Nat) (h : (w.d.pol p).svc.seq a = some q) :
    endIfLong w p a n most = if n + rqPlen q.entry + rqMaxNew q.entry > most then w.endSeq p a 7 stREQUEST_BAD 4 else w := by
  simp only [endIfLong, h]

section

variable {s : State} {p i : Nat} {b : Bytes} {fs : List Nat} (h : Accepts s p i b fs) (hi : i < (s.dev.pol p).svc.pairs.length) {a : Nat} {q : Sq}
  (hkind : rcKind b = 2) (hrole : svRole (s.dev.pol p).svc.block = 0)
  (hwaits : (s.dev.pol p).svc.fetches.find? (fun x => x.1 == rcKey b) = some (rcKey b, a)) (hq : (s.dev.pol p).svc.seq a = some q)

include h hi hkind hrole hwaits hq

/-- The sequence goes on, or ends where what is retained leaves no room for what it asks. -/
theorem sessionPages_given : Runs (.sessionPages p i) s (credited s p i
    (if rcNtok b + rqPlen q.entry + rqMaxNew q.entry > svMaxCtx (s.dev.pol p).svc.block then
      (sessionGiven (recordTaken s p i fs) p a b fs).endSeq p a 7 stREQUEST_BAD 4
    else sessionGiven (recordTaken s p i fs) p a b fs)) := by
  have hseq := seq_sessionGiven (recordTaken s p i fs) p a b fs
  rw [seq_recordTaken, hq, Option.map_some] at hseq
  refine takeRecord_runs h hi rfl (by rw [hkind]; rfl) ?_
  simp only [block_recordTaken, hrole, fetches_recordTaken, hwaits]
  rw [if_neg (by decide)]
  show endIfLong (sessionGiven (recordTaken s p i fs) p a b fs) p a (rcNtok b) (svMaxCtx (s.dev.pol p).svc.block) = _
  rw [endIfLong_of_seq _ _ hseq]
  rfl

end

/-- Settles O58: the sender's steps, each kind of record that is in order, and the retries, each by its own lemma. -/
theorem handoffs : Obligations.Handoffs := by
  refine ⟨fun s p k x hserves hx hops hfirst => ⟨handoffSend_record hserves hx hops hfirst, handoffSend_pages hserves hx hops hfirst,
    handoffSend_done hserves hx hops hfirst⟩, ?records, fun s p i => ⟨donationRetry_serving, donationRetry_stopped, remoteRetry_runs s p i⟩⟩
  case records =>
    intro s p i b fs h hi S w
    refine ⟨fun hkind => ⟨fun q => seqPages_joins h hi hkind, seqPages_held h hi hkind⟩, sessionPages_stores h hi, fun hkind hrole a hwaits => ?given,
      fun hkind hfs => ⟨fun x => fetch_answers h hi hkind hfs, fetch_misses h hi hkind hfs⟩, fun hkind hfs a => miss_ends h hi hkind hfs⟩
    case given =>
      intro fetched fits q hq
      have hruns := sessionPages_given h hi hkind hrole hwaits hq
      refine ⟨fun hfits => ?_, fun hbad => ?_⟩
      · rwa [if_neg (Nat.not_lt.mpr hfits)] at hruns
      · rwa [if_pos (Nat.lt_of_not_le hbad)] at hruns

end Sys2Proof.Laws

/-! ## The service loop: RUN (R266 to R270) -/

namespace Sys2Proof.Laws

open Sys2Proof.Machine Sys2Proof.Claims

section

variable {s : State} {fn p : Nat} (h : Drives s fn p)

include h

/-- A write to the polder's record does what its register does, by the function that drives the polder. -/
theorem polWrite_runs {c : Instr} {off : Nat} {f : W → (W → W) → W} {u : W} (hexec : exec c s = s.run fun w => w.polWrite fn p off false f)
    (hwork : f s.w (fun w => w.ignored fn (polOff fn p off)) = u) : Runs c s u := by
  rw [run_def, polWrite_drives h, hwork] at hexec
  exact runs_settle hexec

theorem runStart_runs {u : W} (hreach : s.dev.svcReached p = true) (hstart : s.w.svcStart p = u) : Runs (.runStart fn p) s u :=
  polWrite_runs h rfl ((if_pos hreach).trans hstart)

theorem runStop_runs {u : W} (hreach : s.dev.svcReached p = true) (hstop : s.w.svcStop p = u) : Runs (.runStop fn p) s u :=
  polWrite_runs h rfl ((if_pos hreach).trans hstop)

/-- RUN of a polder that has no service, or is not READY, is ignored and says so. -/
theorem run_unreached {c : Instr} {work : W → W} (hreach : s.dev.svcReached p = false)
    (hexec : exec c s = s.run fun w => w.polWrite fn p 0x90 false fun w ign => if w.d.svcReached p then work w else ign w) :
    Runs c s (refusedAt s fn (polOff fn p 0x90)) :=
  polWrite_runs h hexec (if_neg (by rw [w_d, hreach]; decide))

end

section

variable {w : W} {p : Nat} (hst : (w.d.pol p).svc.st = 0)

include hst

/-- A block that cannot be read, or is wrong, is CAUSE BLOCK. -/
theorem svcStart_refused (hbad : w.svcRead p = none ∨ ∃ b x, w.svcRead p = some (b, x) ∧ svcBlockOk b x = false) :
    w.svcStart p = w.modSvc p fun S => { S with cause := 1 } := by
  obtain hnone | ⟨b, x, hread, hwrong⟩ := hbad
  · simp only [W.svcStart, hst, ne_eq, not_true_eq_false, if_false, hnone]
  · simp only [W.svcStart, hst, ne_eq, not_true_eq_false, if_false, hread, hwrong, Bool.not_false, if_true]

/-- A block that is right makes the loop STARTING, with the block's pairs. -/
theorem svcStart_starts {b x : Bytes} (hread : w.svcRead p = some (b, x)) (hright : svcBlockOk b x = true) :
    w.svcStart p = w.modSvc p fun S =>
      { base := S.base, cause := S.cause, flags := S.flags, st := 1, block := b, ranges := w.svcSealed S.base b,
        pairs := (List.range (svPairs b)).map fun i => { entry := slice x (64 * i) 64 } } := by
  simp only [W.svcStart, hst, ne_eq, not_true_eq_false, if_false, hread, hright, Bool.not_true, Bool.false_eq_true]

end

/-! ### The end of the start (R269) -/

/-- A start that a check refuses: the loop is STOPPED with its cause, and no image is registered. -/
theorem serviceLoopRunning_refused {s : State} {p c : Nat} (hst : (s.dev.pol p).svc.st = 1) (hcause : s.w.svcRefused p = some c) :
    ∃ t, exec (.serviceLoopRunning p) s = .next t ∧ t.pending = s.pending ∧ t.fuses = s.fuses ∧ t.mem = s.mem ∧
      (t.dev.pol p).svc = { base := (s.dev.pol p).svc.base, cause := c, flags := (s.dev.pol p).svc.flags } ∧ (t.dev.pol p).imgs = (s.dev.pol p).imgs := by
  refine ⟨_, rfl, rfl, rfl, ?_⟩
  simp only [commit_mem, commit_dev, w_d, hst, ne_eq, not_true_eq_false, if_false, hcause, modPol_ops, w_ops, pol_modPol]
  exact ⟨rfl, trivial, trivial⟩

/-- A start that every check passes, where no pair asks for a donation. -/
theorem serviceLoopRunning_starts {s : State} {p : Nat} (hst : (s.dev.pol p).svc.st = 1) (hpass : s.w.svcRefused p = none)
    (hdonate : ∀ x ∈ (s.dev.pol p).svc.pairs, prDonate x.entry = 0) :
    let home := (s.dev.pol p).home
    let new := ((svImages (s.dev.pol p).svc.block).filter fun a => !(s.dev.pol p).imgs.any fun i => i.addr == a).eraseDups
    Runs (.serviceLoopRunning p) s ((((s.w.zero (ptBase home 0) 0x1000000).zero (ptBase home 1) 0x1000000).modPol p fun P => { P with
      imgs := P.imgs ++ new.map fun a => { addr := a, len := le (s.mem.read (a + 0x10) 4) }
      svc := { P.svc with st := 2, free := s.dev.kvFrames p (s.dev.pol p).svc.block } }).pumpAll) := by
  refine runs_settle ?_
  show execServiceLoopRunning p s = _
  simp only [execServiceLoopRunning, run_def, w_d, hst, ne_eq, not_true_eq_false, if_false, hpass]
  rw [donateAll_of_prDonate_eq_zero]
  · rfl
  · rw [pol_modPol]
    exact hdonate

end Sys2Proof.Laws

/-! ## The service loop: a pass (R275, R276) -/

namespace Sys2Proof.Laws

open Sys2Proof.Machine Sys2Proof.Claims

/-! ### Firmware that has nothing to do before it launches a job -/

section

variable {w : W} {p : Nat}

theorem endCancelled_of_none (h : ∀ q ∈ (w.d.pol p).svc.seqs, q.cancel = false) : w.endCancelled p = w := by
  refine each_eq_self fun a ha => absurd ha ?_
  have hnil : ∀ r : Sq → Bool, (w.d.pol p).svc.live.filter (fun q => q.cancel && r q) = [] := fun r => by
    refine List.filter_eq_nil_iff.mpr fun q hq => ?_
    simp [h q (List.mem_of_mem_filter hq)]
  rw [hnil]
  exact List.not_mem_nil

/-- A sequence that goes on and has no token to report owes no entry. -/
theorem emitSeq_of_owes_nothing {a : Nat} (h : ∀ q ∈ (w.d.pol p).svc.seqs, q.live = true ∧ q.toks = []) : w.emitSeq p a = w := by
  unfold W.emitSeq
  cases hq : (w.d.pol p).svc.seq a with
  | none => rfl
  | some q =>
    obtain ⟨hlive, htoks⟩ := h q (List.mem_of_find?_eq_some hq)
    simp [hlive, htoks]

theorem emitAll_of_owe_nothing (h : ∀ q ∈ (w.d.pol p).svc.seqs, q.live = true ∧ q.toks = []) : w.emitAll p = w :=
  each_eq_self fun _ _ => emitSeq_of_owes_nothing h

/-- Where some sequence can run, none gives its frames up. -/
theorem exhaust_of_runnable (k : Nat) (h : ∃ q ∈ (w.d.pol p).svc.live, (w.d.pol p).svc.heldOnFrames q = false) : W.exhaust p k w = w := by
  cases k with
  | zero => rfl
  | succ k =>
    obtain ⟨q, hq, hfree⟩ := h
    have hsome : (w.d.pol p).svc.live.all (w.d.pol p).svc.heldOnFrames = false := List.all_eq_false.mpr ⟨q, hq, by simp [hfree]⟩
    simp [W.exhaust, hsome]

end

theorem settled_before_launch {s : State} {p : Nat} (k : Nat) (h : settled s p) :
    W.exhaust p k (((s.w.modSvc p Svc.endPass).endCancelled p).emitAll p) = s.w.modSvc p Svc.endPass := by
  obtain ⟨hseqs, q, hq, hfree⟩ := h
  rw [endCancelled_of_none, emitAll_of_owe_nothing, exhaust_of_runnable]
  · rw [svc_modSvc]
    exact ⟨q, List.mem_filter.mpr ⟨hq, (hseqs q hq).1⟩, hfree⟩
  · rw [svc_modSvc]
    exact fun q hq => ⟨(hseqs q hq).1, (hseqs q hq).2.2⟩
  · rw [svc_modSvc]
    exact fun q hq => (hseqs q hq).2.1

/-! ### The job that a pass launches -/

/-- Some sequence can be given what a decode job needs. -/
def decodes (w : W) (p : Nat) : Prop := (W.pickDecode p (w.d.pol p).svc.decodeOrder w [] []).2 ≠ []

/-- What a pass launches that finds the device `w` with no job. -/
def launched (w : W) (p : Nat) (prompt : ReadRes) : W :=
  let S := (w.d.pol p).svc
  match svRole S.block, S.nextPrompt with
  | 1, some q => w.prefill p (svStepImg S.block) q prompt
  | 0, some q =>
    if svPrefillImg S.block ≠ 0 && !(S.lastPrefill && !(W.pickDecode p S.decodeOrder w [] []).2.isEmpty) then w.prefill p (svPrefillImg S.block) q prompt
    else w.decode p
  | 0, none => w.decode p
  | _, _ => w

theorem serviceLoopPass_runs {s : State} {p : Nat} {prompt : ReadRes} {w u : W} (h : Looping s p) (hsettled : settled s p)
    (hw : (s.w.modSvc p Svc.endPass).donateAll p = w) (hfree : w.d.jobFree p = true) (hjob : launched w p prompt = u) :
    Runs (.serviceLoopPass p prompt) s u.pumpAll := by
  obtain ⟨hst, hnone, hready, hrun⟩ := h
  refine runs_settle ?_
  show execServiceLoopPass p prompt s = _
  simp only [execServiceLoopPass, run_def, w_d, hst, hnone, hready, hrun, settled_before_launch _ hsettled, hw, hfree, ← hjob, ne_eq, not_true_eq_false,
    decide_false, Option.isSome_none, Bool.not_true, Bool.or_self, Bool.false_eq_true, if_false]
  rfl

section

variable {w : W} {p : Nat} (prompt : ReadRes)

theorem launched_prompt_part {q : Sq} (hrole : svRole (w.d.pol p).svc.block = 1) (hq : (w.d.pol p).svc.nextPrompt = some q) :
    launched w p prompt = w.prefill p (svStepImg (w.d.pol p).svc.block) q prompt := by simp only [launched, hrole, hq]

theorem launched_prefill {q : Sq} (hrole : svRole (w.d.pol p).svc.block = 0) (hq : (w.d.pol p).svc.nextPrompt = some q)
    (himg : svPrefillImg (w.d.pol p).svc.block ≠ 0) (hturn : (w.d.pol p).svc.lastPrefill = false ∨ ¬ decodes w p) :
    launched w p prompt = w.prefill p (svPrefillImg (w.d.pol p).svc.block) q prompt := by
  have hpick : ((w.d.pol p).svc.lastPrefill && !(W.pickDecode p (w.d.pol p).svc.decodeOrder w [] []).2.isEmpty) = false := by
    simpa [decodes, or_iff_not_imp_left] using hturn
  simp [launched, hrole, hq, himg, hpick]

theorem launched_decode {q : Sq} (hrole : svRole (w.d.pol p).svc.block = 0) (hq : (w.d.pol p).svc.nextPrompt = some q)
    (hturn : (w.d.pol p).svc.lastPrefill = true) (hdecodes : decodes w p) : launched w p prompt = w.decode p := by
  have hpick : (W.pickDecode p (w.d.pol p).svc.decodeOrder w [] []).2.isEmpty = false := List.isEmpty_eq_false_iff.mpr hdecodes
  simp [launched, hrole, hq, hturn, hpick]

theorem launched_no_prompt (hrole : svRole (w.d.pol p).svc.block = 0) (hnone : (w.d.pol p).svc.nextPrompt = none) : launched w p prompt = w.decode p := by
  simp only [launched, hrole, hnone]

end

end Sys2Proof.Laws

/-! ## The service loop: the end of a job and of the loop (R270, R280, R285) -/

namespace Sys2Proof.Laws

open Sys2Proof.Machine Sys2Proof.Claims

/-- What a job `J` that ended with status `st` does to its sequences: `out` is what stands in its output buffer (R280, R285). -/
def jobDone (w : W) (p st : Nat) (J : SvcJob) (out : Bytes) : W :=
  if st ≠ stOK then w.each J.rows fun w a => w.endSeq p a 8 st J.detail
  else if J.prefill then
    w.each J.rows fun w a =>
      let w := w.modSeq p a fun q => { q with promptDone := q.promptDone + J.chunk, pos := q.pos + J.chunk }
      if J.complete then w.afterToken p a (fld out 0 4) (fld out 4 4) else w
  else
    w.each J.rows.zipIdx fun w (a, i) =>
      (w.modSeq p a fun q => { q with pos := q.pos + 1 }).afterToken p a (fld out (8 * i) 4) (fld out (8 * i + 4) 4)

section

variable {s : State} {p st : Nat} {J : SvcJob}

theorem serviceJobComplete_runs {u : W} (hjob : (s.dev.pol p).svc.job = some J) (hend : J.status = some st)
    (hloop : (s.dev.pol p).svc.st = 2 ∨ (s.dev.pol p).svc.st = 3)
    (hdone : jobDone (s.w.modSvc p fun S => { S with job := none }) p st J (s.mem.read (svOutbuf (s.dev.pol p).svc.block) (8 * J.rows.length)) = u) :
    Runs (.serviceJobComplete p) s u.pumpAll := by
  have hruns : ¬ ((s.dev.pol p).svc.st ≠ 2 ∧ (s.dev.pol p).svc.st ≠ 3) := by omega
  refine runs_settle ?_
  show execServiceJobComplete p s = _
  simp only [execServiceJobComplete, run_def, w_d, hjob, Option.bind_some, hend, ← hdone, Bool.and_eq_true, decide_eq_true_eq, hruns, if_false]
  rfl

variable {w : W} {out : Bytes} {a : Nat}

theorem jobDone_failed (hfail : st ≠ stOK) : jobDone w p st J out = w.each J.rows fun w a => w.endSeq p a 8 st J.detail := if_pos hfail

theorem jobDone_decode (hok : st = stOK) (hkind : J.prefill = false) (hrows : J.rows = [a]) : jobDone w p st J out =
    (w.modSeq p a fun q => { q with pos := q.pos + 1 }).afterToken p a (fld out 0 4) (fld out 4 4) := by
  simp only [jobDone, hok, ne_eq, not_true_eq_false, if_false, hkind, Bool.false_eq_true, hrows, List.zipIdx_singleton, each_singleton]

theorem jobDone_chunk (hok : st = stOK) (hkind : J.prefill = true) (hpart : J.complete = false) (hrows : J.rows = [a]) : jobDone w p st J out =
    w.modSeq p a fun q => { q with promptDone := q.promptDone + J.chunk, pos := q.pos + J.chunk } := by
  simp only [jobDone, hok, ne_eq, not_true_eq_false, if_false, hkind, if_true, hpart, Bool.false_eq_true, hrows, each_singleton]

theorem jobDone_prompt (hok : st = stOK) (hkind : J.prefill = true) (hwhole : J.complete = true) (hrows : J.rows = [a]) : jobDone w p st J out =
    (w.modSeq p a fun q => { q with promptDone := q.promptDone + J.chunk, pos := q.pos + J.chunk }).afterToken p a (fld out 0 4) (fld out 4 4) := by
  simp only [jobDone, hok, ne_eq, not_true_eq_false, if_false, hkind, if_true, hwhole, hrows, each_singleton]

end

theorem modPol_dropOps (w : W) (p : Nat) (f : Pol → Pol) (g : Issuer → Bool) : (w.modPol p f).dropOps g = (w.dropOps g).modPol p f := rfl

/-- Firmware that forgets everything, after its images are released. -/
theorem svcClear_modPol (w : W) (p : Nat) (f : Img → Bool) : (w.modPol p fun P => { P with imgs := P.imgs.filter f }).svcClear p =
    (w.dropOps fun i => i == .service p).modPol p fun P => { P with
      imgs := P.imgs.filter f, svc := { base := (w.d.pol p).svc.base, cause := (w.d.pol p).svc.cause, flags := (w.d.pol p).svc.flags } } := by
  rw [W.svcClear, pol_modPol, modPol_dropOps, modPol_modPol]

/-- The stopped loop keeps its registers alone, and its images and operations are gone. -/
theorem serviceLoopStopped_runs {s : State} {p : Nat} (hst : (s.dev.pol p).svc.st = 3) (hjob : (s.dev.pol p).svc.job = none)
    (hseqs : (s.dev.pol p).svc.seqs = []) : Runs (.serviceLoopStopped p) s
      ((s.w.dropOps fun i => i == .service p).modPol p fun P => { P with
        imgs := P.imgs.filter (fun i => !(svImages (s.dev.pol p).svc.block).contains i.addr)
        svc := { base := (s.dev.pol p).svc.base, cause := (s.dev.pol p).svc.cause, flags := (s.dev.pol p).svc.flags } }) := by
  have hlive : (s.dev.pol p).svc.live = [] := by rw [Svc.live, hseqs]; rfl
  have hnone : s.w.emitAll p = s.w := emitAll_of_owe_nothing fun q hq => by simp [hseqs] at hq
  refine runs_settle ?_
  show execServiceLoopStopped p s = _
  simp only [execServiceLoopStopped, run_def, w_d, hst, hjob, hlive, List.map_nil, each_nil, hnone, hseqs, svcClear_modPol,
    List.isEmpty_nil, Bool.not_true, Bool.false_eq_true, if_false, ne_eq, not_true_eq_false, decide_false, Option.isSome_none, Bool.or_self]

/-- Settles O56: RUN by what it finds, the end of a start by its checks, a pass by its role and what it can do, and the ends of a job and of the loop. -/
theorem serviceLoop : Obligations.ServiceLoop := by
  refine ⟨fun s fn p h => ⟨fun hreach => ⟨run_unreached h hreach rfl, run_unreached h hreach rfl⟩, fun hreach hst => ?start, fun hreach hst => ?stop⟩,
    fun s p hst => ⟨fun c => serviceLoopRunning_refused hst, serviceLoopRunning_starts hst⟩, ?pass, ?jobEnd, fun s p => serviceLoopStopped_runs⟩
  case start =>
    refine ⟨fun hbad => runStart_runs h hreach (svcStart_refused hst hbad), fun b x hread hright => ?_⟩
    refine ⟨_, runStart_runs h hreach (svcStart_starts hst hread hright), rfl, ?_⟩
    simp only [svc_modSvc, List.map_map]
    exact ⟨trivial, trivial, rfl⟩
  case stop => exact runStop_runs h hreach (if_pos hst)
  case pass =>
    intro s p prompt h hsettled w S decodable hfree
    refine ⟨fun q hq => ⟨fun hrole => ?_, fun hrole himg hturn => ?_, fun hrole _ hturn hdecodes => ?_⟩, fun hnone hrole => ?_⟩
    · exact serviceLoopPass_runs h hsettled rfl hfree (launched_prompt_part prompt hrole hq)
    · exact serviceLoopPass_runs h hsettled rfl hfree (launched_prefill prompt hrole hq himg hturn)
    · exact serviceLoopPass_runs h hsettled rfl hfree (launched_decode prompt hrole hq hturn hdecodes)
    · exact serviceLoopPass_runs h hsettled rfl hfree (launched_no_prompt prompt hrole hnone)
  case jobEnd =>
    intro s p st J hjob hend hloop out w
    refine ⟨fun hfail => ?_, fun a hok hkind hrows => ?_, fun a hok hkind hpart hrows => ?_, fun a hok hkind hwhole hrows => ?_⟩
    · exact serviceJobComplete_runs hjob hend hloop (jobDone_failed hfail)
    · exact serviceJobComplete_runs hjob hend hloop (jobDone_decode hok hkind hrows)
    · exact serviceJobComplete_runs hjob hend hloop (jobDone_chunk hok hkind hpart hrows)
    · exact serviceJobComplete_runs hjob hend hloop (jobDone_prompt hok hkind hwhole hrows)

end Sys2Proof.Laws

/-! ## What traffic leaves of the ports (R299, R305, R306, R324, R335) -/

namespace Sys2Proof.Laws

open Sys2Proof.Machine Sys2Proof.Claims

@[simp] theorem port_modPort (w : W) (n : Nat) (f : Port → Port) : (w.modPort n f).d.port n = f (w.d.port n) := tget_tmod_same _ _ _ _
theorem port_modPort_ne (w : W) (n i : Nat) (f : Port → Port) (h : i ≠ n) : (w.modPort n f).d.port i = w.d.port i := tget_tmod_other _ _ _ _ _ h

/-- `Q` is `P` after frames have passed: the sequence numbers, what is kept for replay or held back, and the priorities that it has paused at the peer. -/
def PortTraffic (P Q : Port) : Prop := ∃ tx rx rep k hd pz, Q = { P with txSeq := tx, rxSeq := rx, replay := rep, replays := k, held := hd, pausing := pz }

theorem PortTraffic.refl (P : Port) : PortTraffic P P := ⟨_, _, _, _, _, _, rfl⟩

theorem PortTraffic.trans {P Q R : Port} (h : PortTraffic P Q) (k : PortTraffic Q R) : PortTraffic P R := by
  obtain ⟨_, _, _, _, _, _, rfl⟩ := h
  obtain ⟨_, _, _, _, _, _, rfl⟩ := k
  exact ⟨_, _, _, _, _, _, rfl⟩

/-- Of the ports of `a`, only their traffic differs in `b`. -/
structure TrafficOnly (a b : Dev) : Prop where
  port : ∀ n, PortTraffic (a.port n) (b.port n)

namespace TrafficOnly

variable {a b c : Dev}

theorem refl (a : Dev) : TrafficOnly a a := ⟨fun n => .refl (a.port n)⟩
theorem trans (h : TrafficOnly a b) (k : TrafficOnly b c) : TrafficOnly a c := ⟨fun n => (h.port n).trans (k.port n)⟩

theorem each {α : Type} (l : List α) (f : W → α → W) (h : ∀ w x, TrafficOnly w.d (f w x).d) (w : W) : TrafficOnly w.d (w.each l f).d := by
  unfold W.each
  induction l generalizing w with
  | nil => exact refl _
  | cons x l ih => exact (h w x).trans (ih (f w x))

/-- What leaves the table of ports alone. -/
theorem of_ports (h : b.fabric.ports = a.fabric.ports) : TrafficOnly a b := by
  refine ⟨fun n => ?_⟩
  unfold Dev.port
  rw [h]
  exact .refl _

theorem of_fabric (h : b.fabric = a.fabric) : TrafficOnly a b := of_ports (by rw [h])

end TrafficOnly

theorem trafficOnly_modPort (w : W) (n : Nat) {f : Port → Port} (h : ∀ P, PortTraffic P (f P)) : TrafficOnly w.d (w.modPort n f).d := by
  refine ⟨fun i => ?_⟩
  by_cases e : i = n
  · subst e
    rw [port_modPort]
    exact h _
  · rw [port_modPort_ne w n i f e]
    exact .refl _

theorem trafficOnly_modFabric (w : W) {f : Fabric → Fabric} (h : ∀ F, (f F).ports = F.ports) : TrafficOnly w.d (w.modFabric f).d := .of_ports (h _)
theorem trafficOnly_modConn (w : W) (lp chip tc : Nat) (f : Conn → Conn) : TrafficOnly w.d (w.modConn lp chip tc f).d := trafficOnly_modFabric w fun _ => rfl
theorem trafficOnly_modPol (w : W) (p : Nat) (f : Pol → Pol) : TrafficOnly w.d (w.modPol p f).d := .of_fabric rfl

theorem trafficOnly_linkCnt (w : W) (n k : Nat) : TrafficOnly w.d (w.linkCnt n k).d := trafficOnly_modFabric w fun _ => rfl

theorem trafficOnly_wire (w : W) (n : Nat) (f : Frame) : TrafficOnly w.d (w.wire n f).d := .of_ports rfl

theorem trafficOnly_sendNow (w : W) (n : Nat) (f : Frame) : TrafficOnly w.d (w.sendNow n f).d := by
  unfold W.sendNow
  dsimp only
  split
  · exact trafficOnly_wire w n f
  · exact (trafficOnly_modPort w n fun _ => ⟨_, _, _, _, _, _, rfl⟩).trans (trafficOnly_wire _ n _)

theorem trafficOnly_direct (w : W) (n : Nat) (f : Frame) (inp : Option Nat) : TrafficOnly w.d (w.direct n f inp).d := by
  unfold W.direct
  split
  · exact trafficOnly_wire w n _
  · split
    · exact trafficOnly_modPort w n fun _ => ⟨_, _, _, _, _, _, rfl⟩
    · exact trafficOnly_sendNow w n f

theorem trafficOnly_releaseHeld (k : Nat) (w : W) (n : Nat) : TrafficOnly w.d (W.releaseHeld k w n).d := by
  induction k generalizing w with
  | zero => exact .refl _
  | succ k ih =>
    unfold W.releaseHeld
    split
    · exact .refl _
    · split
      · exact .refl _
      · exact ((trafficOnly_modPort w n fun _ => ⟨_, _, _, _, _, _, rfl⟩).trans (trafficOnly_sendNow _ n _)).trans (ih _)

theorem trafficOnly_pausePeers (w : W) : TrafficOnly w.d w.pausePeers.d := by
  have hpausing : ∀ (w : W) (n : Nat) (g : Nat → Nat) (o : Out), TrafficOnly w.d ((w.modPort n fun P => { P with pausing := g P.pausing }).emit o).d :=
    fun w n g o => (trafficOnly_modPort w n fun P => ⟨P.txSeq, P.rxSeq, P.replay, P.replays, P.held, g P.pausing, rfl⟩).trans (.of_fabric rfl)
  unfold W.pausePeers
  split
  · exact .refl _
  · refine .each _ _ (fun w n => .each _ _ (fun w q => ?_) w) w
    dsimp only
    split
    · exact hpausing w n (· ||| 2 ^ q) _
    · split
      · exact hpausing w n (· ^^^ 2 ^ q) _
      · exact .refl _

theorem trafficOnly_takeHack (w : W) (n hack : Nat) : TrafficOnly w.d (w.takeHack n hack).d :=
  (trafficOnly_modPort w n fun _ => ⟨_, _, _, _, _, _, rfl⟩).trans ((trafficOnly_releaseHeld _ _ n).trans (trafficOnly_pausePeers _))

theorem trafficOnly_received (s : State) (n : Nat) (f : Frame) : TrafficOnly s.dev (received s n f).d :=
  (trafficOnly_linkCnt s.w n 1).trans ((trafficOnly_takeHack (s.w.linkCnt n 1) n f.hack).trans (trafficOnly_modPort _ n fun _ => ⟨_, _, _, _, _, _, rfl⟩))

/-! ### Sending -/

theorem trafficOnly_sealOn (w : W) (n : Nat) (f : Frame) : TrafficOnly w.d (w.sealOn n f).1.d := by
  unfold W.sealOn
  split
  · exact .of_ports rfl
  · exact .refl _

theorem trafficOnly_sendHello (w : W) (n lp chip tc : Nat) (only : Bool) : TrafficOnly w.d (w.sendHello n lp chip tc only).d := trafficOnly_wire w n _

theorem trafficOnly_switched (w : W) (n lp : Nat) (f : Frame) (inp : Option Nat) : TrafficOnly w.d (w.switched n lp f inp).d := by
  unfold W.switched
  dsimp only
  split
  · exact (trafficOnly_sealOn w n _).trans ((trafficOnly_modConn _ lp f.dst _ _).trans (trafficOnly_direct _ n _ inp))
  · have hwaits := trafficOnly_modConn w lp f.dst (b2n f.tc) fun C => { C with waiting := C.waiting ++ [f] }
    split
    · exact hwaits.trans ((trafficOnly_modConn _ lp f.dst _ _).trans (trafficOnly_sendHello ..))
    · exact hwaits

theorem trafficOnly_transmit (w : W) (n lp : Nat) (f : Frame) (inp : Option Nat) : TrafficOnly w.d (w.transmit n lp f inp).d := by
  unfold W.transmit
  split
  · exact trafficOnly_switched w n lp f inp
  · exact (trafficOnly_sealOn w n f).trans (trafficOnly_direct _ n _ inp)

theorem trafficOnly_sendFrame {w v : W} {f : Frame} {key : Option Nat} (h : w.sendFrame f key = .sent v) : TrafficOnly w.d v.d := by
  have hleave : ∀ {n lp : Nat} {f : Frame}, w.leave n lp f = .sent v → TrafficOnly w.d v.d := by
    intro n lp f h
    unfold W.leave at h
    dsimp only at h
    split at h
    · cases h
    · cases h
      exact trafficOnly_transmit w n lp _ none
  unfold W.sendFrame at h
  split at h
  · cases h
  · dsimp only at h
    split at h
    · exact hleave h
    · split at h <;> cases h

theorem trafficOnly_sendCtl (w : W) (f : Frame) (key : Option Nat) : TrafficOnly w.d (w.sendCtl f key).d := by
  unfold W.sendCtl
  split
  · next h => exact trafficOnly_sendFrame h
  · exact .refl _

/-! ### Operations that fail, and members that are lost -/

theorem trafficOnly_stepFault (w : W) (p d q status detail info : Nat) : TrafficOnly w.d (w.stepFault p d q status detail info).d := .of_fabric rfl

theorem complete_fabric (w : W) (r : Nat) (c : Compl) : (w.complete r c).d.fabric = w.d.fabric := by
  have hraise : ∀ (v : W) (q : Nat), (v.raiseRing q).d.fabric = v.d.fabric := fun v q => by rw [(raiseRing_spec v q).2.2.1]
  unfold W.complete
  dsimp only
  split
  · rfl
  · split
    · rfl
    · split
      · rw [hraise]
        rfl
      · rfl

theorem trafficOnly_collFail (w : W) (p c status detail chip : Nat) : TrafficOnly w.d (w.collFail p c status detail chip).d := by
  unfold W.collFail
  dsimp only
  split
  · exact .refl _
  · refine .trans (.trans ?_ (trafficOnly_modPol _ p _)) (trafficOnly_modFabric _ fun _ => rfl)
    exact .each _ _ (fun w s => trafficOnly_stepFault w ..) w

theorem trafficOnly_issueCtl (w : W) (p c chip q kind : Nat) (payload : Bytes) (key : Option Nat) :
    TrafficOnly w.d (w.issueCtl p c chip q kind payload key).d := by
  refine .trans ?_ (trafficOnly_sendCtl _ _ key)
  exact trafficOnly_modFabric w fun _ => rfl

theorem trafficOnly_abortFrames (w : W) (p c status chip detail : Nat) (except : Option Nat) :
    TrafficOnly w.d (w.abortFrames p c status chip detail except).d := by
  refine .each _ _ (fun w m => ?_) w
  dsimp only
  split
  · exact .refl _
  · exact trafficOnly_issueCtl w ..

theorem trafficOnly_learnLoss (w : W) (p c chip detail : Nat) : TrafficOnly w.d (w.learnLoss p c chip detail).d := by
  unfold W.learnLoss
  dsimp only
  split
  · exact trafficOnly_modPol w p _
  · exact (trafficOnly_modPol w p _).trans ((trafficOnly_collFail _ p c ..).trans (trafficOnly_abortFrames _ p c ..))

theorem trafficOnly_memberLost (w : W) (p c chip detail : Nat) : TrafficOnly w.d (w.memberLost p c chip detail).d :=
  (trafficOnly_learnLoss w p c chip detail).trans (.each _ _ (fun w q => trafficOnly_learnLoss w q c chip detail) _)

theorem trafficOnly_collSegFail (w : W) (p c seg status detail : Nat) : TrafficOnly w.d (w.collSegFail p c seg status detail).d := by
  refine .trans (.trans ?_ (trafficOnly_modPol _ p _)) (trafficOnly_modFabric _ fun _ => rfl)
  exact .each _ _ (fun w s => trafficOnly_stepFault w ..) w

theorem trafficOnly_dropOp (w : W) (id : Nat) : TrafficOnly w.d (w.dropOp id).d := trafficOnly_modFabric w fun _ => rfl
theorem trafficOnly_modOp (w : W) (id : Nat) (f : ROp → ROp) : TrafficOnly w.d (w.modOp id f).d := trafficOnly_modFabric w fun _ => rfl

theorem trafficOnly_opFail (w : W) (o : ROp) (status detail : Nat) : TrafficOnly w.d (w.opFail o status detail).d := by
  unfold W.opFail
  split
  case h_1 =>
    refine .trans ?_ (trafficOnly_stepFault _ ..)
    exact trafficOnly_modFabric w fun _ => rfl
  case h_2 => exact (trafficOnly_dropOp w o.id).trans (.of_fabric (complete_fabric _ _ _))
  case h_3 => exact trafficOnly_modOp w o.id _
  case h_4 =>
    split
    · exact (trafficOnly_dropOp w o.id).trans (trafficOnly_memberLost _ ..)
    · exact trafficOnly_collSegFail w ..

theorem trafficOnly_pump (k : Nat) (w : W) : TrafficOnly w.d (W.pump k w).d := by
  induction k generalizing w with
  | zero => exact .refl _
  | succ k ih =>
    unfold W.pump
    split
    · exact .refl _
    · next o _ =>
      split
      · next h => exact ((trafficOnly_sendFrame h).trans (trafficOnly_modOp _ o.id _)).trans (ih _)
      · exact (trafficOnly_opFail w ..).trans (ih _)

/-! ### What a port held goes elsewhere -/

theorem trafficOnly_frameLost (w : W) (f : Frame) (detail : Nat) : TrafficOnly w.d (w.frameLost f detail).d := by
  unfold W.frameLost
  split
  · exact trafficOnly_opFail w ..
  · exact .refl _

theorem trafficOnly_routeLost (w : W) (lp : Nat) : TrafficOnly w.d (w.routeLost lp).d := by
  refine .each _ _ (fun w p => ?_) w
  split
  · exact .refl _
  · exact .each _ _ (fun w c => .each _ _ (fun w m => trafficOnly_memberLost w p c m 1) w) w

/-- A frame that its port no longer sends goes to another member, or its operation fails (R305). -/
def sendElsewhere (lp : Nat) (w : W) (h : HeldFrame) : W :=
  match w.d.member lp h.f with
  | some m => w.direct m h.f h.inp
  | none => w.frameLost h.f 8

theorem trafficOnly_sendElsewhere (lp : Nat) (w : W) (h : HeldFrame) : TrafficOnly w.d (sendElsewhere lp w h).d := by
  unfold sendElsewhere
  split
  · exact trafficOnly_direct w ..
  · exact trafficOnly_frameLost w ..

theorem trafficOnly_replayLost (w : W) (n : Nat) : TrafficOnly w.d (w.replayLost n).d := by
  have hdropped := trafficOnly_modPort w n (f := fun P => { P with replay := [], held := [], replays := 0 }) fun _ => ⟨_, _, _, _, _, _, rfl⟩
  have hends : ∀ (v : W) (lp : Nat), TrafficOnly v.d ((v.routeLost lp).pumpAll).pausePeers.d := fun v lp =>
    (trafficOnly_routeLost v lp).trans ((trafficOnly_pump _ _).trans (trafficOnly_pausePeers _))
  refine hdropped.trans (.trans ?_ (hends _ (w.d.port n).lport))
  split
  · exact .refl _
  · exact (TrafficOnly.each _ _ (trafficOnly_sendElsewhere _) _).trans (.each _ _ (trafficOnly_sendElsewhere _) _)

theorem Quiet.trafficOnly {w v : W} (h : Quiet w v) : TrafficOnly w.d v.d := .of_fabric (by rw [h.dev.rest])

end Sys2Proof.Laws

/-! ## A port that is enabled, locks, goes down and is disabled (R295 to R298, R314) -/

namespace Sys2Proof.Laws

open Sys2Proof.Machine Sys2Proof.Claims

/-- A write by the PF of a register that only its BAR0 holds. -/
theorem pfWrite_reaches {w : W} (off : Nat) (f : W → (W → W) → W) (hhost : w.d.hostReach 0 = true) (hrun : w.d.running = true) :
    w.pfWrite 0 off f = (f w fun w => w.ignored 0 off).settle :=
  regWrite_ok w 0 off true f false hhost hrun rfl

section

variable {s : State} {n v : Nat} (hhost : s.dev.hostReach 0 = true) (hrun : s.dev.running = true) (hn : n < 36) (hport : n < s.dev.numPorts)

include hhost hrun hn hport

theorem portEnable_runs (hoff : (s.dev.port n).enable = false) :
    let Q := (s.dev.port n).withCtrl (v % 2 ^ 31 + 2 ^ 31)
    (s.dev.portEnableOk n Q = true → Runs (.portEnable 0 n v) s (s.w.modPort n fun _ => { Q with enable := true, st := 1 })) ∧
    (s.dev.portEnableOk n Q = false → Runs (.portEnable 0 n v) s
      ((s.w.modPort n fun _ => { Q with cfgErr := true }).ignored 0 (0x2800100 + 4 * n))) := by
  intro Q
  have hexec : exec (.portEnable 0 n v) s = .next (s.commit (s.w.portEnable n (v % 2 ^ 31 + 2 ^ 31) fun w => w.ignored 0 (0x2800100 + 4 * n)).settle) := by
    show execPortEnable 0 n v s = _
    rw [execPortEnable, run_def, if_neg (Nat.not_le.mpr hn), pfWrite_reaches _ _ hhost hrun]
  have hwork : s.w.portEnable n (v % 2 ^ 31 + 2 ^ 31) (fun w => w.ignored 0 (0x2800100 + 4 * n)) =
      if s.dev.portEnableOk n Q then s.w.modPort n fun _ => { Q with enable := true, st := 1 }
      else (s.w.modPort n fun _ => { Q with cfgErr := true }).ignored 0 (0x2800100 + 4 * n) := by
    simp only [W.portEnable, w_d, ge_iff_le, Nat.not_le.mpr hport, if_false, hoff, Bool.false_eq_true]
    rfl
  rw [hwork] at hexec
  refine ⟨fun hok => ?_, fun hbad => ?_⟩
  · rw [if_pos hok] at hexec
    exact runs_settle hexec
  · rw [hbad, if_neg Bool.false_ne_true] at hexec
    exact runs_settle hexec

theorem portDisable_runs (hon : (s.dev.port n).enable = true) : Runs (.portDisable 0 n) s ((s.w.modPort n fun P =>
    { P with enable := false, st := 0, hvalid := false, txSeq := 0, rxSeq := 0, paused := 0, pausing := 0 }).replayLost n) := by
  refine runs_settle ?_
  show execPortDisable 0 n s = _
  rw [execPortDisable, run_def, if_neg (Nat.not_le.mpr hn), pfWrite_reaches _ _ hhost hrun, W.portDisable, w_d, if_neg (Nat.not_le.mpr hport), if_pos hon]

end

/-- The port has gone UP, and has heard nothing of its neighbour (R297). -/
def lockedUp (s : State) (n : Nat) : W := s.w.modPort n fun P => { P with st := 2, hvalid := false }

/-- A TRAINING port that can carry a signal goes UP, and a DIRECT one says HELLO. -/
theorem pcsLock_runs {s : State} {n : Nat} (hon : (s.dev.port n).enable = true) (hst : (s.dev.port n).st = 1) (hlit : (s.dev.port n).lit = true) :
    Runs (.pcsLock n) s (if (s.dev.port n).mode = 0 then (lockedUp s n).direct n ((lockedUp s n).d.helloFrame n) else lockedUp s n).pumpAll := by
  refine runs_settle ?_
  show execPcsLock n s = _
  simp only [execPcsLock, run_def, w_d, hon, hst, hlit, decide_true, Bool.and_self, if_true]
  rfl

theorem portDown_linked {w : W} {n : Nat} (cause : Nat) (h : (w.d.port n).st = 2 ∨ (w.d.port n).st = 4) : w.portDown n cause = wentDown w n cause :=
  if_pos h

section

variable {s : State} {n : Nat} (h : linked s n)

include h

/-- A linked port goes DOWN when its PCS is lost, when its peer is silent, and when a frame has been replayed too often (R297). -/
theorem pcsLoss_runs : Runs (.pcsLoss n) s (wentDown s.w n 1) := runs_settle (by rw [← portDown_linked (w := s.w) 1 h]; rfl)
theorem silenceTimeout_runs : Runs (.silenceTimeout n) s (wentDown s.w n 2) := runs_settle (by rw [← portDown_linked (w := s.w) 2 h]; rfl)
theorem replayLimit_runs (hlimit : 16 ≤ (s.dev.port n).replays) : Runs (.replayLimit n) s (wentDown s.w n 3) := by
  refine runs_settle ?_
  show execReplayLimit n s = _
  rw [execReplayLimit, run_def, w_d, if_pos hlimit, portDown_linked (w := s.w) 3 h]

end

end Sys2Proof.Laws

/-! ## The timers of a port, and pauses (R302, R305, R306, R314) -/

namespace Sys2Proof.Laws

open Sys2Proof.Machine Sys2Proof.Claims

theorem linked_iff {s : State} {n : Nat} : linked s n ↔ ((s.dev.port n).st = 2 || (s.dev.port n).st = 4) = true := by simp [linked]

/-- An LL_ACK goes out at once, with no HSEQ of its own. -/
theorem direct_llAck (w : W) (n : Nat) (nak : Bool) : w.direct n (w.d.llAckFrame n nak) =
    w.wire n { w.d.llAckFrame n nak with hseq := 0, hack := if (w.d.port n).mode = 0 then (w.d.port n).rxSeq else 0 } := if_pos rfl

/-- Priority `prio` of port `n` has been paused by the peer, or resumed (R306). -/
def priorityTold (s : State) (n prio : Nat) (pause : Bool) : W :=
  s.w.modPort n fun P => { P with paused := if pause then P.paused ||| 2 ^ prio else (P.paused ||| 2 ^ prio) ^^^ 2 ^ prio }

section

variable {s : State} {n : Nat} (h : linked s n)

include h

theorem llAckTimer_exactly : Exactly (.llAckTimer n) s (s.w.wire n
    { s.dev.llAckFrame n false with hseq := 0, hack := if (s.dev.port n).mode = 0 then (s.dev.port n).rxSeq else 0 }) :=
  congrArg (fun w => Host.Outcome.next (s.commit w)) ((if_pos (linked_iff.mp h)).trans (direct_llAck s.w n false))

theorem helloTimer_exactly (hmode : (s.dev.port n).mode = 0) : Exactly (.helloTimer n) s (s.w.direct n (s.dev.helloFrame n)) := by
  refine congrArg (fun w => Host.Outcome.next (s.commit w)) (if_pos ?_)
  exact Bool.and_eq_true_iff.mpr ⟨linked_iff.mp h, decide_eq_true hmode⟩

theorem pfcFrame_exactly (prio : Nat) (pause : Bool) :
    Exactly (.pfcFrame n prio pause) s (if pause then priorityTold s n prio pause else (priorityTold s n prio pause).release n) := by
  refine congrArg (fun w => Host.Outcome.next (s.commit w)) (if_neg ?_)
  rcases h with h | h <;> simp [h]

end

/-! ### The table of ports -/

theorem tget_eq_default_or_mem {α : Type} (d : α) (t : Tab α) (i : Nat) : tget d t i = d ∨ (i, tget d t i) ∈ t := by
  induction t with
  | nil => exact .inl rfl
  | cons x t ih =>
    obtain ⟨k, a⟩ := x
    rw [tget]
    split
    · next hk => exact .inr (hk ▸ List.mem_cons_self)
    · split
      · exact .inl rfl
      · exact ih.imp_right (List.mem_cons_of_mem _)

theorem mem_tset {α : Type} {t : Tab α} {i : Nat} {a : α} {x : Nat × α} (h : x ∈ tset t i a) : x = (i, a) ∨ x ∈ t := by
  induction t with
  | nil => exact .inl (List.mem_singleton.mp h)
  | cons y t ih =>
    obtain ⟨k, b⟩ := y
    rw [tset] at h
    split at h
    · exact (List.mem_cons.mp h).imp_right (List.mem_cons_of_mem _)
    · split at h
      · exact List.mem_cons.mp h
      · rcases List.mem_cons.mp h with rfl | h
        · exact .inr List.mem_cons_self
        · exact (ih h).imp_right (List.mem_cons_of_mem _)

/-- Every port that is listed meets what a new one meets and the change keeps. -/
theorem forall_ports_modPort {w : W} {n : Nat} {f : Port → Port} {φ : Port → Prop} (hall : ∀ x ∈ w.d.fabric.ports, φ x.2) (hnew : φ {})
    (hf : ∀ P, φ P → φ (f P)) : ∀ x ∈ (w.modPort n f).d.fabric.ports, φ x.2 := by
  intro x hx
  rcases mem_tset hx with rfl | hx
  · refine hf _ ?_
    rcases tget_eq_default_or_mem {} w.d.fabric.ports n with he | hm
    · rwa [he]
    · exact hall _ hm
  · exact hall x hx

/-- Where no port holds a frame back and none pauses its peer, there is nothing to release. -/
theorem release_idle {w : W} {n : Nat} (hnone : (w.d.port n).held = []) (hidle : ∀ x ∈ w.d.fabric.ports, x.2.pausing = 0 ∧ x.2.held = []) :
    w.release n = w := by
  have hnext : w.d.nextHeld n = none := by simp [Dev.nextHeld, hnone]
  have hkept : W.releaseHeld ((w.d.port n).held.length + 1) w n = w := by simp only [W.releaseHeld, hnext]
  have hpauses : (w.d.fabric.ports.all fun x => x.2.pausing == 0 && x.2.held.all fun h => h.inp.isNone) = true :=
    List.all_eq_true.mpr fun x hx => by simp [hidle x hx]
  rw [W.release, hkept, W.pausePeers, if_pos hpauses]

end Sys2Proof.Laws

/-! ## Frames that are not whole, not in order, or not well formed (R297, R305, R322) -/

namespace Sys2Proof.Laws

open Sys2Proof.Machine Sys2Proof.Claims

/-- A DIRECT port asks for what it has not received. -/
def asksAgain (w : W) (n : Nat) : W := w.wire n { w.d.llAckFrame n true with hseq := 0, hack := (w.d.port n).rxSeq }

theorem llNak_direct {w : W} {n : Nat} (hmode : (w.d.port n).mode = 0) : w.llNak n = asksAgain w n := by
  rw [W.llNak, if_pos hmode, direct_llAck, if_pos hmode, asksAgain]

theorem badFrame_broken {f : Frame} {k : Nat} (hfcs : f.fcsOk = false) (hbad : badFrame f = some k) : k = 2 := by
  rw [badFrame, hfcs] at hbad
  exact (Option.some.inj hbad).symm

section

variable {s : State} {n k : Nat} {f : Frame} (hst : (s.dev.port n).st = 2) (hbad : badFrame f = some k)

include hst

theorem arrive_broken (hfcs : f.fcsOk = false) : (s.w.arrive n f).1 = (s.w.linkCnt n 2).llNak n := by
  simp [W.arrive, hst, hfcs]

theorem arrive_outOfOrder (hfcs : f.fcsOk = true) (hmode : (s.dev.port n).mode = 0) (hkind : f.kind ≠ 0x11) (horder : f.hseq ≠ (s.dev.port n).rxSeq) :
    (s.w.arrive n f).1 = s.w.llNak n := by
  simp [W.arrive, hst, hfcs, hmode, hkind, horder]

include hbad

theorem arrive_malformed (hfcs : f.fcsOk = true) (hmode : (s.dev.port n).mode = 0) (hkind : f.kind ≠ 0x11) (horder : f.hseq = (s.dev.port n).rxSeq) :
    (s.w.arrive n f).1 = (received s n f).linkCnt n k := by
  have hacc : s.w.hopAccept n f = received s n f := if_neg hkind
  simp [W.arrive, hst, hfcs, hmode, horder, hbad, hacc]

theorem arrive_switched_bad (hmode : (s.dev.port n).mode = 1) : (s.w.arrive n f).1 = s.w.linkCnt n k := by
  cases hfcs : f.fcsOk
  · have hnone : (s.w.linkCnt n 2).llNak n = s.w.linkCnt n 2 := if_neg (show ¬ (s.dev.port n).mode = 0 by omega)
    rw [arrive_broken hst hfcs, hnone, badFrame_broken hfcs hbad]
  · simp [W.arrive, hst, hfcs, hmode, hbad]

end

theorem frameDiscard_exactly {s : State} {n k : Nat} {f : Frame} {w : W} (hbad : badFrame f = some k) (hw : (s.w.arrive n f).1 = w) :
    Exactly (.frameDiscard n f) s w := by
  show execFrameDiscard n f s = _
  rw [execFrameDiscard, run_def, if_pos (by rw [hbad]; rfl), hw]

end Sys2Proof.Laws

/-! ## Frames of the link (R297, R305, R307, R314 to R316) -/

namespace Sys2Proof.Laws

open Sys2Proof.Machine Sys2Proof.Claims

theorem fcsOk_of_good {f : Frame} (h : badFrame f = none) : f.fcsOk = true := by
  cases hf : f.fcsOk
  · simp [badFrame, hf] at h
  · rfl

/-- HELLO, LL_ACK and GOODBYE pass a DIRECT port where they are in order. -/
theorem arrive_link {s : State} {n : Nat} {f : Frame} (hlinked : linked s n) (hmode : (s.dev.port n).mode = 0) (hgood : badFrame f = none)
    (hlink : (f.kind == 0x10 || f.kind == 0x11 || f.kind == 0x12) = true) (horder : f.kind = 0x11 ∨ f.hseq = (s.dev.port n).rxSeq) :
    s.w.arrive n f = (s.w.hopAccept n f, true) := by
  have hpasses : ((s.w.d.port n).st = 2 || (s.w.d.port n).st = 4) = true := linked_iff.mp hlinked
  have hnext : (f.kind ≠ 0x11 && f.hseq ≠ (s.w.d.port n).rxSeq) = false := by
    rcases horder with h | h
    · simp [h]
    · exact (congrArg _ (decide_eq_false (not_not.mpr h))).trans (Bool.and_false _)
  have hdirect : (s.w.d.port n).mode = 0 := hmode
  simp only [W.arrive, hlink, Bool.and_true, hpasses, fcsOk_of_good hgood, hdirect, hnext, hgood, Bool.true_or, Bool.not_true, Bool.false_eq_true, if_false,
    if_true]

/-! ### HELLO -/

/-- A HELLO that passes its port is read as the port's mode has it. -/
theorem hello_runs {s : State} {n : Nat} {f : Frame} {w : W} (hkind : f.kind = 0x10) (harrive : s.w.arrive n f = (w, true)) :
    Runs (.hello n f) s (if (w.d.port n).mode = 0 then w.helloDirect n f else w.helloSwitchedIn n f) := by
  refine runs_settle ?_
  show execHello n f s = _
  rw [execHello, run_def, if_neg (not_not.mpr hkind), harrive]
  rfl

/-- What the port knows of its neighbour once it has said HELLO (R296, R314). -/
def neighbour (w : W) (n : Nat) (f : Frame) : W :=
  w.modPort n fun P => { P with
    hvalid := true, peerChip := bits (fld f.payload 0 4) 12 0, peerPort := bits (fld f.payload 0 4) 18 13, helloAt := w.d.aon.hub }

/-- The HELLO names the neighbour that the port expects (R315). -/
def Expected (P : Port) (f : Frame) : Prop := bits (fld f.payload 0 4) 12 0 = P.expChip ∧ bits (fld f.payload 0 4) 18 13 = P.expPort

section

variable {w : W} {n : Nat} {f : Frame}

/-- The check of the neighbour asks for what the port has been told to expect. -/
theorem helloDirect_eq (hst : (w.d.port n).st = 2) : w.helloDirect n f =
    if (w.d.port n).expValid && !(bits (fld f.payload 0 4) 12 0 = (w.d.port n).expChip && bits (fld f.payload 0 4) 18 13 = (w.d.port n).expPort) then
      (((neighbour w n f).modPort n fun P => { P with st := 4 }).linkCnt n 6).replayLost n
    else neighbour w n f := by
  simp only [W.helloDirect, port_modPort, hst, decide_true, Bool.true_and]
  rfl

theorem helloDirect_known (hst : (w.d.port n).st = 2) (h : (w.d.port n).expValid = false ∨ Expected (w.d.port n) f) :
    w.helloDirect n f = neighbour w n f := by
  rw [helloDirect_eq hst, if_neg]
  rcases h with h | ⟨hc, hp⟩
  · simp [h]
  · simp [hc, hp]

theorem helloDirect_excluded (hst : (w.d.port n).st = 2) (hvalid : (w.d.port n).expValid = true) (h : ¬ Expected (w.d.port n) f) :
    w.helloDirect n f = (((neighbour w n f).modPort n fun P => { P with st := 4 }).linkCnt n 6).replayLost n := by
  rw [helloDirect_eq hst, if_pos]
  simpa [hvalid, Expected, imp_iff_not_or] using h

end

theorem neighbour_received (s : State) (n : Nat) (f : Frame) :
    neighbour (received s n f) n f = (received s n f).modPort n fun P => { P with
    hvalid := true, peerChip := bits (fld f.payload 0 4) 12 0, peerPort := bits (fld f.payload 0 4) 18 13, helloAt := s.dev.aon.hub } := by
  obtain ⟨F, o, hlink⟩ := linkOnly_received s n f
  have hclock : (received s n f).d.aon = s.dev.aon := by rw [hlink]; rfl
  rw [neighbour, hclock]

section

variable {s : State} {n : Nat} {f : Frame} (h : Arrives s n f)

include h

theorem arrive_ordered (hlink : f.kind = 0x10 ∨ f.kind = 0x12) : s.w.arrive n f = (received s n f, true) := by
  rw [arrive_link (.inl h.up) h.direct h.good (by rcases hlink with h | h <;> simp [h]) (.inr h.order)]
  exact congrArg (·, true) (if_neg (by omega))

/-- R314, R315: a HELLO names the neighbour, and one that is not the neighbour expected has the port EXCLUDED. -/
theorem hello_direct_runs (hkind : f.kind = 0x10) :
    ((s.dev.port n).expValid = false ∨ Expected (s.dev.port n) f → Runs (.hello n f) s (neighbour (received s n f) n f)) ∧
    ((s.dev.port n).expValid = true → ¬ Expected (s.dev.port n) f →
      Runs (.hello n f) s ((((neighbour (received s n f) n f).modPort n fun P => { P with st := 4 }).linkCnt n 6).replayLost n)) := by
  have hruns := hello_runs hkind (arrive_ordered h (.inl hkind))
  obtain ⟨_, _, _, _, _, _, hport⟩ := (trafficOnly_received s n f).port n
  rw [if_pos (by rw [hport]; exact h.direct)] at hruns
  refine ⟨fun hright => ?_, fun hvalid hwrong => ?_⟩
  · rwa [helloDirect_known (by rw [hport]; exact h.up) (by rw [hport]; exact hright)] at hruns
  · rwa [helloDirect_excluded (by rw [hport]; exact h.up) (by rw [hport]; exact hvalid) (by rw [hport]; exact hwrong)] at hruns

/-! ### GOODBYE -/

/-- R335: a GOODBYE loses the peer, and the port goes DOWN. -/
theorem goodbye_runs (hkind : f.kind = 0x12) : Runs (.goodbye n f) s (((received s n f).chipLost f.src 2).portDown n 4) := by
  refine runs_settle ?_
  show execGoodbye n f s = _
  simp only [execGoodbye, run_def, arrive_ordered h (.inr hkind), hkind, ne_eq, not_true_eq_false, if_false, if_true]

end

/-! ### LL_ACK -/

/-- What the neighbour acknowledges has left the replay buffer (R305). -/
def acknowledged (s : State) (n : Nat) (f : Frame) : W := (s.w.linkCnt n 1).takeHack n f.hack

/-- R305: an LL_ACK is taken, and a NAK has what is not acknowledged sent again. -/
theorem llAck_exactly {s : State} {n : Nat} {f : Frame} (hlinked : linked s n) (hmode : (s.dev.port n).mode = 0) (hgood : badFrame f = none)
    (hkind : f.kind = 0x11) :
    Exactly (.llAck n f) s (if (fld f.payload 0 4).testBit 0 then (acknowledged s n f).replayAll n else acknowledged s n f) := by
  have hacc : s.w.hopAccept n f = acknowledged s n f := if_pos hkind
  have hmode' : ((acknowledged s n f).d.port n).mode = 0 := by
    obtain ⟨_, _, _, _, _, _, hport⟩ := ((trafficOnly_linkCnt s.w n 1).trans (trafficOnly_takeHack _ n f.hack)).port n
    rw [acknowledged, hport]
    exact hmode
  show execLlAck n f s = _
  simp only [execLlAck, run_def, arrive_link hlinked hmode hgood (by simp [hkind]) (.inl hkind), hacc, hkind, hmode', ne_eq, not_true_eq_false, if_false,
    decide_true, Bool.and_self, Bool.true_and]

/-! ### HELLO of a SWITCHED port (R307, R316) -/

theorem hello_switched_runs {s : State} {n : Nat} {f : Frame} (hst : (s.dev.port n).st = 2) (hmode : (s.dev.port n).mode = 1) (hgood : badFrame f = none)
    (hkind : f.kind = 0x10) : Runs (.hello n f) s ((s.w.linkCnt n 1).helloSwitchedIn n f) := by
  have harrive : s.w.arrive n f = (s.w.linkCnt n 1, true) := by
    simp [W.arrive, hst, hmode, hkind, hgood, fcsOk_of_good hgood]
  have hswitched : ¬ ((s.w.linkCnt n 1).d.port n).mode = 0 := by
    show ¬ (s.dev.port n).mode = 0
    omega
  have hruns := hello_runs hkind harrive
  rwa [if_neg hswitched] at hruns

/-- The connection that a HELLO opens, with the first ESEQ that it names. -/
def opened (w : W) (n : Nat) (f : Frame) (lp tc : Nat) : W :=
  (neighbour w n f).modConn lp f.src tc fun C => { C with st := 2, rxOpen := true, rx := fld f.payload 4 4 }

section

variable {w : W} {n : Nat} {f : Frame} {lp tc : Nat} (hdst : f.dst = w.d.hub.chip) (heack : f.eackv = false)
  (honly : (fld f.payload 8 1).testBit 1 = false) (hlp : (w.d.port n).lport = lp) (htc : fld f.payload 8 1 % 2 = tc)

include hdst heack honly hlp htc

/-- A HELLO for this device that acknowledges nothing opens its connection, unless it answers this side's own HELLO for another peer. -/
theorem helloSwitchedIn_plain : w.helloSwitchedIn n f =
    if (w.d.conn lp f.src tc).st = 1 && !(bits (fld f.payload 0 4) 12 0 = f.src && bits (fld f.payload 0 4) 22 19 = lp) then
      ((neighbour w n f).connFail lp f.src tc 2).linkCnt n 6
    else W.pushConn ((w.d.conn lp f.src tc).waiting.length + 1)
      (if (w.d.conn lp f.src tc).st = 1 then opened w n f lp tc else (opened w n f lp tc).sendHello n lp f.src tc) lp f.src tc := by
  subst hlp htc
  unfold W.helloSwitchedIn
  simp only [heack, honly, Bool.false_and, Bool.false_eq_true, if_false]
  exact if_neg (not_not.mpr hdst)

/-- The answer to this side's own HELLO. -/
theorem helloSwitchedIn_answer (hasked : (w.d.conn lp f.src tc).st = 1) (hchip : bits (fld f.payload 0 4) 12 0 = f.src)
    (hport : bits (fld f.payload 0 4) 22 19 = lp) :
    w.helloSwitchedIn n f = W.pushConn ((w.d.conn lp f.src tc).waiting.length + 1) (opened w n f lp tc) lp f.src tc := by
  rw [helloSwitchedIn_plain hdst heack honly hlp htc, if_neg (by simp [hchip, hport]), if_pos hasked]

/-- A HELLO that this side has not asked for is answered. -/
theorem helloSwitchedIn_asked (hnew : (w.d.conn lp f.src tc).st ≠ 1) :
    w.helloSwitchedIn n f =
      W.pushConn ((w.d.conn lp f.src tc).waiting.length + 1) ((opened w n f lp tc).sendHello n lp f.src tc) lp f.src tc := by
  rw [helloSwitchedIn_plain hdst heack honly hlp htc, if_neg (by simp [hnew]), if_neg hnew]

end

end Sys2Proof.Laws

/-! ## The fibre latch (R359, R465) -/

namespace Sys2Proof.Laws

open Sys2Proof.Machine Sys2Proof.Claims

/-- The latch of port `n`'s fibre block is released: its laser is off, and an optical port goes DOWN. -/
def laserOff (w : W) (n : Nat) : W :=
  let w := w.modPort n fun P => { P with latched := false }
  if (w.d.port n).phy then (w.portDown n 1).settle else w

/-- `Q` is what the release of its block makes of port `P`. -/
structure Darkened (P Q : Port) : Prop where
  latched : Q.latched = false
  optical : P.phy = true → P.st = 2 ∨ P.st = 4 → Q.st = 1
  electrical : P.phy = false → Q.st = P.st

theorem Darkened.after_traffic {P Q R : Port} (h : PortTraffic P Q) (k : Darkened Q R) : Darkened P R := by
  obtain ⟨_, _, _, _, _, _, rfl⟩ := h
  exact ⟨k.latched, k.optical, k.electrical⟩

theorem Darkened.before_traffic {P Q R : Port} (h : Darkened P Q) (k : PortTraffic Q R) : Darkened P R := by
  obtain ⟨_, _, _, _, _, _, rfl⟩ := k
  exact ⟨h.latched, h.optical, h.electrical⟩

theorem settle_traffic (w : W) (m : Nat) : PortTraffic (w.d.port m) (w.settle.d.port m) := (settle_quiet w).trafficOnly.port m

/-- Of a port that goes DOWN the other ports carry the traffic at most. -/
theorem portDown_other (w : W) {n m : Nat} (cause : Nat) (h : m ≠ n) : PortTraffic (w.d.port m) ((w.portDown n cause).d.port m) := by
  unfold W.portDown
  dsimp only
  split
  · rw [← port_modPort_ne w n m _ h]
    exact (trafficOnly_replayLost _ n).port m
  · exact .refl _

/-- A port that goes DOWN keeps its latch, and one that was linked trains again at once (R297). -/
theorem portDown_self (w : W) (n cause : Nat) : ((w.portDown n cause).d.port n).latched = (w.d.port n).latched ∧
    ((w.d.port n).st = 2 ∨ (w.d.port n).st = 4 → ((w.portDown n cause).d.port n).st = 1) := by
  unfold W.portDown
  dsimp only
  split
  · obtain ⟨_, _, _, _, _, _, h⟩ := (trafficOnly_replayLost (w.modPort n fun P =>
      { P with st := 1, cause := cause, hvalid := false, txSeq := 0, rxSeq := 0, paused := 0, pausing := 0 }) n).port n
    rw [port_modPort] at h
    rw [h]
    exact ⟨rfl, fun _ => rfl⟩
  · next hdown => exact ⟨rfl, fun h => absurd h hdown⟩

theorem laserOff_other (w : W) {n m : Nat} (h : m ≠ n) : PortTraffic (w.d.port m) ((laserOff w n).d.port m) := by
  unfold laserOff
  dsimp only
  rw [← port_modPort_ne w n m (fun P => { P with latched := false }) h]
  split
  · exact (portDown_other _ 1 h).trans (settle_traffic _ m)
  · exact .refl _

theorem laserOff_self (w : W) (n : Nat) : Darkened (w.d.port n) ((laserOff w n).d.port n) := by
  have hlatch := port_modPort w n fun P => { P with latched := false }
  obtain ⟨hoff, hst⟩ := portDown_self (w.modPort n fun P => { P with latched := false }) n 1
  unfold laserOff
  dsimp only
  rw [hlatch] at hoff hst ⊢
  split
  · next hphy => exact .before_traffic ⟨hoff, fun _ => hst, fun hel => absurd (hphy.symm.trans hel) (by decide)⟩ (settle_traffic _ n)
  · next hphy =>
    rw [hlatch]
    exact ⟨rfl, fun h => absurd h hphy, fun _ => rfl⟩

theorem each_laserOff_other {l : List Nat} {m : Nat} (h : m ∉ l) (w : W) : PortTraffic (w.d.port m) ((w.each l laserOff).d.port m) := by
  unfold W.each
  induction l generalizing w with
  | nil => exact .refl _
  | cons n l ih =>
    have hn : m ≠ n := List.ne_of_not_mem_cons h
    have hl : m ∉ l := List.not_mem_of_not_mem_cons h
    exact (laserOff_other w hn).trans (ih hl (laserOff w n))

/-- Each port of a block is darkened once. -/
theorem each_laserOff {l : List Nat} {m : Nat} (hmem : m ∈ l) (hnodup : l.Nodup) (w : W) : Darkened (w.d.port m) ((w.each l laserOff).d.port m) := by
  unfold W.each
  induction l generalizing w with
  | nil => exact absurd hmem List.not_mem_nil
  | cons n l ih =>
    obtain ⟨hn, hl⟩ := List.nodup_cons.mp hnodup
    rcases List.mem_cons.mp hmem with rfl | hmem
    · exact (laserOff_self w m).before_traffic (each_laserOff_other hn (laserOff w m))
    · have hne : m ≠ n := fun e => hn (e ▸ hmem)
      exact .after_traffic (laserOff_other w hne) (ih hmem hl (laserOff w n))

section

variable {s : State} {site i : Nat} (hsite : s.dev.linkSites.findIdx? (· == site) = some i)

include hsite

theorem sitePorts_eq : s.dev.sitePorts site = [3 * i, 3 * i + 1, 3 * i + 2] := by rw [Dev.sitePorts, hsite]

theorem fibreLatchEngage_exactly :
    Exactly (.fibreLatchEngage site) s (s.w.each [3 * i, 3 * i + 1, 3 * i + 2] fun w n => w.modPort n fun P => { P with latched := true }) := by
  show execFibreLatchEngage site s = _
  rw [execFibreLatchEngage, run_def, w_d, sitePorts_eq hsite]

theorem fibreLatchRelease_exactly : Exactly (.fibreLatchRelease site) s (s.w.each [3 * i, 3 * i + 1, 3 * i + 2] laserOff) := by
  show execFibreLatchRelease site s = _
  rw [execFibreLatchRelease, run_def, w_d, sitePorts_eq hsite]
  rfl

end

/-- Settles O54: each event of a port by the lemma of its case; what traffic leaves of the ports (`TrafficOnly`) has the checks of a HELLO and of an LL_ACK find the
port as it stood, and each port of a fibre block the state that its own laser decides. -/
theorem portStates : Obligations.PortStates := by
  refine ⟨fun s n v hhost hrun hn hport => ⟨portEnable_runs hhost hrun hn hport, portDisable_runs hhost hrun hn hport⟩, fun s n hon hst hlit => ?lock,
    fun s n h => ⟨pcsLoss_runs h, silenceTimeout_runs h, replayLimit_runs h, llAckTimer_exactly h, helloTimer_exactly h, fun prio => pfcFrame_exactly h prio true,
      fun prio => ⟨pfcFrame_exactly h prio false, fun hnone hidle => ?resume⟩⟩,
    fun s n k f hst hbad => ⟨fun hfcs hmode => ?broken, fun hfcs hmode hkind horder => ?outOfOrder, fun hfcs hmode hkind horder => ?malformed,
      fun hmode => ?switchedBad⟩,
    fun s n f h => ⟨fun hkind => ?hello, goodbye_runs h⟩, fun s n f hlinked hmode hgood hkind => ?llAck,
    fun s n f hst hmode hgood hkind hdst heack honly => ?switched, fun s site i hsite => ⟨?release, fibreLatchEngage_exactly hsite⟩⟩
  case lock =>
    have hruns := pcsLock_runs hon hst hlit
    refine ⟨fun hdirect => ?_, fun hswitched => ?_⟩
    · rwa [if_pos hdirect] at hruns
    · rwa [if_neg (by rw [hswitched]; decide)] at hruns
  case resume =>
    have hresumed := pfcFrame_exactly h prio false
    rw [if_neg Bool.false_ne_true, release_idle] at hresumed
    · exact hresumed
    · rw [priorityTold, port_modPort]
      exact hnone
    · exact forall_ports_modPort (φ := fun P => P.pausing = 0 ∧ P.held = []) hidle ⟨rfl, rfl⟩ fun _ hP => hP
  case broken =>
    refine frameDiscard_exactly hbad ?_
    rw [arrive_broken hst hfcs, badFrame_broken hfcs hbad]
    exact llNak_direct (w := s.w.linkCnt n 2) hmode
  case outOfOrder => exact frameDiscard_exactly hbad ((arrive_outOfOrder hst hfcs hmode hkind horder).trans (llNak_direct hmode))
  case malformed => exact frameDiscard_exactly hbad (arrive_malformed hst hbad hfcs hmode hkind horder)
  case switchedBad => exact frameDiscard_exactly hbad (arrive_switched_bad hst hbad hmode)
  case hello =>
    have hruns := hello_direct_runs h hkind
    rwa [neighbour_received] at hruns
  case llAck =>
    have hexactly := llAck_exactly hlinked hmode hgood hkind
    refine ⟨fun hack => ?_, fun hnak => ?_⟩
    · rwa [hack, if_neg Bool.false_ne_true] at hexactly
    · rwa [if_pos hnak] at hexactly
  case switched =>
    have hruns := hello_switched_runs hst hmode hgood hkind
    refine ⟨fun hasked hchip hlp => ?_, fun hnew => ?_⟩
    · rwa [helloSwitchedIn_answer hdst heack honly rfl rfl hasked hchip hlp] at hruns
    · rwa [helloSwitchedIn_asked hdst heack honly rfl rfl hnew] at hruns
  case release =>
    refine ⟨_, fibreLatchRelease_exactly hsite, rfl, rfl, fun k hk => ?_⟩
    have hmem : 3 * i + k ∈ [3 * i, 3 * i + 1, 3 * i + 2] := by
      simp only [List.mem_cons, List.not_mem_nil, or_false]
      omega
    obtain ⟨hlatched, hoptical, helectrical⟩ := each_laserOff hmem (by simp) s.w
    exact ⟨hlatched, hoptical, helectrical⟩

end Sys2Proof.Laws

/-! ## What a command can do to the queue and to the fuses (R390) -/

namespace Sys2Proof.Laws

open Sys2Proof.Machine Sys2Proof.Claims

/-- The outcome `o` of a command at `s` is a next state with the queue of `s` and the fuses `f`. -/
def Leaves (s : State) (f : Fuses) (o : Host.Outcome State Fault Refusal) : Prop := ∃ t, o = .next t ∧ t.pending = s.pending ∧ t.fuses = f

theorem leaves_run (s : State) (f : W → W) : Leaves s s.fuses (s.run f) := ⟨_, rfl, rfl, rfl⟩

/-- The fuses after the end of the pulse in progress, `ok` its sense check. -/
def pulsedFuses (s : State) (ok : Bool) : Fuses :=
  match s.dev.sec.pulses with
  | [] => s.fuses
  | p :: _ => p.apply s.fuses ok

/-- What a command of each kind may leave of the fuses. -/
def fuseOutcome (s : State) : Instr → List Fuses
  | .fuseProgramComplete ok => [pulsedFuses s ok]
  | c => if burns c then [s.cutFuses, s.fuses] else [s.fuses]

/-- A reset either acts, and cuts the pulse in progress short, or does nothing. -/
theorem leaves_runReset (s : State) (c : Bool) (f : Fuses → W → W) : ∃ F ∈ [s.cutFuses, s.fuses], Leaves s F (s.runReset c f) := by
  cases c with
  | true => exact ⟨_, List.mem_cons_self, _, rfl, rfl, rfl⟩
  | false => exact ⟨_, List.mem_cons_of_mem _ List.mem_cons_self, leaves_run s id⟩

theorem leaves_linkReset (s : State) : ∃ F ∈ [s.cutFuses, s.fuses], Leaves s F s.linkReset := leaves_runReset s _ _

/-- R390: every command is answered, and leaves the fuses as they are, or cuts the pulse in progress short, or ends it. -/
theorem exec_leaves (c : Instr) (s : State) : ∃ F ∈ fuseOutcome s c, Leaves s F (exec c s) := by
  unfold exec
  cases c with
  | fuseProgramComplete ok => exact ⟨_, List.mem_singleton_self _, _, rfl, rfl, rfl⟩
  | perstAssert | refclkLoss | power12vLoss | power3v3Loss | thermalTrip => exact leaves_runReset s _ _
  | hotReset | linkDown | flrPf => exact leaves_linkReset s
  | _ => exact ⟨_, List.mem_singleton_self _, leaves_run s _⟩

/-- What the fuses become when a command answers. -/
theorem fuses_of_exec {c : Instr} {s t : State} (h : exec c s = .next t) : t.fuses ∈ fuseOutcome s c := by
  obtain ⟨F, hF, u, hu, -, hfuses⟩ := exec_leaves c s
  cases hu.symm.trans h
  exact hfuses ▸ hF

/-! ## Blowing a fuse clears none (R390, R393, R416) -/

theorem fuses_le_refl (f : Fuses) : f.le f := ⟨rfl, rfl, rfl, rfl, rfl, fun _ h => h, id, id, id, fun _ h => h⟩

theorem testBit_or_of_left {a : Nat} (b : Nat) {i : Nat} (h : a.testBit i = true) : (a ||| b).testBit i = true := by simp [h]

/-- A pulse's end leaves every other fuse as it is and clears none of its own. -/
theorem le_apply (f : Fuses) (ok : Bool) (p : FusePulse) : f.le (p.apply f ok) := by
  cases p with
  | repair k v => exact ⟨rfl, rfl, rfl, rfl, rfl, fun _ h => h, id, id, id, fun _ h => testBit_or_of_left _ h⟩
  | svn b => cases ok with
    | true => exact ⟨rfl, rfl, rfl, rfl, rfl, fun _ h => testBit_or_of_left _ h, id, id, id, fun _ h => h⟩
    | false => exact fuses_le_refl f
  | secured => cases ok with
    | true => exact ⟨rfl, rfl, rfl, rfl, rfl, fun _ h => h, fun _ => rfl, id, id, fun _ h => h⟩
    | false => exact fuses_le_refl f
  | returned => cases ok with
    | true => exact ⟨rfl, rfl, rfl, rfl, rfl, fun _ h => h, id, fun _ => rfl, id, fun _ h => h⟩
    | false => exact fuses_le_refl f
  | retired => cases ok with
    | true => exact ⟨rfl, rfl, rfl, rfl, rfl, fun _ h => h, id, id, fun _ => rfl, fun _ h => h⟩
    | false => exact fuses_le_refl f

/-- A pulse that a reset cuts short clears none either. -/
theorem le_cut (f : Fuses) (k : Nat) (p : FusePulse) : f.le (p.cut f k) := by
  cases p with
  | repair i v => exact ⟨rfl, rfl, rfl, rfl, rfl, fun _ h => h, id, id, id, fun _ h => testBit_or_of_left _ h⟩
  | svn | secured | returned | retired => exact le_apply f _ _

theorem le_cutFuses (s : State) : s.fuses.le s.cutFuses := by
  unfold State.cutFuses
  split
  · exact fuses_le_refl s.fuses
  · exact le_cut _ _ _

theorem le_pulsedFuses (s : State) (ok : Bool) : s.fuses.le (pulsedFuses s ok) := by
  unfold pulsedFuses
  split
  · exact fuses_le_refl s.fuses
  · exact le_apply _ _ _

theorem cutFuses_of_pulses_nil {s : State} (h : s.dev.sec.pulses = []) : s.cutFuses = s.fuses := by simp [State.cutFuses, h]

/-- Of commands that are not the end of a pulse, what `burns` says decides. -/
theorem fuseOutcome_other (s : State) {c : Instr} (h : ∀ ok, c ≠ .fuseProgramComplete ok) :
    fuseOutcome s c = if burns c then [s.cutFuses, s.fuses] else [s.fuses] := by
  unfold fuseOutcome
  split
  · exact absurd rfl (h _)
  · rfl

theorem fuseOutcome_of_not_burns (s : State) {c : Instr} (h : burns c = false) : fuseOutcome s c = [s.fuses] := by
  rw [fuseOutcome_other s (by rintro ok rfl; cases h), h]
  rfl

theorem fuseOutcome_of_pulses_nil {s : State} {c : Instr} {F : Fuses} (hother : ∀ ok, c ≠ .fuseProgramComplete ok) (hnone : s.dev.sec.pulses = [])
    (hF : F ∈ fuseOutcome s c) : F = s.fuses := by
  rw [fuseOutcome_other s hother, cutFuses_of_pulses_nil hnone] at hF
  split at hF <;> simpa using hF

theorem le_of_fuseOutcome {s : State} {c : Instr} {F : Fuses} (hF : F ∈ fuseOutcome s c) : s.fuses.le F := by
  by_cases hend : ∃ ok, c = .fuseProgramComplete ok
  · obtain ⟨ok, rfl⟩ := hend
    cases List.mem_singleton.mp hF
    exact le_pulsedFuses s ok
  · rw [fuseOutcome_other s fun ok h => hend ⟨ok, h⟩] at hF
    have hkept : F = s.cutFuses ∨ F = s.fuses := by
      split at hF
      · simpa using hF
      · exact .inr (List.mem_singleton.mp hF)
    rcases hkept with rfl | rfl
    · exact le_cutFuses s
    · exact fuses_le_refl s.fuses

/-- A nanosecond of the hub counter leaves the fuses as they are. -/
theorem tick_fuses (s : State) : s.tick.fuses = s.fuses := by
  unfold State.tick
  split <;> rfl

/-! ## The statements on every command -/

theorem step_of_pending_cons {s : State} {c : Instr} {rest : List Instr} (h : s.pending = c :: rest) : step s = exec c { s with pending := rest } := by
  simp [step, h]

/-- Settles O19. -/
theorem stepRunsFront : Obligations.StepRunsFront := fun _ _ _ => step_of_pending_cons

/-- Settles O24: what `exec_leaves` says of the queue. -/
theorem everyCommandAnswers : Obligations.EveryCommandAnswers := by
  intro c s
  obtain ⟨_, -, t, hnext, hpending, -⟩ := exec_leaves c s
  exact ⟨t, hnext, hpending⟩

/-- Settles O23: a step lets time pass, or runs a command, which leaves the fuses as `fuseOutcome` says. -/
theorem fusesOnlyBlow : Obligations.FusesOnlyBlow := by
  refine ⟨fun s t hstep => ?_, fun c s t hexec hburns => ?_, fun c s t hexec hother hnone => ?_⟩
  · cases hqueue : s.pending with
    | nil =>
      rw [step_of_pending_nil hqueue] at hstep
      cases hstep
      exact tick_fuses s ▸ fuses_le_refl s.fuses
    | cons c rest =>
      rw [step_of_pending_cons hqueue] at hstep
      exact le_of_fuseOutcome (s := { s with pending := rest }) (fuses_of_exec hstep)
  · have hkept := fuses_of_exec hexec
    rw [fuseOutcome_of_not_burns s hburns] at hkept
    exact List.mem_singleton.mp hkept
  · exact fuseOutcome_of_pulses_nil hother hnone (fuses_of_exec hexec)

/-- Settles O21: the fields of the reset state, and the default state of a site. -/
theorem resetState : Obligations.ResetState := by
  refine ⟨rfl, rfl, fun _ => rfl, rfl, rfl, rfl, rfl, rfl, rfl, rfl, rfl, fun site _ => ⟨rfl, ?_⟩⟩
  rw [show State.reset.dev.die site = { stack := if State.reset.dev.isStacked site then 1 else 0 } from rfl]
  cases State.reset.dev.isStacked site <;> simp

end Sys2Proof.Laws

/-! ## The start of the boot ROM (R390, R391, R417) -/

namespace Sys2Proof.Laws

open Sys2Proof.Machine Sys2Proof.Claims

/-- What every turn of a loop keeps, the loop keeps. -/
theorem each_related {α : Type} {R : W → W → Prop} (hrefl : ∀ w, R w w) (htrans : ∀ {a b c}, R a b → R b c → R a c) {l : List α} {f : W → α → W}
    (h : ∀ w, ∀ x ∈ l, R w (f w x)) (w : W) : R w (w.each l f) := by
  unfold W.each
  induction l generalizing w with
  | nil => exact hrefl w
  | cons x l ih => exact htrans (h w x List.mem_cons_self) (ih (fun w y hy => h w y (List.mem_cons_of_mem _ hy)) (f w x))

/-- `v` is `w` after some arrays and dies may have left service (R16, R80, R415): nothing comes back. -/
structure PutsOut (w v : W) : Prop where
  rest : ∃ D, v = { w with d := { w.d with dies := D } }
  dies : ∀ i, v.d.die i = { w.d.die i with
    lmap := (v.d.die i).lmap, quar := (v.d.die i).quar, withdrawn := (v.d.die i).withdrawn, spareOn := (v.d.die i).spareOn }
  quar : ∀ i n, (w.d.die i).quar.testBit n = true → (v.d.die i).quar.testBit n = true
  gone : ∀ i, (w.d.die i).withdrawn = true → (v.d.die i).withdrawn = true

theorem PutsOut.refl (w : W) : PutsOut w w := ⟨⟨_, rfl⟩, fun _ => rfl, fun _ _ h => h, fun _ h => h⟩

theorem PutsOut.trans {a b c : W} (h : PutsOut a b) (k : PutsOut b c) : PutsOut a c where
  rest := by
    obtain ⟨D, hb⟩ := h.rest
    obtain ⟨E, hc⟩ := k.rest
    exact ⟨E, by rw [hc, hb]⟩
  dies i := by rw [k.dies, h.dies]
  quar i n hn := k.quar i n (h.quar i n hn)
  gone i hi := k.gone i (h.gone i hi)

theorem putsOut_modDie (w : W) (s : Nat) (f : Die → Die)
    (h : ∀ D, f D = { D with lmap := (f D).lmap, quar := (f D).quar, withdrawn := (f D).withdrawn, spareOn := (f D).spareOn })
    (hquar : ∀ D n, D.quar.testBit n = true → (f D).quar.testBit n = true) (hgone : ∀ D, D.withdrawn = true → (f D).withdrawn = true) :
    PutsOut w (w.modDie s f) := by
  have hdie : ∀ i, (w.modDie s f).d.die i = f (w.d.die i) ∨ (w.modDie s f).d.die i = w.d.die i := by
    intro i
    by_cases e : i = s
    · subst e; exact .inl (die_modDie _ _ _)
    · exact .inr (die_modDie_ne _ _ _ _ e)
  refine ⟨⟨_, rfl⟩, fun i => ?_, fun i n hn => ?_, fun i hi => ?_⟩
  · rcases hdie i with e | e <;> rw [e]
    exact h _
  · rcases hdie i with e | e <;> rw [e]
    · exact hquar _ n hn
    · exact hn
  · rcases hdie i with e | e <;> rw [e]
    · exact hgone _ hi
    · exact hi

theorem putsOut_withdraw (w : W) (s : Nat) : PutsOut w (w.modDie s fun D => { D with withdrawn := true }) :=
  putsOut_modDie w s _ (fun _ => rfl) (fun _ _ h => h) fun _ _ => rfl

theorem putsOut_arrayOut (w : W) (s phys : Nat) : PutsOut w (w.arrayOut s phys) := by
  have hmark : PutsOut w (w.modDie s fun D => { D with quar := D.quar ||| 2 ^ phys }) :=
    putsOut_modDie w s _ (fun _ => rfl) (fun _ _ h => testBit_or_of_left _ h) fun _ h => h
  unfold W.arrayOut
  dsimp only
  split
  · exact .refl w
  · split
    · exact hmark
    · split
      · exact hmark.trans (putsOut_withdraw _ s)
      · exact hmark.trans (putsOut_modDie _ s _ (fun _ => rfl) (fun _ _ h => h) fun _ h => h)

/-- The REPAIR fuses in force (R375, R416) only take out of service. -/
theorem putsOut_fuseRepairs (w : W) : PutsOut w w.fuseRepairs := by
  refine each_related PutsOut.refl PutsOut.trans (fun w e _ => ?_) w
  split
  · exact .refl w
  · split
    · exact putsOut_arrayOut w _ _
    · exact putsOut_withdraw w _
    · exact .refl w

/-- The fuses are sensed, and nothing has been tried yet (R391 step 1, R395). -/
def romSense (w : W) (f : Fuses) : W :=
  ((w.modAon fun A => { A with shadow := f, sensed := true }).newNonce).modSec fun S => { S with boot := 0, lc := lcOf f, attempts := 0, result := 0 }

theorem bootRom_retired {f : Fuses} (w : W) (h : f.retired = true) : w.bootRom f = (romSense w f).fuseRepairs.modSec fun S => { S with boot := 4 } := if_pos h

theorem bootRom_waits {f : Fuses} (w : W) (h : f.retired = false) : w.bootRom f = (romSense w f).fuseRepairs.romWait :=
  if_neg (by rw [h]; exact Bool.false_ne_true)

/-- Channel 0 takes a push: its counter and its last status are what they were. -/
def chanReady (C : Chan) : Chan := { C with ptr := 0, limit := storeSize, mode := 0, st := 1 }

theorem chan_romWait (w : W) : w.romWait.d.chan 0 = chanReady (w.d.chan 0) := by
  show tget {} (tmod {} w.d.chans 0 chanReady) 0 = _
  exact tget_tmod_same _ _ _ _

theorem chan_romWait_ne (w : W) {c : Nat} (h : c ≠ 0) : w.romWait.d.chan c = w.d.chan c := by
  show tget {} (tmod {} w.d.chans 0 chanReady) c = _
  exact tget_tmod_other _ _ _ _ _ h

/-- What the boot ROM leaves as it was and what it sets, whatever the fuses say. -/
structure RomRun (f : Fuses) (w v : W) : Prop where
  rest : ∃ S C D, v.d = { w.d with
    aon := { w.d.aon with shadow := f, sensed := true }, sec := S, chans := C, dies := D, freeCtr := w.d.freeCtr + 1 }
  lc : v.d.sec.lc = lcOf f
  rebuildInt : v.d.sec.rebuildInt = w.d.sec.rebuildInt
  chans : ∀ c, c ≠ 0 → v.d.chan c = w.d.chan c
  dies : ∀ i, v.d.die i = { w.d.die i with
    lmap := (v.d.die i).lmap, quar := (v.d.die i).quar, withdrawn := (v.d.die i).withdrawn, spareOn := (v.d.die i).spareOn }
  quar : ∀ i n, (w.d.die i).quar.testBit n = true → (v.d.die i).quar.testBit n = true
  gone : ∀ i, (w.d.die i).withdrawn = true → (v.d.die i).withdrawn = true

theorem romRun_bootRom (w : W) (f : Fuses) : RomRun f w (w.bootRom f) := by
  have hout := putsOut_fuseRepairs (romSense w f)
  cases hf : f.retired with
  | true =>
    rw [bootRom_retired w hf]
    generalize (romSense w f).fuseRepairs = v at hout ⊢
    obtain ⟨⟨D, rfl⟩, hdies, hquar, hgone⟩ := hout
    exact ⟨⟨_, _, _, rfl⟩, rfl, rfl, fun _ _ => rfl, hdies, hquar, hgone⟩
  | false =>
    rw [bootRom_waits w hf]
    generalize (romSense w f).fuseRepairs = v at hout ⊢
    obtain ⟨⟨D, rfl⟩, hdies, hquar, hgone⟩ := hout
    exact ⟨⟨_, _, _, rfl⟩, rfl, rfl, fun c hc => chan_romWait_ne _ hc, hdies, hquar, hgone⟩

theorem chan_bootRom {f : Fuses} (w : W) (h : f.retired = false) : (w.bootRom f).d.chan 0 = chanReady (w.d.chan 0) := by
  obtain ⟨D, hrest⟩ := (putsOut_fuseRepairs (romSense w f)).rest
  rw [bootRom_waits w h, chan_romWait, hrest]
  rfl

/-- The zeroed part of a memory reads as zero. -/
theorem byte_zeroed (m : Mem) {a n x : Nat} (hlo : a ≤ x) (hhi : x < a + n) : (m.apply (.zero a n)).byte x = 0 := by
  refine tget_absent fun c hc => ?_
  have hcell : c ∈ m.splice a n [] := hc
  simp only [Mem.splice, List.append_nil, List.mem_append, List.mem_filter, decide_eq_true_eq] at hcell
  omega

theorem applyAll_append (m : Mem) (l k : List MemOp) : m.applyAll (l ++ k) = (m.applyAll l).applyAll k := List.foldl_append

/-- R391, R417: the boot ROM has started after it has run, the link being up. -/
theorem booted_bootRom {t : State} {w : W} (hdev : t.dev = (w.bootRom t.fuses).d) (hmem : ∃ m : Mem, t.mem = m.applyAll (w.bootRom t.fuses).ops)
    (hlink : w.d.aon.linkUp = true) (hchan : w.d.chan 0 = {}) : t.Booted := by
  have hrun := romRun_bootRom w t.fuses
  obtain ⟨S, C, D, hrest⟩ := hrun.rest
  have haon : t.dev.aon = { w.d.aon with shadow := t.fuses, sensed := true } := by rw [hdev, hrest]
  refine ⟨by rw [haon]; exact hlink, by rw [haon]; exact ⟨rfl, rfl⟩, by rw [hdev]; exact hrun.lc, fun h => ?_, fun h => ⟨?_, ?_, fun a hlo hhi => ?_⟩⟩
  · rw [hdev, bootRom_retired w h]
    rfl
  · rw [hdev, bootRom_waits w h]
    rfl
  · rw [hdev, chan_bootRom w h, hchan]
    rfl
  · obtain ⟨m, hm⟩ := hmem
    rw [hm, bootRom_waits w h, show ((romSense w t.fuses).fuseRepairs.romWait).ops = (romSense w t.fuses).fuseRepairs.ops ++ [.zero storeBase storeSize] from rfl,
      applyAll_append]
    exact byte_zeroed _ hlo hhi

/-! ## What the end of reset waits for (R360, R417) -/

theorem powered_iff (A : Aon) : A.powered = true ↔ A.rail33 = true ∧ A.rail12 = true ∧ A.coreOk = true ∧ A.refclk = true ∧ A.perst = false := by
  simp [Aon.powered, and_assoc]

def linkUp (w : W) : W := w.modAon fun A => { A with linkUp := true }

theorem tryBoot_dark {w : W} (f : Fuses) (h : ¬ w.d.aon.powered = true) : w.tryBoot f = w := if_pos (by simpa using h)

theorem tryBoot_held {w : W} (f : Fuses) (h : w.d.aon.powered = true) (hheld : w.d.aon.tripHold = true ∨ w.d.sec.boot ≠ 0) : w.tryBoot f = linkUp w := by
  have hwaits : (w.d.aon.tripHold || decide (w.d.sec.boot ≠ 0)) = true := by simpa using hheld
  exact (if_neg (by simp [h])).trans (if_pos hwaits)

theorem tryBoot_boots {w : W} (f : Fuses) (h : w.d.aon.powered = true) (htrip : w.d.aon.tripHold = false) (hboot : w.d.sec.boot = 0) :
    w.tryBoot f = (linkUp w).bootRom f := by
  have hgoes : ¬ (w.d.aon.tripHold || decide (w.d.sec.boot ≠ 0)) = true := by simp [htrip, hboot]
  exact (if_neg (by simp [h])).trans (if_neg hgoes)

/-- The always-on domain after the start was tried, whatever came of it: its inputs are what they were. -/
theorem tryBoot_aon (w : W) (f : Fuses) : ∃ l s x, (w.tryBoot f).d.aon = { w.d.aon with linkUp := l, sensed := s, shadow := x } := by
  by_cases h : w.d.aon.powered = true
  · by_cases hheld : w.d.aon.tripHold = true ∨ w.d.sec.boot ≠ 0
    · rw [tryBoot_held f h hheld]
      exact ⟨_, _, _, rfl⟩
    · simp only [not_or, Bool.not_eq_true, not_not] at hheld
      obtain ⟨S, C, D, hrest⟩ := (romRun_bootRom (linkUp w) f).rest
      rw [tryBoot_boots f h hheld.1 hheld.2, hrest]
      exact ⟨_, _, _, rfl⟩
  · rw [tryBoot_dark f h]
    exact ⟨_, _, _, rfl⟩

/-! ## Power (R342, R417, R418) -/

theorem exec_coreOk {s : State} (h33 : s.dev.aon.rail33 = true) (h12 : s.dev.aon.rail12 = true) (hhub : s.dev.aon.hubTrip = false) :
    exec .coreOk s = .next (s.commit ((s.w.modAon fun _ => { s.dev.aon with coreOk := true }).tryBoot s.fuses)) := by
  have hmay : (s.w.d.aon.rail33 && s.w.d.aon.rail12 && !s.w.d.aon.hubTrip) = true := by simp [h33, h12, hhub]
  exact congrArg (fun w => Host.Outcome.next (s.commit w)) (if_pos hmay)

/-- A device that waits for CORE_OK alone, channel 0 still holding the status of an earlier push. -/
def stalePush : State :=
  { State.reset with dev := { aon := { rail33 := true, rail12 := true, refclk := true, perst := false }, chans := [(0, { status := 1 })] } }

/-- Refutes O16: the boot ROM sets channel 0 up for a push but leaves its last status and its drop counter, which `State.Booted` wants zero (R391 step 3); no
premise says that the channel is as reset, and in `stalePush` it is not. -/
theorem not_powerUp : ¬ Obligations.PowerUp := by
  rintro ⟨-, -, -, hlast⟩
  obtain ⟨⟨t, hexec, -, hfuses, -, hboots, -⟩, -⟩ := hlast stalePush rfl rfl rfl
  have hready := ((hboots rfl rfl rfl rfl).waits (hfuses ▸ rfl)).2.1
  have hran := tryBoot_boots (w := stalePush.w.modAon fun _ => { stalePush.dev.aon with coreOk := true }) stalePush.fuses rfl rfl rfl
  rw [exec_coreOk rfl rfl rfl, hran] at hexec
  cases hexec
  have hstale := hready.symm.trans (chan_bootRom (linkUp (stalePush.w.modAon fun _ => { stalePush.dev.aon with coreOk := true })) rfl)
  exact absurd (congrArg Chan.status hstale) (by decide)

end Sys2Proof.Laws

/-! ## What a warm device reset leaves (R342, R359, R360, R418, R419, R421, R426) -/

namespace Sys2Proof.Laws

open Sys2Proof.Machine Sys2Proof.Claims

theorem tget_tmapi {α : Type} {f : Nat → α → α} {d e : α} {i : Nat} (h : f i d = e) (t : Tab α) : tget e (tmapi f t) i = f i (tget d t i) := by
  induction t with
  | nil => exact h.symm
  | cons x t ih =>
    obtain ⟨k, a⟩ := x
    show tget e ((k, f k a) :: tmapi f t) i = f i (tget d ((k, a) :: t) i)
    simp only [tget]
    split
    · next hk => rw [hk]
    · split
      · exact h.symm
      · exact ih

/-- `v` is `w` after the work that precedes a warm reset, as far as R421 keeps it: data that a COPY still moved, frames that left. -/
structure BeforeReset (w v : W) : Prop where
  rest : ∃ H C P D F p k o, v.d = { w.d with hub := H, chans := C, pols := P, dies := D, fabric := F, power := p, freeCtr := k, out := o }
  evid : v.d.hub.evidSeq = w.d.hub.evidSeq
  tag : v.d.hub.readTag = w.d.hub.readTag
  gens : ∀ p, (v.d.pol p).formGen = (w.d.pol p).formGen
  quar : ∀ i, (v.d.die i).quar = (w.d.die i).quar
  gone : ∀ i, (v.d.die i).withdrawn = (w.d.die i).withdrawn

theorem BeforeReset.refl (w : W) : BeforeReset w w := ⟨⟨_, _, _, _, _, _, _, _, rfl⟩, rfl, rfl, fun _ => rfl, fun _ => rfl, fun _ => rfl⟩

theorem BeforeReset.trans {a b c : W} (h : BeforeReset a b) (k : BeforeReset b c) : BeforeReset a c := by
  refine ⟨?_, k.evid.trans h.evid, k.tag.trans h.tag, fun p => (k.gens p).trans (h.gens p), fun i => (k.quar i).trans (h.quar i),
    fun i => (k.gone i).trans (h.gone i)⟩
  obtain ⟨_, _, _, _, _, _, _, _, hb⟩ := h.rest
  obtain ⟨_, _, _, _, _, _, _, _, hc⟩ := k.rest
  exact ⟨_, _, _, _, _, _, _, _, by rw [hc, hb]⟩

theorem beforeReset_each {α : Type} (l : List α) (f : W → α → W) (h : ∀ w x, BeforeReset w (f w x)) (w : W) : BeforeReset w (w.each l f) :=
  each_related BeforeReset.refl BeforeReset.trans (fun w x _ => h w x) w

/-- Work on the memories, the free values, channels, messages, links and temperatures. -/
theorem beforeReset_of {w v : W} (h : ∃ C F p k o, v.d = { w.d with chans := C, fabric := F, power := p, freeCtr := k, out := o }) : BeforeReset w v := by
  obtain ⟨C, F, p, k, o, hd⟩ := h
  refine ⟨⟨_, _, _, _, _, _, _, _, hd⟩, ?_, ?_, fun i => ?_, fun i => ?_, fun i => ?_⟩ <;> rw [hd] <;> rfl

theorem beforeReset_fresh (w : W) : BeforeReset w w.fresh.2 := beforeReset_of ⟨_, _, _, _, _, rfl⟩

theorem beforeReset_modChan (w : W) (c : Nat) (f : Chan → Chan) : BeforeReset w (w.modChan c f) := beforeReset_of ⟨_, _, _, _, _, rfl⟩

theorem beforeReset_linkOnly {w v : W} (h : LinkOnly w v) : BeforeReset w v := by
  obtain ⟨F, o, rfl⟩ := h
  exact beforeReset_of ⟨_, _, _, _, _, rfl⟩

theorem beforeReset_dropReads (w : W) (f : ReadFor → Bool) : BeforeReset w (w.dropReads f) :=
  ⟨⟨_, _, _, _, _, _, _, _, rfl⟩, rfl, rfl, fun _ => rfl, fun _ => rfl, fun _ => rfl⟩

theorem beforeReset_polErr (w : W) (p k n : Nat) : BeforeReset w (w.polErr p k n) := by
  refine ⟨⟨_, _, _, _, _, _, _, _, rfl⟩, rfl, rfl, fun i => ?_, fun _ => rfl, fun _ => rfl⟩
  by_cases e : i = p
  · subst e
    rw [W.polErr, pol_modPol]
  · rw [W.polErr, pol_modPol_ne _ _ _ _ e]

theorem beforeReset_modDie (w : W) (s : Nat) (f : Die → Die) (hquar : ∀ D, (f D).quar = D.quar) (hgone : ∀ D, (f D).withdrawn = D.withdrawn) :
    BeforeReset w (w.modDie s f) := by
  have hdie : ∀ i, (w.modDie s f).d.die i = f (w.d.die i) ∨ (w.modDie s f).d.die i = w.d.die i := by
    intro i
    by_cases e : i = s
    · subst e; exact .inl (die_modDie _ _ _)
    · exact .inr (die_modDie_ne _ _ _ _ e)
  refine ⟨⟨_, _, _, _, _, _, _, _, rfl⟩, rfl, rfl, fun _ => rfl, fun i => ?_, fun i => ?_⟩
  · rcases hdie i with e | e <;> rw [e]
    exact hquar _
  · rcases hdie i with e | e <;> rw [e]
    exact hgone _

theorem beforeReset_countSites (w : W) (fx : MemFx) : BeforeReset w (w.countSites fx) := by
  unfold W.countSites
  refine (beforeReset_each fx.sp _ (fun w x => ?_) w).trans (beforeReset_each fx.dram _ (fun w x => ?_) _) <;>
  · dsimp only
    split
    · exact beforeReset_modDie _ _ _ (fun _ => rfl) fun _ => rfl
    · exact .refl _

theorem beforeReset_bulkFx (w : W) (p : Nat) (fx : MemFx) : BeforeReset w (w.bulkFx p fx) := by
  unfold W.bulkFx
  split
  · exact (beforeReset_countSites w fx).trans ((beforeReset_polErr _ p 1 _).trans ((beforeReset_polErr _ p 2 _).trans (beforeReset_polErr _ p 3 _)))
  · exact .refl w

theorem beforeReset_copyUp (w : W) (dst src n : Nat) : BeforeReset w (w.copyUp dst src n) := by
  have hwrites : ∀ w v : W, v.d = w.d → BeforeReset w v := fun w v h => beforeReset_of ⟨_, _, _, _, _, h⟩
  unfold W.copyUp
  split
  · split
    · refine beforeReset_each _ _ (fun w i => ?_) w
      exact hwrites _ _ rfl
    · exact hwrites _ _ rfl
  · split
    · refine beforeReset_each _ _ (fun w i => ?_) w
      exact hwrites _ _ rfl
    · exact hwrites _ _ rfl
  · refine beforeReset_each _ _ (fun w i => ?_) w
    exact hwrites _ _ rfl
  · exact hwrites _ _ rfl

theorem beforeReset_copyMove (w : W) (r : Nat) (b : Bytes) (lim : Nat) (fail : MemFail) : BeforeReset w (w.copyMove r b lim fail).1 := by
  unfold W.copyMove
  dsimp only
  split
  · exact beforeReset_of ⟨_, _, _, _, _, rfl⟩
  · refine (beforeReset_each _ _ (fun w x => ?_) w).trans (beforeReset_modChan _ _ _)
    exact beforeReset_linkOnly (linkOnly_emit w _)
  · exact beforeReset_copyUp w _ _ _

theorem beforeReset_cutFx (w : W) (b : Bytes) : BeforeReset w (w.cutFx b).2 := by
  unfold W.cutFx
  dsimp only
  split <;> exact beforeReset_of ⟨_, _, _, _, _, rfl⟩

theorem beforeReset_copyCut (w : W) (r st det : Nat) : BeforeReset w (w.copyCut r st det false) := by
  unfold W.copyCut
  split
  · exact .refl w
  · next D _ =>
    have hfirst := beforeReset_fresh w
    cases hq : D.queued with
    | true =>
      simp only [if_true, Bool.false_eq_true, if_false]
      exact hfirst.trans ((beforeReset_bulkFx _ _ _).trans (beforeReset_dropReads _ _))
    | false =>
      simp only [Bool.false_eq_true, if_false]
      exact hfirst.trans ((beforeReset_cutFx _ _).trans ((beforeReset_bulkFx _ _ _).trans
        ((beforeReset_copyMove _ _ _ _ _).trans (beforeReset_dropReads _ _))))

theorem beforeReset_cutCopies (w : W) (rings : List Nat) : BeforeReset w (w.cutCopies rings false) :=
  beforeReset_each _ _ (fun w r => by
    split
    · exact beforeReset_copyCut w r _ _
    · exact .refl w) w

theorem linkOnly_wire (w : W) (n : Nat) (f : Frame) : LinkOnly w (w.wire n f) := (linkOnly_emit w _).trans (linkOnly_linkCnt _ n 0)

theorem linkOnly_direct (w : W) (n : Nat) (f : Frame) (inp : Option Nat) : LinkOnly w (w.direct n f inp) := by
  unfold W.direct
  split
  · exact linkOnly_wire w n _
  · split
    · exact linkOnly_modPort w n _
    · exact linkOnly_sendNow w n f

theorem beforeReset_goodbyes (w : W) : BeforeReset w w.goodbyes :=
  beforeReset_each _ _ (fun w n => by
    split
    · exact beforeReset_linkOnly (linkOnly_direct w n _ _)
    · exact beforeReset_linkOnly (linkOnly_wire w n _)) w

/-- The work of a warm reset before everything is reset: COPYs are cut short and, where the link dies have power, GOODBYE is said. -/
def lastWork (w : W) (goodbye : Bool) : W :=
  let v := w.cutCopies (w.d.rings.map Prod.fst) false
  if goodbye then v.goodbyes else v

theorem warmReset_eq (w : W) (goodbye : Bool) : w.warmReset goodbye = (lastWork w goodbye).dev Dev.warm := rfl

theorem beforeReset_lastWork (w : W) (goodbye : Bool) : BeforeReset w (lastWork w goodbye) := by
  have hcut := beforeReset_cutCopies w (w.d.rings.map Prod.fst)
  unfold lastWork
  split
  · exact hcut.trans (beforeReset_goodbyes _)
  · exact hcut

/-! ### The device after the reset -/

theorem pol_warm (d : Dev) (p : Nat) : d.warm.pol p = { formGen := (d.pol p).formGen } := by
  have hdefault : ({ formGen := ({} : Pol).formGen } : Pol) = {} := rfl
  exact tget_tmapi (f := fun _ P => ({ formGen := P.formGen } : Pol)) (i := p) hdefault d.pols

theorem die_warm (d : Dev) (i : Nat) : d.warm.die i = (d.die i).kept (if d.isStacked i then 1 else 0) := by
  have hdefault : Die.kept { stack := if d.isStacked i then 1 else 0 } (if d.isStacked i then 1 else 0) = { stack := if d.isStacked i then 1 else 0 } := by
    have hspare : ∀ x, Die.spareServes { stack := x } = false := fun x => (by decide : Die.spareServes {} = false)
    simp [Die.kept, hspare]
  exact tget_tmapi (f := fun s D => Die.kept D (if d.isStacked s then 1 else 0)) (i := i) hdefault d.dies

/-- The state that a reset command commits, the pulse in progress cut short. -/
def resetTo (s : State) (w : W) : State := { s.commit w with fuses := s.cutFuses }

theorem warmReset_warm {s : State} {w : W} (h : BeforeReset s.w w) : s.WarmReset (resetTo s (w.dev Dev.warm)) := by
  obtain ⟨_, _, _, _, _, _, _, _, hrest⟩ := h.rest
  have hdie : ∀ i, (resetTo s (w.dev Dev.warm)).dev.die i = (w.d.die i).kept (if w.d.isStacked i then 1 else 0) := die_warm w.d
  have hstacked : w.d.isStacked = s.dev.isStacked := by rw [hrest]; rfl
  constructor
  case pending | rings | sluices | grants | ctxs | banks | evids | fabric => rfl
  case fuses => rfl
  case burnt => exact le_cutFuses s
  case chans => exact fun _ _ => rfl
  case pols => exact fun p => (pol_warm w.d p).trans (by rw [h.gens]; rfl)
  case hub => exact congrArg₂ (fun e t => ({ evidSeq := e, readTag := t } : Hub)) h.evid h.tag
  case dirty =>
    intro i hi
    rw [hdie, hstacked, hi]
    rfl
  case work =>
    intro i
    rw [hdie]
    exact ⟨rfl, rfl, rfl, rfl, rfl⟩
  case quar =>
    intro i n hn
    rw [hdie]
    exact (congrArg (Nat.testBit · n) (h.quar i)).trans hn
  case gone =>
    intro i hi
    rw [hdie]
    show ((w.d.die i).withdrawn || _) = true
    rw [h.gone, show (s.w.d.die i).withdrawn = true from hi]
    rfl
  case soft =>
    show ({ soft := w.d.bist.soft, packVer := w.d.bist.packVer } : Bist) = _
    rw [hrest]
    rfl
  case sealed =>
    show w.d.sealEpoch + 1 = _
    rw [hrest]
    rfl
  case counter =>
    show w.d.aon.hub = _
    rw [hrest]
    rfl
  case rebuilt =>
    intro hint
    show (w.d.sec.rebuildInt || _) = true
    rw [show w.d.sec.rebuildInt = true by rw [hrest]; exact hint]
    rfl

/-- The pins and the trip record are written after the reset (R360, R418). -/
theorem warmReset_modAon {s : State} {w : W} {f : Aon → Aon} (h : s.WarmReset (resetTo s w)) (hf : (f w.d.aon).hub = w.d.aon.hub) :
    s.WarmReset (resetTo s (w.modAon f)) :=
  { h with counter := hf.trans h.counter }

/-- The boot ROM starts after the reset (R419). -/
theorem warmReset_bootRom {s : State} {w : W} {f : Fuses} (h : s.WarmReset (resetTo s w)) : s.WarmReset (resetTo s (w.bootRom f)) := by
  have hrun := romRun_bootRom w f
  obtain ⟨S, C, D, hrest⟩ := hrun.rest
  have hdie : ∀ i, (resetTo s (w.bootRom f)).dev.die i = _ := hrun.dies
  obtain ⟨hpending, hfuses, hburnt, hrings, hsluices, hgrants, hctxs, hbanks, hevids, hchans, hpols, hhub, hdirty, hwork, hquar, hgone, hfabric, hsoft, hsealed,
    hcounter, hrebuilt⟩ := h
  have hdev : (resetTo s (w.bootRom f)).dev = _ := hrest
  constructor
  case pending => exact hpending
  case fuses => exact hfuses
  case burnt => exact hburnt
  case rings => rw [hdev]; exact hrings
  case sluices => rw [hdev]; exact hsluices
  case grants => rw [hdev]; exact hgrants
  case ctxs => rw [hdev]; exact hctxs
  case banks => rw [hdev]; exact hbanks
  case evids => rw [hdev]; exact hevids
  case chans => exact fun c hc => (hrun.chans c hc).trans (hchans c hc)
  case pols => rw [hdev]; exact hpols
  case hub => rw [hdev]; exact hhub
  case dirty => exact fun i hi => (congrArg Die.stack (hdie i)).trans (hdirty i hi)
  case work =>
    intro i
    rw [hdie i]
    exact hwork i
  case quar => exact fun i n hn => hrun.quar i n (hquar i n hn)
  case gone => exact fun i hi => hrun.gone i (hgone i hi)
  case fabric => rw [hdev]; exact hfabric
  case soft => rw [hdev]; exact hsoft
  case sealed => rw [hdev]; exact hsealed
  case counter => rw [hdev]; exact hcounter
  case rebuilt => exact fun hint => hrun.rebuildInt.trans (hrebuilt hint)

/-! ### The commands that reset (R418, R419) -/

/-- A reset that draws its free value and does the work before, its fuses cut. -/
def warmed (s : State) (goodbye : Bool) : W := s.w.fresh.2.warmReset goodbye

theorem runReset_acts {s : State} {c : Bool} (h : c = true) (f : Fuses → W → W) : s.runReset c f = .next (resetTo s (f s.cutFuses s.w.fresh.2)) := if_pos h

theorem beforeReset_warmed (s : State) (goodbye : Bool) : BeforeReset s.w (lastWork s.w.fresh.2 goodbye) :=
  (beforeReset_fresh s.w).trans (beforeReset_lastWork _ goodbye)

theorem warmReset_warmed (s : State) (goodbye : Bool) : s.WarmReset (resetTo s (warmed s goodbye)) := warmReset_warm (beforeReset_warmed s goodbye)

theorem aon_warmReset {a w : W} (h : BeforeReset a w) : (w.dev Dev.warm).d.aon = { a.d.aon with linkUp := false } := by
  obtain ⟨_, _, _, _, _, _, _, _, hrest⟩ := h.rest
  rw [dev_d, hrest]
  rfl

theorem aon_warmed (s : State) (goodbye : Bool) : (warmed s goodbye).d.aon = { s.dev.aon with linkUp := false } := aon_warmReset (beforeReset_warmed s goodbye)

/-- A reset that holds: the pins are written, and the boot ROM does not start. -/
theorem reset_holds {s : State} {c : Instr} {goodbye : Bool} {f : Aon → Aon} (hexec : exec c s = .next (resetTo s ((warmed s goodbye).modAon f)))
    (hcounter : ∀ A, (f A).hub = A.hub) :
    ∃ t, exec c s = .next t ∧ s.WarmReset t ∧ t.dev.sec.boot = 0 ∧ t.dev.aon = f { s.dev.aon with linkUp := false } :=
  ⟨_, hexec, warmReset_modAon (warmReset_warmed s goodbye) (hcounter _), rfl, congrArg f (aon_warmed s goodbye)⟩

/-- R419: a reset that the link brings. -/
theorem linkReset_boots {s : State} (hlink : s.dev.aon.linkUp = true) (hpower : s.dev.aon.powered = true) (htrip : s.dev.aon.tripHold = false) :
    ∃ t, s.linkReset = .next t ∧ s.WarmReset t ∧ t.Booted := by
  have haon := aon_warmed s true
  have hpowered : (warmed s true).d.aon.powered = true := by rw [haon]; exact hpower
  have hheld : (warmed s true).d.aon.tripHold = false := by rw [haon]; exact htrip
  have hexec : s.linkReset = .next (resetTo s ((warmed s true).tryBoot s.cutFuses)) := runReset_acts hlink _
  rw [tryBoot_boots s.cutFuses hpowered hheld rfl] at hexec
  exact ⟨_, hexec, warmReset_bootRom (warmReset_modAon (warmReset_warmed s true) rfl), booted_bootRom rfl ⟨s.mem, rfl⟩ rfl rfl⟩

/-- Settles O17: three resets that hold, and three after which the boot ROM starts. -/
theorem deviceResets : Obligations.DeviceResets := by
  refine ⟨fun s h33 h12 => ⟨fun hperst => ?_, fun hclk => ?_, ?_⟩, fun c hc s hlink hpower htrip => ?_⟩
  · have hexec := runReset_acts (s := s) (c := !s.dev.aon.perst) (by rw [hperst]; rfl) fun _ w =>
      (if w.d.aon.rail33 && w.d.aon.rail12 then w.warmReset true else w).modAon fun A => { A with perst := true }
    rw [if_pos (by rw [Bool.and_eq_true]; exact ⟨h33, h12⟩)] at hexec
    exact reset_holds (c := .perstAssert) hexec fun _ => rfl
  · have hexec := runReset_acts (s := s) hclk fun _ w =>
      (if w.d.aon.rail33 && w.d.aon.rail12 then w.warmReset true else w).modAon fun A => { A with refclk := false }
    rw [if_pos (by rw [Bool.and_eq_true]; exact ⟨h33, h12⟩)] at hexec
    exact reset_holds (c := .refclkLoss) hexec fun _ => rfl
  · have hexec := runReset_acts (s := s) h12 fun _ w => (if w.d.aon.rail33 then w.warmReset false else w).modAon fun A =>
      { A with rail12 := false, coreOk := false, tripHold := A.tripHold && !A.hubTrip, hubTrip := false }
    rw [if_pos (by exact h33)] at hexec
    exact reset_holds (c := .power12vLoss) hexec fun _ => rfl
  · simp only [List.mem_cons, List.not_mem_nil, or_false] at hc
    rcases hc with rfl | rfl | rfl <;> exact linkReset_boots hlink hpower htrip

/-! ### Thermal trips (R360, R458) -/

/-- A sensor that can trip changes power alone. -/
theorem beforeReset_sensor {k : Sensor} (h : (sensorTrip k).isSome = true) (w : W) (temp : Int) : BeforeReset w (w.sensor k temp) := by
  cases k with
  | optic n => cases h
  | computeDie | linkDie | hubDie | dramDie => exact beforeReset_of ⟨_, _, _, _, _, rfl⟩

/-- What a trip records (R360, R458). -/
def tripped (cause site : Nat) (A : Aon) : Aon :=
  { A with tripHold := true, tripValid := true, tripCause := cause, tripSite := site, thermtrip := true
           hubTrip := A.hubTrip || cause == 3, coreOk := A.coreOk && cause != 3 }

/-- The device as a trip resets it, before the link is tried. -/
def tripReset (s : State) (k : Sensor) (cause site : Nat) (temp : Int) : W := ((s.w.fresh.2.sensor k temp).warmReset false).modAon (tripped cause site)

theorem exec_thermalTrip {s : State} {k : Sensor} {cause site : Nat} {temp : Int} (h33 : s.dev.aon.rail33 = true) (h12 : s.dev.aon.rail12 = true)
    (hsensor : s.dev.hasSensor k = true) (htrip : sensorTrip k = some (cause, site, temp)) :
    exec (.thermalTrip k) s = .next (resetTo s ((tripReset s k cause site temp).tryBoot s.cutFuses)) := by
  have hacts : (s.dev.aon.rail33 && s.dev.aon.rail12 && s.dev.hasSensor k && (sensorTrip k).isSome) = true := by simp [h33, h12, hsensor, htrip]
  show execThermalTrip k s = _
  rw [execThermalTrip, runReset_acts hacts]
  simp only [htrip]
  rfl

/-- A trip holds, whether the link still has power or not. -/
theorem tryBoot_tripped {w : W} (f : Fuses) (h : w.d.aon.tripHold = true) : w.tryBoot f = if w.d.aon.powered then linkUp w else w := by
  split
  · next hpower => exact tryBoot_held f hpower (.inl h)
  · next hdark => exact tryBoot_dark f hdark

/-- Settles O18. -/
theorem thermalTrips : Obligations.ThermalTrips := by
  intro s k cause site temp h33 h12 hsensor htrip
  have hbefore : BeforeReset s.w (lastWork (s.w.fresh.2.sensor k temp) false) :=
    (beforeReset_fresh s.w).trans ((beforeReset_sensor (by rw [htrip]; rfl) _ temp).trans (beforeReset_lastWork _ false))
  have haon : (tripReset s k cause site temp).d.aon = tripped cause site { s.dev.aon with linkUp := false } := congrArg (tripped cause site) (aon_warmReset hbefore)
  have hreset : s.WarmReset (resetTo s (tripReset s k cause site temp)) := warmReset_modAon (warmReset_warm hbefore) rfl
  have hexec := exec_thermalTrip h33 h12 hsensor htrip
  rw [tryBoot_tripped s.cutFuses (by rw [haon]; rfl)] at hexec
  split at hexec
  · next hpower =>
    refine ⟨_, hexec, warmReset_modAon hreset rfl, rfl, rfl, rfl, rfl, rfl, rfl, fun hhub => absurd hpower ?_⟩
    rw [haon, powered_iff]
    rintro ⟨-, -, hcore, -⟩
    simp [tripped, hhub] at hcore
  · refine ⟨_, hexec, hreset, rfl, rfl, rfl, rfl, rfl, rfl, fun hhub => ?_⟩
    show (tripReset s k cause site temp).d.aon.hubTrip = true ∧ (tripReset s k cause site temp).d.aon.coreOk = false ∧
      (tripReset s k cause site temp).d.aon.linkUp = false
    rw [haon]
    simp [tripped, hhub]

end Sys2Proof.Laws

/-! ## SVN and life-cycle commands (R390, R393 to R396, R416) -/

namespace Sys2Proof.Laws

open Sys2Proof.Machine Sys2Proof.Claims

/-- A command register of the security processor, which has no command in progress. -/
theorem secCommand_settles {s : State} (h : SecReady s) (off : Nat) (f : W → W) :
    (s.w.pfWrite 0 off (fun w ign => w.unlessBusy ign f) true) = (f s.w).settle := by
  have hreach : s.w.d.hostReach 0 = true := by
    rw [Dev.hostReach, show s.w.d.aon.linkUp = true from h.link]
    simp [Dev.fnOk]
  have hfree : (s.w.unlessBusy (fun w => w.ignored 0 off) f) = f s.w := if_neg (by rw [show s.w.d.sec.busy = false from h.free]; exact Bool.false_ne_true)
  have hwrite : s.w.pfWrite 0 off (fun w ign => w.unlessBusy ign f) true = s.w.regWrite 0 off true (fun w ign => w.unlessBusy ign f) true := if_neg (by simp)
  rw [hwrite, regWrite_ok s.w 0 off true _ true hreach rfl rfl, hfree]

theorem secCommand_runs {s : State} {c : Instr} {off : Nat} {f : W → W} {u : W} (h : SecReady s)
    (hexec : exec c s = .next (s.commit (s.w.pfWrite 0 off (fun w ign => w.unlessBusy ign f) true))) (hu : f s.w = u) : Runs c s u :=
  runs_settle (hexec.trans (by rw [secCommand_settles h, hu]))

theorem bits_low_byte (v : Nat) : bits v 7 0 = v % 256 := by simp [bits]

theorem secSvn_unlisted {s : State} (hlc : 2 ≤ s.dev.sec.lc) (v c : Nat) : s.w.secSvn v c = s.w.cmdResult 1 := by
  have hno : (!s.w.d.running || !(decide (s.w.d.sec.lc = 0) || decide (s.w.d.sec.lc = 1))) = true := by
    show (!s.dev.running || !(decide (s.dev.sec.lc = 0) || decide (s.dev.sec.lc = 1))) = true
    simp [show s.dev.sec.lc ≠ 0 by omega, show s.dev.sec.lc ≠ 1 by omega]
  exact if_pos hno

theorem lcGate_occupied {s : State} (hformed : s.dev.allEmpty = false) (ok : Bool) (f : W → W) : s.w.lcGate ok f = s.w.cmdResult 2 :=
  if_pos (by simp [hformed])

section

variable {s : State} (h : SecReady s)

include h

/-! ### SEC_SVN_CMD (R393) -/

theorem secSvn_runs {v : Nat} {u : W} (hu : s.w.secSvn v (svnCount s.fuses.svn) = u) : Runs (.secSvnCmd 0 v) s u :=
  secCommand_runs (f := fun w => w.secSvn v (svnCount s.fuses.svn)) h rfl hu

theorem secSvn_listed (hlc : s.dev.sec.lc = 0 ∨ s.dev.sec.lc = 1) (v c : Nat) : s.w.secSvn v c =
    if c < v % 256 ∧ v % 256 ≤ s.dev.sec.svnImage then s.w.pulse ((rangeFrom c (v % 256)).map .svn) else s.w.cmdResult 5 := by
  have hmay : ¬ (!s.w.d.running || !(decide (s.w.d.sec.lc = 0) || decide (s.w.d.sec.lc = 1))) = true := by
    show ¬ (!s.dev.running || !(decide (s.dev.sec.lc = 0) || decide (s.dev.sec.lc = 1))) = true
    simpa [h.running, or_iff_not_imp_left] using hlc
  exact (if_neg hmay).trans (by rw [bits_low_byte]; rfl)

/-! ### The gate of a life-cycle command (R394) -/

theorem lcGate_empty (hempty : s.dev.allEmpty = true) (ok : Bool) (f : W → W) : s.w.lcGate ok f = if ok then f s.w else s.w.cmdResult 1 := by
  have hmay : ¬ (!s.w.d.running || !s.w.d.allEmpty) = true := by
    simp [h.running, hempty]
  refine (if_neg hmay).trans ?_
  cases ok <;> rfl

theorem lcSecure_runs {u : W} (hu : s.w.lcSecure = u) : Runs (.lcSecure 0) s u := secCommand_runs (f := W.lcSecure) h rfl hu

theorem lcReturn_runs {tok : ReadRes} {u : W} (hu : s.w.lcReturn tok = u) : Runs (.lcReturn 0 tok) s u :=
  secCommand_runs (f := fun w => w.lcReturn tok) h rfl hu

theorem lcRetire_runs {u : W} (hu : s.w.lcRetire = u) : Runs (.lcRetire 0) s u := secCommand_runs (f := W.lcRetire) h rfl hu

end

/-- A token command reads the token whatever it does then: the read is posted, and the read number moves on. -/
theorem does_of_asked {s : State} {c : Instr} {d : Dev} {m : Mem} {n : Nat} {l : List Out}
    (h : Does c s { d with hub := { d.hub with readTag := n }, out := l } m) : Does c s d m := by
  obtain ⟨t, hexec, hpending, hfuses, hmem, hposted⟩ := h
  have hasked : d.Posted { d with hub := { d.hub with readTag := n }, out := l } := ⟨rfl, fun _ => rfl, fun _ _ => rfl, fun _ => rfl, fun _ => rfl, rfl⟩
  exact ⟨t, hexec, hpending, hfuses, hmem, Posted.trans hasked hposted⟩

theorem lcReturn_withToken {s : State} (h : SecReady s) (hempty : s.dev.allEmpty = true) (hlc : s.dev.sec.lc = 1 ∨ s.dev.sec.lc = 2) (b : Bytes) :
    s.w.lcReturn (.ok b) = (if s.dev.tokenOk b 2 then ((s.w.askHost s.dev.sec.tokenAddr 288).pulse [.returned]).newNonce
      else ((s.w.askHost s.dev.sec.tokenAddr 288).cmdResult 3).newNonce) := by
  have hlisted : (s.w.d.sec.lc == 1 || s.w.d.sec.lc == 2) = true := by simpa using hlc
  exact (lcGate_empty h hempty _ _).trans (if_pos hlisted)

/-! ### The end of a pulse (R390) -/

theorem exec_fuseProgramComplete (ok : Bool) (s : State) :
    exec (.fuseProgramComplete ok) s = .next { s.commit (s.w.pulseDone ok) with fuses := pulsedFuses s ok } := rfl

theorem pulsedFuses_cons {s : State} {p : FusePulse} {rest : List FusePulse} (h : s.dev.sec.pulses = p :: rest) (ok : Bool) :
    pulsedFuses s ok = p.apply s.fuses ok := by
  unfold pulsedFuses
  rw [h]

/-- A pulse of a command, not of a repair, ends. -/
def commandPulse (S : Sec) (rest : List FusePulse) (ok : Bool) : Sec :=
  { S with pulses := rest, cmdResult := if ok then S.cmdResult else 6
           busy := rest.any fun p => match p with
             | .repair _ _ => false
             | _ => true }

theorem pulseDone_repair {w : W} {k v : Nat} {rest : List FusePulse} (h : w.d.sec.pulses = .repair k v :: rest) (ok : Bool) : w.pulseDone ok =
    (w.modSec fun S => { S with pulses := rest }).modBist fun B => { B with fuseBusy := false, fuseResult := if ok then 0 else 4 } := by
  unfold W.pulseDone
  rw [h]

theorem pulseDone_command {w : W} {p : FusePulse} {rest : List FusePulse} (h : w.d.sec.pulses = p :: rest) (hp : ∀ k v, p ≠ .repair k v) (ok : Bool) :
    w.pulseDone ok = w.modSec fun S => commandPulse S rest ok := by
  unfold W.pulseDone
  rw [h]
  cases p with
  | repair k v => exact absurd rfl (hp k v)
  | svn | secured | returned | retired => rfl

/-- Settles O26. -/
theorem fuseCommands : Obligations.FuseCommands := by
  refine ⟨fun s h => ⟨fun v => ⟨fun hlc hlo hhi => ?above, fun hlc hbad => ?outside, fun hlc => ?unlisted⟩,
    fun hempty => ⟨fun hlc hcert => ?secure, fun hlc => ?notFactory, fun b hlc htok => ?returns, fun b hlc htok => ?badToken, ?retire⟩,
    fun hformed tok => ⟨?_, ?_, ?_⟩⟩, fun s ok p rest hp => ?pulse⟩
  case above => exact secSvn_runs h ((secSvn_listed h hlc v _).trans (if_pos ⟨hlo, hhi⟩))
  case outside => exact secSvn_runs h ((secSvn_listed h hlc v _).trans (if_neg (by omega)))
  case unlisted => exact secSvn_runs h (secSvn_unlisted hlc v _)
  case secure => exact lcSecure_runs h ((lcGate_empty h hempty _ _).trans (if_pos (by simp [hlc, hcert])))
  case notFactory => exact lcSecure_runs h ((lcGate_empty h hempty _ _).trans (if_neg (by simp [hlc])))
  case returns => exact does_of_asked (lcReturn_runs h ((lcReturn_withToken h hempty hlc b).trans (if_pos htok)))
  case badToken => exact does_of_asked (lcReturn_runs h ((lcReturn_withToken h hempty hlc b).trans (if_neg (by rw [htok]; exact Bool.false_ne_true))))
  case retire => exact lcRetire_runs h (lcGate_empty h hempty true _)
  · exact lcSecure_runs h (lcGate_occupied hformed _ _)
  · exact lcReturn_runs h (lcGate_occupied hformed _ _)
  · exact lcRetire_runs h (lcGate_occupied hformed _ _)
  case pulse =>
    refine ⟨_, exec_fuseProgramComplete ok s, rfl, ?_⟩
    rw [pulsedFuses_cons hp]
    cases p with
    | repair k v =>
      rw [pulseDone_repair hp]
      refine ⟨rfl, rfl, rfl, ?_, rfl, rfl⟩
      cases ok <;> rfl
    | svn | secured | returned | retired =>
      rw [pulseDone_command hp fun _ _ => FusePulse.noConfusion]
      refine ⟨rfl, rfl, rfl, ?_, rfl, rfl, fun hlast => by rw [hlast]; rfl⟩
      cases ok <;> rfl

end Sys2Proof.Laws

/-! ## The SPDM responder's answers (R398, R399) -/

namespace Sys2Proof.Laws

open Sys2Proof.Machine Sys2Proof.Claims

section

variable {s : State} {fn : Nat}

/-- A request that comes outside a session, or inside one that is open, is served. -/
theorem within_run {phase : Nat} {ses : Option Nat} (h : Talking s fn phase) (hses : within s fn ses) (f : W → W) :
    s.run (fun w => w.spdmReq fn phase fun w => w.inSession fn ses f) = .next (s.commit (f s.w)) := by
  cases ses with
  | none => exact spdmReq_run h f
  | some id => exact inSession_run h (hses id rfl) f

/-- A request that the negotiation has not come far enough for is refused. -/
theorem spdmReq_early {phase : Nat} (hdoe : s.dev.doeOk fn = true) (hphase : (s.dev.spdm fn).phase < phase) (f : W → W) :
    s.run (fun w => w.spdmReq fn phase f) = .next (errorOf s fn 4) := by
  have hearly : s.w.spdmReq fn phase f = s.w.spdmError fn 4 := by simp [W.spdmReq, hdoe, hphase]
  rw [run_def, hearly]
  rfl

theorem getCapabilities_agreed {ver : Nat} (h : Talking s fn 1) (hver : ver = 0x12 ∨ ver = 0x13) : exec (.getCapabilities fn ver) s = .next
    (answered s fn { s.dev.sec with spdm := tset s.dev.sec.spdm fn { phase := 2, ver := ver } } 0 0x61 0 0
      [0, 14, 0, 0, 0xF6, 0x62, 0, 0, 0, 0x10, 0, 0, 0, 0x10, 0, 0]) := by
  refine (spdmReq_run h _).trans ?_
  simp only [hver, if_true]
  rfl

theorem getCapabilities_refused {ver : Nat} (h : Talking s fn 1) (h12 : ver ≠ 0x12) (h13 : ver ≠ 0x13) :
    exec (.getCapabilities fn ver) s = .next (errorOf s fn 65) := by
  refine (spdmReq_run h _).trans ?_
  simp only [h12, h13, or_self, if_false]
  rfl

theorem negotiateAlgorithms_agreed {alg : Algs} (h : Talking s fn 2) (hsign : alg.ecdsaP384 = true) (hhash : alg.sha384 = true) :
    exec (.negotiateAlgorithms fn alg) s = .next
      (answered s fn { s.dev.sec with spdm := tset s.dev.sec.spdm fn { s.dev.spdm fn with phase := 3 } } 0 0x63 2 0
        ([48, 0, 1, 0, 2, 0, 0, 0, 0x80, 0, 0, 0, 2, 0, 0, 0] ++ zeros 12 ++ zeros 4 ++ [2, 0x20, if alg.secp384r1 then 0x10 else 0, 0] ++
          [3, 0x20, if alg.aes256gcm then 2 else 0, 0])) := by
  refine (spdmReq_run h _).trans ?_
  simp only [hsign, hhash, Bool.and_self, if_true]
  cases alg.secp384r1 <;> cases alg.aes256gcm <;> rfl

section

variable {ses : Option Nat} (h : Talking s fn 3) (hses : within s fn ses)

include h hses

theorem getCertificate_portion {off : Nat} (len : Nat) (hoff : off < s.dev.sec.chain.length) :
    let part := slice s.dev.sec.chain off (min len 4088)
    exec (.getCertificate fn ses 0 off len) s = .next (answered s fn s.dev.sec 0 2 0 0
      (toLe 2 part.length ++ toLe 2 (s.dev.sec.chain.length - off - part.length) ++ part)) := by
  refine (within_run h hses _).trans ?_
  simp only [w_d, ne_eq, not_true_eq_false, ge_iff_le, Nat.not_le.mpr hoff, or_self, if_false]
  rfl

theorem challenge_answered (nonce : Bytes) :
    let body := sha384 s.dev.sec.chain ++ rand32 s.dev.freeCtr ++ [0, 0]
    exec (.challenge fn ses 0 nonce) s = .next (answered s fn s.dev.sec 3 3 0 1 (body ++ signed s (s.dev.freeCtr + 2) (nonce ++ body))) := by
  refine (within_run h hses _).trans ?_
  simp only [ne_eq, not_true_eq_false, if_false]
  rfl

end

end

/-! ### GET_MEASUREMENTS -/

/-- The blocks that index `idx` asks for, 0 asking for their number alone. -/
def askedBlocks (all : List (Nat × Bytes)) (idx : Nat) : List (Nat × Bytes) :=
  if idx = 0 then [] else if idx = 0xFF then all else all.filter (·.1 == idx)

/-- What a response says of the blocks `got`, before its signature. -/
def blocksBody (s : State) (got : List (Nat × Bytes)) : Bytes :=
  toLe 1 got.length ++ toLe 3 (got.flatMap Prod.snd).length ++ got.flatMap Prod.snd ++ rand32 (s.dev.freeCtr + 1) ++ [0, 0]

/-- The work of GET_MEASUREMENTS once the blocks it asks for are known. -/
theorem getMeasurements_run {s : State} {fn : Nat} {ses : Option Nat} (h : Talking s fn 3) (hses : within s fn ses) {nonce : Bytes} {idx : Nat} (sign : Bool)
    {all got : List (Nat × Bytes)} (hall : s.dev.measurements fn nonce s.dev.freeCtr = all) (hgot : askedBlocks all idx = got) (hsome : idx = 0 ∨ got ≠ []) :
    exec (.getMeasurements fn ses idx sign nonce) s = .next
      (answered s fn s.dev.sec (if sign || got.any (·.1 == 0x40) then 4 else 3) 0x60 (if idx = 0 then all.length else 0) 0
        (blocksBody s got ++ if sign || got.any (·.1 == 0x40) then signed s (s.dev.freeCtr + 3) (nonce ++ blocksBody s got) else [])) := by
  refine (within_run h hses _).trans ?_
  have hmeasured : (s.w.fresh.2.d.measurements fn nonce s.w.fresh.1) = all := hall
  simp only [hmeasured]
  by_cases hidx : idx = 0
  · subst hidx hgot
    cases sign with
    | true => rfl
    | false =>
      simp only [askedBlocks, if_true, List.any_nil, Bool.or_self, Bool.false_eq_true, if_false, List.append_nil]
      rfl
  · have hblocks : (if idx = 0xFF then all else all.filter (·.1 == idx)) = got := by rw [← hgot, askedBlocks, if_neg hidx]
    have hne : got.isEmpty = false := by simpa [hidx] using hsome
    simp only [hblocks, hne, hidx, if_false, ne_eq, not_false_eq_true, decide_true, Bool.true_and, Bool.false_eq_true]
    cases (sign || got.any (·.1 == 0x40)) with
    | true => rfl
    | false =>
      simp only [Bool.false_eq_true, if_false, List.append_nil]
      rfl

/-- Settles O28: each request by the lemma of its case, served in the phase that it asks for. -/
theorem spdmAnswers : Obligations.SpdmAnswers := by
  intro s fn
  refine ⟨fun h => spdmReq_run h _, fun ver h => ⟨getCapabilities_agreed h, getCapabilities_refused h⟩, fun alg h => negotiateAlgorithms_agreed h,
    fun ses h hses => ⟨within_run h hses _, fun off len => getCertificate_portion h hses len, challenge_answered h hses, fun nonce idx sign => ?_⟩,
    fun ses hdoe hphase => spdmReq_early hdoe hphase _⟩
  exact getMeasurements_run h hses sign rfl rfl

end Sys2Proof.Laws

/-! ## Entering FIELD_DEBUG (R394, R395, R397, R401) -/

namespace Sys2Proof.Laws

open Sys2Proof.Machine Sys2Proof.Claims

theorem each_cons {α : Type} (w : W) (x : α) (l : List α) (f : W → α → W) : w.each (x :: l) f = (f w x).each l f := rfl

/-- Every stack of `l` becomes DIRTY (R155): dies and the layout count change. -/
theorem each_setStack (l : List Nat) (st : Nat) (w : W) :
    (∃ D g, (w.each l fun w s => w.setStack s st) = { w with d := { w.d with dies := D, sec := { w.d.sec with layoutGen := g } } }) ∧
    ∀ i, (w.each l fun w s => w.setStack s st).d.die i = { w.d.die i with stack := if i ∈ l then st else (w.d.die i).stack } := by
  induction l generalizing w with
  | nil => exact ⟨⟨_, _, rfl⟩, fun i => by simp [each_nil]⟩
  | cons s l ih =>
    obtain ⟨⟨D, g, hrest⟩, hdie⟩ := ih (w.setStack s st)
    rw [each_cons]
    refine ⟨⟨D, g, hrest.trans rfl⟩, fun i => ?_⟩
    have hone : (w.setStack s st).d.die i = (w.modDie s fun D => { D with stack := st }).d.die i := rfl
    rw [hdie, hone]
    by_cases hi : i = s
    · subst hi
      simp
    · rw [die_modDie_ne _ _ _ _ hi]
      simp [hi]

/-- What scrubbing leaves of a die (R401). -/
def scrubbed (D : Die) : Die := { D with arrays := [], tokens := [], counts := [], sums := [], flags := [] }

/-- Every die of `l` is scrubbed, its scratchpad zero. -/
theorem each_scrubDie (l : List Nat) (w : W) :
    (∃ D, (w.each l fun w s => w.scrubDie s) = { w with
      ops := w.ops ++ l.map fun s => .zero (spBase s) spSize, d := { w.d with dies := D } }) ∧
    ∀ i, (w.each l fun w s => w.scrubDie s).d.die i = if i ∈ l then scrubbed (w.d.die i) else w.d.die i := by
  induction l generalizing w with
  | nil => exact ⟨⟨w.d.dies, by simp [each_nil]⟩, fun i => by simp [each_nil]⟩
  | cons s l ih =>
    obtain ⟨⟨D, hrest⟩, hdie⟩ := ih (w.scrubDie s)
    rw [each_cons]
    refine ⟨⟨D, hrest.trans ?_⟩, fun i => ?_⟩
    · rw [List.map_cons, List.append_cons]
      rfl
    · have hone : (w.scrubDie s).d.die i = (w.modDie s scrubbed).d.die i := rfl
      rw [hdie, hone]
      by_cases hi : i = s
      · subst hi
        simp [scrubbed]
      · rw [die_modDie_ne _ _ _ _ hi]
        simp [hi]

/-- A byte after ranges of memory have been zeroed. -/
theorem byte_zeros {m : Mem} (l : List Nat) (a : Nat → Nat) (n x : Nat) (hm : m.wf = true) :
    (m.applyAll (l.map fun s => .zero (a s) n)).byte x = if ∃ s ∈ l, a s ≤ x ∧ x < a s + n then 0 else m.byte x := by
  induction l generalizing m with
  | nil => simp [Mem.applyAll]
  | cons s l ih =>
    rw [List.map_cons, show m.applyAll (.zero (a s) n :: l.map fun s => .zero (a s) n) = (m.apply (.zero (a s) n)).applyAll (l.map fun s => .zero (a s) n) from rfl,
      ih (apply_wf _ hm), byte_zero _ _ _ hm]
    by_cases hs : a s ≤ x ∧ x < a s + n <;> simp [hs]

/-- With every polder EMPTY the scheduler has nothing to do. -/
theorem settle_of_allEmpty {w : W} (h : w.d.allEmpty = true) : w.settle = w := by
  refine each_eq_self fun p hp => if_pos ?_
  have hnone : ∀ p ∈ List.range 16, ¬ ((w.d.pol p).st != 0) = true := List.filter_eq_nil_iff.mp (List.isEmpty_iff.mp h)
  simpa using hnone p hp

/-- The security processor in FIELD_DEBUG, its layout count at `g` (R394, R397). -/
def debugSec (d : Dev) (g : Nat) : Sec :=
  let who := d.identity 2 1
  { d.sec with
    layoutGen := g, sessions := [], lc := 2, cmdResult := 0
    devidPub := p384Pub who.1, aliasKey := who.2.2, chain := d.chainFor who.1 who.2.1 who.2.2 2, locked := true }

/-- A die after FIELD_DEBUG was entered (R401). -/
def debugDie (d : Dev) (i : Nat) : Die :=
  let D : Die := { d.die i with stack := if i ∈ d.stackSites then 1 else (d.die i).stack }
  if i ∈ d.computeSites then scrubbed D else D

theorem enterDebug_does (w : W) :
    (∃ D g, w.enterDebug = { w with
      ops := w.ops ++ w.d.computeSites.map fun s => .zero (spBase s) spSize
      d := { w.d with dies := D, banks := [], fabric := { w.d.fabric with keys := [], windows := [] }, sec := debugSec w.d g } }) ∧
    ∀ i, w.enterDebug.d.die i = debugDie w.d i := by
  obtain ⟨⟨D, g, hdirty⟩, hstack⟩ := each_setStack w.d.stackSites 1 w
  unfold W.enterDebug
  simp only [hdirty] at hstack ⊢
  generalize hv : W.modFabric _ _ = v
  have hsites : v.d.computeSites = w.d.computeSites := by rw [← hv]; rfl
  obtain ⟨⟨E, hscrub⟩, hdies⟩ := each_scrubDie v.d.computeSites v
  simp only [hscrub] at hdies ⊢
  subst hv
  refine ⟨⟨E, g, rfl⟩, fun i => (hdies i).trans ?_⟩
  show (if i ∈ w.d.computeSites then _ else _) = debugDie w.d i
  unfold debugDie
  exact congrArg (fun D => if i ∈ w.d.computeSites then scrubbed D else D) (hstack i)

theorem mem_sites {q : Nat → Bool} {i : Nat} (hout : ∀ i, 25 ≤ i → q i = false) : i ∈ (List.range 25).filter q ↔ q i = true := by
  rw [List.mem_filter, List.mem_range]
  refine ⟨fun h => h.2, fun h => ⟨?_, h⟩⟩
  by_contra hi
  rw [hout i (by omega)] at h
  exact Bool.false_ne_true h

theorem siteKind_beyond (d : Dev) {i : Nat} (h : 25 ≤ i) : d.siteKind i = 4 := if_neg (by omega)

theorem mem_computeSites {d : Dev} {i : Nat} : i ∈ d.computeSites ↔ d.isCompute i = true :=
  mem_sites fun i hi => by rw [Dev.isCompute, siteKind_beyond d hi]; rfl

theorem mem_stackSites {d : Dev} {i : Nat} : i ∈ d.stackSites ↔ d.isStacked i = true :=
  mem_sites fun i hi => by rw [Dev.isStacked, siteKind_beyond d hi]; rfl

/-- The keys of R397 rest on the fuses in force and on what was measured of the image. -/
theorem identity_congr {a b : Dev} (hfuses : a.aon.shadow = b.aon.shadow) (hdigest : a.sec.imageDigest = b.sec.imageDigest) (hkey : a.sec.keyIdx = b.sec.keyIdx)
    (lc debug : Nat) : a.identity lc debug = b.identity lc debug := by
  unfold Dev.identity
  rw [hfuses, hdigest, hkey]

/-- The token is asked for before anything else is done (R395). -/
def askedToken (s : State) : W := s.w.askHost s.dev.sec.tokenAddr 288

theorem newNonce_die (w : W) (i : Nat) : w.newNonce.d.die i = w.d.die i := rfl
theorem newNonce_ops (w : W) : w.newNonce.ops = w.ops := rfl

theorem computeSites_asked (s : State) : (askedToken s).d.computeSites = s.dev.computeSites := rfl
theorem stackSites_asked (s : State) : (askedToken s).d.stackSites = s.dev.stackSites := rfl

theorem debugDie_asked (s : State) (i : Nat) : debugDie (askedToken s).d i = debugDie s.dev i := by
  unfold debugDie
  rw [computeSites_asked, stackSites_asked]
  rfl

/-- DEBUG in SECURED, every polder EMPTY, with a token that verifies. -/
theorem lcDebug_enters {s : State} {b : Bytes} (h : SecReady s) (hempty : s.dev.allEmpty = true) (hlc : s.dev.sec.lc = 1) (htok : s.dev.tokenOk b 1 = true) :
    exec (.lcDebug 0 (.ok b)) s = .next (s.commit (askedToken s).enterDebug.newNonce) := by
  have hwork : s.w.lcDebug (.ok b) = (askedToken s).enterDebug.newNonce :=
    (lcGate_empty h hempty _ _).trans ((if_pos (by simp [hlc])).trans (if_pos htok))
  have hexec : exec (.lcDebug 0 (.ok b)) s = .next (s.commit (s.w.lcDebug (.ok b)).settle) :=
    congrArg (fun w => Host.Outcome.next (s.commit w)) (secCommand_settles h 0x2000010 fun w => w.lcDebug (.ok b))
  obtain ⟨⟨D, g, hdebug⟩, -⟩ := enterDebug_does (askedToken s)
  have hstill : (askedToken s).enterDebug.newNonce.d.allEmpty = true := by
    rw [hdebug]
    exact hempty
  rw [hexec, hwork, settle_of_allEmpty hstill]

/-- Settles O27: what `enterDebug_does` says, read field by field. -/
theorem fieldDebug : Obligations.FieldDebug := by
  intro s b h hmem hempty hlc htok
  obtain ⟨⟨D, g, hdebug⟩, hdies⟩ := enterDebug_does (askedToken s)
  have hdie : ∀ i, ((askedToken s).enterDebug.newNonce.d.die i) = debugDie s.dev i := fun i => by
    rw [newNonce_die, hdies, debugDie_asked]
  have hbyte : ∀ x, (s.mem.applyAll (askedToken s).enterDebug.newNonce.ops).byte x =
      if ∃ i ∈ s.dev.computeSites, spBase i ≤ x ∧ x < spBase i + spSize then 0 else s.mem.byte x := by
    intro x
    rw [newNonce_ops, hdebug, computeSites_asked]
    exact byte_zeros s.dev.computeSites spBase spSize x hmem
  refine ⟨_, lcDebug_enters h hempty hlc htok, ?_⟩
  simp only [commit_dev, commit_mem, hdie, hbyte]
  simp only [hdebug]
  refine ⟨rfl, rfl, rfl, rfl, rfl, rfl, List.mem_cons_self, ?newKey, rfl, rfl, rfl, fun i hi => ?dirty, fun i hi => ?dies, fun a ha => ?others,
    rfl, rfl, rfl, rfl, rfl, rfl⟩
  case newKey =>
    show ((askedToken s).d.identity 2 1).2.2 = (s.dev.identity 2 1).2.2
    rw [identity_congr (a := (askedToken s).d) (b := s.dev) rfl rfl rfl]
  case dirty =>
    have hin : i ∈ s.dev.stackSites := mem_stackSites.mpr hi
    simp only [debugDie, if_pos hin]
    split <;> rfl
  case dies =>
    have hin : i ∈ s.dev.computeSites := mem_computeSites.mpr hi
    rw [debugDie, if_pos hin]
    exact ⟨rfl, rfl, rfl, rfl, rfl, rfl, fun a hlo hhi => if_pos ⟨i, hin, hlo, hhi⟩⟩
  case others =>
    refine if_neg ?_
    rintro ⟨i, hin, hlo, hhi⟩
    have hclear := ha i (mem_computeSites.mp hin)
    omega

end Sys2Proof.Laws

/-! ## Built-in self-test (R381, R382, R403 to R416) -/

namespace Sys2Proof.Laws

open Sys2Proof.Machine Sys2Proof.Claims

@[simp] theorem slot_modSlot (w : W) (n : Nat) (f : Slot → Slot) : (w.modSlot n f).d.slot n = f (w.d.slot n) := tget_tmod_same _ _ _ _
theorem slot_modSlot_ne (w : W) (n m : Nat) (f : Slot → Slot) (h : m ≠ n) : (w.modSlot n f).d.slot m = w.d.slot m := tget_tmod_other _ _ _ _ _ h

theorem event_bist (w : W) (t status detail srcKind srcId info : Nat) : (w.event t status detail srcKind srcId info).d.bist = w.d.bist := by
  obtain ⟨_, _, _, h⟩ := hostOnly_event w t status detail srcKind srcId info
  rw [h]

/-! ### Slice commands (R404 to R406) -/

/-- An accepted slice is later than each that has been accepted. -/
theorem ord_lt_next {l : List (Nat × Slot)} {x : Nat × Slot} (h : x ∈ l) : x.2.ord < l.foldl (fun a x => max a x.2.ord) 0 + 1 := by
  have hmax : ∀ (l : List (Nat × Slot)) (a : Nat), a ≤ l.foldl (fun a x => max a x.2.ord) a ∧
      ∀ x ∈ l, x.2.ord ≤ l.foldl (fun a x => max a x.2.ord) a := by
    intro l
    induction l with
    | nil => simp
    | cons y l ih =>
      intro a
      obtain ⟨hle, hall⟩ := ih (max a y.2.ord)
      refine ⟨by simp only [List.foldl_cons]; omega, fun x hx => ?_⟩
      rcases List.mem_cons.1 hx with rfl | hx
      · simp only [List.foldl_cons]
        omega
      · exact hall x hx
  exact Nat.lt_succ_of_le ((hmax l 0).2 x h)

/-- What the registers of self-test, which only the PF may write, do. -/
theorem bistWrite_runs {s : State} {c : Instr} {off : Nat} {f : W → W} {u : W} (hhost : s.dev.hostReach 0 = true) (hrun : s.dev.running = true)
    (hexec : exec c s = .next (s.commit (s.w.pfWrite 0 off fun w _ => f w))) (hu : f s.w = u) : Runs c s u :=
  runs_settle (hexec.trans (by rw [pfWrite_reaches off _ hhost hrun, hu]))

section

variable {s : State} {n : Nat} (hhost : s.dev.hostReach 0 = true) (hrun : s.dev.running = true) (hn : n < 16)

include hhost hrun hn

theorem bistSliceCmd_runs {v : Nat} (hv : v < 2 ^ 64) {u : W} (hu : s.w.sliceCmd n v = u) : Runs (.bistSliceCmd 0 n v) s u := by
  refine bistWrite_runs (off := bistOff (64 * n)) (f := fun w => w.sliceCmd n (v % 2 ^ 64)) hhost hrun ?_ (by rw [Nat.mod_eq_of_lt hv, hu])
  show Host.Outcome.next (s.commit (if n ≥ 16 then _ else _)) = _
  rw [if_neg (by omega)]

theorem sliceCancel_runs {u : W} (hu : s.w.sliceCmd n 0 = u) : Runs (.sliceCancel 0 n) s u := by
  refine bistWrite_runs (off := bistOff (64 * n)) (f := fun w => w.sliceCmd n 0) hhost hrun ?_ hu
  show Host.Outcome.next (s.commit (if n ≥ 16 then _ else _)) = _
  rw [if_neg (by omega)]

end

/-- Slot `n` accepts the command `v`, or says why not. -/
theorem sliceCmd_free {w : W} {n : Nat} (h : (w.d.slot n).st = 0 ∨ (w.d.slot n).st = 3) (v : Nat) : w.sliceCmd n v =
    w.modSlot n fun S => if w.d.sliceRefuse v = 0
      then { st := 1, cmd := v, log := S.log, logAt := S.log, freq := w.d.bist.marginF, ord := w.d.bist.slots.foldl (fun a x => max a x.2.ord) 0 + 1 }
      else { st := 3, refuse := w.d.sliceRefuse v, log := S.log } :=
  (if_neg (by omega)).trans (if_neg (by omega))

theorem sliceCmd_running {w : W} {n : Nat} (h : (w.d.slot n).st = 2) (v : Nat) : w.sliceCmd n v = w := if_pos h

theorem sliceCmd_cancels {w : W} {n : Nat} (h : (w.d.slot n).st = 1) : w.sliceCmd n 0 = w.modSlot n fun S => { S with st := 3, result := 3 } :=
  (if_neg (by omega)).trans ((if_pos h).trans (if_pos rfl))

/-! ### The start of a slice (R405, R408) -/

/-- `v` is `w` with other targets and grants. -/
def PowerOnly (w v : W) : Prop := ∃ P, v = { w with d := { w.d with power := P } }

theorem PowerOnly.refl (w : W) : PowerOnly w w := ⟨_, rfl⟩

theorem PowerOnly.trans {a b c : W} (h : PowerOnly a b) (k : PowerOnly b c) : PowerOnly a c := by
  obtain ⟨_, rfl⟩ := h
  obtain ⟨_, rfl⟩ := k
  exact ⟨_, rfl⟩

theorem powerOnly_modPower (w : W) (f : Power → Power) : PowerOnly w (w.modPower f) := ⟨_, rfl⟩

theorem powerOnly_each {α : Type} {l : List α} {f : W → α → W} (h : ∀ w, ∀ x ∈ l, PowerOnly w (f w x)) (w : W) : PowerOnly w (w.each l f) :=
  each_related .refl .trans h w

/-- The slice of slot `n` runs; the spare that it tests has power. -/
def sliceOpened (w : W) (n : Nat) : W :=
  let v := w.modSlot n fun S => { S with st := 2 }
  if scBlock (v.d.slot n).cmd = 1 && scUnit (v.d.slot n).cmd = 8 then v.modDie (scSite (v.d.slot n).cmd) fun D => { D with spareOn := true } else v

theorem exec_sliceStart {s : State} {n : Nat} (hrun : s.dev.running = true) (hready : s.dev.sliceReady n = true) :
    ∃ P, exec (.sliceStart n) s =
      .next (s.commit { sliceOpened s.w n with d := { (sliceOpened s.w n).d with power := P } }) := by
  have hmay : (s.w.d.running && s.w.d.sliceReady n) = true := by
    show (s.dev.running && s.dev.sliceReady n) = true
    rw [hrun, hready]
    rfl
  obtain ⟨P, hP⟩ := powerOnly_each (l := (sliceOpened s.w n).d.testedIslands)
    (f := fun w (key, f) => w.modPower fun P =>
      { P with isl := tmod {} P.isl key fun I => ({ I with grant := ((islKind (key % 16)).map maxGrant).getD I.grant } : Isl).aim f })
    (fun w x _ => powerOnly_modPower w _) (sliceOpened s.w n)
  exact ⟨P, congrArg (fun w => Host.Outcome.next (s.commit w)) ((if_pos hmay).trans hP)⟩

theorem sliceOpened_rest (w : W) (n : Nat) : (sliceOpened w n).ops = w.ops ∧ (sliceOpened w n).d = { w.d with
    bist := { w.d.bist with slots := tmod {} w.d.bist.slots n fun S => { S with st := 2 } }, dies := (sliceOpened w n).d.dies } := by
  unfold sliceOpened
  dsimp only
  split <;> exact ⟨rfl, rfl⟩

theorem sliceOpened_die (w : W) (n i : Nat) : (sliceOpened w n).d.die i = { w.d.die i with spareOn := ((sliceOpened w n).d.die i).spareOn } := by
  unfold sliceOpened
  dsimp only
  split
  · by_cases hi : i = scSite ((w.modSlot n fun S => { S with st := 2 }).d.slot n).cmd
    · rw [hi, die_modDie]
      rfl
    · rw [die_modDie_ne _ _ _ _ hi]
      rfl
  · rfl

/-! ### The end of a slice (R405 to R411, R414) -/

theorem HostOnly.bist {w v : W} (h : HostOnly w v) : v.d.bist = w.d.bist := by
  obtain ⟨_, _, _, rfl⟩ := h
  rfl

theorem hostOnly_complete (w : W) (r : Nat) (c : Compl) : HostOnly w (w.complete r c) := by
  unfold W.complete
  dsimp only
  split
  · exact .refl w
  · next D _ =>
    have hfreed : HostOnly w ((w.modRing r fun R => { R with desc := none }).modRing (w.d.ring r).cq fun Q => { Q with reserved := Q.reserved - 1 }) :=
      (hostOnly_modRing w _ _).trans (hostOnly_modRing _ _ _)
    split
    · exact hfreed
    · refine hfreed.trans ?_
      split
      · exact ((hostOnly_emit _ _).trans (hostOnly_modRing _ _ _)).trans (hostOnly_raiseRing _ _)
      · exact (hostOnly_emit _ _).trans (hostOnly_modRing _ _ _)

theorem each_bist {α : Type} (l : List α) (f : W → α → W) (h : ∀ w x, (f w x).d.bist = w.d.bist) (w : W) : (w.each l f).d.bist = w.d.bist :=
  each_related (R := fun w v => v.d.bist = w.d.bist) (fun _ => rfl) (fun h k => k.trans h) (fun w x _ => h w x) w

theorem sliceReinit_bist (w : W) (v : Nat) : (w.sliceReinit v).d.bist = w.d.bist := by
  unfold W.sliceReinit
  dsimp only
  split
  case h_2 =>
    refine (each_bist _ _ ?banks _).trans ((modDie_bist _ _ _).trans ?loads)
    case banks => exact fun _ _ => rfl
    case loads =>
      split
      · exact each_bist _ _ (fun w r => (hostOnly_complete (w.dropReads fun f => f == .descData r) r _).bist) w
      · rfl
  case h_4 =>
    split
    · rfl
    · apply each_bist
      exact fun _ _ => rfl
  case h_6 =>
    split
    · apply each_bist
      exact fun _ _ => rfl
    · rfl
  all_goals rfl

/-- The failures of a slice's test are all repaired (R414). -/
def sliceFixes (w : W) (n st : Nat) (results : List TestRes) : Bool :=
  let v := (w.d.slot n).cmd
  st = 0 && scRepair v && (scBlock v == 4 || scBlock v == 5 || scBlock v == 7) && (results.headD {}).result == 2 &&
    repairsFit (w.d.fuseMem ++ w.d.bist.soft ++ sliceGranules v (results.filter (·.result ≠ 0)))

/-- What RESULT says of the slice. -/
def sliceVerdict (w : W) (n st : Nat) (results : List TestRes) : Nat :=
  if st ≠ 0 then st else if (results.filter (·.result ≠ 0)).isEmpty then 0 else if sliceFixes w n st results then 2 else 1

/-- The end of a slice writes its verdict and how many results it logged, and adds what it repaired to the soft repairs. -/
theorem sliceEnd_bist (w : W) (n st : Nat) (results : List TestRes) (capture : Bytes) : ∃ k x, (w.sliceEnd n st results capture).d.bist =
      { w.d.bist with
        slots := tmod {} w.d.bist.slots n fun S => { S with st := 3, result := sliceVerdict w n st results, nlog := k, res := x }
        soft := if sliceFixes w n st results then
          distinctRepairs (w.d.bist.soft ++ sliceGranules (w.d.slot n).cmd (results.filter (·.result ≠ 0))) else w.d.bist.soft } ∧
      (results.filter (·.result ≠ 0) = [] → k = 0) := by
  unfold W.sliceEnd
  simp only [event_bist, emit_bist, modBist_bist, modSlot_bist, sliceReinit_bist, ite_self, apply_ite (fun w : W => w.d.bist)]
  change ∃ k x, (if sliceFixes w n st results = true then _ else _) = _ ∧ _
  split
  · next hfix =>
    refine ⟨_, _, rfl, fun h => ?_⟩
    simp only [h, List.map_nil, sliceGranules, distinctRepairs, ite_self, List.append_nil, List.take_nil, List.length_nil]
  · next hfix =>
    refine ⟨_, _, rfl, fun h => ?_⟩
    simp only [h, List.map_nil, sliceGranules, distinctRepairs, ite_self, List.append_nil, List.take_nil, List.length_nil]

theorem sliceEnd_slot (w : W) (n st : Nat) (results : List TestRes) (capture : Bytes) :
    ((w.sliceEnd n st results capture).d.slot n).st = 3 ∧ ((w.sliceEnd n st results capture).d.slot n).result = sliceVerdict w n st results ∧
      (results.filter (·.result ≠ 0) = [] → ((w.sliceEnd n st results capture).d.slot n).nlog = 0) := by
  obtain ⟨k, x, hbist, hnone⟩ := sliceEnd_bist w n st results capture
  have hslot : (w.sliceEnd n st results capture).d.slot n = { w.d.slot n with st := 3, result := sliceVerdict w n st results, nlog := k, res := x } := by
    unfold Dev.slot
    rw [hbist]
    dsimp only
    exact tget_tmod_same _ _ _ _
  rw [hslot]
  exact ⟨rfl, rfl, hnone⟩

theorem sliceEnd_soft {w : W} {n st : Nat} {results : List TestRes} (h : sliceFixes w n st results = false) (capture : Bytes) :
    (w.sliceEnd n st results capture).d.bist.soft = w.d.bist.soft := by
  obtain ⟨k, x, hbist, -⟩ := sliceEnd_bist w n st results capture
  rw [hbist, h]
  rfl

theorem sliceVerdict_stopped (w : W) (n : Nat) {st : Nat} (h : st ≠ 0) (results : List TestRes) : sliceVerdict w n st results = st := if_pos h

theorem sliceVerdict_passed (w : W) (n : Nat) {results : List TestRes} (h : results.filter (·.result ≠ 0) = []) : sliceVerdict w n 0 results = 0 :=
  (if_neg (by simp)).trans (if_pos (by rw [h]; rfl))

theorem sliceVerdict_failed {w : W} {n : Nat} {results : List TestRes} (h : ∃ x ∈ results, x.result ≠ 0) (hfix : sliceFixes w n 0 results = false) :
    sliceVerdict w n 0 results = 1 := by
  refine (if_neg (by simp)).trans ((if_neg ?_).trans (if_neg (by simp [hfix])))
  simpa using h

theorem sliceFixes_unasked {w : W} {n : Nat} (h : scRepair (w.d.slot n).cmd = false) (st : Nat) (results : List TestRes) :
    sliceFixes w n st results = false := by
  simp [sliceFixes, h]

/-- A test that found nothing wrong has nothing to repair. -/
theorem sliceFixes_passed (w : W) (n st : Nat) {results : List TestRes} (h : ∀ x ∈ results, x.result = 0) : sliceFixes w n st results = false := by
  have hhead : ((results.headD {}).result == 2) = false := by
    cases results with
    | nil => rfl
    | cons x l => exact beq_false_of_ne (by rw [show ((x :: l).headD {}).result = 0 from h x List.mem_cons_self]; decide)
  unfold sliceFixes
  dsimp only
  rw [hhead, Bool.and_false, Bool.false_and]

/-- The end of a slice touches the dies where it re-initialises its block alone. -/
theorem sliceEnd_die (w : W) (n st : Nat) (results : List TestRes) (capture : Bytes) (i : Nat) :
    (w.sliceEnd n st results capture).d.die i = (w.sliceReinit (w.d.slot n).cmd).d.die i := by
  have hevent (w : W) (t status detail srcKind srcId info : Nat) : (w.event t status detail srcKind srcId info).d.die i = w.d.die i := by
    obtain ⟨_, _, _, h⟩ := hostOnly_event w t status detail srcKind srcId info
    rw [h]
    rfl
  have hemit (w : W) (o : Out) : (w.emit o).d.die i = w.d.die i := rfl
  have hbist (w : W) (f : Bist → Bist) : (w.modBist f).d.die i = w.d.die i := rfl
  have hslot (w : W) (n : Nat) (f : Slot → Slot) : (w.modSlot n f).d.die i = w.d.die i := rfl
  unfold W.sliceEnd
  simp only [hevent, hemit, hbist, hslot, ite_self, apply_ite (fun w : W => w.d.die i)]

theorem sliceReinit_tokens {v : Nat} (h : scBlock v = 3) (w : W) : ((w.sliceReinit v).d.die (scSite v)).tokens = [] := by
  unfold W.sliceReinit
  dsimp only
  rw [h]
  exact congrArg Die.tokens (die_modDie w (scSite v) fun D => { D with tokens := [] })

section

variable {s : State} {n : Nat} (h : (s.dev.slot n).st = 2)

include h

theorem sliceComplete_runs (results : List TestRes) (errs : List (Nat × BlkErr)) (moved : Bool) : ∃ capture, Runs (.sliceComplete n results errs moved) s
    (s.w.sliceEnd n (if moved || s.dev.offPoint n then 3 else 0) (s.dev.sliceFound n s.dev.bist.patterns.length results errs) capture) :=
  ⟨_, runs_settle (congrArg (fun w => Host.Outcome.next (s.commit w)) (if_pos h))⟩

theorem sliceBudget_runs (results : List TestRes) (errs : List (Nat × BlkErr)) (run : Nat) : ∃ capture, Runs (.sliceBudget n results errs run) s
    (s.w.sliceEnd n 4 (s.dev.sliceFound n run results errs) capture) :=
  ⟨_, runs_settle (congrArg (fun w => Host.Outcome.next (s.commit w)) (if_pos h))⟩

theorem sliceComplete_onPoint (hpoint : s.dev.offPoint n = false) (results : List TestRes) (errs : List (Nat × BlkErr)) : ∃ capture,
    Runs (.sliceComplete n results errs false) s (s.w.sliceEnd n 0 (s.dev.sliceFound n s.dev.bist.patterns.length results errs) capture) := by
  obtain ⟨capture, hruns⟩ := sliceComplete_runs h results errs false
  rw [hpoint] at hruns
  exact ⟨capture, hruns⟩

end

/-! ### Pattern packs and the repair list (R382, R415) -/

section

variable {s : State} {b : Bytes} (hst : s.w.d.bist.packSt = 1)

include hst

theorem packLoadComplete_installs (hread : (s.w.d.hread s.w.d.bist.packTag).bind (·.res) = some (.ok b)) (hok : s.w.packResult b = 0) :
    Exactly .packLoadComplete s ((s.w.dropRead s.dev.bist.packTag).modBist fun B =>
      { B with packSt := 2, packResult := 0, pack := b, packVer := fld b 8 4 }) := by
  show execPackLoadComplete s = _
  unfold execPackLoadComplete State.run
  simp only [hst, hread, hok, ne_eq, not_true, ite_false]
  rfl

theorem packLoadComplete_refuses {k : Nat} (hread : (s.w.d.hread s.w.d.bist.packTag).bind (·.res) = some (.ok b)) (hbad : s.w.packResult b = k) (hk : k ≠ 0) :
    Exactly .packLoadComplete s ((s.w.dropRead s.dev.bist.packTag).modBist fun B =>
      { B with packSt := if B.pack.isEmpty then 0 else 2, packResult := k }) := by
  obtain ⟨j, rfl⟩ := Nat.exists_eq_succ_of_ne_zero hk
  show execPackLoadComplete s = _
  unfold execPackLoadComplete State.run
  simp only [hst, hread, hbad, ne_eq, not_true, ite_false]
  rfl

theorem packLoadComplete_fails {det : Nat} (hread : (s.w.d.hread s.w.d.bist.packTag).bind (·.res) = some (.err det)) :
    Exactly .packLoadComplete s ((s.w.dropRead s.dev.bist.packTag).modBist fun B =>
      { B with packSt := if B.pack.isEmpty then 0 else 2, packResult := 4 }) := by
  show execPackLoadComplete s = _
  unfold execPackLoadComplete State.run
  simp only [hst, hread, ne_eq, not_true, ite_false]
  rfl

end

/-- Entries that repair memory alone put no array or die out of service. -/
theorem applyRepairs_memory {l : List Repair} (h : ∀ r ∈ l, 3 ≤ r.kind) (w : W) : w.applyRepairs l = w := by
  refine each_eq_self fun r hr => ?_
  have hkind := h r hr
  split
  · omega
  · omega
  · rfl

section

variable {s : State} {b : Bytes} (hst : s.w.d.bist.repSt = 1)

include hst

theorem repairListLoadComplete_applies (hread : (s.w.d.hread s.w.d.bist.repTag).bind (·.res) = some (.ok b)) (hok : s.w.repairResult b = 0)
    (hmem : ∀ e ∈ listEntries b, 3 ≤ (repairOf e).kind) :
    Exactly .repairListLoadComplete s ((s.w.dropRead s.dev.bist.repTag).modBist fun B => { B with
      repSt := 2, repResult := 0, repCount := fld b 6 2, soft := distinctRepairs ((listEntries b).map repairOf) }) := by
  have hkind : ∀ r ∈ (listEntries b).map repairOf, 3 ≤ r.kind := by simpa using hmem
  have hall : ((listEntries b).map repairOf).filter (fun r => decide (3 ≤ r.kind)) = (listEntries b).map repairOf :=
    List.filter_eq_self.2 fun r hr => decide_eq_true (hkind r hr)
  have hcount : ((listEntries b).map repairOf).length = fld b 6 2 := by simp [listEntries]
  show execRepairListLoadComplete s = _
  unfold execRepairListLoadComplete State.run
  simp only [hst, hread, hok, ne_eq, not_true, ite_false, applyRepairs_memory hkind, hall, hcount]
  rfl

theorem repairListLoadComplete_refuses {k : Nat} (hread : (s.w.d.hread s.w.d.bist.repTag).bind (·.res) = some (.ok b)) (hbad : s.w.repairResult b = k)
    (hk : k ≠ 0) : Exactly .repairListLoadComplete s ((s.w.dropRead s.dev.bist.repTag).modBist fun B => { B with repSt := B.repPrev, repResult := k }) := by
  obtain ⟨j, rfl⟩ := Nat.exists_eq_succ_of_ne_zero hk
  show execRepairListLoadComplete s = _
  unfold execRepairListLoadComplete State.run
  simp only [hst, hread, hbad, ne_eq, not_true, ite_false]
  rfl

theorem repairListLoadComplete_fails {det : Nat} (hread : (s.w.d.hread s.w.d.bist.repTag).bind (·.res) = some (.err det)) :
    Exactly .repairListLoadComplete s ((s.w.dropRead s.dev.bist.repTag).modBist fun B => { B with repSt := B.repPrev, repResult := 4 }) := by
  show execRepairListLoadComplete s = _
  unfold execRepairListLoadComplete State.run
  simp only [hst, hread, ne_eq, not_true, ite_false]
  rfl

end

section

variable {s : State} {v : Nat} (hhost : s.dev.hostReach 0 = true) (hrun : s.dev.running = true)

include hhost hrun

theorem bistPackCmd_runs {u : W} (hu : s.w.packCmd v = u) : Runs (.bistPackCmd 0 v) s u :=
  bistWrite_runs (f := fun w => w.packCmd v) hhost hrun rfl hu

theorem bistRepairCmd_runs {u : W} (hu : s.w.repairCmd v = u) : Runs (.bistRepairCmd 0 v) s u :=
  bistWrite_runs (f := fun w => w.repairCmd v) hhost hrun rfl hu

theorem bistFuseCmd_runs (hv : v < 2 ^ 64) {u : W} (hu : s.w.fuseCmd s.fuses.repair v = u) : Runs (.bistFuseCmd 0 v) s u :=
  bistWrite_runs (f := fun w => w.fuseCmd s.fuses.repair (v % 2 ^ 64)) hhost hrun rfl (by rw [Nat.mod_eq_of_lt hv, hu])

end

theorem packCmd_busy {w : W} (h : w.d.bist.packSt = 1 ∨ w.d.packInUse = true) (v : Nat) : w.packCmd v = w.modBist fun B => { B with packResult := 5 } :=
  if_pos (by simpa using h)

theorem packCmd_loads {w : W} {v : Nat} (hst : w.d.bist.packSt ≠ 1) (hfree : w.d.packInUse = false) (hlo : 0xA0 ≤ v) (hhi : v ≤ 0x400000) :
    w.packCmd v = (w.hostRead w.d.bist.packAddr v .pack).2.modBist fun B => { B with packSt := 1, packLen := v, packTag := w.d.hub.readTag } := by
  unfold W.packCmd
  rw [Nat.mod_eq_of_lt (by omega : v < 2 ^ 32), if_neg (by simp [hst, hfree]), if_neg (by simp; omega)]
  rfl

theorem repairCmd_busy {w : W} (h : w.d.bist.repSt = 1 ∨ w.d.allEmpty = false) (v : Nat) : w.repairCmd v = w.modBist fun B => { B with repResult := 5 } := by
  refine if_pos ?_
  rcases h with h | h <;> simp [h]

theorem repairCmd_loads {w : W} {v : Nat} (hst : w.d.bist.repSt ≠ 1) (hrun : w.d.running = true) (hempty : w.d.allEmpty = true) (hlo : 16 ≤ v)
    (hhi : v ≤ 16 + 8 * 4096) : w.repairCmd v =
      (w.hostRead w.d.bist.repAddr v .repairList).2.modBist fun B => { B with repPrev := B.repSt, repSt := 1, repLen := v, repTag := w.d.hub.readTag } := by
  unfold W.repairCmd
  rw [Nat.mod_eq_of_lt (by omega : v < 2 ^ 32), if_neg (by simp [hst, hrun, hempty]), if_neg (by simp; omega)]
  rfl

/-! ### Fuse repair (R416) -/

theorem fuseCmd_barred {w : W} (hbusy : w.d.bist.fuseBusy = false) (h : ¬ ((w.d.sec.lc = 0 ∨ w.d.sec.lc = 3) ∧ w.d.allEmpty = true)) (repair v : Nat) :
    w.fuseCmd repair v = w.modBist fun B => { B with fuseResult := 1 } := by
  refine (if_neg (by simp [hbusy])).trans (if_pos ?_)
  simpa [not_and_or, imp_iff_not_or] using h

section

variable {w : W} (hbusy : w.d.bist.fuseBusy = false) (h : (w.d.sec.lc = 0 ∨ w.d.sec.lc = 3) ∧ w.d.allEmpty = true)

include hbusy h

theorem fuseCmd_full {repair : Nat} (hfull : fuseNext repair = none) (v : Nat) : w.fuseCmd repair v = w.modBist fun B => { B with fuseResult := 2 } := by
  have hmay : ¬ (!(w.d.sec.lc == 0 || w.d.sec.lc == 3) || !w.d.allEmpty) = true := by simpa [or_iff_not_imp_left] using h
  refine (if_neg (by simp [hbusy])).trans ((if_neg hmay).trans ?_)
  rw [hfull]

theorem fuseCmd_entry {repair k : Nat} (hnext : fuseNext repair = some k) (v : Nat) : w.fuseCmd repair v =
    if w.d.repairOk v then (w.modBist fun B => { B with fuseBusy := true, fuseResult := 0 }).modSec fun S => { S with pulses := S.pulses ++ [.repair k v] }
      else w.modBist fun B => { B with fuseResult := 3 } := by
  have hmay : ¬ (!(w.d.sec.lc == 0 || w.d.sec.lc == 3) || !w.d.allEmpty) = true := by simpa [or_iff_not_imp_left] using h
  refine (if_neg (by simp [hbusy])).trans ((if_neg hmay).trans ?_)
  rw [hnext]
  cases w.d.repairOk v <;> rfl

end

/-- Settles O59. -/
theorem selfTest : Obligations.SelfTest := by
  refine ⟨fun s n v hhost hrun hn hv => ⟨fun hfree => ⟨fun hok => ?accepted, fun hbad => ?refused⟩, fun hst => ⟨?_, ?_⟩, fun hst => ?cancels⟩,
    fun s n hrun hready => ?starts, fun s n hst results errs => ⟨fun hpoint hall => ?passes, fun hpoint hrep hfound => ?fails, fun moved hoff => ?moves,
      fun run => ?budget, fun moved hblock => ?tokens⟩,
    fun s v hhost hrun hv => ⟨fun h => ?packBusy, fun hst hfree hlo hhi => ?packLoads, fun h => ?listBusy, fun hst hempty hlo hhi => ?listLoads⟩,
    fun s res => ⟨fun hst hread => ⟨?packIn, ?packBad⟩, fun hst hread => ⟨?listIn, ?listBad⟩⟩,
    fun s v hhost hrun hv hbusy => ⟨fun hbar => ?barred, fun hmay hfull => ?full, fun k hmay hnext => ⟨fun hbad => ?badEntry, fun hok => ?pulse⟩⟩⟩
  case accepted =>
    have hcmd := sliceCmd_free (w := s.w) hfree v
    rw [show s.w.d.sliceRefuse v = 0 from hok] at hcmd
    refine ⟨_, bistSliceCmd_runs hhost hrun hn hv hcmd, rfl, rfl, ?_⟩
    rw [slot_modSlot]
    exact ⟨rfl, rfl, rfl, rfl, fun x hx => ord_lt_next hx, fun m hm => slot_modSlot_ne _ _ _ _ hm⟩
  case refused =>
    exact bistSliceCmd_runs hhost hrun hn hv ((sliceCmd_free hfree v).trans (congrArg _ (funext fun S => if_neg hbad)))
  · exact bistSliceCmd_runs hhost hrun hn hv (sliceCmd_running hst v)
  · exact sliceCancel_runs hhost hrun hn (sliceCmd_running hst 0)
  case cancels => exact sliceCancel_runs hhost hrun hn (sliceCmd_cancels hst)
  case starts =>
    obtain ⟨P, hexec⟩ := exec_sliceStart hrun hready
    obtain ⟨hops, hrest⟩ := sliceOpened_rest s.w n
    refine ⟨_, hexec, rfl, rfl, ?_, ?_, fun i => sliceOpened_die s.w n i⟩
    · show s.mem.applyAll (sliceOpened s.w n).ops = s.mem
      rw [hops]
      rfl
    · exact congrArg (fun d : Dev => { d with power := P }) hrest
  case passes =>
    obtain ⟨capture, hruns⟩ := sliceComplete_onPoint hst hpoint results errs
    have hnone : (s.dev.sliceFound n s.dev.bist.patterns.length results errs).filter (·.result ≠ 0) = [] :=
      List.filter_eq_nil_iff.2 fun x hx => by simp [hall x hx]
    obtain ⟨hdone, hverdict, hlog⟩ := sliceEnd_slot s.w n 0 _ capture
    exact ⟨_, hruns, hdone, hverdict.trans (sliceVerdict_passed _ _ hnone), hlog hnone, sliceEnd_soft (sliceFixes_passed _ _ _ hall) capture⟩
  case fails =>
    obtain ⟨capture, hruns⟩ := sliceComplete_onPoint hst hpoint results errs
    have hfix := sliceFixes_unasked (w := s.w) hrep 0 (s.dev.sliceFound n s.dev.bist.patterns.length results errs)
    obtain ⟨hdone, hverdict, -⟩ := sliceEnd_slot s.w n 0 _ capture
    exact ⟨_, hruns, hdone, hverdict.trans (sliceVerdict_failed hfound hfix), sliceEnd_soft hfix capture⟩
  case moves =>
    obtain ⟨capture, hruns⟩ := sliceComplete_runs hst results errs moved
    rw [if_pos (by simpa using hoff)] at hruns
    obtain ⟨hdone, hverdict, -⟩ := sliceEnd_slot s.w n 3 _ capture
    exact ⟨_, hruns, hdone, hverdict⟩
  case budget =>
    obtain ⟨capture, hruns⟩ := sliceBudget_runs hst results errs run
    obtain ⟨hdone, hverdict, -⟩ := sliceEnd_slot s.w n 4 _ capture
    exact ⟨_, hruns, hdone, hverdict⟩
  case tokens =>
    obtain ⟨capture, hruns⟩ := sliceComplete_runs hst results errs moved
    exact ⟨_, hruns, (congrArg Die.tokens (sliceEnd_die _ _ _ _ _ _)).trans (sliceReinit_tokens hblock s.w)⟩
  case packBusy => exact bistPackCmd_runs hhost hrun (packCmd_busy h v)
  case packLoads => exact bistPackCmd_runs hhost hrun (packCmd_loads hst hfree hlo hhi)
  case listBusy => exact bistRepairCmd_runs hhost hrun (repairCmd_busy h v)
  case listLoads => exact bistRepairCmd_runs hhost hrun (repairCmd_loads hst hrun hempty hlo hhi)
  case packIn =>
    rintro b rfl hok
    exact packLoadComplete_installs hst hread hok
  case packBad =>
    rintro k (⟨b, rfl, hbad, hk⟩ | ⟨⟨det, rfl⟩, rfl⟩)
    · exact packLoadComplete_refuses hst hread hbad hk
    · exact packLoadComplete_fails hst hread
  case listIn =>
    rintro b rfl hok hmem
    exact repairListLoadComplete_applies hst hread hok hmem
  case listBad =>
    rintro k (⟨b, rfl, hbad, hk⟩ | ⟨⟨det, rfl⟩, rfl⟩)
    · exact repairListLoadComplete_refuses hst hread hbad hk
    · exact repairListLoadComplete_fails hst hread
  case barred => exact bistFuseCmd_runs hhost hrun hv (fuseCmd_barred hbusy hbar _ v)
  case full => exact bistFuseCmd_runs hhost hrun hv (fuseCmd_full hbusy hmay hfull v)
  case badEntry => exact bistFuseCmd_runs hhost hrun hv ((fuseCmd_entry hbusy hmay hnext v).trans (if_neg (by simp [hbad])))
  case pulse => exact bistFuseCmd_runs hhost hrun hv ((fuseCmd_entry hbusy hmay hnext v).trans (if_pos hok))

end Sys2Proof.Laws

/-! ## The power budget (R347 to R349, R352) -/

namespace Sys2Proof.Laws

open Sys2Proof.Machine Sys2Proof.Claims

theorem sumOf_eq_sum (l : List Nat) : sumOf l = l.sum := List.sum_eq_foldl.symm

/-- What is left of `x` divided by weight, in whole units, is less than one unit each. -/
theorem sum_mul_div_bounds (x : Nat) {t : Nat} (ht : 0 < t) (ws : List Nat) :
    (ws.map fun w => x * w / t).sum * t ≤ x * ws.sum ∧ x * ws.sum ≤ ((ws.map fun w => x * w / t).sum + ws.length) * t := by
  induction ws with
  | nil => simp
  | cons w ws ih =>
    obtain ⟨hlo, hhi⟩ := ih
    have hdiv := Nat.div_add_mod' (x * w) t
    have hmod := Nat.mod_lt (x * w) ht
    have hpos := Nat.zero_le (x * w % t)
    simp only [List.map_cons, List.sum_cons, List.length_cons]
    constructor <;> linarith

theorem sum_mul_div_le {x : Nat} {ws : List Nat} (ht : 0 < ws.sum) : (ws.map fun w => x * w / ws.sum).sum ≤ x :=
  Nat.le_of_mul_le_mul_right (sum_mul_div_bounds x ht ws).1 ht

theorem le_sum_mul_div {x : Nat} {ws : List Nat} (ht : 0 < ws.sum) : x ≤ (ws.map fun w => x * w / ws.sum).sum + ws.length :=
  Nat.le_of_mul_le_mul_right (sum_mul_div_bounds x ht ws).2 ht

/-! ### Shares of the polders (R349) -/

theorem giveOnes_keys (n : Nat) (l : List (Nat × Nat)) : (giveOnes n l).map Prod.fst = l.map Prod.fst := by
  induction l generalizing n with
  | nil => simp [giveOnes]
  | cons x l ih =>
    cases n with
    | zero => rfl
    | succ n => exact congrArg (x.1 :: ·) (ih n)

theorem giveOnes_sum {n : Nat} {l : List (Nat × Nat)} (h : n ≤ l.length) : ((giveOnes n l).map Prod.snd).sum = (l.map Prod.snd).sum + n := by
  induction l generalizing n with
  | nil => simp_all [giveOnes]
  | cons x l ih =>
    cases n with
    | zero => rfl
    | succ n =>
      have hrest := ih (Nat.le_of_succ_le_succ h)
      simp only [giveOnes, List.map_cons, List.sum_cons, hrest]
      omega

theorem shares_keys (d : Dev) : d.shares.map Prod.fst = d.formed :=
  (giveOnes_keys _ _).trans (by rw [List.map_map]; exact List.map_id _)

/-- What polders' shares and unallotted dies do not draw of the budget is nothing (R347, R349). -/
theorem shares_sum {d : Dev} (hsome : d.formed ≠ []) (hweight : ∀ p ∈ d.formed, 0 < d.power.weightOf p) :
    let idle := d.computeSites.filter fun s => (d.sitePol s).isNone
    let held := sumOf (idle.map d.floorOf) + d.testExtra idle
    let floors := sumOf (d.formed.map fun p => sumOf ((d.polSites p).map d.floorOf))
    reserve d.variant + held + floors ≤ d.power.cap → sumOf (d.shares.map Prod.snd) + held + reserve d.variant = d.power.cap := by
  intro idle held floors hfit
  set rest := d.power.cap - reserve d.variant - held - floors with hrest
  set ws := d.formed.map d.power.weightOf with hws
  have htotal : 0 < ws.sum := by
    obtain ⟨p, l, hl⟩ := List.exists_cons_of_ne_nil hsome
    have hp := hweight p (by rw [hl]; exact List.mem_cons_self)
    rw [hws, hl, List.map_cons, List.sum_cons]
    omega
  have hparts : (d.formed.map fun p => rest * d.power.weightOf p / ws.sum) = ws.map fun w => rest * w / ws.sum := by
    rw [hws, List.map_map]
    rfl
  have hlen : ws.length = d.formed.length := List.length_map _
  have hlo := sum_mul_div_le (x := rest) htotal
  have hhi := le_sum_mul_div (x := rest) htotal
  have hshares : d.shares = giveOnes (rest - (ws.map fun w => rest * w / ws.sum).sum)
      (d.formed.map fun p => (p, sumOf ((d.polSites p).map d.floorOf) + rest * d.power.weightOf p / ws.sum)) := by
    rw [← hparts, ← sumOf_eq_sum, ← sumOf_eq_sum]
    rfl
  have hraw : ((d.formed.map fun p => (p, sumOf ((d.polSites p).map d.floorOf) + rest * d.power.weightOf p / ws.sum)).map Prod.snd).sum =
      floors + (ws.map fun w => rest * w / ws.sum).sum := by
    rw [List.map_map, ← hparts, show floors = _ from sumOf_eq_sum _]
    exact List.sum_map_add
  rw [sumOf_eq_sum, hshares, giveOnes_sum (by rw [List.length_map]; omega), hraw]
  omega

/-! ### Grants (R352) -/

theorem give_bounds (left : Nat) {ds ws : List Nat} (h : List.Forall₂ (· ≤ ·) ds ws) :
    List.Forall₂ (· ≤ ·) (shareOut.give left ds ws) ws ∧ (shareOut.give left ds ws).sum ≤ ds.sum + left := by
  induction h generalizing left with
  | nil => exact ⟨.nil, by simp [shareOut.give]⟩
  | @cons d w ds ws hd hds ih =>
    unfold shareOut.give
    split
    · next hmore =>
      obtain ⟨hle, hsum⟩ := ih (left - 1)
      exact ⟨.cons (by omega) hle, by simp only [List.sum_cons]; omega⟩
    · obtain ⟨hle, hsum⟩ := ih left
      exact ⟨.cons hd hle, by simp only [List.sum_cons]; omega⟩

/-- What is shared out reaches no more than it was divided for, and no one more than its weight. -/
theorem shareOut_bounds {x : Nat} {ws : List Nat} (hx : x ≤ ws.sum) : List.Forall₂ (· ≤ ·) (shareOut x ws) ws ∧ (shareOut x ws).sum ≤ x := by
  unfold shareOut
  simp only [sumOf_eq_sum]
  split
  · next hzero => exact ⟨List.forall₂_refl ws, by omega⟩
  · next hpos =>
    have ht : 0 < ws.sum := Nat.pos_of_ne_zero hpos
    have hparts : List.Forall₂ (· ≤ ·) (ws.map fun w => x * w / ws.sum) ws := by
      rw [List.forall₂_map_left_iff, List.forall₂_same]
      exact fun w _ => Nat.div_le_of_le_mul (Nat.mul_le_mul_right w hx)
    obtain ⟨hle, hsum⟩ := give_bounds (x - (ws.map fun w => x * w / ws.sum).sum) hparts
    have := sum_mul_div_le (x := x) ht
    exact ⟨hle, by omega⟩

/-- The grants `gs` lie between `lo` and `hi` of their islands. -/
def Between (lo hi : Want → Nat) (l : List Want) (gs : List Nat) : Prop := List.Forall₂ (fun x g => lo x ≤ g ∧ g ≤ hi x) l gs

theorem Between.mono {lo hi lo' hi' : Want → Nat} {l : List Want} {gs : List Nat} (h : Between lo hi l gs) (hlo : ∀ x ∈ l, lo' x ≤ lo x)
    (hhi : ∀ x ∈ l, hi x ≤ hi' x) : Between lo' hi' l gs := by
  induction h with
  | nil => exact .nil
  | cons hx hrest ih =>
    obtain ⟨hlo₁, hlo⟩ := List.forall_mem_cons.1 hlo
    obtain ⟨hhi₁, hhi⟩ := List.forall_mem_cons.1 hhi
    exact .cons ⟨hlo₁.trans hx.1, hx.2.trans hhi₁⟩ (ih hlo hhi)

theorem between_add {lo hi : Want → Nat} {l : List Want} {gs : List Nat} (h : List.Forall₂ (fun x g => g ≤ hi x - lo x) l gs)
    (hle : ∀ x ∈ l, lo x ≤ hi x) :
    Between lo hi l (List.zipWith (· + ·) (l.map lo) gs) ∧ (List.zipWith (· + ·) (l.map lo) gs).sum = (l.map lo).sum + gs.sum := by
  induction h with
  | nil => exact ⟨.nil, rfl⟩
  | @cons x g l gs hg hgs ih =>
    obtain ⟨hx, hle⟩ := List.forall_mem_cons.1 hle
    obtain ⟨hbetween, hsum⟩ := ih hle
    refine ⟨.cons ⟨Nat.le_add_right _ _, show lo x + g ≤ hi x by omega⟩ hbetween, ?_⟩
    simp only [List.map_cons, List.zipWith_cons_cons, List.sum_cons, hsum]
    omega

/-- Islands that have `lo` share out `x` more, no more than takes them to `hi`. -/
theorem between_shareOut {lo hi : Want → Nat} {l : List Want} {x : Nat} (hle : ∀ y ∈ l, lo y ≤ hi y) (hx : (l.map lo).sum + x ≤ (l.map hi).sum) :
    Between lo hi l (List.zipWith (· + ·) (l.map lo) (shareOut x (List.zipWith (· - ·) (l.map hi) (l.map lo)))) ∧
      (List.zipWith (· + ·) (l.map lo) (shareOut x (List.zipWith (· - ·) (l.map hi) (l.map lo)))).sum ≤ (l.map lo).sum + x := by
  have hgap : List.zipWith (· - ·) (l.map hi) (l.map lo) = l.map fun y => hi y - lo y := by
    rw [List.zipWith_map, List.zipWith_self]
  have hsum : (l.map lo).sum + (l.map fun y => hi y - lo y).sum = (l.map hi).sum := by
    rw [← List.sum_map_add]
    exact congrArg List.sum (List.map_congr_left fun y hy => Nat.add_sub_cancel' (hle y hy))
  obtain ⟨hshare, htotal⟩ := shareOut_bounds (x := x) (ws := l.map fun y => hi y - lo y) (by omega)
  rw [hgap]
  have hgs : List.Forall₂ (fun y g => g ≤ hi y - lo y) l (shareOut x (l.map fun y => hi y - lo y)) := by
    rw [List.forall₂_map_right_iff] at hshare
    exact hshare.flip
  obtain ⟨hbetween, heq⟩ := between_add hgs hle
  exact ⟨hbetween, by omega⟩

/-- The grants of an allowance that reaches the minimum grants do not exceed it, and lie between each island's minimum and what it wants. -/
theorem allocate_between {a : Nat} {l : List Want} (h : ∀ x ∈ l, minGrant x.kind ≤ x.lo ∧ x.lo ≤ x.want)
    (hmin : (l.map fun x => minGrant x.kind).sum ≤ a) : Between (fun x => minGrant x.kind) Want.want l (allocate a l) ∧ (allocate a l).sum ≤ a := by
  unfold allocate
  simp only [sumOf_eq_sum]
  split
  · next hall =>
    refine ⟨?_, hall⟩
    rw [Between, List.forall₂_map_right_iff, List.forall₂_same]
    exact fun x hx => ⟨(h x hx).1.trans (h x hx).2, le_rfl⟩
  · next hshort =>
    split
    · next hfloors =>
      obtain ⟨hbetween, hsum⟩ := between_shareOut (lo := fun x => x.lo) (hi := fun x => x.want) (x := a - (l.map fun x => x.lo).sum)
        (fun x hx => (h x hx).2) (by omega)
      exact ⟨hbetween.mono (fun x hx => (h x hx).1) (fun _ _ => le_rfl), by omega⟩
    · next htight =>
      obtain ⟨hbetween, hsum⟩ := between_shareOut (lo := fun x => minGrant x.kind) (hi := fun x => x.lo) (x := a - (l.map fun x => minGrant x.kind).sum)
        (fun x hx => (h x hx).1) (by omega)
      exact ⟨hbetween.mono (fun _ _ => le_rfl) (fun x hx => (h x hx).2), by omega⟩

end Sys2Proof.Laws

/-! ## Targets, limits and thermal control (R342 to R344, R350, R354, R358 to R361) -/

namespace Sys2Proof.Laws

open Sys2Proof.Machine Sys2Proof.Claims

/-! ### Registers of power -/

/-- What a register of power, which only the PF may write, does. -/
theorem powerWrite_runs {s : State} {c : Instr} {off : Nat} {f : W → (W → W) → W} {u : W} (hhost : s.dev.hostReach 0 = true)
    (hrun : s.dev.running = true) (hexec : exec c s = .next (s.commit (s.w.pfWrite 0 off f))) (hu : (f s.w fun w => w.ignored 0 off) = u) :
    Runs c s u :=
  runs_settle (hexec.trans (by rw [pfWrite_reaches off f hhost hrun, hu]))

theorem pwrMode_writes {w : W} {v : Nat} (h : v.testBit 31 = true ∨ w.d.portsShared = false) (ign : W → W) :
    w.pwrMode v ign = w.modPower fun P => { P with openReg := v.testBit 31 } := by
  refine if_neg ?_
  rcases h with h | h <;> simp [h]

theorem pwrMode_refuses {w : W} {v : Nat} (hopen : v.testBit 31 = false) (hshared : w.d.portsShared = true) (ign : W → W) : w.pwrMode v ign = ign w :=
  if_pos (by simp [hopen, hshared])

theorem pwrTrip_writes (w : W) {v : Nat} (h : bits v 30 28 ≤ 3) : w.pwrTrip v = w.modAon fun A =>
    { A with tripValid := v.testBit 31, tripCause := bits v 30 28, tripSite := bits v 4 0, thermtrip := v.testBit 31 && A.thermtrip } := by
  have hcause (c : Nat) : (if bits v 30 28 ≤ 3 ∧ bits v 30 28 ≠ 0 then bits v 30 28 else if bits v 30 28 = 0 then 0 else c) = bits v 30 28 := by
    split
    · rfl
    · rw [if_pos (by omega)]
      omega
  have hdrives (b : Bool) : (if v.testBit 31 then b else false) = (v.testBit 31 && b) := by cases v.testBit 31 <;> rfl
  unfold W.pwrTrip
  simp only [hcause, hdrives]

/-! ### CLK_POL_LIM (R354) -/

/-- A loop whose turns apply `g` to a value where `T` holds, or leave it, applies `g` once where some turn does. -/
theorem each_applies {α β : Type} {l : List α} {f : W → α → W} {get : W → β} {g : β → β} {T : α → Prop} (hg : ∀ b, g (g b) = g b)
    (h : ∀ w x, (T x → get (f w x) = g (get w)) ∧ (¬ T x → get (f w x) = get w)) (w : W) :
    ((∃ x ∈ l, T x) → get (w.each l f) = g (get w)) ∧ ((∀ x ∈ l, ¬ T x) → get (w.each l f) = get w) := by
  unfold W.each
  induction l generalizing w with
  | nil => exact ⟨fun ⟨_, hx, _⟩ => absurd hx List.not_mem_nil, fun _ => rfl⟩
  | cons x l ih =>
    obtain ⟨hsome, hnone⟩ := ih (f w x)
    refine ⟨fun ⟨y, hy, hT⟩ => ?_, fun hall => ?_⟩
    · by_cases hrest : ∃ y ∈ l, T y
      · refine (hsome hrest).trans ?_
        by_cases hx : T x
        · rw [(h w x).1 hx, hg]
        · rw [(h w x).2 hx]
      · have hx : T x := by
          rcases List.mem_cons.1 hy with rfl | hy
          · exact hT
          · exact absurd ⟨y, hy, hT⟩ hrest
        exact (hnone fun y hy hT => hrest ⟨y, hy, hT⟩).trans ((h w x).1 hx)
    · obtain ⟨hx, hrest⟩ := List.forall_mem_cons.1 hall
      exact (hnone hrest).trans ((h w x).2 hx)

/-- A lowered ceiling acts at once on an island. -/
def lowered (c : Nat) (I : Isl) : Isl := { I with target := min I.target c, raise := I.raise.map (min c) }

theorem lowered_lowered (c : Nat) (I : Isl) : lowered c (lowered c I) = lowered c I := by
  have hraise : (I.raise.map (min c)).map (min c) = I.raise.map (min c) := by
    rw [Option.map_map]
    exact congrArg (Option.map · I.raise) (funext fun n => by simp)
  simp only [lowered, hraise, Nat.min_assoc, Nat.min_self]

/-- The islands of kind `k` of a die under a lowered ceiling. -/
def lowerDie (k c : Nat) (w : W) (s : Nat) : W :=
  w.each varIslands fun w j => if islKind j = some k then w.modPower fun P => { P with isl := tmod {} P.isl (16 * s + j) (lowered c) } else w

theorem lowerIsland_island (k c s j key : Nat) (w : W) :
    (16 * s + j = key ∧ islKind j = some k → tget {} (if islKind j = some k then
        w.modPower fun P => { P with isl := tmod {} P.isl (16 * s + j) (lowered c) } else w).d.power.isl key = lowered c (tget {} w.d.power.isl key)) ∧
      (¬ (16 * s + j = key ∧ islKind j = some k) → tget {} (if islKind j = some k then
        w.modPower fun P => { P with isl := tmod {} P.isl (16 * s + j) (lowered c) } else w).d.power.isl key = tget {} w.d.power.isl key) := by
  refine ⟨fun ⟨hkey, hkind⟩ => ?_, fun hnot => ?_⟩
  · rw [if_pos hkind, ← hkey]
    exact tget_tmod_same _ _ _ _
  · split
    · next hkind => exact tget_tmod_other _ _ _ _ _ fun e => hnot ⟨e.symm, hkind⟩
    · rfl

theorem lowerDie_island (k c s key : Nat) (w : W) :
    ((∃ j ∈ varIslands, 16 * s + j = key ∧ islKind j = some k) → tget {} (lowerDie k c w s).d.power.isl key = lowered c (tget {} w.d.power.isl key)) ∧
      ((∀ j ∈ varIslands, ¬ (16 * s + j = key ∧ islKind j = some k)) → tget {} (lowerDie k c w s).d.power.isl key = tget {} w.d.power.isl key) :=
  each_applies (get := fun w => tget {} w.d.power.isl key) (lowered_lowered c) (fun w j => lowerIsland_island k c s j key w) w

theorem lowerDies_island (k c key : Nat) (l : List Nat) (w : W) :
    ((∃ s ∈ l, ∃ j ∈ varIslands, 16 * s + j = key ∧ islKind j = some k) →
        tget {} (w.each l (lowerDie k c)).d.power.isl key = lowered c (tget {} w.d.power.isl key)) ∧
      ((∀ s ∈ l, ¬ ∃ j ∈ varIslands, 16 * s + j = key ∧ islKind j = some k) →
        tget {} (w.each l (lowerDie k c)).d.power.isl key = tget {} w.d.power.isl key) :=
  each_applies (get := fun w => tget {} w.d.power.isl key) (lowered_lowered c) (fun w s => by
    obtain ⟨hsome, hnone⟩ := lowerDie_island k c s key w
    exact ⟨hsome, fun h => hnone fun j hj hT => h ⟨j, hj, hT⟩⟩) w

theorem varIslands_lt {j : Nat} (h : j ∈ varIslands) : j < 16 := by
  simp only [varIslands, List.mem_cons, List.not_mem_nil, or_false] at h
  omega

/-- The islands of kind `k` on the dies of a list are lowered, and no other. -/
theorem lowerDies_listed {k c site j : Nat} {l : List Nat} (hsite : site ∈ l) (hj : j ∈ varIslands) (w : W) :
    (islKind j = some k → (w.each l (lowerDie k c)).d.power.island site j = lowered c (w.d.power.island site j)) ∧
      (islKind j ≠ some k → (w.each l (lowerDie k c)).d.power.island site j = w.d.power.island site j) := by
  obtain ⟨hsome, hnone⟩ := lowerDies_island k c (16 * site + j) l w
  refine ⟨fun hkind => hsome ⟨site, hsite, j, hj, rfl, hkind⟩, fun hkind => hnone ?_⟩
  rintro s - ⟨i, hi, hkey, hki⟩
  have := varIslands_lt hi
  have := varIslands_lt hj
  exact hkind (by rw [show j = i by omega]; exact hki)

/-- CEIL and FLOOR of a write to CLK_POL_LIM are in the range of kind `k`. -/
def LimRight (k c f : Nat) : Prop := rangeMin k ≤ c ∧ c ≤ rangeMax k ∧ c % 25 = 0 ∧ (f = 0 ∨ rangeMin k ≤ f ∧ f ≤ c ∧ f % 25 = 0)

theorem limWrong_iff (k c f : Nat) : (decide (c < rangeMin k) || decide (c > rangeMax k) || decide (c % 25 ≠ 0) ||
    (decide (f ≠ 0) && (decide (f < rangeMin k) || decide (f > c) || decide (f % 25 ≠ 0)))) = true ↔ ¬ LimRight k c f := by
  unfold LimRight
  simp only [Bool.or_eq_true, Bool.and_eq_true, decide_eq_true_eq]
  omega

theorem bits_high_half {v : Nat} (h : v < 2 ^ 32) : bits v 31 16 = v / 2 ^ 16 := by
  simp only [bits]
  omega

theorem clkPolLim_wrong {w : W} {i v : Nat} (hv : v < 2 ^ 32) (h : ¬ LimRight (i % 4) (v / 2 ^ 16) (v % 2 ^ 16)) (ign : W → W) :
    w.clkPolLim i v ign = ign w := by
  rw [← bits_high_half hv, ← show bits v 15 0 = v % 2 ^ 16 from bits_zero_lo v 15] at h
  exact if_pos ((limWrong_iff _ _ _).2 h)

/-- Limits in range are written. -/
def limited (w : W) (i v : Nat) : W := w.modPower fun P => { P with lim := tset P.lim i v }

theorem clkPolLim_right {w : W} {i v : Nat} (hv : v < 2 ^ 32) (h : LimRight (i % 4) (v / 2 ^ 16) (v % 2 ^ 16)) (ign : W → W) :
    w.clkPolLim i v ign = if (w.d.pol (i / 4)).st = 0 then limited w i v
      else (limited w i v).each (w.d.polSites (i / 4)) (lowerDie (i % 4) (v / 2 ^ 16)) := by
  rw [← bits_high_half hv, ← show bits v 15 0 = v % 2 ^ 16 from bits_zero_lo v 15] at h
  refine (if_neg fun hwrong => (limWrong_iff _ _ _).1 hwrong h).trans ?_
  rw [Nat.mod_eq_of_lt hv, bits_high_half hv]
  rfl

/-- `v` is `w` with other targets, grants and demands of islands. -/
def IslOnly (w v : W) : Prop := ∃ t, v = { w with d := { w.d with power := { w.d.power with isl := t } } }

theorem IslOnly.refl (w : W) : IslOnly w w := ⟨_, rfl⟩

theorem IslOnly.trans {a b c : W} (h : IslOnly a b) (k : IslOnly b c) : IslOnly a c := by
  obtain ⟨_, rfl⟩ := h
  obtain ⟨_, rfl⟩ := k
  exact ⟨_, rfl⟩

theorem islOnly_each {α : Type} {l : List α} {f : W → α → W} (h : ∀ w, ∀ x ∈ l, IslOnly w (f w x)) (w : W) : IslOnly w (w.each l f) :=
  each_related .refl .trans h w

theorem islOnly_lowerDies (k c : Nat) (l : List Nat) (w : W) : IslOnly w (w.each l (lowerDie k c)) := by
  refine islOnly_each (fun w s _ => islOnly_each (fun w j _ => ?_) w) w
  split
  · exact ⟨_, rfl⟩
  · exact .refl w

/-! ### The rail and the limiter (R343, R358) -/

/-- A raised target is applied. -/
def railReached (I : Isl) : Isl := { I with target := I.raise.getD I.target, raise := none }

theorem railVoltageReached_aims (s : State) (site : Nat) : Exactly (.railVoltageReached site) s
    (s.w.modPower fun P => aims P fun k I => if k / 16 = site then railReached I else I) := by
  have happlied : ∀ x : Nat × Isl, (if x.1 / 16 = site then (match x.2.raise with
      | some f => (x.1, { x.2 with target := f, raise := none })
      | none => (x.1, x.2)) else (x.1, x.2)) = (x.1, if x.1 / 16 = site then railReached x.2 else x.2) := by
    rintro ⟨k, b, g, f, r, n⟩
    cases r <;> split <;> rfl
  have hmap (l : Tab Isl) := List.map_congr_left (l := l) fun x _ => happlied x
  show Host.Outcome.next (s.commit (s.w.modPower _)) = .next (s.commit (s.w.modPower _))
  refine congrArg (fun P : Power => Host.Outcome.next (s.commit (s.w.modPower fun _ => P))) ?_
  exact congrArg (fun l : Tab Isl => { s.dev.power with isl := l }) (hmap s.dev.power.isl)

/-- What the limiter makes of an island: its target falls by 25 MHz for each microsecond, not below its range. -/
def limiterAim (d : Dev) (us k : Nat) (I : Isl) : Isl :=
  match if d.isCompute (k / 16) then islKind (k % 16) else none with
  | some kd => { I with target := max (min I.target (rangeMin kd)) (I.target - 25 * us), raise := none }
  | none => I

theorem exec_inputLimiter (us : Nat) (s : State) : exec (.inputLimiter us) s = .next (s.commit (s.w.modPower fun P =>
    { aims P (limiterAim s.dev us) with limited := true, thermStatus := P.thermStatus ||| 0x20 })) := by
  have hmap (l : Tab Isl) : (l.map fun (k, I) => match (if s.dev.isCompute (k / 16) then islKind (k % 16) else none) with
      | some kd => (k, { I with target := max (min I.target (rangeMin kd)) (I.target - 25 * us), raise := none })
      | none => (k, I)) = l.map fun x => (x.1, limiterAim s.dev us x.1 x.2) := by
    refine List.map_congr_left fun ⟨k, I⟩ _ => ?_
    unfold limiterAim
    dsimp only
    cases (if s.dev.isCompute (k / 16) = true then islKind (k % 16) else none) <;> rfl
  show Host.Outcome.next (s.commit (s.w.modPower _)) = .next (s.commit (s.w.modPower _))
  exact congrArg (fun l : Tab Isl => Host.Outcome.next (s.commit (s.w.modPower fun P =>
    { P with limited := true, thermStatus := P.thermStatus ||| 0x20, isl := l }))) (hmap s.dev.power.isl)

theorem limiterAim_default (d : Dev) (us k : Nat) : limiterAim d us k {} = {} := by
  unfold limiterAim
  split
  · simp
  · rfl

theorem aims_island (P : Power) {f : Nat → Isl → Isl} {site i : Nat} (h : f (16 * site + i) {} = {}) :
    (aims P f).island site i = f (16 * site + i) (P.island site i) := tget_tmapi h P.isl

theorem limiterAim_variable {d : Dev} {site i k : Nat} (hsite : d.isCompute site = true) (hi : i < 16) (hkind : islKind i = some k) (us : Nat) (I : Isl) :
    limiterAim d us (16 * site + i) I = { I with target := max (min I.target (rangeMin k)) (I.target - 25 * us), raise := none } := by
  unfold limiterAim
  rw [show (16 * site + i) / 16 = site by omega, show (16 * site + i) % 16 = i by omega, hsite, hkind]
  rfl

/-! ### Sensors (R359, R361) -/

/-- A reading of a sensor that the device has, outside a thermal hold. -/
theorem exec_thermalThreshold {s : State} {k : Sensor} {temp : Int} {u : W} (hrail : s.dev.aon.rail33 = true) (hhas : s.dev.hasSensor k = true)
    (hu : s.w.sensor k temp = u) (hhold : u.d.aon.tripHold = false) : exec (.thermalThreshold k temp) s = .next (s.commit u) := by
  have hreads : (!s.w.d.aon.rail33 || !s.w.d.hasSensor k) = false := by
    show (!s.dev.aon.rail33 || !s.dev.hasSensor k) = false
    rw [hrail, hhas]
    rfl
  show Host.Outcome.next (s.commit (if (!s.w.d.aon.rail33 || !s.w.d.hasSensor k) = true then s.w else
    if ((s.w.sensor k temp).d.aon.tripHold && !(s.w.sensor k temp).d.aon.hubTrip && (s.w.sensor k temp).d.allCool) = true
      then ((s.w.sensor k temp).modAon fun A => { A with tripHold := false }).tryBoot s.fuses else s.w.sensor k temp)) = _
  rw [hreads, hu, hhold]
  rfl

theorem limit_holds (temp : Int) (T : Therm) : (if temp ≥ 840 then true else if temp < 784 then false else T.logicLimit) =
    (decide (840 ≤ temp) || T.logicLimit && decide (784 ≤ temp)) := by
  by_cases hhot : 840 ≤ temp
  · simp [hhot]
  · by_cases hwarm : 784 ≤ temp
    · simp [hhot, hwarm, not_lt.2 hwarm]
    · simp [hhot, hwarm, not_le.1 hwarm]

theorem sensor_computeDie (w : W) (site : Nat) (temp : Int) : w.sensor (.computeDie site) temp = w.modTherm site
    (fun T => { T with logic := temp, logicLimit := decide (840 ≤ temp) || T.logicLimit && decide (784 ≤ temp) })
    ((if 800 ≤ temp then 1 else 0) ||| (if 840 ≤ temp then 2 else 0)) :=
  congrArg (fun f => w.modTherm site f _) (funext fun T => by rw [← limit_holds])

/-- A laser that is cool, or that was off already, has no more to do than record its temperature. -/
theorem opticTemp_between {w : W} {n : Nat} {temp : Int} (hlo : 600 ≤ temp) (hhi : temp < 640) :
    w.opticTemp n temp = w.modPower fun P => { P with optTemp := tset P.optTemp n temp } :=
  (if_neg (by omega)).trans (if_neg (by omega))

theorem opticTemp_cool {w : W} {n : Nat} {temp : Int} (h : temp < 600) :
    w.opticTemp n temp = (w.modPower fun P => { P with optTemp := tset P.optTemp n temp }).modPort n fun P => { P with hot := false } :=
  (if_neg (by omega)).trans (if_pos h)

theorem opticTemp_hot {w : W} {n : Nat} {temp : Int} (h : 640 ≤ temp) : w.opticTemp n temp =
    if (w.d.port n).laser then ((((w.modPower fun P => { P with optTemp := tset P.optTemp n temp }).modPort n fun P => { P with hot := true }).modPower fun P =>
      { P with thermStatus := P.thermStatus ||| 0x10 }).portDown n 1).settle
    else (w.modPower fun P => { P with optTemp := tset P.optTemp n temp }).modPort n fun P => { P with hot := true } :=
  if_pos h

end Sys2Proof.Laws

/-! ## A port that goes down leaves the always-on domain alone (R297, R305) -/

namespace Sys2Proof.Laws

open Sys2Proof.Machine Sys2Proof.Claims

/-- The always-on domain of `v` is that of `w`. -/
def AonKept (w v : W) : Prop := v.d.aon = w.d.aon

theorem AonKept.refl (w : W) : AonKept w w := rfl
theorem AonKept.trans {a b c : W} (h : AonKept a b) (k : AonKept b c) : AonKept a c := Eq.trans k h
theorem AonKept.each {α : Type} {l : List α} {f : W → α → W} (h : ∀ w x, AonKept w (f w x)) (w : W) : AonKept w (w.each l f) :=
  each_related .refl .trans (fun w x _ => h w x) w

theorem Quiet.aonKept {w v : W} (h : Quiet w v) : AonKept w v := by
  unfold AonKept
  rw [h.dev.rest]

theorem HostOnly.aonKept {w v : W} (h : HostOnly w v) : AonKept w v := by
  obtain ⟨_, _, _, rfl⟩ := h
  rfl

theorem aonKept_modPol (w : W) (p : Nat) (f : Pol → Pol) : AonKept w (w.modPol p f) := rfl
theorem aonKept_modPort (w : W) (n : Nat) (f : Port → Port) : AonKept w (w.modPort n f) := rfl
theorem aonKept_modPower (w : W) (f : Power → Power) : AonKept w (w.modPower f) := rfl
theorem aonKept_modFabric (w : W) (f : Fabric → Fabric) : AonKept w (w.modFabric f) := rfl
theorem aonKept_stepFault (w : W) (p d q status detail info : Nat) : AonKept w (w.stepFault p d q status detail info) := rfl

theorem aonKept_modConn (w : W) (lp chip tc : Nat) (f : Conn → Conn) : AonKept w (w.modConn lp chip tc f) := rfl
theorem aonKept_wire (w : W) (n : Nat) (f : Frame) : AonKept w (w.wire n f) := rfl

theorem aonKept_sendNow (w : W) (n : Nat) (f : Frame) : AonKept w (w.sendNow n f) := by
  unfold W.sendNow
  dsimp only
  split <;> exact rfl

theorem aonKept_direct (w : W) (n : Nat) (f : Frame) (inp : Option Nat) : AonKept w (w.direct n f inp) := by
  unfold W.direct
  split
  · exact rfl
  · split
    · exact rfl
    · exact aonKept_sendNow w n f

theorem aonKept_pausePeers (w : W) : AonKept w w.pausePeers := by
  unfold W.pausePeers
  split
  · exact .refl w
  · refine .each (fun w n => .each (fun w q => ?_) w) w
    dsimp only
    split
    · exact rfl
    · split <;> exact rfl

theorem aonKept_sealOn (w : W) (n : Nat) (f : Frame) : AonKept w (w.sealOn n f).1 := by
  unfold W.sealOn
  split <;> exact rfl

theorem aonKept_sendHello (w : W) (n lp chip tc : Nat) (only : Bool) : AonKept w (w.sendHello n lp chip tc only) := aonKept_wire w n _

theorem aonKept_switched (w : W) (n lp : Nat) (f : Frame) (inp : Option Nat) : AonKept w (w.switched n lp f inp) := by
  unfold W.switched
  dsimp only
  split
  · exact (aonKept_sealOn w n _).trans ((aonKept_modConn _ lp f.dst _ _).trans (aonKept_direct _ n _ inp))
  · have hwaits := aonKept_modConn w lp f.dst (b2n f.tc) fun C => { C with waiting := C.waiting ++ [f] }
    split
    · exact hwaits.trans ((aonKept_modConn _ lp f.dst _ _).trans (aonKept_sendHello ..))
    · exact hwaits

theorem aonKept_transmit (w : W) (n lp : Nat) (f : Frame) (inp : Option Nat) : AonKept w (w.transmit n lp f inp) := by
  unfold W.transmit
  split
  · exact aonKept_switched w n lp f inp
  · exact (aonKept_sealOn w n f).trans (aonKept_direct _ n _ inp)

theorem aonKept_leave {w v : W} {n lp : Nat} {f : Frame} (h : w.leave n lp f = .sent v) : AonKept w v := by
  unfold W.leave at h
  dsimp only at h
  split at h <;> cases h
  exact aonKept_transmit w n lp _ none

theorem aonKept_sendFrame {w v : W} {f : Frame} {key : Option Nat} (h : w.sendFrame f key = .sent v) : AonKept w v := by
  unfold W.sendFrame at h
  split at h
  · cases h
  · dsimp only at h
    split at h
    · exact aonKept_leave h
    · split at h <;> cases h

theorem aonKept_sendCtl (w : W) (f : Frame) (key : Option Nat) : AonKept w (w.sendCtl f key) := by
  unfold W.sendCtl
  split
  · next h => exact aonKept_sendFrame h
  · exact .refl w

/-! ### Operations that fail, and members that are lost -/

theorem aonKept_collFail (w : W) (p c status detail chip : Nat) : AonKept w (w.collFail p c status detail chip) := by
  unfold W.collFail
  dsimp only
  split
  · exact .refl w
  · refine .trans (.trans ?_ (aonKept_modPol _ p _)) (aonKept_modFabric _ _)
    exact .each (fun w s => aonKept_stepFault w ..) w

theorem aonKept_abortFrames (w : W) (p c status chip detail : Nat) (except : Option Nat) :
    AonKept w (w.abortFrames p c status chip detail except) := by
  refine .each (fun w m => ?_) w
  dsimp only
  split
  · exact .refl w
  · exact aonKept_sendCtl ..

theorem aonKept_learnLoss (w : W) (p c chip detail : Nat) : AonKept w (w.learnLoss p c chip detail) := by
  unfold W.learnLoss
  dsimp only
  split
  · exact aonKept_modPol w p _
  · exact (aonKept_modPol w p _).trans ((aonKept_collFail _ p c ..).trans (aonKept_abortFrames _ p c ..))

theorem aonKept_memberLost (w : W) (p c chip detail : Nat) : AonKept w (w.memberLost p c chip detail) :=
  (aonKept_learnLoss w p c chip detail).trans (.each (fun w q => aonKept_learnLoss w q c chip detail) _)

theorem aonKept_collSegFail (w : W) (p c seg status detail : Nat) : AonKept w (w.collSegFail p c seg status detail) := by
  refine .trans (.trans ?_ (aonKept_modPol _ p _)) (aonKept_modFabric _ _)
  exact .each (fun w s => aonKept_stepFault w ..) w

theorem aonKept_opFail (w : W) (o : ROp) (status detail : Nat) : AonKept w (w.opFail o status detail) := by
  unfold W.opFail
  split
  case h_1 => exact rfl
  case h_2 => exact (hostOnly_complete (w.dropOp o.id) _ _).aonKept
  case h_3 => exact rfl
  case h_4 =>
    split
    · exact aonKept_memberLost (w.dropOp o.id) ..
    · exact aonKept_collSegFail w ..

theorem aonKept_pump (k : Nat) (w : W) : AonKept w (W.pump k w) := by
  induction k generalizing w with
  | zero => exact .refl w
  | succ k ih =>
    unfold W.pump
    split
    · exact .refl w
    · split
      · next h => exact (aonKept_sendFrame h).trans (ih _)
      · exact (aonKept_opFail w ..).trans (ih _)

/-! ### What a port held goes elsewhere -/

theorem aonKept_sendElsewhere (lp : Nat) (w : W) (h : HeldFrame) : AonKept w (sendElsewhere lp w h) := by
  unfold sendElsewhere
  split
  · exact aonKept_direct w ..
  · unfold W.frameLost
    split
    · exact aonKept_opFail w ..
    · exact .refl w

theorem aonKept_routeLost (w : W) (lp : Nat) : AonKept w (w.routeLost lp) := by
  refine .each (fun w p => ?_) w
  split
  · exact .refl w
  · exact .each (fun w c => .each (fun w m => aonKept_memberLost w p c m 1) w) w

theorem aonKept_replayLost (w : W) (n : Nat) : AonKept w (w.replayLost n) := by
  have hends : ∀ (v : W) (lp : Nat), AonKept v ((v.routeLost lp).pumpAll).pausePeers := fun v lp =>
    (aonKept_routeLost v lp).trans ((aonKept_pump _ _).trans (aonKept_pausePeers _))
  refine (aonKept_modPort w n fun P => { P with replay := [], held := [], replays := 0 }).trans (.trans ?_ (hends _ (w.d.port n).lport))
  split
  · exact .refl _
  · exact (AonKept.each (aonKept_sendElsewhere _) _).trans (.each (aonKept_sendElsewhere _) _)

theorem aonKept_portDown (w : W) (n cause : Nat) : AonKept w (w.portDown n cause) := by
  unfold W.portDown
  dsimp only
  split
  · exact (aonKept_modPort w n _).trans (aonKept_replayLost _ n)
  · exact .refl w

end Sys2Proof.Laws

/-! ## The arbiter's period (R347 to R355, R357, R359, R363) -/

namespace Sys2Proof.Laws

open Sys2Proof.Machine Sys2Proof.Claims

/-! ### The end of the period (R355, R358, R363) -/

/-- `v` is `w` with other counters of polders and of unmet floors, and an event posted. -/
def FloorsTold (w v : W) : Prop := ∃ R H o c a m n, v = { w with d := { w.d with
  rings := R, hub := H, out := o, power := { w.d.power with polCnt := c, floorAge := a, floorMap := m, floorNum := n } } }

theorem FloorsTold.refl (w : W) : FloorsTold w w := ⟨_, _, _, _, _, _, _, rfl⟩

theorem FloorsTold.trans {a b c : W} (h : FloorsTold a b) (k : FloorsTold b c) : FloorsTold a c := by
  obtain ⟨_, _, _, _, _, _, _, rfl⟩ := h
  obtain ⟨_, _, _, _, _, _, _, rfl⟩ := k
  exact ⟨_, _, _, _, _, _, _, rfl⟩

theorem floorsTold_each {α : Type} {l : List α} {f : W → α → W} (h : ∀ w x, FloorsTold w (f w x)) (w : W) : FloorsTold w (w.each l f) :=
  each_related .refl .trans (fun w x _ => h w x) w

theorem floorsTold_polCnt (w : W) (p k n : Nat) : FloorsTold w (w.polCnt p k n) := ⟨_, _, _, _, _, _, _, rfl⟩

theorem floorsTold_ite {w u v : W} {b : Prop} [Decidable b] (h : FloorsTold w u) (k : FloorsTold w v) : FloorsTold w (if b then u else v) := by
  split
  · exact h
  · exact k

theorem floorsTold_event (w : W) (t status detail srcKind srcId info : Nat) : FloorsTold w (w.event t status detail srcKind srcId info) := by
  obtain ⟨_, _, _, h⟩ := hostOnly_event w t status detail srcKind srcId info
  rw [h]
  exact ⟨_, _, _, _, _, _, _, rfl⟩

/-- The period counts itself, and whether the limiter acted in it. -/
def periodCounted (w : W) : W :=
  if (w.devCnt 0 1).d.power.limited then ((w.devCnt 0 1).devCnt 1 1).modPower fun P => { P with limited := false } else w.devCnt 0 1

theorem lget_lset_ne (l : List Nat) {i j : Nat} (h : i ≠ j) (x d : Nat) : lget d (lset l j x) i = lget d l i := by
  induction l generalizing i j with
  | nil => rfl
  | cons a l ih =>
    cases j with
    | zero =>
      cases i with
      | zero => exact absurd rfl h
      | succ i => rfl
    | succ j =>
      cases i with
      | zero => rfl
      | succ i => exact ih (by omega)

theorem periodCounted_power (w : W) : ∃ c, periodCounted w = { w with d := { w.d with power := { w.d.power with devCnt := c, limited := false } } } ∧
    lget 0 c 0 = if w.d.power.devCnt = [] then 0 else sat64 (lget 0 w.d.power.devCnt 0 + 1) := by
  have hbumped : lget 0 (lset w.d.power.devCnt 0 (sat64 (lget 0 w.d.power.devCnt 0 + 1))) 0 =
      if w.d.power.devCnt = [] then 0 else sat64 (lget 0 w.d.power.devCnt 0 + 1) := by
    cases w.d.power.devCnt with
    | nil => rfl
    | cons a l => simp [lset, lget]
  unfold periodCounted
  split
  · exact ⟨_, rfl, (lget_lset_ne _ (by decide) _ _).trans hbumped⟩
  · next hlimited =>
    have hoff : w.d.power.limited = false := Bool.eq_false_iff.2 hlimited
    refine ⟨_, ?_, hbumped⟩
    show ({ w with d := { w.d with power := { w.d.power with devCnt := _ } } } : W) =
      { w with d := { w.d with power := { w.d.power with devCnt := _, limited := false } } }
    rw [← hoff]

theorem floorsTold_cleared (w : W) : FloorsTold w (w.modPower fun P => { P with floorAge := 0, floorMap := 0, floorNum := 0 }) :=
  ⟨_, _, _, _, _, _, _, rfl⟩

theorem floorsTold_aged (w : W) (unmet : List Nat) : FloorsTold w (w.modPower fun P =>
    { P with floorAge := min 1000 (P.floorAge + 1), floorMap := unmet.foldl (fun m p => m ||| 2 ^ p) P.floorMap
             floorNum := if unmet.isEmpty then P.floorNum else min 0xFFFFFFFF (P.floorNum + 1) }) := ⟨_, _, _, _, _, _, _, rfl⟩

theorem floorsTold_endPeriod (w : W) : FloorsTold (periodCounted w) w.endPeriod := by
  unfold W.endPeriod
  dsimp only
  rw [show (if (w.devCnt 0 1).d.power.limited = true then ((w.devCnt 0 1).devCnt 1 1).modPower fun P => { P with limited := false } else w.devCnt 0 1) =
    periodCounted w from rfl]
  generalize periodCounted w = v
  have hcounted (hot late : W → Nat → Bool) : FloorsTold v (v.each v.d.formed fun w p =>
      if late w p then (if hot w p then w.polCnt p 1 1 else w).polCnt p 2 1 else if hot w p then w.polCnt p 1 1 else w) := by
    refine floorsTold_each (fun w p => ?_) v
    have hhot := floorsTold_ite (b := hot w p = true) (floorsTold_polCnt w p 1 1) (.refl w)
    exact floorsTold_ite (hhot.trans (floorsTold_polCnt _ p 2 1)) hhot
  have haged := (hcounted (fun w p => (w.d.polSites p).any fun s =>
      let T := tget {} w.d.power.therm s
      decide (T.factor < 16) || T.logicLimit || decide (T.dramLevel ≠ 0)) (fun _ p => (v.d.formed.filter fun p => v.d.power.unmet.testBit p).contains p)).trans
    (floorsTold_aged _ (v.d.formed.filter fun p => v.d.power.unmet.testBit p))
  dsimp only at haged
  exact floorsTold_ite (haged.trans ((floorsTold_event _ ..).trans (floorsTold_cleared _))) haged

/-! ### Grants (R352, R359) -/

/-- `v` is `w` with other targets and grants, and what the arbiter records of polders. -/
def Granting (w v : W) : Prop := ∃ t g c u, v = { w with d := { w.d with power := { w.d.power with isl := t, pgrant := g, polCnt := c, unmet := u } } }

theorem Granting.refl (w : W) : Granting w w := ⟨_, _, _, _, rfl⟩

theorem Granting.trans {a b c : W} (h : Granting a b) (k : Granting b c) : Granting a c := by
  obtain ⟨_, _, _, _, rfl⟩ := h
  obtain ⟨_, _, _, _, rfl⟩ := k
  exact ⟨_, _, _, _, rfl⟩

theorem IslOnly.granting {w v : W} (h : IslOnly w v) : Granting w v := by
  obtain ⟨_, rfl⟩ := h
  exact ⟨_, _, _, _, rfl⟩

theorem IslOnly.pgrant {w v : W} (h : IslOnly w v) : v.d.power.pgrant = w.d.power.pgrant := by
  obtain ⟨_, rfl⟩ := h
  rfl

theorem islOnly_setGrant (w : W) (x : Want) (g : Nat) : IslOnly w (w.setGrant x g) := ⟨_, rfl⟩

/-- What polder `p` is granted is recorded with its allowance, and its share is kept. -/
structure Grants (p avail : Nat) (w v : W) : Prop where
  rest : Granting w v
  own : ∃ total, tget (0, 0, 0) v.d.power.pgrant p = ((tget (0, 0, 0) w.d.power.pgrant p).1, total, avail)
  others : ∀ q, q ≠ p → tget (0, 0, 0) v.d.power.pgrant q = tget (0, 0, 0) w.d.power.pgrant q

theorem Grants.after {p avail : Nat} {w v u : W} (h : IslOnly w v) (k : Grants p avail v u) : Grants p avail w u where
  rest := h.granting.trans k.rest
  own := by
    obtain ⟨total, hown⟩ := k.own
    exact ⟨total, by rw [hown, h.pgrant]⟩
  others q hq := by rw [k.others q hq, h.pgrant]

theorem grants_recorded (w : W) (p total avail : Nat) (f : Power → Nat) : Grants p avail w (w.modPower fun P =>
    { P with pgrant := tmod (0, 0, 0) P.pgrant p fun (sh, _, _) => (sh, total, avail), unmet := f P }) where
  rest := ⟨_, _, _, _, rfl⟩
  own := ⟨total, tget_tmod_same (0, 0, 0) w.d.power.pgrant p fun (sh, _, _) => (sh, total, avail)⟩
  others q hq := tget_tmod_other (0, 0, 0) w.d.power.pgrant q p (fun (sh, _, _) => (sh, total, avail)) hq

theorem grants_setGrants (w : W) (p avail : Nat) (l : List Want) (gs : List Nat) : Grants p avail w (w.setGrants p avail l gs) := by
  have hisl : IslOnly w (w.each (l.zip gs) fun w (x, g) => w.setGrant x g) := islOnly_each (fun w y _ => islOnly_setGrant w y.1 y.2) w
  unfold W.setGrants
  exact .after hisl (grants_recorded _ p _ avail _)

/-- What the arbiter grants a polder of the share `x`, its loan and its want. -/
def grantRow (holding : List Nat) (lent : List (Nat × Nat)) (w : W) (r : Nat × Nat × Nat × Nat) : W :=
  let (p, x, want, _) := r
  let loan := ((lent.find? (·.1 == p)).map Prod.snd).getD 0
  let w := if want > x + loan then w.polCnt p 0 1 else w
  let w := if loan = 0 then w else w.polCnt p 3 loan
  if holding.contains p then w.holdGrants p (x + loan) else w.grantPol p (x + loan)

/-- `v` is `w` with other counters of polders. -/
def Counted (w v : W) : Prop := ∃ c, v = { w with d := { w.d with power := { w.d.power with polCnt := c } } }

theorem Grants.counted {p avail : Nat} {w v u : W} (h : Counted w v) (k : Grants p avail v u) : Grants p avail w u := by
  obtain ⟨c, rfl⟩ := h
  exact ⟨.trans ⟨_, _, _, _, rfl⟩ k.rest, k.own, k.others⟩

theorem counted_then {b : Prop} [Decidable b] (w : W) (p k n : Nat) : Counted w (if b then w.polCnt p k n else w) := by
  split
  · exact ⟨_, rfl⟩
  · exact ⟨_, rfl⟩

theorem counted_else {b : Prop} [Decidable b] (w : W) (p k n : Nat) : Counted w (if b then w else w.polCnt p k n) := by
  split
  · exact ⟨_, rfl⟩
  · exact ⟨_, rfl⟩

theorem grants_grantRow (holding : List Nat) (lent : List (Nat × Nat)) (w : W) (r : Nat × Nat × Nat × Nat) :
    ∃ avail, r.2.1 ≤ avail ∧ Grants r.1 avail w (grantRow holding lent w r) := by
  obtain ⟨p, x, want, fixed⟩ := r
  unfold grantRow
  dsimp only
  generalize ((lent.find? (·.1 == p)).map Prod.snd).getD 0 = loan
  refine ⟨x + loan, Nat.le_add_right _ _, .counted (counted_then (b := want > x + loan) w p 0 1) (.counted (counted_else (b := loan = 0) _ p 3 loan) ?_)⟩
  by_cases hholds : holding.contains p = true
  · rw [if_pos hholds]
    exact grants_setGrants ..
  · rw [if_neg hholds]
    exact grants_setGrants ..

/-- Every polder with a share receives at least its share, whatever the other rows grant. -/
theorem rows_grant {rows : List (Nat × Nat × Nat × Nat)} {holding : List Nat} {lent : List (Nat × Nat)} {p x : Nat}
    (hone : ∀ r ∈ rows, r.1 = p → r.2.1 = x) (hmem : ∃ r ∈ rows, r.1 = p) {w : W} (hshare : (tget (0, 0, 0) w.d.power.pgrant p).1 = x) :
    ∃ g a, tget (0, 0, 0) (w.each rows (grantRow holding lent)).d.power.pgrant p = (x, g, a) ∧ x ≤ a := by
  have hturn : ∀ w, ∀ r ∈ rows, (tget (0, 0, 0) w.d.power.pgrant p).1 = x →
      (tget (0, 0, 0) (grantRow holding lent w r).d.power.pgrant p).1 = x ∧
        ((r.1 = p ∨ x ≤ (tget (0, 0, 0) w.d.power.pgrant p).2.2) → x ≤ (tget (0, 0, 0) (grantRow holding lent w r).d.power.pgrant p).2.2) := by
    intro w r hr hx
    obtain ⟨avail, havail, hgrants⟩ := grants_grantRow holding lent w r
    by_cases hp : r.1 = p
    · obtain ⟨total, hown⟩ := hgrants.own
      rw [hp, hx] at hown
      rw [hown]
      exact ⟨rfl, fun _ => by rw [← hone r hr hp]; exact havail⟩
    · rw [hgrants.others p (Ne.symm hp)]
      exact ⟨hx, fun h => h.resolve_left hp⟩
  have hall : ∀ (l : List (Nat × Nat × Nat × Nat)) (w : W), (∀ r ∈ l, r ∈ rows) → (tget (0, 0, 0) w.d.power.pgrant p).1 = x →
      ((∃ r ∈ l, r.1 = p) ∨ x ≤ (tget (0, 0, 0) w.d.power.pgrant p).2.2) →
      (tget (0, 0, 0) (l.foldl (grantRow holding lent) w).d.power.pgrant p).1 = x ∧
        x ≤ (tget (0, 0, 0) (l.foldl (grantRow holding lent) w).d.power.pgrant p).2.2 := by
    intro l
    induction l with
    | nil => exact fun w _ hx h => ⟨hx, h.resolve_left (by simp)⟩
    | cons r l ih =>
      intro w hl hx h
      obtain ⟨hkept, hreached⟩ := hturn w r (hl r List.mem_cons_self) hx
      refine ih _ (fun q hq => hl q (List.mem_cons_of_mem _ hq)) hkept ?_
      rcases h with ⟨q, hq, hqp⟩ | h
      · rcases List.mem_cons.1 hq with rfl | hq
        · exact .inr (hreached (.inl hqp))
        · exact .inl ⟨q, hq, hqp⟩
      · exact .inr (hreached (.inr h))
  obtain ⟨hx, hle⟩ := hall rows w (fun _ h => h) hshare (.inl hmem)
  exact ⟨_, _, Prod.ext hx rfl, hle⟩

/-! ### The period as a whole -/

/-- The mode, the protection and the floors of the new period are in force (R350, R354, R359). -/
def periodOpened (w : W) : W :=
  (w.modPower fun P =>
    { P with openMode := P.openReg, therm := tmapi (fun _ T => T.step) P.therm, floors := tmapi (fun _ v => v % 2 ^ 16) P.lim, unmet := 0 }).modPower
    fun P => { P with firstUse := (P.firstUse.map fun (p, n) => (p, n - 1)).filter fun x => x.2 != 0 }

/-- The shares are recorded. -/
def sharesSet (w : W) : W := w.modPower fun P => { P with pgrant := w.d.shares.map fun (p, x) => (p, x, 0, 0) }

/-- The demands of the islands, but for those of the polders whose first-use grants hold (R351, R357). -/
def demandsTaken (draws : List (Nat × Nat)) (holding : List Nat) (w : W) : W :=
  w.each w.d.computeSites fun w s => w.each varIslands fun w i =>
    match islKind i with
    | none => w
    | some k =>
      if ((w.d.sitePol s).map holding.contains).getD false then w
      else w.modPower fun P => { P with isl := tset P.isl (16 * s + i) { w.d.power.island s i with
        demand := demandOf k (P.ceil (w.d.limPol s) k) (w.d.power.island s i).target (((draws.find? (·.1 == 16 * s + i)).map Prod.snd).getD 0) } }

/-- The rows of the shares: the share, want and fixed grants of each polder. -/
def shareRows (d : Dev) : List (Nat × Nat × Nat × Nat) :=
  d.shares.map fun (p, x) => (p, x, sumOf ((d.wants p).map (·.want)), sumOf ((d.polSites p).map d.fixedOf))

/-- The islands of unallotted dies, and the fixed islands. -/
def restHeld (w : W) : W :=
  let w := w.each (w.d.computeSites.filter fun s => (w.d.sitePol s).isNone) fun w s => w.each varIslands fun w i =>
    match islKind i with
    | none => w
    | some k =>
      w.setGrant { key := 16 * s + i, kind := k, want := maxGrant k, lo := 0, ceil := rangeMax k, floorF := 0, point := w.d.testPoint (16 * s + i) }
        (if (w.d.testPoint (16 * s + i)).isSome then maxGrant k else minGrant k)
  w.each (List.range 25) fun w s => w.each (w.d.fixedTargets s) fun w (i, g, f) =>
    w.modPower fun P => { P with isl := tmod {} P.isl (16 * s + i) fun I => ({ I with base := g, grant := g } : Isl).aim f }

theorem islOnly_demandsTaken (draws : List (Nat × Nat)) (holding : List Nat) (w : W) : IslOnly w (demandsTaken draws holding w) := by
  refine islOnly_each (fun w s _ => islOnly_each (fun w i _ => ?_) w) w
  split
  · exact .refl w
  · split
    · exact .refl w
    · exact ⟨_, rfl⟩

theorem islOnly_restHeld (w : W) : IslOnly w (restHeld w) := by
  refine .trans (islOnly_each (fun w s _ => islOnly_each (fun w i _ => ?_) w) w) (islOnly_each (fun w s _ => islOnly_each (fun w x _ => ⟨_, rfl⟩) w) _)
  split
  · exact .refl w
  · exact islOnly_setGrant w _ _

theorem exec_arbiterPeriod {s : State} (hclock : clocked s) (draws : List (Nat × Nat)) : ∃ holding holding' lent,
    exec (.arbiterPeriod draws) s = .next (s.commit (restHeld ((sharesSet (demandsTaken draws holding (periodOpened s.w.endPeriod))).each
      (shareRows (demandsTaken draws holding (periodOpened s.w.endPeriod)).d) (grantRow holding' lent)))) := by
  obtain ⟨h33, h12, href⟩ := hclock
  have hruns : ¬ (!(s.w.d.aon.rail33 && s.w.d.aon.rail12 && s.w.d.aon.refclk)) = true := by
    show ¬ (!(s.dev.aon.rail33 && s.dev.aon.rail12 && s.dev.aon.refclk)) = true
    simp [h33, h12, href]
  exact ⟨_, _, _, congrArg (fun w => Host.Outcome.next (s.commit w)) ((if_neg hruns).trans rfl)⟩

/-- The shares rest on the budget and the weights alone, and on what does not change in a period. -/
theorem shares_of_budget (d : Dev) (R : Tab Ring) (H : Hub) (o : List Out) {P : Power} (hcap : P.cap = d.power.cap) (hweight : P.weight = d.power.weight) :
    ({ d with rings := R, hub := H, out := o, power := P } : Dev).shares = d.shares := by
  have hw : P.weightOf = d.power.weightOf := by
    unfold Power.weightOf
    rw [hweight]
  unfold Dev.shares
  dsimp only
  rw [hcap, hw]
  rfl

/-- What the arbiter's period has done to the device, before it grants anything. -/
theorem period_opens (w : W) (draws : List (Nat × Nat)) (holding : List Nat) : ∃ R H o P, P.cap = w.d.power.cap ∧ P.weight = w.d.power.weight ∧
    P.openMode = w.d.power.openReg ∧ P.openReg = w.d.power.openReg ∧ P.limited = false ∧
    lget 0 P.devCnt 0 = (if w.d.power.devCnt = [] then 0 else sat64 (lget 0 w.d.power.devCnt 0 + 1)) ∧
    demandsTaken draws holding (periodOpened w.endPeriod) = { w with d := { w.d with rings := R, hub := H, out := o, power := P } } := by
  obtain ⟨c, hcounted, hcnt⟩ := periodCounted_power w
  obtain ⟨_, _, _, _, _, _, _, htold⟩ := floorsTold_endPeriod w
  obtain ⟨_, htaken⟩ := islOnly_demandsTaken draws holding (periodOpened w.endPeriod)
  rw [htaken, htold, hcounted]
  refine ⟨_, _, _, _, ?_, ?_, ?_, ?_, ?_, ?_, rfl⟩
  exacts [rfl, rfl, rfl, rfl, rfl, hcnt]

end Sys2Proof.Laws

/-! ## Power control (R343 to R363, R458) -/

namespace Sys2Proof.Laws

open Sys2Proof.Machine Sys2Proof.Claims

theorem tget_of_mem {α : Type} {d a : α} {t : Tab α} {k : Nat} (h : t.Pairwise fun x y => x.1 < y.1) (hmem : (k, a) ∈ t) : tget d t k = a := by
  induction t with
  | nil => exact absurd hmem List.not_mem_nil
  | cons x t ih =>
    obtain ⟨j, b⟩ := x
    obtain ⟨hfirst, hrest⟩ := List.pairwise_cons.1 h
    unfold tget
    rcases List.mem_cons.1 hmem with hx | hx
    · obtain ⟨rfl, rfl⟩ := Prod.mk.inj hx
      exact if_pos rfl
    · have hlt : j < k := hfirst _ hx
      rw [if_neg (by omega), if_neg (by omega)]
      exact ih hrest hx

theorem shares_ascending (d : Dev) : d.shares.Pairwise fun x y => x.1 < y.1 := by
  have hkeys : (d.shares.map Prod.fst).Pairwise (· < ·) := by
    rw [shares_keys]
    exact List.pairwise_lt_range.filter _
  exact List.pairwise_map.1 hkeys

theorem mem_shares {d : Dev} {p : Nat} (hp : p < 16) (hst : (d.pol p).st ≠ 0) : ∃ x, (p, x) ∈ d.shares := by
  have hformed : p ∈ d.shares.map Prod.fst := by
    rw [shares_keys]
    exact List.mem_filter.2 ⟨List.mem_range.2 hp, by simpa using hst⟩
  obtain ⟨⟨q, x⟩, hx, rfl⟩ := List.mem_map.1 hformed
  exact ⟨x, hx⟩

/-- A polder that has a share of the device's shares receives at least it in the rows of the period. -/
theorem shareRows_grant {w : W} {p x : Nat} (h : (p, x) ∈ w.d.shares) (holding : List Nat) (lent : List (Nat × Nat)) :
    ∃ g a, tget (0, 0, 0) ((sharesSet w).each (shareRows w.d) (grantRow holding lent)).d.power.pgrant p = (x, g, a) ∧ x ≤ a := by
  have hset : tget (0, 0, 0) (sharesSet w).d.power.pgrant p = (x, 0, 0) := by
    refine tget_of_mem ?_ (List.mem_map.2 ⟨(p, x), h, rfl⟩)
    exact List.pairwise_map.2 (shares_ascending w.d)
  refine rows_grant ?one ?some (by rw [hset])
  case one =>
    intro r hr hp
    obtain ⟨⟨q, y⟩, hy, rfl⟩ := List.mem_map.1 hr
    obtain rfl : q = p := hp
    exact (tget_of_mem (d := 0) (shares_ascending w.d) hy).symm.trans (tget_of_mem (shares_ascending w.d) h)
  case some => exact ⟨_, List.mem_map.2 ⟨(p, x), h, rfl⟩, rfl⟩

theorem granting_rows (holding : List Nat) (lent : List (Nat × Nat)) (rows : List (Nat × Nat × Nat × Nat)) (w : W) :
    Granting w (w.each rows (grantRow holding lent)) :=
  each_related .refl .trans (fun w r _ => by
    obtain ⟨_, -, hgrants⟩ := grants_grantRow holding lent w r
    exact hgrants.rest) w

/-- What a period of the arbiter leaves. -/
theorem arbiterPeriod_leaves {s : State} (hclock : clocked s) (draws : List (Nat × Nat)) : ∃ R H o P,
    exec (.arbiterPeriod draws) s = .next (s.commit { s.w with d := { s.dev with rings := R, hub := H, out := o, power := P } }) ∧
    P.openMode = s.dev.power.openReg ∧ P.openReg = s.dev.power.openReg ∧ P.limited = false ∧
    lget 0 P.devCnt 0 = (if s.dev.power.devCnt = [] then 0 else sat64 (lget 0 s.dev.power.devCnt 0 + 1)) ∧
    ∀ p x, (p, x) ∈ s.dev.shares → ∃ g a, tget (0, 0, 0) P.pgrant p = (x, g, a) ∧ x ≤ a := by
  obtain ⟨holding, holding', lent, hexec⟩ := exec_arbiterPeriod hclock draws
  obtain ⟨R, H, o, P, hcap, hweight, hmode, hreg, hlimited, hcnt, hopens⟩ := period_opens s.w draws holding
  generalize demandsTaken draws holding (periodOpened s.w.endPeriod) = u at hexec hopens
  have hshares : u.d.shares = s.dev.shares := by
    rw [hopens]
    exact shares_of_budget s.dev R H o hcap hweight
  have hgrant (p x : Nat) (h : (p, x) ∈ s.dev.shares) := shareRows_grant (w := u) (p := p) (x := x) (by rw [hshares]; exact h) holding' lent
  obtain ⟨i, g, c, m, hrows⟩ := granting_rows holding' lent (shareRows u.d) (sharesSet u)
  obtain ⟨j, hrest⟩ := islOnly_restHeld ((sharesSet u).each (shareRows u.d) (grantRow holding' lent))
  rw [hrest] at hexec
  generalize (sharesSet u).each (shareRows u.d) (grantRow holding' lent) = v at hexec hgrant hrows
  subst hrows hopens
  exact ⟨R, H, o, _, hexec, hmode, hreg, hlimited, hcnt, hgrant⟩

/-! ### Limits and sensors, as the claims state them -/

section

variable {s : State} {i v : Nat} (hhost : s.dev.hostReach 0 = true) (hrun : s.dev.running = true) (hi : i < 64)

include hhost hrun hi

theorem clkPolLim_runs {u : W} (hu : (s.w.clkPolLim i v fun w => w.ignored 0 (0x1C00000 + 4 * i)) = u) : Runs (.clkPolLim 0 i v) s u := by
  refine powerWrite_runs (off := 0x1C00000 + 4 * i) (f := fun w ign => w.clkPolLim i v ign) hhost hrun ?_ hu
  show Host.Outcome.next (s.commit (if i ≥ 64 then _ else _)) = _
  rw [if_neg (by omega)]

/-- Limits in range, of a polder that is EMPTY or of one whose islands are lowered at once. -/
theorem clkPolLim_lowers (hv : v < 2 ^ 32) (h : LimRight (i % 4) (v / 2 ^ 16) (v % 2 ^ 16)) : ∃ w : W, Runs (.clkPolLim 0 i v) s w ∧
    w.d = { s.dev with power := w.d.power } ∧ w.ops = [] ∧ w.d.power.lim = tset s.dev.power.lim i v ∧
    ((s.dev.pol (i / 4)).st = 0 → w.d.power.isl = s.dev.power.isl) ∧
    ((s.dev.pol (i / 4)).st ≠ 0 → ∀ site ∈ s.dev.polSites (i / 4), ∀ j ∈ varIslands,
      if islKind j = some (i % 4) then (w.d.power.island site j).target = min (s.dev.power.island site j).target (v / 2 ^ 16)
      else w.d.power.island site j = s.dev.power.island site j) := by
  by_cases hst : (s.dev.pol (i / 4)).st = 0
  · have hruns := clkPolLim_runs hhost hrun hi ((clkPolLim_right (w := s.w) hv h _).trans (if_pos hst))
    exact ⟨_, hruns, rfl, rfl, rfl, fun _ => rfl, fun hne => absurd hst hne⟩
  · have hruns : Runs (.clkPolLim 0 i v) s ((limited s.w i v).each (s.dev.polSites (i / 4)) (lowerDie (i % 4) (v / 2 ^ 16))) :=
      clkPolLim_runs hhost hrun hi ((clkPolLim_right (w := s.w) hv h _).trans (if_neg hst))
    obtain ⟨t, hisl⟩ := islOnly_lowerDies (i % 4) (v / 2 ^ 16) (s.dev.polSites (i / 4)) (limited s.w i v)
    have hlowered (site : Nat) (hsite : site ∈ s.dev.polSites (i / 4)) (j : Nat) (hj : j ∈ varIslands) :=
      lowerDies_listed (k := i % 4) (c := v / 2 ^ 16) hsite hj (limited s.w i v)
    generalize (limited s.w i v).each (s.dev.polSites (i / 4)) (lowerDie (i % 4) (v / 2 ^ 16)) = w at hruns hisl hlowered
    subst hisl
    refine ⟨_, hruns, rfl, rfl, rfl, fun hempty => absurd hempty hst, fun _ site hsite j hj => ?_⟩
    obtain ⟨hsome, hnone⟩ := hlowered site hsite j hj
    split
    · next hkind => exact congrArg Isl.target (hsome hkind)
    · next hkind => exact hnone hkind

end

/-- What a reading of a die's sensor that changes its protection leaves. -/
theorem heats {s : State} {k : Sensor} {temp : Int} {site bit : Nat} {f : Therm → Therm} (hrail : s.dev.aon.rail33 = true)
    (hhold : s.dev.aon.tripHold = false) (hhas : s.dev.hasSensor k = true) (h : s.w.sensor k temp = s.w.modTherm site f bit) :
    Exactly (.thermalThreshold k temp) s (s.w.modPower fun P =>
      { P with therm := tmod {} P.therm site f, thermStatus := P.thermStatus ||| bit }) :=
  exec_thermalThreshold hrail hhas h hhold

section

variable {s : State} {temp : Int} {n : Nat} (hrail : s.dev.aon.rail33 = true) (hhold : s.dev.aon.tripHold = false) (hn : n < s.dev.numPorts)

include hrail hhold hn

theorem optic_reads {u : W} (hu : s.w.opticTemp n temp = u) (haon : AonKept s.w u) : exec (.thermalThreshold (.optic n) temp) s = .next (s.commit u) :=
  exec_thermalThreshold hrail (decide_eq_true hn) hu (by rw [haon]; exact hhold)

/-- The laser of a port goes off on its temperature, and its port goes down. -/
theorem optic_goesOff (h : 640 ≤ temp) (hlaser : (s.dev.port n).laser = true) : Runs (.thermalThreshold (.optic n) temp) s
    ((((s.w.modPower fun P => { P with optTemp := tset P.optTemp n temp }).modPort n fun P => { P with hot := true }).modPower fun P =>
      { P with thermStatus := P.thermStatus ||| 0x10 }).portDown n 1) :=
  runs_settle (optic_reads hrail hhold hn ((opticTemp_hot h).trans (if_pos hlaser))
    (((aonKept_modPower s.w _).trans ((aonKept_modPort _ n _).trans (aonKept_modPower _ _))).trans
      ((aonKept_portDown _ n 1).trans (settle_quiet _).aonKept)))

end

/-- Settles O55. -/
theorem powerControl : Obligations.PowerControl := by
  refine ⟨fun s draws hclock => ?period, fun d hsome hweight => shares_sum hsome hweight, fun a l hwants hmin => ?grants, railVoltageReached_aims,
    fun s site i => rfl, fun s i v hhost hrun hi hv => ⟨fun hwrong => ?limWrong, fun hright => clkPolLim_lowers hhost hrun hi hv hright⟩,
    fun s v hhost hrun => ⟨fun h => ?mode, fun hopen hshared => ?modeRefused, fun hcause => ?trip⟩, fun s us => ?limiter,
    fun s temp hrail hhold => ⟨fun site hsite => ?compute, fun site hsite => ?dram, fun site hsite => ?link, ?hub,
      fun n hn => ⟨fun hhot hlaser => ?hotDark, fun hhot hlaser => ?hotLit, fun hlo hhi => ?warm, fun hcool => ?cool⟩⟩⟩
  case period =>
    obtain ⟨R, H, o, P, hexec, hmode, hreg, hlimited, hcnt, hgrant⟩ := arbiterPeriod_leaves hclock draws
    refine ⟨_, hexec, rfl, rfl, rfl, rfl, hmode, hreg, hlimited, hcnt, fun p hp hst => ?_⟩
    obtain ⟨x, hx⟩ := mem_shares hp hst
    obtain ⟨g, a, hg, hle⟩ := hgrant p x hx
    exact ⟨x, g, a, hx, hg, hle⟩
  case grants =>
    obtain ⟨hbetween, hsum⟩ := allocate_between (a := a) hwants (by rwa [sumOf_eq_sum] at hmin)
    obtain ⟨hlen, hzip⟩ := List.forall₂_iff_zip.1 hbetween
    exact ⟨hlen.symm, by rwa [sumOf_eq_sum], fun y hy => hzip hy⟩
  case limWrong => exact clkPolLim_runs hhost hrun hi (clkPolLim_wrong (w := s.w) hv hwrong _)
  case mode => exact powerWrite_runs (f := fun w ign => w.pwrMode v ign) hhost hrun rfl (pwrMode_writes (w := s.w) h _)
  case modeRefused => exact powerWrite_runs (f := fun w ign => w.pwrMode v ign) hhost hrun rfl (pwrMode_refuses (w := s.w) hopen hshared _)
  case trip => exact powerWrite_runs (f := fun w _ => w.pwrTrip v) hhost hrun rfl (pwrTrip_writes s.w hcause)
  case limiter =>
    refine ⟨_, exec_inputLimiter us s, rfl, rfl, rfl, rfl, fun site i k hsite hi hkind => ?_⟩
    have hisl : (aims s.dev.power (limiterAim s.dev us)).island site i = _ :=
      (aims_island s.dev.power (limiterAim_default _ _ _)).trans (limiterAim_variable hsite hi hkind us _)
    have htarget := congrArg Isl.target hisl
    have hgrant := congrArg Isl.grant hisl
    exact ⟨htarget, hgrant⟩
  case compute => exact heats hrail hhold hsite (sensor_computeDie s.w site temp)
  case dram => exact heats hrail hhold hsite rfl
  case link => exact heats hrail hhold hsite rfl
  case hub => exact heats hrail hhold rfl rfl
  case hotDark =>
    have hoff : ¬ (s.w.d.port n).laser = true := by
      rw [show (s.w.d.port n).laser = false from hlaser]
      exact Bool.false_ne_true
    exact optic_reads hrail hhold hn ((opticTemp_hot hhot).trans (if_neg hoff)) rfl
  case hotLit => exact optic_goesOff hrail hhold hn hhot hlaser
  case warm => exact optic_reads hrail hhold hn (opticTemp_between hlo hhi) rfl
  case cool => exact optic_reads hrail hhold hn (opticTemp_cool hcool) rfl

end Sys2Proof.Laws
